-- ==== Sys2Proof/Word.lean ====
section
/-! DEFINITION. The words the device works on and the numbered resources of each half
(spec 00_scope.md, Conventions; 01_device_organisation.md R10, Table 01.1). -/

namespace Sys2Proof

/-- One byte. -/
abbrev Byte := BitVec 8
/-- A 32-bit register (most register maps, R6). -/
abbrev W32 := BitVec 32
/-- A 64-bit register, an engine register (R244) or a dictionary value (R345). -/
abbrev W64 := BitVec 64

/-- The two dies of the package (R10). -/
inductive Half where
  | a
  | b
deriving DecidableEq, Repr

/-- Host port HP0 to HP3. -/
abbrev HP := Fin 4
/-- Host link HL00 to HL15. -/
abbrev HL := Fin 16
/-- Function number of a host link (R87: 1 to 64 functions). -/
abbrev Fn := Fin 64
/-- Local port LP00 to LP47. -/
abbrev LP := Fin 48
/-- Local link LL000 to LL191. -/
abbrev LL := Fin 192
/-- A serial lane: 0 to 191 local lane l, 192 to 255 host lane l - 192 (R57). -/
abbrev LaneNo := Fin 256
/-- Engine SE000 to SE191. -/
abbrev SE := Fin 192
/-- Engine cluster EC00 to EC23. -/
abbrev EC := Fin 24
/-- Service SV00 to SV31 (R250). -/
abbrev SV := Fin 32
/-- Flow F00000 to F16383 (R31). -/
abbrev FlowNo := Fin 16384
/-- DMA queue DQ0000 to DQ2047 (R232). -/
abbrev DQ := Fin 2048
/-- Event source ES00000 to ES16383 (R274). -/
abbrev ES := Fin 16384
/-- Source group SG000 to SG511. -/
abbrev SG := Fin 512
/-- Semaphore SEM000 to SEM255 (R183). -/
abbrev Sem := Fin 256
/-- Mirror group MG000 to MG511 (R194). -/
abbrev MG := Fin 512
/-- Brine channel BC0 to BC15. -/
abbrev BC := Fin 16
/-- Press port PP00 to PP31 of one half (R13). -/
abbrev PP := Fin 32

end Sys2Proof
end

