-- ==== Sys2Proof/Syntax.lean ====
section
/-! DEFINITION. The commands of spec/opcode_table.json, one constructor per row, and the records
their operands need. The table gives its rows no bit fields: the operands are the resource a command
names and the facts that come from outside the block (received words, measured values). -/

namespace Sys2Proof

/-- The strap values a half samples at the rising edge of RESET_N (R414, Table 17.6). -/
structure Straps where
  mode     : BitVec 3
  devid    : BitVec 4
  halfLead : Bool
  privHost : BitVec 2
  bootSel  : Bool
deriving DecidableEq, Repr

/-- The access path of a register or dictionary access (R361, R371). -/
inductive Path where
  | reg (m : HL) (f : Fn)      -- BAR0 of one function of one host link
  | mbx (m : HL)               -- the mailbox of PF0 of one host link
  | field (s : BitVec 16)      -- the field port, in session s (0: outside a session)
  | steward (h : Half)         -- the steward's internal access
deriving DecidableEq, Repr

/-- AtomicOps of R135, R191, R253. -/
inductive AtomicOp where
  | fetchAdd
  | swap
  | cas
deriving DecidableEq, Repr

/-- A Dalfel packet as received: the header fields of Table 05.5, the payload, the received CRC, and
whether it overlaps an errored block (R70, R132, R142). `typ` is the TYPE field. -/
structure Pkt where
  typ     : BitVec 4
  cls     : BitVec 2
  fence   : Bool
  lock    : Bool
  se      : Bool
  poison  : Bool
  flow    : BitVec 14
  tag     : BitVec 12
  len     : BitVec 10
  seq     : BitVec 10
  addr    : BitVec 40
  payload : List Byte
  crc     : W32
  errored : Bool
deriving DecidableEq, Repr

/-- A host memory request: a write's bytes with `none` for a byte that is not enabled, a read's
length in bytes (0 for a zero-length read). -/
structure HostReq where
  addr : W64
  data : List (Option Byte)
  len  : Nat
  tag  : BitVec 14
  vc1  : Bool
  ro   : Bool
  ep   : Bool
  dlSeq : BitVec 12
deriving DecidableEq, Repr

/-- Completion status of a host completion (Table 07.5). -/
inductive HostStatus where
  | sc
  | ur
  | ca
  | other
deriving DecidableEq, Repr

/-- A completion received from a host. -/
structure HostCpl where
  tag    : BitVec 14
  rid    : BitVec 16
  status : HostStatus
  data   : List Byte
  ep     : Bool
deriving DecidableEq, Repr

/-- A configuration request: function number as received (ARI, 8 bits), Type 1 or Type 0, register
byte offset of the DW, and for a write its data and byte enables. -/
structure CfgReq where
  fn    : BitVec 8
  type1 : Bool
  off   : BitVec 12
  wr    : Option (W32 × BitVec 4)
  tag   : BitVec 14
deriving DecidableEq, Repr

/-- A frame received on the field port (R350). -/
structure FieldFrame where
  dst   : BitVec 48
  src   : BitVec 48
  ether : BitVec 16
  pdu   : List Byte
deriving DecidableEq, Repr

/-- Where an MDP REQUEST comes from: the field port, or the frame submitted in a PF0 mailbox. -/
inductive MdpSrc where
  | field (fr : FieldFrame)
  | mailbox (m : HL)
deriving DecidableEq, Repr

/-- An outcome of error correction on a memory word that a step reads. -/
inductive MemEcc where
  | clean
  | corrected
  | uncorrectable (at_ : W64)
deriving DecidableEq, Repr

/-- Errors a cell's crossing can meet in vat or context store (R306). -/
inductive EccFault where
  | clean
  | vatCorrected
  | vatUncorrectable (segment : Nat)
  | ctxConfig (word : Fin 8)
  | ctxState (word : Fin 48)
deriving DecidableEq, Repr

/-- Which link a request tag belongs to (R207); or which engine a move slot belongs to (R254). -/
inductive TagSide where
  | host (m : HL)
  | link (l : LL)
  | move (e : SE)
deriving DecidableEq, Repr

/-- The wake sources of Table 14.6. -/
inductive WakeCause where
  | wakeN
  | perst (p : HP)
  | timer (n : Fin 4)
  | source (s : ES)
  | hostTlp (m : HL)
  | localPacket (l : LL)
  | management
deriving DecidableEq, Repr

/-- A frame the regulator answers with: the response of a write, or of Read Status (R381). -/
inductive AvsFrame where
  | writeAck (rail : Bool) (ack : BitVec 2)
  | status (rail : Bool) (vdone : Bool)
deriving DecidableEq, Repr

/-- The commands of the block, in the table's order. -/
inductive Instr where
  -- reset, start-up and halves
  | resetNAssert (durNs : Nat)
  | resetNRise (sa sb : Straps)
  | firmwareLoaded (h : Half)
  | startupComplete (h : Half)
  | tokenExchange
  | leadExchangeTimeout (h : Half)
  | heartbeatSend (h : Half)
  | heartbeatReceive (h : Half)
  | heartbeatTimeout (h : Half)
  | dieLinkCrcFail (h : Half) (xfer : Nat)
  | dieLinkRetrain (h : Half) (ok : Bool)
  | orphanTimeout
  | followerRelease (p : Path) (v : Bool)
  | dieLinkCellArrive (h : Half) (cell : Nat)
  | timeAlignCheck
  -- fabric
  | pressCellCross (h : Half) (id : Nat) (outFree : Bool) (ecc : EccFault)
  | calendarSlot (h : Half) (port : PP) (owner : Option FlowNo)
  | cplSpaceReserved (id : Nat)
  | fenceRelease (id : Nat)
  | flowDoorbellRaise (id : Nat)
  | zeroLenReadFlush (id : Nat)
  | shaperRelease (f : FlowNo)
  | linkShaperPacketStart (l : LL) (id : Nat)
  | brineSegmentWrite (f : FlowNo)
  | brineSegmentRead (f : FlowNo) (ecc : MemEcc)
  | brineMonitorWindow (h : Half)
  | brineTrainingDone (h : Half) (failed : Option (Fin 8))
  | brineTrackingPass (c : BC)
  -- lanes and bring-up
  | laneDetectStep (n : LaneNo) (found : Bool)
  | cdrLock (n : LaneNo)
  | cdrLockLoss (n : LaneNo)
  | adapted (n : LaneNo) (dfe0 dfe1 dfe2 : W32) (ctle : BitVec 5)
  | prbsCheckDone (n : LaneNo) (errors : Nat)
  | trainingFrame (l : LL) (lane : Fin 4) (word : W64) (marker inverted : Bool)
  | trainTimeout (l : LL)
  | lockTimeout (l : LL)
  | exchangeTimeout (l : LL)
  | electricalIdleEnd (l : LL)
  | codewordReceive (n : LaneNo) (uncorrectable : Bool) (corrected : Nat)
  | blockReceive (l : LL) (lane : Fin 4) (sync : BitVec 2) (content : W64) (bufferError : Bool)
  | align (l : LL) (lane : Fin 4) (content : W64) (skew : Nat)
  | capf (l : LL) (frame : List Byte)
  | down (l : LL) (reason : BitVec 8)
  | bondLaneMoveBack (h : Half) (group : Fin 7) (f : FlowNo)
  -- Dalfel packets and blocks
  | dalfelWrite (l : LL) (p : Pkt)
  | dalfelRead (l : LL) (p : Pkt)
  | dalfelCpl (l : LL) (p : Pkt)
  | doorbell (l : LL) (p : Pkt)
  | state (l : LL) (p : Pkt)
  | stateValueCommit (id : Nat)
  | atomic (l : LL) (p : Pkt)
  | lockAcq (l : LL) (p : Pkt)
  | lockRel (l : LL) (p : Pkt)
  | semaphoreUnitFree (n : Sem) (l : LL)
  | acquireTimeout (n : Sem) (l : LL)
  | holdLimitExpiry (n : Sem) (l : LL)
  | capAnn (l : LL) (p : Pkt)
  | ping (l : LL) (p : Pkt)
  | ack (l : LL) (seq : BitVec 10)
  | nak (l : LL) (seq : BitVec 10)
  | ackDue (l : LL)
  | replayTimerExpiry (l : LL)
  | credit (l : LL) (np : Bool) (c0 c1 c2 c3 : BitVec 12)
  | creditRefresh (l : LL)
  | creditWaitTimeout (l : LL) (id : Nat)
  | egressPacketStart (l : LL) (id : Nat)
  | pause (l : LL) (xoff : Bool) (f : FlowNo)
  | pauseRefresh (l : LL) (f : FlowNo)
  | lpForceDown (p : Path) (l : LL) (v : Bool)
  | pingGo (p : Path) (l : LL)
  | lpCntClr (p : Path) (l : LL)
  | laneLoopSet (p : Path) (n : LaneNo) (v : BitVec 3)
  | laneDfeFreeze (p : Path) (n : LaneNo) (v : Bool)
  | lanePrbsGenSet (p : Path) (n : LaneNo) (v : BitVec 2)
  | lanePrbsChkSet (p : Path) (n : LaneNo) (v : BitVec 2)
  | lanePolForceSet (p : Path) (n : LaneNo) (force txInv rxInv : Bool)
  | laneCntClr (p : Path) (n : LaneNo)
  | marginStart (p : Path) (n : LaneNo) (eye : BitVec 2)
  | marginDone (n : LaneNo) (left right : BitVec 6) (top bottom : BitVec 7)
  | laneMarginingCommand (n : LaneNo)
  -- hosts
  | hostMemoryWrite (m : HL) (r : HostReq)
  | hostMemoryRead (m : HL) (r : HostReq)
  | hostAtomicop (m : HL) (r : HostReq) (op : AtomicOp)
  | hostCompletion (m : HL) (c : HostCpl)
  | splitWriteCommitted (id : Nat)
  | configRequest (m : HL) (c : CfgReq)
  | busMasterEnableClear (m : HL) (f : Fn)
  | busMasterEnableSet (m : HL) (f : Fn)
  | memorySpaceEnableClear (m : HL) (f : Fn)
  | msixDisable (m : HL) (f : Fn)
  | msixVectorUnmask (m : HL) (f : Fn) (v : Option (Fin 2048))
  | d3hotEntry (m : HL) (f : Fn)
  | ltrMechanismEnable (m : HL)
  | pmeTurnOff (m : HL)
  | ioRequest (m : HL) (tag : BitVec 14)
  | mrdlk (m : HL) (tag : BitVec 14)
  | vendorDefinedType0 (m : HL)
  | vendorDefinedType1 (m : HL)
  | bar0Read (m : HL) (f : Fn) (bar2 : Bool) (off : Nat) (dws : Nat) (tag : BitVec 14)
  | expansionRomRead (m : HL) (addr : W32) (len : Nat) (tag : BitVec 14)
  | expansionRomWrite (m : HL) (addr : W32)
  | registerWrite (p : Path) (bar2 : Bool) (off : Nat) (words : List W32) (allEnabled : Bool)
  | perstNAssert (p : HP)
  | perstNDeassert (p : HP)
  | hotReset (m : HL)
  | dlActiveExit (m : HL)
  | dlActiveEnter (m : HL) (flit : Bool) (rate : BitVec 3) (width : BitVec 5) (reversed vc1 : Bool)
  | l0sIdleTimer (m : HL)
  | aspmL1IdleTimer (m : HL)
  | l0pEvaluation (m : HL) (bytesPer100us : Nat)
  | mbxSubmit (m : HL) (len : BitVec 12)
  | mbxReqWrite (m : HL) (off : BitVec 11) (data : List Byte)
  | mbxResponse (m : HL)
  | mbxAck (m : HL) (v : Bool)
  | switchRequest (p : Path) (m : HL) (f : Fn) (v : Bool)
  | protectionSwitchOver (m : HL) (f : Fn)
  | pairMemberEligible (m : HL) (f : Fn)
  -- windows, tags, mirroring, DMA queues
  | prefetchLifetimeExpiry (m : HL) (f : Fn) (w : Fin 8) (unit : Nat)
  | slotHoldExpiry (m : HL) (f : Fn)
  | winSlotFree (p : Path) (m : HL) (f : Fn)
  | completionTimeout (side : TagSide) (tag : BitVec 14)
  | quarantineEnd (side : TagSide) (tag : BitVec 14)
  | mirrorBoundaryUp (g : MG)
  | mirrorPassEnd (g : MG)
  | mirrorBoundaryDown (g : MG)
  | downwardPassAcked (g : MG)
  | flowMgRestart (p : Path) (g : MG)
  | flowDqProd (p : Path) (q : DQ) (v : BitVec 16)
  | flowDqRestart (p : Path) (q : DQ)
  | flowSel (p : Path) (f : BitVec 14)
  -- engines: services
  | serviceEventDeliver (f : FlowNo)
  | flowIdlePoint (f : FlowNo)
  | engineHotWindow (h : Half)
  | clusterDrained (c : EC)
  | clusterLoadComplete (c : EC)
  | engineRestart (p : Path) (e : SE)
  | seCntClr (p : Path) (e : SE)
  | seMemSel (p : Path) (v : BitVec 8)
  | engineMemoryWindowWrite (p : Path) (off : BitVec 21) (w : W32)
  -- engine instructions: the engine and bits [25:0] of the instruction word
  | engAdd (e : SE) (x : BitVec 26)
  | engSub (e : SE) (x : BitVec 26)
  | engAnd (e : SE) (x : BitVec 26)
  | engOr (e : SE) (x : BitVec 26)
  | engXor (e : SE) (x : BitVec 26)
  | engSll (e : SE) (x : BitVec 26)
  | engSrl (e : SE) (x : BitVec 26)
  | engSra (e : SE) (x : BitVec 26)
  | engMul (e : SE) (x : BitVec 26)
  | engSlt (e : SE) (x : BitVec 26)
  | engSltu (e : SE) (x : BitVec 26)
  | engHash (e : SE) (x : BitVec 26)
  | engCrc (e : SE) (x : BitVec 26)
  | engAddi (e : SE) (x : BitVec 26)
  | engAndi (e : SE) (x : BitVec 26)
  | engOri (e : SE) (x : BitVec 26)
  | engXori (e : SE) (x : BitVec 26)
  | engSlli (e : SE) (x : BitVec 26)
  | engSrli (e : SE) (x : BitVec 26)
  | engSrai (e : SE) (x : BitVec 26)
  | engLui (e : SE) (x : BitVec 26)
  | engCsrr (e : SE) (x : BitVec 26)
  | engCsrw (e : SE) (x : BitVec 26)
  | engWait (e : SE) (x : BitVec 26)
  | engEoi (e : SE) (x : BitVec 26)
  | engReti (e : SE) (x : BitVec 26)
  | engFence (e : SE) (x : BitVec 26)
  | fenceComplete (e : SE)
  | engBreak (e : SE) (x : BitVec 26)
  | engLd (e : SE) (x : BitVec 26) (ecc : MemEcc)
  | engLw (e : SE) (x : BitVec 26) (ecc : MemEcc)
  | engLh (e : SE) (x : BitVec 26) (ecc : MemEcc)
  | engLb (e : SE) (x : BitVec 26) (ecc : MemEcc)
  | engSd (e : SE) (x : BitVec 26)
  | engSw (e : SE) (x : BitVec 26)
  | engSh (e : SE) (x : BitVec 26)
  | engSb (e : SE) (x : BitVec 26)
  | engBeq (e : SE) (x : BitVec 26)
  | engBne (e : SE) (x : BitVec 26)
  | engBlt (e : SE) (x : BitVec 26)
  | engBge (e : SE) (x : BitVec 26)
  | engBltu (e : SE) (x : BitVec 26)
  | engBgeu (e : SE) (x : BitVec 26)
  | engJal (e : SE) (x : BitVec 26)
  | engJalr (e : SE) (x : BitVec 26)
  | engAadd (e : SE) (x : BitVec 26)
  | engAswp (e : SE) (x : BitVec 26)
  | engAcas (e : SE) (x : BitVec 26)
  | engQpop (e : SE) (x : BitVec 26)
  | engQdone (e : SE) (x : BitVec 26)
  | engMvr (e : SE) (x : BitVec 26)
  | engMvw (e : SE) (x : BitVec 26)
  | engMva (e : SE) (x : BitVec 26)
  | moveComplete (e : SE) (slot : Fin 16)
  | engMwait (e : SE) (x : BitVec 26)
  | engDbell (e : SE) (x : BitVec 26)
  | engCtxr (e : SE) (x : BitVec 26)
  | engCtxw (e : SE) (x : BitVec 26)
  | engReply (e : SE) (x : BitVec 26)
  | reservedOpcode (e : SE) (w : W32)
  -- events
  | evcFnDbell (m : HL) (f : Fn) (n : BitVec 14)
  | evcDbell (p : Path) (h : Half) (n : BitVec 14)
  | sourceOffer (n : ES)
  | coalescingHoldEnd (n : ES)
  | offerAccept (e : SE)
  | evcSrcMask (p : Path) (n : ES) (v : Bool)
  | hostMessageForm (n : ES)
  | hostMessageCommit (n : ES)
  | holdoffEnd (g : SG)
  | evcFnClaim (m : HL) (f : Fn) (tag : BitVec 14)
  | evcFnDone (m : HL) (f : Fn) (n : BitVec 14)
  | evcFnEvt (m : HL) (f : Fn) (v : W32)
  | evcFnEvtEn (m : HL) (f : Fn) (v : W32)
  | evcErecPop (p : Path) (h : Half)
  -- errors and containment
  | errLlRelease (p : Path) (l : LL)
  | errLlFreeze (p : Path) (l : LL)
  | errWkRelease (p : Path) (d : Fin 16)
  | freezeTimeout (l : LL)
  | errLogPop (p : Path) (h : Half)
  | errCntClr (p : Path)
  -- dictionary
  | mdpRequest (src : MdpSrc)
  | discover (fr : FieldFrame)
  | open_ (fr : FieldFrame)
  | proof (fr : FieldFrame)
  | close (fr : FieldFrame)
  | challengeTimeout (s : BitVec 16)
  | proofLockoutEnd
  | sessionIdleTimeout (s : BitVec 16)
  | deviceKeyWrite (p : Path) (off : BitVec 16) (data : List Byte)
  | agApply (p : Path) (mask : W32)
  | applyCheckComplete (h : Half)
  | followerCutAct
  | cutAck
  | agDiscard (p : Path) (mask : W32)
  | agClaim (p : Path) (mask : W32)
  | agRelease (p : Path) (mask : W32)
  | sealPassStart (h : Half)
  | sealPassComplete (h : Half)
  -- power and time
  | levelSwitchPoint
  | avsResponse (fr : AvsFrame)
  | avsStatusPoll
  | avsRequestTimeout (rail : Bool)
  | tempThresholdCross (h : Half) (tj : Int)
  | pwrSleep (p : Path) (v : BitVec 2)
  | s1IdleTimer
  | sleepEntryCheck
  | sleepEntryComplete
  | wake (c : WakeCause)
  | sleepExitComplete
  | wakeNDriveEnd
  | tcMatch (n : Fin 4)
  | timeLoad (p : Path)
  | timeStep (p : Path)
  | secondsRollover
  | ppsInEdge (highNs : Nat)
  | ppsInLost
  | ptmDialogue
  | servoPoll
  | calibrationCapture
  | timeTsrPop (p : Path) (h : Half)
  | rindLost (powerLost : Bool)
  -- field upgrade
  | erase (p : Path) (v : Byte)
  | eraseComplete
  | imageWindowWrite (p : Path) (off : BitVec 16) (data : List Byte)
  | verify (p : Path) (v : Byte)
  | verifyComplete
  | activate (p : Path) (v : Byte)
  | confirm (p : Path) (v : Byte)
  | commit (p : Path) (v : Byte)
  | fuseKeySlot (p : Path) (k : Fin 4) (off : BitVec 16) (hash : List Byte)
  | revokeKeySlot (p : Path) (v : Byte)
  -- test, boundary scan, clocks
  | bistStart (p : Path) (h : Half) (blocks : BitVec 5)
  | bistComplete (h : Half) (failed : BitVec 5) (addr : W64)
  | tstStop (p : Path)
  | delayedCompletionRelease (i : Fin 16)
  | creditStarvationEnd (i : Fin 16)
  | tapInstructionLoad (h : Half) (code : Byte)
  | trstNLow
  | thermtrip (h : Half)
  | sysclkAbsent
  | clockCheck (present : BitVec 10)
  -- rows added at the end of the table
  | trainingFrameSent (l : LL) (lane : Fin 4)
  | capabilityFrameSent (l : LL)
  | signalLoss (n : LaneNo)
  | xoffTimeout (l : LL) (f : FlowNo)
  | ppsOutHighTimeEnd
  | ptmResponse (answer : Option (BitVec 64 × BitVec 32))
  | hostLinkRateChange (m : HL) (rate : BitVec 3) (width : BitVec 5)
  | hostInitiatedExit (m : HL)
  | d3hotExit (m : HL) (f : Fn)
  | mirrorBudgetRefill (m : HL)
deriving DecidableEq, Repr

end Sys2Proof
end

