-- ==== Sys2Proof/Decode.lean ====
section
/-! DEFINITION. The words of the opcode table: none. spec/opcode_table.json gives no row any bits, so
no word spells a command (log entry 3). -/

namespace Sys2Proof

/-- The command a word of the table spells: the table numbers no bits, so there is none. -/
def decodeTableWord (_nbits _w : Nat) : Option Instr := none

end Sys2Proof
end

