-- ==== Sys2Proof/Config.lean ====
section
/-! DEFINITION. Values and functions the spec leaves open or takes from another standard. None has
a body that a proof can see: a statement that names one holds for every value of it. -/

namespace Sys2Proof

/-- A fresh free value: the n-th value the spec leaves open in this run (which session number a
CHALLENGE carries R355, which free tag a PING or a host request takes R106 and R136, whether a short
RESET_N pulse resets R412). The counter that is applied stands in State (log entry 1). -/
opaque Config.freeNat : Nat → Nat

/-- What a counter reads once its exact count no longer fits its width, where the spec states
neither saturation nor wrap: first the object key, then the exact count (log entry 6). -/
opaque Config.counterOverflow : Nat → Nat → Nat

/-- Byte n of SHA-384, which R418 to R420 name and do not define (log entry 9). -/
opaque Config.sha384Byte : List Byte → Nat → Byte

/-- The 48 bytes of a SHA-384 digest. -/
def Config.sha384 (m : List Byte) : List Byte := (List.range 48).map (Config.sha384Byte m)

/-- Byte n of the HMAC-SHA-256 of a key and a message (R355, R356; log entry 9). -/
opaque Config.hmacSha256Byte : List Byte → List Byte → Nat → Byte

/-- The 32 bytes of an HMAC-SHA-256. -/
def Config.hmacSha256 (k m : List Byte) : List Byte := (List.range 32).map (Config.hmacSha256Byte k m)

/-- Does an ECDSA P-384 signature verify: public key, message, signature (R418, R420; log entry 9). -/
opaque Config.ecdsaP384 : List Byte → List Byte → List Byte → Bool

/-- The random bytes ND of the n-th CHALLENGE (R355; log entry 1). -/
opaque Config.freeBytes : Nat → List Byte

/-- Bytes 8 to 19 of the capability frame the bridge sends: DESIGN_VENDOR, DESIGN_ID and DESIGN_REV,
chosen by the maker (Table 05.9; log entry 17). -/
opaque Config.designByte : Nat → Byte

/-- The result of a dictionary, register or arithmetic corner to which the spec gives no value: a
number naming the corner and its operand (each use names its log entry). -/
opaque Config.unstated : Nat → Nat → Nat

end Sys2Proof
end

