-- ==== Sys2Proof/Machine/Bits.lean ====
section
/-! DEFINITION. Bit fields, byte order, sparse tables in one canonical form, saturating and
wrapping counts, and the two hash functions the spec writes out (R133, R224, R259). -/

namespace Sys2Proof.Machine

/-- 0 for half A, 1 for half B, as subindices and log records number them. -/
def halfIdx : Half → Nat
  | .a => 0
  | .b => 1

/-- The half that is not `h`. -/
def otherHalf : Half → Half
  | .a => .b
  | .b => .a

/-- Half 0 is A, every other number is B. -/
def halfOfIdx (n : Nat) : Half := if n = 0 then .a else .b

/-- The field of `len` bits whose least significant bit is bit `lo`. -/
def fld {w : Nat} (v : BitVec w) (lo len : Nat) : Nat := (v.toNat >>> lo) % 2 ^ len

/-- Bit `i` of a register. -/
def bit {w : Nat} (v : BitVec w) (i : Nat) : Bool := v.getLsbD i

/-- The word that holds `x` in `len` bits from bit `lo` and 0 elsewhere. -/
def place (x lo len : Nat) : Nat := (x % 2 ^ len) * 2 ^ lo

/-- A flag as a field value. -/
def flag (b : Bool) (i : Nat) : Nat := if b then 2 ^ i else 0

/-- Unsigned ceiling of a division; division by 0 gives 0. -/
def ceilDiv (a b : Nat) : Nat := (a + b - 1) / b

/-- A 32-bit counter that saturates at 0xFFFF_FFFF (R79, R123, R152). -/
def sat32 (n : Nat) : Nat := min n 0xFFFFFFFF

/-- A signed reading of a 64-bit word. -/
def sgn64 (v : W64) : Int := v.toInt

/-! ## Sparse tables -/

/-- A table keyed by Nat: keys strictly rising, no entry equal to the default. -/
abbrev Tab (α : Type) := List (Nat × α)

/-- The entry of key `k`, or `d` where none is listed. -/
def Tab.get {α : Type} (d : α) : Tab α → Nat → α
  | [], _ => d
  | (j, v) :: t, k => if j = k then v else if k < j then d else Tab.get d t k

/-- Put `v` at key `k`, listing nothing where `v` is the default. -/
def Tab.set {α : Type} [DecidableEq α] (d : α) : Tab α → Nat → α → Tab α
  | [], k, v => if v = d then [] else [(k, v)]
  | (j, w) :: t, k, v =>
    if j = k then (if v = d then t else (k, v) :: t)
    else if k < j then (if v = d then (j, w) :: t else (k, v) :: (j, w) :: t)
    else (j, w) :: Tab.set d t k v

/-- Change the entry of key `k` by `f`. -/
def Tab.upd {α : Type} [DecidableEq α] (d : α) (t : Tab α) (k : Nat) (f : α → α) : Tab α :=
  Tab.set d t k (f (Tab.get d t k))

/-- Keys strictly rising from above `lo`, no entry equal to the default. -/
def Tab.wfFrom {α : Type} [DecidableEq α] (d : α) : Option Nat → Tab α → Bool
  | _, [] => true
  | lo, (j, v) :: t =>
    (match lo with | none => true | some l => decide (l < j)) && decide (v ≠ d) &&
      Tab.wfFrom d (some j) t

/-- The canonical form of a sparse table. -/
def Tab.wf {α : Type} [DecidableEq α] (d : α) (t : Tab α) : Bool := Tab.wfFrom d none t

/-- Apply `f` to every listed entry, dropping the ones that become the default. -/
def Tab.mapAll {α : Type} [DecidableEq α] (d : α) (f : Nat → α → α) : Tab α → Tab α
  | [] => []
  | (j, v) :: t => if f j v = d then Tab.mapAll d f t else (j, f j v) :: Tab.mapAll d f t

/-- Keep the listed entries that `p` accepts. -/
def Tab.keep {α : Type} (p : Nat → α → Bool) : Tab α → Tab α
  | [] => []
  | (j, v) :: t => if p j v then (j, v) :: Tab.keep p t else Tab.keep p t

/-- Is key `k` listed? -/
def Tab.has {α : Type} : Tab α → Nat → Bool
  | [], _ => false
  | (j, _) :: t, k => if j = k then true else Tab.has t k

/-- The keys from `lo` on, `n` of them, as a list. -/
def span (lo n : Nat) : List Nat := (List.range n).map (· + lo)

/-! ## Bytes -/

/-- `n` bytes of `x`, least significant first (R134, R244, R345). -/
def bytesLE : Nat → Nat → List Byte
  | 0, _ => []
  | n + 1, x => BitVec.ofNat 8 x :: bytesLE n (x / 256)

/-- The number that a little-endian byte list spells. -/
def ofBytesLE : List Byte → Nat
  | [] => 0
  | b :: t => b.toNat + 256 * ofBytesLE t

/-- `n` bytes of `x`, most significant first (R132). -/
def bytesBE (n x : Nat) : List Byte := (bytesLE n x).reverse

/-- Exactly `n` bytes: a longer list is cut, a shorter one padded with 0. -/
def exactly (n : Nat) (bs : List Byte) : List Byte :=
  (bs ++ List.replicate n (0 : Byte)).take n

/-- Bytes `lo` to `lo + n - 1` of a byte table, unlisted bytes reading `d`. -/
def readBytes (d : Byte) (t : Tab Byte) (lo : Nat) : Nat → List Byte
  | 0 => []
  | n + 1 => Tab.get d t lo :: readBytes d t (lo + 1) n

/-- Write a run of bytes from `lo` on. -/
def writeBytes (d : Byte) (t : Tab Byte) (lo : Nat) : List Byte → Tab Byte
  | [] => t
  | b :: bs => writeBytes d (Tab.set d t lo b) (lo + 1) bs

/-- Set bytes `lo` to `hi - 1` to the default. -/
def clearBytes (t : Tab Byte) (lo hi : Nat) : Tab Byte :=
  Tab.keep (fun k _ => !(lo ≤ k && k < hi)) t

/-! ## CRC-32C and the mixing function -/

/-- One bit step of the reflected CRC-32C (R259). -/
def crcBit (c : W32) : W32 :=
  if c.getLsbD 0 then (c >>> 1) ^^^ 0x82F63B78#32 else c >>> 1

/-- Eight bit steps. -/
def crcByteSteps : Nat → W32 → W32
  | 0, c => c
  | n + 1, c => crcByteSteps n (crcBit c)

/-- Fold one byte into a CRC-32C without initial value or final XOR (R259). -/
def crcByte (c : W32) (b : Byte) : W32 := crcByteSteps 8 (c ^^^ b.setWidth 32)

/-- `crc_update` of R259 over a byte list. -/
def crcUpdate (c : W32) (bs : List Byte) : W32 := bs.foldl crcByte c

/-- CRC-32C of R133: initial value and final XOR all ones. -/
def crc32c (bs : List Byte) : W32 := crcUpdate 0xFFFFFFFF#32 bs ^^^ 0xFFFFFFFF#32

/-- `mix` of R259. -/
def mix (x : W64) : W64 :=
  let x1 := x * 0xA24B1F6D9C35E817#64
  let x2 := x1 ^^^ (x1 >>> 29)
  x2 * 0xA24B1F6D9C35E817#64

/-- `brine_channel` of R224: 0 to 7 within the half. -/
def brineChannel (key : W64) (flow seq : W32) : Nat :=
  (mix ((flow ++ seq) ^^^ key) >>> 61).toNat

/-- `dispatch_bucket` of R263: 0 to 255. -/
def dispatchBucket (key : W64) (flow : W32) : Nat :=
  (mix ((flow ++ (0 : W32)) ^^^ key) >>> 56).toNat

end Sys2Proof.Machine
end

