-- ==== Sys2Proof/Machine/Od.lean ====
section
/-! DEFINITION. The object dictionary's directory: every object the chapters' tables list, with its
type, access, privilege, apply group and default (R9, R344 to R349, and the object table each row
names). A value is a natural number below 2^64; a DOMAIN or STR32 is kept as bytes. -/

namespace Sys2Proof.Machine

/-- Object types (Table 13.1); a DOMAIN carries its fixed length in bytes. -/
inductive OdTy where
  | u8 | u16 | u32 | u64 | i32 | bool | bits32 | str32
  | domain (len : Nat)
deriving DecidableEq, Repr

/-- Object access codes (R9, R346). -/
inductive OdAcc where
  | const | ro | rw | wo | rwa
deriving DecidableEq, Repr

/-- Bytes of a value of the type (Table 13.1). -/
def OdTy.bytes : OdTy → Nat
  | .u8 | .bool => 1
  | .u16 => 2
  | .u32 | .i32 | .bits32 => 4
  | .u64 => 8
  | .str32 => 32
  | .domain n => n

/-- One line of an object table: the indices `base + step * i` for `i < count`, subindices `lo` to
`hi`, and what every object of the line shares. -/
structure OdRow where
  base  : Nat
  step  : Nat
  count : Nat
  lo    : Nat
  hi    : Nat
  ty    : OdTy
  acc   : OdAcc
  priv  : Bool
  grp   : Nat
  dflt  : Nat → Nat → Nat

/-- A line with one default for all its objects. -/
def odRow (base step count lo hi : Nat) (ty : OdTy) (acc : OdAcc) (priv : Bool) (grp dflt : Nat) : OdRow :=
  ⟨base, step, count, lo, hi, ty, acc, priv, grp, fun _ _ => dflt⟩

/-- Does the line hold this index? -/
def OdRow.hasIdx (r : OdRow) (idx : Nat) : Bool :=
  r.base ≤ idx && idx < r.base + r.step * r.count && (idx - r.base) % r.step = 0

/-- Key of an object in the tables of State: dictionary instance, index, subindex. -/
def okey (inst idx sub : Nat) : Nat := inst * 0x1000000 + idx * 256 + sub

/-- Read-only objects and the group number that stands for none. -/
def noGrp : Nat := 99

/-- Default of word k of a flow (Table 08.1): CLASS C2; BURST 2,048; CEIL 64; REFILL 32; WEIGHT 16. -/
def flowWordDflt (k : Nat) : Nat :=
  match k with
  | 0 => 4
  | 3 => 2048
  | 5 => 64 * 65536
  | 6 => 32 * 2 ^ 24
  | 7 => 16
  | _ => 0

/-- Class codes of Table 04.3: PF0 and the other function types. -/
def classDflt (sub : Nat) : Nat := if sub = 1 then 0x088000 else 0x028000

/-- P credit grants by class (Table 05.14). -/
def pGrantDflt (sub : Nat) : Nat :=
  match (sub - 1) % 4 with | 0 => 32 | 1 => 64 | 2 => 128 | _ => 16

/-- NP credit grants by class (Table 05.14). -/
def npGrantDflt (sub : Nat) : Nat :=
  match (sub - 1) % 4 with | 0 => 8 | 1 => 16 | 2 => 16 | _ => 4

/-- Default of a mirror group word (Table 07.6). -/
def mgDflt (sub : Nat) : Nat := match sub with | 1 => 0x00030000 | 4 => 100 | _ => 0

/-- Areas of identity, security, host ports and their functions (Tables 13.14, 15, 03.11, 04.16). -/
def odHostRows : List OdRow :=
  [ odRow 0x1000 1 1 1 1 .u16 .const false noGrp 0x1F7A,
    odRow 0x1000 1 1 2 2 .u16 .const false noGrp 0x2560,
    odRow 0x1000 1 1 3 3 .u8 .const false noGrp 0x20,
    odRow 0x1000 1 1 4 4 .u64 .const false noGrp 0,
    odRow 0x1000 1 1 5 5 .str32 .const false noGrp 0,
    odRow 0x1010 1 1 1 1 .u64 .ro false noGrp 0,
    odRow 0x1010 1 1 2 2 .u16 .rwa true 0 0x88B5,
    odRow 0x1010 1 1 3 3 .u8 .rwa true 0 0,
    odRow 0x1010 1 1 4 4 .u8 .rwa true 0 0,
    odRow 0x1010 1 1 5 5 .u8 .rwa true 0 16,
    odRow 0x1010 1 1 6 6 .u32 .ro true noGrp 0,
    odRow 0x1020 1 1 1 2 .u32 .ro false noGrp 0,
    odRow 0x1020 1 1 3 3 .u8 .ro false noGrp 0,
    odRow 0x1021 1 1 1 1 .u8 .wo true noGrp 0,
    odRow 0x1021 1 1 2 2 .u32 .rw true noGrp 0,
    odRow 0x1021 1 1 3 3 (.domain 65536) .wo true noGrp 0,
    odRow 0x1021 1 1 4 4 .u8 .wo true noGrp 0,
    odRow 0x1021 1 1 5 5 .u8 .ro true noGrp 0,
    odRow 0x1022 1 1 1 2 .u8 .ro true noGrp 0,
    odRow 0x1022 1 1 3 3 .u8 .wo true noGrp 0,
    odRow 0x1022 1 1 4 5 .bool .wo true noGrp 0,
    odRow 0x1022 1 1 6 7 .u32 .ro true noGrp 0,
    odRow 0x1023 1 1 1 3 (.domain 48) .wo true noGrp 0,
    odRow 0x1023 1 1 4 4 .u8 .wo true noGrp 0,
    odRow 0x1030 1 1 1 1 .u32 .ro false noGrp 0,
    odRow 0x1100 1 1 1 1 (.domain 32) .wo true noGrp 0,
    odRow 0x1100 1 1 2 2 .u16 .rwa true 1 60,
    odRow 0x1100 1 1 3 3 .bool .ro true noGrp 0,
    odRow 0x1100 1 1 4 4 .u8 .ro true noGrp 0,
    odRow 0x1100 1 1 0x10 0x11 .u32 .ro true noGrp 0,
    odRow 0x2000 0x100 4 1 1 .u8 .rwa true 2 0,
    odRow 0x2001 0x100 4 1 4 .u8 .rwa true 2 6,
    odRow 0x2002 0x100 4 1 4 .bool .rwa true 2 1,
    odRow 0x2003 0x100 4 1 4 .u8 .rwa true 2 1,
    odRow 0x2004 0x100 4 1 4 .u32 .rwa true 2 2000,
    odRow 0x2005 0x100 4 1 4 .u32 .rwa true 2 64,
    odRow 0x2006 0x100 4 1 4 .bool .rwa true 2 1,
    odRow 0x2007 0x100 4 1 4 .u32 .rwa true 2 0,
    odRow 0x2008 0x100 4 1 4 .u32 .ro true noGrp 0,
    odRow 0x200A 0x100 4 1 1 .u8 .rwa true 2 20,
    odRow 0x20F0 0x100 4 1 1 .u8 .rwa true 6 0,
    odRow 0x20F1 0x100 4 1 16 .u32 .ro true noGrp 0 ]

/-- The per-function objects of one port and attribute k: indices 0x2020 + 0x100 n + 0x10 s + k
(R124). -/
def odFnRows : List OdRow :=
  let four (k lo hi : Nat) (ty : OdTy) (acc : OdAcc) (priv : Bool) (grp : Nat) (d : Nat → Nat) : List OdRow :=
    (List.range 4).map fun n => ⟨0x2020 + 0x100 * n + k, 0x10, 4, lo, hi, ty, acc, priv, grp, fun _ s => d s⟩
  four 0 2 64 .u8 .rwa true 2 (fun _ => 1) ++
  four 1 1 64 .u16 .rwa true 2 (fun s => if s = 1 then 0 else 1) ++
  four 2 1 64 .u32 .rwa true 2 classDflt ++
  four 3 1 64 .u16 .rwa true 2 (fun s => if s = 1 then 16 else 64) ++
  four 4 2 64 .u8 .rwa true 2 (fun _ => 28) ++
  four 5 2 64 .bool .rwa true 2 (fun _ => 0) ++
  four 6 2 64 .u16 .rwa true 2 (fun _ => 0xFFFF) ++
  four 7 2 64 .u8 .rwa true 2 (fun _ => 0) ++
  four 8 1 64 .u8 .ro false noGrp (fun _ => 0) ++
  four 9 1 64 .u32 .ro true noGrp (fun _ => 0) ++
  four 10 1 64 .u32 .ro true noGrp (fun _ => 0) ++
  four 11 2 64 .u8 .rw true noGrp (fun _ => 0) ++
  four 12 2 64 .u32 .ro true noGrp (fun _ => 0) ++
  four 13 2 64 .u32 .ro true noGrp (fun _ => 0)

/-- Local ports, lanes and windows (Tables 05.14, 03.11, 06.8). -/
def odLinkRows : List OdRow :=
  [ odRow 0x3000 0x20 48 1 1 .u32 .rwa true 7 0x110,
    ⟨0x3005, 0x20, 48, 1, 16, .u16, .rwa, true, 7, fun _ s => pGrantDflt s⟩,
    ⟨0x3006, 0x20, 48, 1, 16, .u16, .rwa, true, 7, fun _ s => npGrantDflt s⟩,
    odRow 0x3007 0x20 48 1 4 .u32 .ro true noGrp 0,
    odRow 0x3008 0x20 48 1 4 (.domain 32) .ro true noGrp 0,
    odRow 0x3009 0x20 48 1 4 .u32 .ro false noGrp 0xFFFFFFFF,
    odRow 0x300A 0x20 48 1 4 .u32 .ro true noGrp 0,
    odRow 0x3018 0x20 48 1 4 .u32 .rwa true 6 0x83304,
    odRow 0x3019 0x20 48 1 4 .u32 .ro true noGrp 0 ] ++
  ((List.range 16).map fun m =>
    (⟨0x4001 + 0x40 * m, 1, 63, 1, 32, .u32, .rwa, true, 8,
      fun _ s => if (s - 1) % 4 = 0 then 0xF0 else 0⟩ : OdRow)) ++
  [ ⟨0x4400, 1, 256, 1, 128, .u32, .rwa, true, 8, fun _ s => if (s - 1) % 8 = 0 then 0xF0 else 0⟩,
    odRow 0x4800 1 1 1 1 .u32 .rwa true 8 100,
    odRow 0x4800 1 1 2 2 .u32 .rwa true 8 1000,
    odRow 0x4801 1 4 1 2 .u64 .ro true noGrp 0,
    odRow 0x4805 1 2 1 2 .u32 .ro true noGrp 0,
    odRow 0x4807 1 1 1 4 .u32 .ro true noGrp 0,
    odRow 0x4808 1 1 1 4 .u64 .ro true noGrp 0,
    odRow 0x4809 1 1 1 1 .u8 .ro true noGrp 0,
    odRow 0x480A 1 1 1 1 .u32 .ro true noGrp 0,
    odRow 0x480B 1 1 1 2 .u32 .ro true noGrp 0 ]

/-- Flows, queues, buffering, transaction counters, semaphores and mirroring (Tables 08.8, 02.9,
07.8). -/
def odFlowRows : List OdRow :=
  [ ⟨0x5000, 1, 1024, 1, 128, .u32, .rwa, true, 10, fun _ s => flowWordDflt ((s - 1) % 8)⟩,
    ⟨0x5400, 1, 256, 1, 64, .u32, .rwa, true, 9, fun _ s => if (s - 1) % 8 = 0 then 0x400 else 0⟩,
    odRow 0x5600 1 1 1 2 .u32 .rwa true 11 16384,
    ⟨0x5601, 1, 1, 1, 3, .u32, .rwa, true, 11, fun _ s => if s = 1 then 8192 else if s = 2 then 4096 else 1024⟩,
    odRow 0x5602 1 1 1 2 .u32 .rwa true 11 0,
    odRow 0x5603 1 1 1 2 .u32 .rwa true 11 0x1F0B0C0C,
    odRow 0x5604 1 1 1 4 .u64 .rwa true 11 0,
    odRow 0x5605 1 1 1 2 .u8 .rwa true 11 0,
    odRow 0x5606 1 1 1 1 .u8 .rwa true 11 40,
    odRow 0x5606 1 1 2 2 .u16 .rwa true 11 10,
    odRow 0x5700 1 1 1 16 .u32 .ro true noGrp 0,
    odRow 0x5701 1 1 1 4 .u32 .ro true noGrp 0,
    odRow 0x5702 1 1 1 2 .u64 .ro true noGrp 0,
    odRow 0x5703 1 1 1 16 .u64 .ro true noGrp 0,
    odRow 0x5704 1 1 1 16 .u32 .ro true noGrp 0,
    odRow 0x5705 1 1 1 2 .u32 .ro true noGrp 0,
    odRow 0x5706 1 1 1 2 .u64 .ro true noGrp 0,
    odRow 0x5707 1 1 1 2 .u32 .ro true noGrp 0,
    odRow 0x5708 1 1 1 64 .u64 .ro true noGrp 0,
    odRow 0x570A 1 1 1 16 .u8 .ro true noGrp 0,
    odRow 0x5800 1 1 1 2 .u64 .ro true noGrp 0,
    odRow 0x5801 1 1 1 4 .u64 .ro true noGrp 0,
    odRow 0x5802 1 1 1 3 .u32 .ro true noGrp 0,
    odRow 0x5803 1 1 1 2 .u64 .ro true noGrp 0,
    odRow 0x5804 1 2 1 32 .u16 .ro true noGrp 0,
    odRow 0x5806 1 1 1 1 .u32 .ro true noGrp 0,
    odRow 0x5A00 1 256 1 1 .u32 .rwa true 12 0x100,
    odRow 0x5A00 1 256 2 2 .u32 .rwa true 12 10000,
    odRow 0x5A00 1 256 3 3 .u32 .rwa true 12 100000,
    odRow 0x5A00 1 256 4 4 .u32 .ro true noGrp 0,
    ⟨0x5C00, 1, 512, 1, 4, .u32, .rwa, true, 13, fun _ s => mgDflt s⟩,
    odRow 0x5C00 1 512 5 6 .u64 .rwa true 13 0,
    odRow 0x5C00 1 512 7 7 .u32 .ro true noGrp 0,
    odRow 0x5C00 1 512 8 8 .bool .rw true noGrp 0,
    odRow 0x5C00 1 512 9 9 .u64 .ro false noGrp 0,
    odRow 0x5E00 1 1 1 2 .u64 .ro true noGrp 0,
    odRow 0x5E01 1 5 1 2 .u32 .ro true noGrp 0,
    odRow 0x5E08 1 3 1 2 .u64 .ro true noGrp 0,
    odRow 0x5E0B 1 2 1 2 .u32 .ro true noGrp 0,
    odRow 0x5E10 1 1 1 192 .u32 .rwa true 14 5000,
    odRow 0x5E11 1 8 1 2 .u32 .ro true noGrp 0,
    odRow 0x5E20 1 1 1 16 .u32 .rwa true 13 10000 ]

/-- Engines and event controllers (chapters 09 and 10, their object tables). -/
def odEngRows : List OdRow :=
  [ odRow 0x6000 1 32 1 3 .u32 .rwa true 16 0,
    odRow 0x6000 1 32 4 4 .u32 .ro true noGrp 0,
    odRow 0x6000 1 32 5 5 .u32 .ro false noGrp 0,
    odRow 0x6040 1 1 1 4 .u64 .rwa true 16 0,
    odRow 0x6041 1 1 1 2 .u8 .rwa true 16 0,
    odRow 0x6042 1 1 1 1 .u16 .rwa true 16 200,
    odRow 0x6042 1 1 2 2 .u16 .rwa true 16 10,
    odRow 0x6043 1 1 1 2 .u8 .rwa true 16 0xFF,
    odRow 0x6100 1 1 1 192 .bool .rw true noGrp 0,
    odRow 0x6200 1 2 1 2 .u32 .ro true noGrp 0,
    odRow 0x6202 1 1 1 192 .u32 .ro true noGrp 0,
    odRow 0x6203 1 2 1 2 .u64 .ro true noGrp 0,
    odRow 0x6205 1 3 1 2 .u32 .ro true noGrp 0,
    odRow 0x6208 1 1 1 192 .u16 .ro true noGrp 0,
    odRow 0x6209 1 1 1 2 .u64 .ro true noGrp 0,
    odRow 0x620A 1 1 1 2 .u32 .ro true noGrp 0,
    odRow 0x620B 1 1 1 2 .u64 .ro true noGrp 0,
    odRow 0x6800 1 1024 1 128 .u32 .rwa true 17 0,
    odRow 0x6C00 1 1 1 192 .u32 .rwa true 17 0,
    odRow 0x6C10 1 4 1 128 .u32 .rwa true 17 0,
    odRow 0x6C20 1 1 1 2 .u64 .ro true noGrp 0,
    odRow 0x6C21 1 4 1 2 .u32 .ro true noGrp 0,
    odRow 0x6C25 1 1 1 16 .u32 .ro true noGrp 0,
    odRow 0x6C26 1 2 1 2 .u32 .ro true noGrp 0,
    odRow 0x6C28 1 1 1 2 .u64 .ro true noGrp 0,
    odRow 0x6D00 1 128 1 4 .bits32 .rw true noGrp 0 ]

/-- Power, time, errors, topology, test, apply groups (chapters 11 to 16, their object tables). -/
def odSysRows : List OdRow :=
  [ odRow 0x7000 1 1 1 1 .u8 .rwa true 20 0,
    odRow 0x7000 1 1 2 2 .u8 .ro false noGrp 0,
    odRow 0x7001 1 1 1 1 .u8 .rw true noGrp 0,
    odRow 0x7001 1 1 2 2 .u8 .ro false noGrp 0,
    odRow 0x7002 1 1 1 1 .u32 .rwa true 20 0,
    odRow 0x7003 1 1 1 1 .u32 .rwa true 20 0xF1,
    odRow 0x7004 1 3 1 3 .u32 .ro true noGrp 0,
    odRow 0x7007 1 1 1 4 .u64 .ro true noGrp 0,
    odRow 0x7008 1 1 1 3 .u32 .ro true noGrp 0,
    odRow 0x7009 1 1 1 1 .u32 .ro true noGrp 0,
    odRow 0x7009 1 1 2 2 .u64 .ro true noGrp 0,
    odRow 0x700A 1 1 1 7 .u32 .ro true noGrp 0,
    odRow 0x7010 1 1 1 2 .i32 .ro true noGrp 0,
    odRow 0x7080 1 1 1 1 (.domain 65536) .rwa true 20 0,
    odRow 0x7081 1 1 1 1 .u32 .ro true noGrp 0,
    odRow 0x7082 1 1 1 1 .u8 .ro true noGrp 0,
    ⟨0x7400, 1, 1, 1, 3, .bool, .ro, false, noGrp, fun _ s => if s = 2 then 1 else 0⟩,
    odRow 0x7400 1 1 4 4 .u64 .ro false noGrp 0,
    odRow 0x7400 1 1 5 5 .u64 .ro true noGrp 0,
    odRow 0x7400 1 1 6 6 .u32 .ro true noGrp 0,
    odRow 0x7400 1 1 7 7 .u32 .rwa true 21 50000,
    odRow 0x7400 1 1 8 8 .u64 .ro true noGrp 0,
    odRow 0x7400 1 1 0x1F 0x1F .u32 .ro false noGrp 0,
    odRow 0x7401 1 1 1 1 .u8 .rwa true 21 2,
    odRow 0x7401 1 1 2 2 .u32 .rwa true 21 100000,
    odRow 0x7401 1 1 3 4 .u32 .rwa true 21 0,
    odRow 0x7401 1 1 5 5 .u32 .ro true noGrp 0,
    odRow 0x7410 1 1 1 1 .u8 .rwa true 21 0xFF,
    odRow 0x7410 1 1 2 2 .u32 .rwa true 21 10000,
    odRow 0x7410 1 1 3 3 .u32 .ro true noGrp 0,
    odRow 0x7420 1 1 1 1 .u8 .rwa true 21 0xFF,
    odRow 0x7420 1 1 2 2 .u32 .ro true noGrp 0,
    odRow 0x7430 1 4 1 2 .u32 .rwa true 21 0,
    odRow 0x7430 1 4 3 3 .u64 .rwa true 21 0,
    odRow 0x7440 1 1 1 2 .u32 .ro true noGrp 0,
    odRow 0x8000 1 1 1 1 .u32 .rwa true 18 5000,
    odRow 0x8000 1 1 2 2 .u16 .rwa true 18 64,
    odRow 0x8001 1 1 1 192 .u32 .ro true noGrp 0,
    odRow 0x8002 1 1 1 192 .bool .rw true noGrp 0,
    odRow 0x8003 1 1 1 192 .u32 .ro true noGrp 0,
    odRow 0x8004 1 1 1 15 .u32 .ro false noGrp 0,
    odRow 0x8005 1 1 1 15 .bool .rw true noGrp 0,
    odRow 0x8006 1 1 1 2 .u32 .ro true noGrp 0,
    odRow 0x8007 1 1 1 6 .u64 .ro true noGrp 0,
    odRow 0x8008 1 1 1 1 .u32 .ro true noGrp 0,
    odRow 0x8009 1 1 1 2 .u32 .ro true noGrp 0,
    odRow 0x800A 1 1 1 4 .u64 .ro true noGrp 0,
    odRow 0x800B 1 1 1 2 .u32 .ro true noGrp 0,
    odRow 0x800C 1 1 1 6 .u32 .ro true noGrp 0,
    odRow 0x9000 1 1 1 3 .u8 .ro false noGrp 0,
    odRow 0x9001 1 1 1 2 .u32 .ro false noGrp 0,
    odRow 0x9002 1 1 1 1 .bool .rw true noGrp 0,
    odRow 0x9003 1 1 1 3 .u32 .ro true noGrp 0,
    odRow 0x9004 1 1 1 15 .u32 .ro false noGrp 0,
    odRow 0x9005 1 1 1 15 .u8 .rwa true 19 0xFF,
    odRow 0x9007 1 1 1 6 .u64 .ro true noGrp 0,
    odRow 0x9008 1 1 1 2 .u64 .ro true noGrp 0,
    odRow 0xA000 1 16 1 4 .u32 .rwa true 22 0,
    odRow 0xA000 1 16 5 5 .u64 .ro true noGrp 0,
    odRow 0xA010 1 1 1 2 .u32 .rw true noGrp 0,
    odRow 0xA011 1 1 1 2 .u32 .ro true noGrp 0,
    odRow 0xA020 1 1 1 1 .bool .wo true noGrp 0,
    odRow 0xF000 1 1 1 1 .bits32 .wo true noGrp 0,
    odRow 0xF000 1 1 2 2 .u32 .ro true noGrp 0,
    odRow 0xF000 1 1 3 3 .u32 .rwa true 31 0,
    odRow 0xF000 1 1 4 4 .u32 .ro true noGrp 0,
    odRow 0xF000 1 1 5 5 .u8 .ro false noGrp 0,
    odRow 0xF000 1 1 6 7 .u32 .ro true noGrp 0,
    odRow 0xF000 1 1 8 8 .bits32 .ro true noGrp 0,
    odRow 0xF000 1 1 9 9 .bits32 .wo true noGrp 0,
    odRow 0xF000 1 1 0xA 0xC .u32 .ro true noGrp 0 ]

/-- The whole directory, in ascending area. -/
def odRows : List OdRow :=
  odHostRows ++ odFnRows ++ odLinkRows ++ odFlowRows ++ odEngRows ++ odSysRows

/-- The line that holds an object. -/
def odFind (idx sub : Nat) : Option OdRow :=
  odRows.find? fun r => r.hasIdx idx && r.lo ≤ sub && sub ≤ r.hi

/-- Highest subindex of an index that exists (R344). -/
def odHighest (idx : Nat) : Option Nat :=
  odRows.foldl (fun a r => if r.hasIdx idx then some (max (a.getD 0) r.hi) else a) none

/-- An object's default value: what the tables of State hold nothing for. -/
def odDefault (idx sub : Nat) : Nat :=
  match odFind idx sub with
  | some r => r.dflt idx sub
  | none => 0

end Sys2Proof.Machine
end

