-- ==== Sys2Proof/Machine/Types.lean ====
section
/-! DEFINITION. The plain-data records the machine's state is made of: transactions, cells, open
requests, and the state of each port, link, function, flow, source and log (chapters 02 to 11). -/

namespace Sys2Proof.Machine

/-- A flow end (R31, Table 08.1). `cluster` is an engine end served by cluster memory (R159). -/
inductive End where
  | fn (n : Nat)      -- host link * 64 + function
  | link (l : Nat)
  | eng (e : Nat)
  | dq (q : Nat)
deriving DecidableEq, Repr

/-- Transaction kinds (Table 02.2). -/
inductive Kind where
  | p | np | cpl
deriving DecidableEq, Repr

/-- Directions of R35. -/
inductive Dir where
  | h2l | l2h | l2l
deriving DecidableEq, Repr

/-- Who holds an open non-posted request, and what its completion is for. -/
inductive Requester where
  | host (m : Nat) (fn : Nat) (tag : Nat) (addr : Nat) (atomic : Bool)
  | link (l : Nat) (tag : Nat)
  | eng (e : Nat) (slot : Nat)
  | dqDesc (q : Nat) (n : Nat)                 -- descriptor fetch of ring entry n
  | dqData (q : Nat) (n : Nat)                 -- data fetch of descriptor n
  | prefetch (m : Nat) (fn : Nat) (w : Nat) (unit : Nat)
  | mirror (g : Nat)
deriving DecidableEq, Repr

/-- What a transaction carries. -/
inductive TOp where
  | write
  | read
  | atomic (op : AtomicOp)
  | cpl (status : Nat) (remain : Nat) (offset : Nat) (tag : Nat)
  | doorbell (src : Nat)
  | state (word : Nat)            -- a published word, to the mirror store
  | stateOut (word : Nat)         -- a configuration word, to the local link
  | lockAcq | lockRel
  | message (src : Nat)           -- an event message (R293)
deriving DecidableEq, Repr

/-- Special marks of a posted write whose commitment matters to another service. -/
inductive TMark where
  | none
  | mirror (g : Nat)           -- a write of an upward pass before END
  | mirrorEnd (g : Nat)        -- the END write of an upward pass
  | mirrorState (g : Nat)      -- a STATE packet of a downward pass
  | dqWrite (q : Nat) (n : Nat)
  | dqRecord (q : Nat) (irq : Bool)
  | engWrite (e : Nat) (slot : Nat)
  | cluster (c : Nat)          -- served by cluster memory (R159)
  | splitBeat (grp win addr : Nat)  -- a beat of a split write: its group, window and address as received
  | prefetch                   -- a prefetch READ: takes no H2L NP entry (R169)
  | zeroRead (n : Nat)         -- zero-length host read of function n (R55)
deriving DecidableEq, Repr

/-- A transaction from acceptance to the moment its last packet or TLP has been sent. -/
structure Txn where
  id       : Nat
  flow     : Nat
  lane     : Nat          -- ordering lane: twice the flow, plus 1 for a lane of completions only (R43)
  kind     : Kind
  dir      : Dir
  cls      : Nat
  crCls    : Nat          -- class its local-link credit was taken from (R137)
  via      : Nat          -- local link its packet arrived on
  src      : End
  sink     : End
  ihalf    : Half         -- half that accepted it
  home     : Half         -- home half (R20)
  op       : TOp
  addr     : Nat
  len      : Nat          -- bytes requested or carried
  data     : List Byte
  poison   : Bool
  ro       : Bool         -- relaxed ordering as the request carried it (R46)
  ns       : Bool         -- No Snoop (Table 06.3)
  lock     : Bool
  fence    : Bool
  fenceOk  : Bool
  reserved : Bool         -- completion space held (R38); true where none is needed
  req      : Nat          -- open request it belongs to, 0 none
  part     : Nat          -- part of that request
  size     : Nat          -- packet bytes it moves through cells
  left     : Nat          -- bytes still in the ingress buffer
  arrived  : Nat          -- bytes at the egress port
  sent     : Nat          -- payload bytes sent in packets
  released : Bool         -- released by the shaper (R219)
  vc1      : Bool
  mark     : TMark
  se       : Bool         -- a completion whose read changed state at its target (R136)
  inTime   : Nat          -- device time of its acceptance, as TIME
deriving DecidableEq, Repr

/-- Where a cell waits. -/
inductive CellPlace where
  | die                                         -- on the way to the home half
  | head                                        -- vat head
  | c0                                          -- C0 partition
  | tail                                        -- vat tail, staging reserve
  | brine (ch : Nat) (epoch : Nat) (seq : Nat)  -- a brine segment
deriving DecidableEq, Repr

/-- A cell: pieces of consecutive packets of one flow (R14). -/
structure Cell where
  id    : Nat
  half  : Half            -- home half
  flow  : Nat
  kind  : Kind
  cls   : Nat
  parts : List (Nat × Nat)   -- transaction, bytes of it
  bytes : Nat
  place : CellPlace
deriving DecidableEq, Repr

/-- One part of an open request, in address order. -/
inductive PartState where
  | waiting                              -- a transaction or an issued packet stands for it
  | got (data : List Byte) (se : Bool)
  | failed (status : Nat)
  | unit (n : Nat)                       -- held by prefetch unit n in flight
deriving DecidableEq, Repr

/-- A part: offset in the request, length, address at the completer, and how far it is. -/
structure ReqPart where
  off   : Nat
  len   : Nat
  addr  : Nat
  st    : PartState
  buf   : List Byte                      -- bytes received so far
deriving DecidableEq, Repr

/-- An open non-posted request. -/
structure Req where
  id      : Nat
  who     : Requester
  flow    : Nat
  cls     : Nat
  dir     : Dir                  -- direction of its completions
  half    : Half                 -- requester's half
  resHdr  : Nat                  -- completion space still held (R38)
  resData : Nat
  len     : Nat
  raddr   : Nat                  -- address as received, for the log
  split   : Bool
  win     : Nat                  -- window in log coding, for split failures
  stop    : Option (Nat × Nat)   -- split read: offset and status of the beat the size check refused
  parts   : List ReqPart
  sent    : Nat                  -- bytes already returned
  lock    : Bool                 -- a LOCK = 1 request (R187, R189)
  ro      : Bool                 -- Relaxed Ordering of the host request (R46)
  dead    : Bool                 -- its requester can no longer be answered (R117, R206)
deriving DecidableEq, Repr

/-- A tag in use toward a host or a local link (R106, R136). -/
structure TagUse where
  side : TagSide
  tag  : Nat
  req  : Nat
  part : Nat
  fn   : Nat                     -- requesting function (hosts), host link * 64 + function; a PING's sub-link
  sent : Nat                     -- clk at which the request left
  ping : Bool
  old  : Bool                    -- open since before a freeze (R310)
deriving DecidableEq, Repr

/-- A tag in quarantine (R209). -/
structure Quar where
  side : TagSide
  tag  : Nat
  free : Nat                     -- clk at which it is free again
deriving DecidableEq, Repr

/-- A posted write waiting only to report a split failure once its beats are committed (R166). -/
structure SplitFail where
  id    : Nat
  half  : Half
  win   : Nat
  addr  : Nat
deriving DecidableEq, Repr

/-- State words of a flow that are not computed from its cells (Table 08.2). -/
structure FlowSt where
  epoch    : Bool
  paused   : Bool
  refused  : Bool       -- C0_REFUSED
  capHeld  : Bool
  failed   : Bool       -- CTX_ECC (R306)
  tokens   : Int
  tokClk   : Nat        -- clk up to which TOKENS has been refilled
  frac     : Nat        -- refill remainder
  bseq     : Nat
  txBytes  : Nat
  txPkts   : Nat
  bpCount  : Nat
  bpNs     : Nat
  bpSince  : Option Nat
  deficit  : Nat        -- round-robin deficit of the flow (R220)
  assigned : Option Nat -- engine the flow is assigned to (R263)
  asgEpoch : Bool
  words    : Tab W32    -- service words 48 to 63 (R258)
  nextEv   : Nat        -- engine clock before which no further service event of it is delivered (R265)
  evSeen   : Nat        -- its waiting event: 1 a deferral, 2 an inbox stall has been counted
deriving DecidableEq, Repr

/-- A flow's state words at reset. -/
def FlowSt.reset : FlowSt :=
  ⟨false, false, false, false, false, 0, 0, 0, 0, 0, 0, 0, 0, none, 0, none, false, [], 0, 0⟩

/-- Round-robin state of one press output (R220): class visited, class deficits, flow visited. -/
structure OutSt where
  cls     : Nat
  defs    : List Nat
  flowPos : Nat
  classIn : Bool        -- the visited class has had this round's quantum
  flowIn  : Bool
deriving DecidableEq, Repr

/-- An output's round-robin state at reset. -/
def OutSt.reset : OutSt := ⟨1, [0, 0, 0], 0, false, false⟩

/-- The C0 reservations in force: output (half * 32 + port), flow, slots (R51). -/
structure C0Res where
  out   : Nat
  flow  : Nat
  slots : Nat
deriving DecidableEq, Repr

/-- One half's brine (R225, R227, R238 to R241). -/
structure BrineSt where
  trained   : Bool
  down      : Bool           -- a training failed (R241)
  wrBytes   : List Nat       -- bytes moved per channel in the present window
  hotCount  : List Nat       -- consecutive windows above threshold
  hotRaised : List Bool
  share     : List Nat
deriving DecidableEq, Repr

/-- A half's brine at reset. -/
def BrineSt.reset : BrineSt :=
  ⟨false, false, List.replicate 8 0, List.replicate 8 0, List.replicate 8 false, List.replicate 8 0⟩

/-! ## Host ports -/

/-- The layout a host link enumerated: function count and, per function, the object values latched
at re-initialisation (R89, R103). -/
structure FnLayout where
  ftype   : Nat     -- 0 PF0, 1 link function, 2 worker function
  subsys  : Nat
  cls     : Nat
  msix    : Nat
  msixBase : Nat
  bar2    : Nat
  pref    : Bool
  devid   : Nat
deriving DecidableEq, Repr

/-- A host link. -/
structure HlSt where
  dlActive  : Bool
  flit      : Bool
  rate      : Nat
  width     : Nat
  reversed  : Bool
  pwr       : Nat            -- HP_LINK_STAT.PWR
  vc1       : Bool
  evt       : W32            -- HP_LINK_EVT
  drsSent   : Bool
  turnOff   : Bool           -- PME_Turn_Off received
  intx      : Bool           -- Assert_INTA sent
  layout    : List FnLayout  -- functions present in the layout in force
  vc0Since  : Option Nat     -- VC0 credits withheld since
  narrow    : Nat            -- width under L0p
  waitTlp   : List Instr     -- TLPs waiting at the head of VC0 (R40)
deriving DecidableEq, Repr

/-- A host link at reset. -/
def HlSt.reset : HlSt :=
  ⟨false, false, 0, 0, false, 0, false, 0, false, false, false, [], none, 0, []⟩

/-- The mailbox of one PF0 (R101, R102). -/
structure MbxSt where
  req     : Tab Byte
  rsp     : Tab Byte
  busy    : Bool
  ready   : Bool
  overrun : Bool
  lenErr  : Bool
  down    : Bool          -- STEWARD_DOWN
  rspLen  : Nat
  reqLen  : Nat
  ien     : Bool
  orphan  : List (List Byte)     -- requests in progress when the host link re-initialised, still to be served
  answer  : Option (List Byte)   -- the steward's answer, not yet delivered
  taken   : Bool          -- the steward has taken the request
deriving DecidableEq, Repr

/-- A mailbox at reset. -/
def MbxSt.reset : MbxSt :=
  ⟨[], [], false, false, false, false, false, 0, 0, false, [], none, false⟩

/-- A function: the writable words of its configuration space (keyed by byte offset) and what the
device keeps for it. -/
structure FnSt where
  cs       : Tab W32
  hdrLog   : List W32
  active   : Bool          -- active member of its pair (R119)
  noHost   : Bool          -- its pair has no host (R122)
  switching : Bool         -- a switch-over away from this member has started (R120)
  held     : List (Nat × Nat)   -- messages held while Bus Master Enable is 0: source + 1 (0 notify), 2 * vector + MSI-X
  slotVal  : Bool          -- side-effect slot (R172)
  slotTag  : Nat
  slotData : List Byte
  slotClk  : Nat
  slotAddr : Nat
  evt      : W32           -- EVC_FN_EVT
  evtEn    : W32
deriving DecidableEq, Repr

/-- A function at reset. -/
def FnSt.reset : FnSt :=
  ⟨[], [0, 0, 0, 0], false, false, false, [], false, 0, [], 0, 0, 0, 0⟩

/-- A prefetch unit held or in flight (R168 to R171). -/
structure PfUnit where
  id    : Nat
  fn    : Nat             -- host link * 64 + function
  w     : Nat
  off   : Nat             -- aperture offset of the unit
  addr  : Nat             -- local address
  flow  : Nat
  st    : PartState       -- waiting: in flight
  clk   : Nat             -- when its data was held
  drop  : Bool            -- discard when the completion arrives
  wins  : List Nat        -- open requests waiting for it
  gone  : Option Nat      -- invalidated in flight: 0 re-initialisation, 1 cut (R176, R178)
deriving DecidableEq, Repr

/-! ## Local links -/

/-- Bring-up states (Table 05.2). -/
inductive BringUp where
  | detect | train | lock | exchange | active
deriving DecidableEq, Repr

/-- One packet in the replay buffer. -/
structure Replay where
  seq   : Nat
  pkt   : Pkt
  txn   : Nat
  src   : Option End
  tries : Nat
deriving DecidableEq, Repr

/-- The link layer and bring-up state of a local link. -/
structure LlSt where
  st        : BringUp
  gen       : Nat               -- generation of the attempt or in force, 0 before any
  nextGen   : Nat               -- generation the next attempt would take (R129); 0: MAX_GEN
  idle      : Bool              -- holds electrical idle for 1 ms
  reason    : Nat               -- DOWN_REASON
  evt       : W32
  forceDown : Bool
  rdyCount  : List Nat          -- per lane: consecutive status words with READY and ACK
  rdySeen   : List Bool         -- per lane: READY = 1 received
  sentAck   : List Nat          -- per lane: frames sent with ACK since the exit count was met
  frameOk   : Bool              -- a capability frame with valid CRC received
  ackFrame  : Bool              -- ... with ACK = 1
  capSent   : Nat               -- frames sent with ACK since
  frame     : List Byte         -- partner's last frame
  role      : Nat
  devid     : Nat
  txSeq     : Nat
  rxSeq     : Nat               -- expected SEQ
  rxAcked   : Nat               -- packets received and not yet acknowledged
  nakSent   : Bool
  replay    : List Replay
  owed      : List Replay       -- packets of the link layer that wait for room in the replay buffer (R141)
  ackedSeq  : Nat               -- oldest unacknowledged SEQ
  limP      : List Nat          -- partner's LIMIT per class
  limNp     : List Nat
  conP      : List Nat          -- our CONSUMED per class
  conNp     : List Nat
  maxP      : List Nat          -- largest LIMIT - CONSUMED since Active
  maxNp     : List Nat
  gotP      : Bool              -- a CREDIT block of the kind received since Active
  gotNp     : Bool
  rxP       : List Nat          -- units received per class
  rxNp      : List Nat
  advP      : List Nat          -- LIMIT we advertised
  advNp     : List Nat
  xoff      : List (Nat × Nat)  -- flows we hold by PAUSE, clk of the first XOFF
  paused    : List (Nat × Nat)  -- flows the tether partner holds, clk of the last XOFF
  annSeq    : Option Nat        -- last SEQ_ANN applied since Active
  capacity  : Nat               -- last capacity applied
  shTok     : Option Int        -- link shaper: tokens; none: not in place
  shClk     : Nat
  shFrac    : Nat
  ping      : Option (Nat × Nat)  -- tag and clk of a PING under way
  rtt       : Nat
  contain   : Nat               -- Table 11.3
  cause     : Nat
  present   : Bool
  applied   : Bool
  malStart  : Nat               -- start of the present 1 ms of R309
  malCount  : Nat
deriving DecidableEq, Repr

/-- A local link at reset. -/
def LlSt.reset : LlSt :=
  { st := .detect, gen := 0, nextGen := 0, idle := false, reason := 0, evt := 0, forceDown := false,
    rdyCount := [0, 0, 0, 0], rdySeen := [false, false, false, false], sentAck := [0, 0, 0, 0],
    frameOk := false, ackFrame := false, capSent := 0, frame := [], role := 0, devid := 0,
    txSeq := 0, rxSeq := 0, rxAcked := 0, nakSent := false, replay := [], owed := [], ackedSeq := 0,
    limP := [0, 0, 0, 0], limNp := [0, 0, 0, 0], conP := [0, 0, 0, 0], conNp := [0, 0, 0, 0],
    maxP := [0, 0, 0, 0], maxNp := [0, 0, 0, 0], gotP := false, gotNp := false,
    rxP := [0, 0, 0, 0], rxNp := [0, 0, 0, 0], advP := [0, 0, 0, 0], advNp := [0, 0, 0, 0],
    xoff := [], paused := [], annSeq := none, capacity := 0xFFFFFFFF, shTok := none, shClk := 0,
    shFrac := 0, ping := none, rtt := 0, contain := 0, cause := 0, present := false,
    applied := false, malStart := 0, malCount := 0 }

/-- A lane (R57 to R79). -/
structure LaneSt where
  ctrl    : W32            -- LANE_CTRL writable fields
  evt     : W32
  present : Bool
  cdr     : Bool
  adapt   : Bool
  rxReady : Bool
  cwLock  : Bool
  cwGood  : Nat
  cwBad   : Nat
  blkLock : Bool
  blkGood : Nat
  blkWin  : Nat            -- the last 64 counted headers, newest in bit 0, 1 for an invalid one (R71)
  bip     : Nat            -- XOR of the content bytes received since the last ALIGN (Table 03.4)
  aligned : Bool
  alnSeq  : Nat            -- consecutive good ALIGN markers or misses
  deskew  : Bool
  inv     : Bool           -- polarity inverted by R68
  logical : Nat            -- logical lane number learned from ALIGN
  slips   : Nat
  skew    : Nat
  hdrErr  : Nat
  bipErr  : Nat
  fecCorr : Nat
  fecUnc  : Nat
  prbsErr : Nat
  dfe0    : W32
  dfe1    : W32
  dfe2    : W32
  ctle    : Nat
  mrgCtrl : W32
  mrgRes  : W32
  mrgBusy : Bool
  sig     : Bool           -- SIG_DET: a signal, by the last CDR_LOCK or SIGNAL_LOSS (log entry 27)
deriving DecidableEq, Repr

/-- A lane at reset. -/
def LaneSt.reset : LaneSt :=
  { ctrl := 0, evt := 0, present := false, cdr := false, adapt := false, rxReady := false,
    cwLock := false, cwGood := 0, cwBad := 0, blkLock := false, blkGood := 0, blkWin := 0,
    bip := 0, aligned := false, alnSeq := 0, deskew := false, inv := false, logical := 0,
    slips := 0, skew := 0, hdrErr := 0, bipErr := 0, fecCorr := 0, fecUnc := 0, prbsErr := 0,
    dfe0 := 0, dfe1 := 0, dfe2 := 0, ctle := 0, mrgCtrl := 0, mrgRes := 0, mrgBusy := false,
    sig := false }

/-! ## Bridging services -/

/-- A semaphore (R183 to R190). -/
structure SemSt where
  holders : List (Nat × Nat)            -- local link, clk of its grant
  freeing : List (Nat × Nat)            -- released units waiting for the commit condition: link, txn bound
  waiters : List (Nat × Nat)            -- local link, open request
  grants  : Nat
deriving DecidableEq, Repr

/-- A semaphore at reset. -/
def SemSt.reset : SemSt := ⟨[], [], [], 0⟩

/-- A mirror group (R194 to R204). -/
structure MgSt where
  seq       : Nat          -- sequence of the last pass started
  doneSeq   : Nat          -- sequence of the last complete pass
  running   : Bool
  started   : Nat          -- clk of the running pass
  stretch   : Nat
  halfRuns  : Nat          -- consecutive passes within half the period
  reason    : Nat          -- pause reason that only a restart lifts: 2 or 3, 0 none
  fresh     : Bool         -- the next pass has sequence 1 and marks every word changed
  resume    : Bool         -- it has been paused: the next pass marks every word changed
  changed   : List Nat     -- store words marked changed (offsets in the group)
  superseded : Nat
  sentVals  : Tab W64      -- downward: value last sent, by word
  sentAny   : Bool
  acks      : Nat          -- STATE packets of the pass not yet acknowledged
  readDone  : Bool         -- downward: the table has been read
  readTime  : Nat
deriving DecidableEq, Repr

/-- A mirror group at reset. -/
def MgSt.reset : MgSt := ⟨0, 0, false, 0, 0, 0, 0, true, false, [], 0, [], false, 0, false, 0⟩

/-- One DMA descriptor in progress (R235). -/
structure DqJob where
  n      : Nat             -- ring count
  desc   : List Byte
  phase  : Nat             -- 0 fetching, 1 reading and writing, 2 done, 3 ended by an error (R236)
  wrote  : Nat             -- bytes written
  writes : Nat             -- writes not yet committed
  status : Nat
deriving DecidableEq, Repr

/-- A DMA queue (R232 to R237). -/
structure DqSt where
  prod    : Nat
  cons    : Nat
  halted  : Bool
  pSwitch : Bool
  last    : Nat
  phase   : Bool           -- PHASE of the next record
  passed  : Nat            -- records written in the present pass
  ready   : Bool           -- a DQ_READY service event waits (R251)
  jobs    : List DqJob
deriving DecidableEq, Repr

/-- A DMA queue at reset. -/
def DqSt.reset : DqSt := ⟨0, 0, false, false, 0, true, 0, false, []⟩

/-! ## Events and errors -/

/-- Where a source stands. -/
inductive SrcPos where
  | idle
  | held (e : Nat)          -- coalescing hold of engine e
  | offered (e : Nat)
  | inService (e : Nat)
  | formed (vec : Nat)      -- a host message formed, not committed: 2 * vector + MSI-X
  | claimed
deriving DecidableEq, Repr

/-- An event source (R279 to R297). -/
structure SrcSt where
  count   : Nat
  pos     : SrcPos
  masked  : Bool
  lastEng : Nat             -- local number of the engine that last accepted it, plus 1; 0 none
  order   : Nat             -- when it became pending
  level   : Bool
  vanished : Bool           -- CLAIMED_INACTIVE
deriving DecidableEq, Repr

/-- A source at reset. -/
def SrcSt.reset : SrcSt := ⟨0, .idle, false, 0, 0, false, false⟩

/-- An event record (Table 10.4). -/
structure EvRec where
  kind : Nat
  da   : Nat
  inst : Nat
  db   : Nat
  lost : Nat
  time : W64
deriving DecidableEq, Repr

/-- An error log record (Table 11.5). -/
structure LogRec where
  code   : Nat
  status : Nat
  half   : Half
  unit   : Nat
  flow   : Nat
  tag    : Nat
  addr   : Nat
  addr2  : Nat
  detail : Nat
  lost   : Nat
  time   : W64
deriving DecidableEq, Repr

/-! ## What the device sends -/

/-- Control blocks the device sends (Table 05.4). -/
inductive Block where
  | idle
  | ack (nak : Bool) (seq : Nat)
  | credit (np : Bool) (limits : List Nat)
  | pause (xoff : Bool) (flow : Nat)
  | capf (frame : List Byte)
  | down (reason : Nat)
deriving DecidableEq, Repr

/-- TLPs the device sends on a host link. -/
inductive HostTlp where
  | memWrite (fn : Nat) (addr : Nat) (data : List Byte) (ro ep ns ido : Bool) (tc : Nat)
  | memRead (fn : Nat) (addr : Nat) (len : Nat) (tag : Nat) (ro ns ido : Bool) (tc : Nat)
  | atomic (fn : Nat) (addr : Nat) (op : AtomicOp) (data : List Byte) (tag : Nat) (tc : Nat)
  | cplData (tag : Nat) (data : List Byte) (remain : Nat) (ep ro ido : Bool)
  | cpl (tag : Nat) (status : HostStatus) (remain : Nat)
  | msi (fn : Nat) (addr : Nat) (data : Nat)
  | assertIntA | deassertIntA
  | pmPme (fn : Nat)
  | pmeToAck
  | ltr (v : Nat)
  | drs
  | ptmRequest
  | error (fn : Nat) (sev : Nat)     -- ERR_COR 0, ERR_NONFATAL 1, ERR_FATAL 2
deriving DecidableEq, Repr

/-- What leaves the device, in order of leaving. -/
inductive Emission where
  | packet (l : Nat) (p : Pkt)
  | block (l : Nat) (b : Block)
  | training (l : Nat) (lane : Nat) (word : W64)
  | tlp (m : Nat) (t : HostTlp)
  | frame (dst : BitVec 48) (ether : Nat) (pdu : List Byte)
  | dieLink (dst : Half) (code : Nat) (val : Nat)
  | avs (rail : Bool) (write : Bool) (mv : Nat)
  | pulse (code : Nat) (val : Nat)
deriving DecidableEq, Repr

end Sys2Proof.Machine
end

