-- ==== Sys2Proof/Machine/Types2.lean ====
section
/-! DEFINITION. The plain-data records of engines, services, the dictionary, power, time, test,
start-up and flash (chapters 09, 12 to 16). -/

namespace Sys2Proof.Machine

/-! ## Engines -/

/-- SE_STAT.STATE (Table 09.10). -/
inductive EngRun where
  | notLoaded | running | waiting | halted
deriving DecidableEq, Repr

/-- What a waiting instruction waits for (R286). -/
inductive EngWait where
  | none
  | wait                       -- WAIT
  | slot (n : Nat)             -- MWAIT on one slot
  | allSlots                   -- MWAIT with fn[0]
  | freeSlot                   -- a move with no free slot
  | fence (mem moves : Bool)
deriving DecidableEq, Repr

/-- A move slot (R253 to R255). -/
inductive Slot where
  | free
  | busy (flow laddr : Nat) (nf wr : Bool)   -- wr: a move write
  | failed (flow status : Nat)        -- NF 0: fault to be taken
  | kept (status : Nat)               -- NF 1: status waits for MWAIT
deriving DecidableEq, Repr

/-- A running-priority stack entry (R287). -/
structure StackEnt where
  src : Nat
  pri : Nat
  ret : W64
deriving DecidableEq, Repr

/-- An offer of the event controller (R286): it carries the source, its priority and HANDLER. -/
structure Offer where
  src     : Nat
  pri     : Nat
  handler : W64
deriving DecidableEq, Repr

/-- An inbox record (R251). -/
structure InRec where
  addr    : Nat
  size    : Nat          -- header and padded payload
  flow    : Nat
  kind    : Nat          -- 1 WRITE, 2 READ, 3 ATOMIC, 4 DQ_READY
  want    : Nat          -- bytes an OK reply returns
  req     : Nat          -- open request it answers, 0 none
  part    : Nat
  queue   : Nat          -- DQ_READY: queue
  popped  : Bool
  done    : Bool
  replied : Bool
deriving DecidableEq, Repr

/-- An engine (R244 to R262). -/
structure EngSt where
  regs    : List W64
  pc      : W64
  st      : EngRun
  waitFor : EngWait
  loading : Bool
  version : Nat
  fvec    : W64
  fstat   : Nat
  inFault : Bool
  fpc     : W64
  finfo   : W64
  fret    : W64
  loadClk : Nat
  stack   : List StackEnt
  pendRet : Option W64
  offer   : Option Offer
  slots   : List Slot
  inbox   : List InRec
  inTail  : Nat             -- next free offset in the inbox region
  mem     : Tab Byte
  events  : Nat
  faults  : Nat
  winEv   : Nat             -- service events in the present window
  hotWin  : Nat
  hot     : Bool
  share   : Nat
deriving DecidableEq, Repr

/-- An engine before any load. -/
def EngSt.reset : EngSt :=
  { regs := List.replicate 32 0, pc := 0, st := .notLoaded, waitFor := .none, loading := false,
    version := 0, fvec := 0, fstat := 0, inFault := false, fpc := 0, finfo := 0, fret := 0,
    loadClk := 0, stack := [], pendRet := none, offer := none, slots := List.replicate 16 .free,
    inbox := [], inTail := 0, mem := [], events := 0, faults := 0, winEv := 0, hotWin := 0,
    hot := false, share := 0 }

/-- A cluster: its memory and load state (R245, R269). -/
structure ClSt where
  mem     : Tab Byte        -- by offset from 0x10_0000
  svc     : Nat             -- service it was loaded for, plus 1; 0 none
  version : Nat
  loading : Bool
  loaded  : Bool
deriving DecidableEq, Repr

/-- A cluster before any load. -/
def ClSt.reset : ClSt := ⟨[], 0, 0, false, false⟩

/-- A service (R250, R263): its bucket table, its events of the present window. -/
structure SvSt where
  buckets : List Nat
  empty   : Bool            -- SERVICE_EMPTY raised
  events  : Nat
  winEv   : Nat
deriving DecidableEq, Repr

/-- A service at reset. -/
def SvSt.reset : SvSt := ⟨[], false, 0, 0⟩

/-- The engines side of the machine. -/
structure EngAll where
  engs   : Tab EngSt
  cls    : Tab ClSt
  svs    : Tab SvSt
  memSel : Nat              -- SE_MEM_SEL
  memSelB : Nat             -- half B's own in SPLIT
  cyc    : Nat               -- engine clock since the model began, units of 0.4 cycle
deriving DecidableEq, Repr

/-! ## Dictionary -/

/-- Where an apply request came from, and what waits for its result (R368, R370): a register write or steward
firmware waits for nothing; an MDP REQUEST has its answers so far and its remaining operations. `ether`: the
EtherType in force when the frame arrived (R376). `live`: the mailbox still waits for the answer (R102). -/
inductive ApplyFrom where
  | reg
  | mdpField (dst : BitVec 48) (ether : Nat) (sess : Nat) (hdr : List Byte) (answered rest : List Byte)
  | mdpMbx (m : Nat) (live : Bool) (hdr : List Byte) (answered rest : List Byte)
deriving DecidableEq, Repr

/-- An apply request being checked: the groups, the snapshot of their shadows (R366) and of their DIRTY bits, and
the groups discarded since (R365), which a rejection does not restore. -/
structure ApplyReq where
  mask  : Nat
  snap  : Tab (Option Nat)
  keep  : Option (List Byte)
  dirty : Nat
  gone  : Nat
  src   : ApplyFrom
deriving DecidableEq, Repr

/-- An open session or unanswered CHALLENGE (R355, R356). -/
structure Sess where
  num   : Nat
  opened : Bool
  nc    : List Byte
  nd    : List Byte
  ks    : List Byte         -- the device key until the session is open, then KS
  seq   : Option Nat
  tag   : List Byte
  resp  : List Byte
deriving DecidableEq, Repr

/-- AG_SEAL_STAT.STATE values. -/
inductive SealSt where
  | unsealed | match_ | mismatch | suspended
deriving DecidableEq, Repr

/-- One dictionary instance. -/
structure DictSt where
  run      : Tab Nat               -- running values, by object key
  shadow   : Tab (Option Nat)      -- shadow writes not yet applied
  keepRun  : List Byte             -- OD 0x7080:01
  keepSh   : Option (List Byte)
  dirty    : Nat
  apply    : Option ApplyReq
  res      : Nat                   -- AG_STAT.RESULT
  seq      : Nat                   -- cuts acted on
  failIdx  : Nat
  failSub  : Nat
  owners   : Tab Nat               -- group to owning path identity, 0 none
  views    : Tab Bool              -- AG_VIEW.SHADOW by path
  latches  : Tab (Nat × Nat)       -- high-word latch by path: register + 1, word
  sessions : List Sess
  failTimes : List Nat             -- clk of failed proofs
  lockout  : Bool
  sealRun  : Bool                  -- a pass is running
  sealDirty : Bool                 -- it was disturbed
  sealNow  : Nat
  sealSt   : SealSt
  sealOn   : Bool                  -- an apply named AG31 since start-up
  privLast : Nat
  denied   : Nat
  cutWait  : Bool                  -- the lead half waits for the follower's acknowledgement
  folSeq   : Nat                   -- cuts the follower has acted on
  folWait  : Bool                  -- a cut has been sent to the follower
  folPrev  : Tab Nat               -- running values the follower still acts on
deriving DecidableEq, Repr

/-- A dictionary at reset. -/
def DictSt.reset : DictSt :=
  { run := [], shadow := [], keepRun := [], keepSh := none, dirty := 0, apply := none, res := 0,
    seq := 0, failIdx := 0, failSub := 0, owners := [], views := [], latches := [], sessions := [],
    failTimes := [], lockout := false, sealRun := false, sealDirty := false, sealNow := 0,
    sealSt := .unsealed, sealOn := false, privLast := 0, denied := 0, cutWait := false, folSeq := 0,
    folWait := false, folPrev := [] }

/-! ## Halves, start-up, flash -/

/-- ID_HALF_STAT.ROLE. -/
inductive Role where
  | starting | lead | follower | split | unresolved | orphaned
deriving DecidableEq, Repr

/-- Start-up of one half. -/
inductive Boot where
  | reset          -- RESET_N low, or held in reset
  | starter        -- after the rising edge
  | firmware       -- management firmware started
  | service        -- starter service (R427), start-up not complete
  | complete       -- start-up complete
  | serviceUp      -- starter service, start-up complete
deriving DecidableEq, Repr

/-- One half's role, start-up and die-link view. -/
structure HalfSt where
  role     : Role
  boot     : Boot
  bootClk  : Nat
  bootStat : W32
  bootTime : Nat
  slot     : Nat           -- slot chosen: 0 A, 1 B, 3 starter service
  fallback : Bool
  differ   : Bool
  recBad   : Bool          -- AG02 checks of the record failed
  dlUp     : Bool
  hbCount  : Nat           -- consecutive heartbeats since a retrain
  hbClk    : Nat
  crcFails : Nat           -- failures of the transfer in progress
  crcXfer  : Nat
  downClk  : Option Nat
  trained  : Bool          -- its end of the die link is trained
  stewardHalted : Bool
  conflict : Bool          -- MANAGER_CONFLICT in force
  hierDone : Bool
  exch     : Bool          -- its token exchange is over (R326, R328)
  romLen   : Nat           -- bytes in the ROM shadow
  freed    : Bool          -- released from the orphaned state, flows restored at the next cut
deriving DecidableEq, Repr

/-- A half at reset. -/
def HalfSt.reset : HalfSt :=
  { role := .starting, boot := .reset, bootClk := 0, bootStat := 0, bootTime := 0, slot := 0,
    fallback := false, differ := false, recBad := false, dlUp := false, hbCount := 0, hbClk := 0,
    crcFails := 0, crcXfer := 0, downClk := none, trained := false, stewardHalted := false,
    conflict := false, hierDone := false, exch := false, romLen := 0, freed := false }

/-- Pins, straps and halves. -/
structure SysSt where
  resetLow  : Bool
  heldBad   : Bool              -- reserved MODE or wrong DEVID: stays in reset (R2, R324)
  straps    : Straps            -- as sampled by half A
  strapsB   : Straps
  a         : HalfSt
  b         : HalfSt
  perst     : List Bool         -- PERST_N[n] asserted
  cfgActive : List Nat          -- HP_BIFUR.ACTIVE per port
  alert     : Nat               -- causes for which ALERT_N is driven low, one bit each
  thermtrip : List Bool
  hrefOk    : List Bool
  lrefOk    : List Bool
  sysclkOk  : Bool
  portGen   : Tab Nat           -- a local port's generation while set (R468)
  workers   : Tab (Nat × Bool × Bool × Bool)  -- DEVID: state, present seen, applied, miswired
  romBytes  : Tab Byte          -- option ROM: half * 2^20 + offset
  tickPhase : Nat
  clkStat   : Nat
  fieldOk   : Bool
deriving DecidableEq, Repr

/-- Slot states (R428). -/
inductive SlotState where
  | empty | written | valid | trial | confirmed | bad
deriving DecidableEq, Repr

/-- A boot record copy (R417). -/
structure BootRec where
  seq  : Nat
  stA  : SlotState
  attA : Nat
  stB  : SlotState
  attB : Nat
  pref : Nat
  ok   : Bool
deriving DecidableEq, Repr

/-- One flash device: its bytes, key record and boot records (Table 15.1). -/
structure FlashSt where
  bytes : Tab Byte
  key   : List Byte          -- the unwrapped device key, empty: none
  rec0  : BootRec
  rec1  : BootRec
deriving DecidableEq, Repr

/-- A running upgrade operation. -/
inductive UpOp where
  | none
  | erase (slot : Nat)
  | verify (slot : Nat)
deriving DecidableEq, Repr

/-- Fuses (R420, R431, R91, R350). -/
structure FuseSt where
  dsn     : Nat
  mac     : Nat
  gradeE  : Bool
  counter : Nat
  keys    : List (List Byte)   -- hash of key slots 0 to 3, empty: not fused
  revoked : List Bool
deriving DecidableEq, Repr

/-- Upgrade progress of one dictionary instance. -/
structure UpSt where
  op   : UpOp
  prog : Nat                 -- OD 0x1021:05
  base : Nat                 -- OD 0x1021:02
  last : Option Nat          -- slot last erased
deriving DecidableEq, Repr

/-- No operation. -/
def UpSt.reset : UpSt := ⟨.none, 0, 0, none⟩

/-- Flash, fuses and upgrade progress. -/
structure NvSt where
  a     : FlashSt
  b     : FlashSt
  fuses : FuseSt
  up    : UpSt
  upB   : UpSt               -- half B's instance, SPLIT only
deriving DecidableEq, Repr

/-! ## Power, time, test -/

/-- What an AVSBus request belongs to. -/
inductive AvsUse where
  | level | entry | exit | restore
deriving DecidableEq, Repr

/-- The AVSBus request under way (R381). -/
structure AvsReq where
  rail  : Bool               -- false VDD_CORE, true VDD_ENG
  mv    : Nat
  acked : Bool               -- the write's response carried Slave Ack 0b00
  tries : Nat
  use   : AvsUse
  next  : List (Bool × Nat)  -- requests to follow
deriving DecidableEq, Repr

/-- The cave (R390), its header fields, device part and nominated part. -/
structure CaveSt where
  valid   : Bool
  state   : Nat
  sec     : Nat
  ns      : Nat
  frac    : Nat
  tick    : Nat
  ratio   : Nat
  uncert  : Nat
  tol     : Nat
  tvalid  : Bool
  level   : Nat
  dict    : Tab Nat          -- device part: running values
  sealRef : Nat
  seq     : Nat
  contain : List (Nat × Nat × Nat)   -- link, state, cause
  nominated : List (Nat × Nat × Nat) -- index, subindex, value
deriving DecidableEq, Repr

/-- An empty cave. -/
def CaveSt.reset : CaveSt := ⟨false, 0, 0, 0, 0, 0, 0, 0, 0, false, 0, [], 0, 0, [], []⟩

/-- Power (R377 to R397). -/
structure PwrSt where
  sleep    : Nat             -- state now, 0 to 3
  request  : Option Nat      -- request being checked
  reqHalf  : List Nat        -- SPLIT: state each half asked for, 0 none
  commit   : Bool            -- the check passed, entry proceeds
  exiting  : Bool
  early    : Bool            -- a wake arrived during entry
  refuser  : W32
  refTime  : W64
  cause    : Nat
  inst     : Nat
  level    : Nat
  target   : Option Nat      -- level change under way
  held     : Bool
  vcore    : Nat
  veng     : Nat
  avs      : Option AvsReq
  avsFail  : Bool
  tjA      : Int
  tjB      : Int
  resStart : Nat
  exitStart : Nat
  wakeLow  : Bool            -- WAKE_N driven
  cave     : CaveSt
  lastRestore : Nat
deriving DecidableEq, Repr

/-- A timestamp record (Table 14.9). -/
structure TsRec where
  time   : W64
  frac   : Nat
  flow   : Nat
  dalfel : Bool
  seq    : Nat
deriving DecidableEq, Repr

/-- Time-keeping (R398 to R408). -/
structure TimeSt where
  sec    : Nat
  ns     : Nat
  frac   : Nat               -- units of 2^-32 ns
  folOff : Int               -- the follower's copy minus the lead's, ns
  running : Bool
  incr   : Nat
  valid  : Bool
  uncertain : Bool
  locked : Bool
  bound  : Nat
  boundClk : Nat
  loadH  : W32
  loadL  : W32
  loadNs : W32
  stepNs : W32
  ppsOut : Bool
  ppsLast : Option Nat       -- clk of the last accepted PPS_IN edge
  ppsLost : Bool
  mSeq   : Nat
  mClk   : Option Nat        -- clk of the last measurement written
  cSeen  : Nat
  fired  : List Bool
  tcAdv  : List Nat          -- periodic advances of TC0 to TC3, ticks
  tick   : Nat
  ratio  : Nat
  unc    : Nat
  ratios : List Nat
  capNs  : Option (Nat × Nat)  -- last capture: ns, tick
  elapsed : Nat
  rindLost : Bool
  ringA  : List TsRec
  ringB  : List TsRec
  fullA  : Bool
  fullB  : Bool
  ptm    : Option Nat        -- a dialogue is under way: device time of its request, 2^-16 ns
deriving DecidableEq, Repr

/-- A held completion of a kind 1 slot (R442). -/
structure Delayed where
  slot : Nat
  host : Option (Nat × HostCpl)
  link : Option (Nat × Pkt)
deriving DecidableEq, Repr

/-- Memory self-test of a half (R438). -/
structure BistSt where
  running : Bool
  blocks  : Nat
  result  : Nat
  failed  : Nat
  addr    : W64
deriving DecidableEq, Repr

/-- Test (R437 to R448). -/
structure TestSt where
  cnts    : List Nat         -- acts of the 16 slots
  delayed : List Delayed
  seen    : List Nat         -- completions met by a kind 1 slot, codewords by a kind 3 slot
  bistA   : BistSt
  bistB   : BistSt
  tapA    : Byte
  tapB    : Byte
  offA    : Bool             -- mission use left (R446)
  offB    : Bool
  starved : List Bool        -- a kind 6 slot acting
deriving DecidableEq, Repr

end Sys2Proof.Machine
end

