-- ==== Sys2Proof/Machine/State.lean ====
section
/-! DEFINITION. The machine's whole state, the state after reset, and the closed reasons a step could
stop for. -/

namespace Sys2Proof.Machine

/-- Transactions, cells and flows. -/
structure FabSt where
  txns   : List Txn            -- in order of acceptance
  cells  : List Cell           -- in order of formation
  flows  : Tab FlowSt
  outs   : Tab OutSt           -- half * 32 + port
  c0     : List C0Res
  brineA : BrineSt
  brineB : BrineSt
  reqs   : List Req
  tags   : List TagUse
  quars  : List Quar
  splits : List SplitFail
  bonds  : Tab (List Nat × List Nat)  -- bond (half * 8 + group): lanes not yet moved back, and their members (R150)
deriving DecidableEq, Repr

/-- Host side. -/
structure HostSt where
  hls  : Tab HlSt
  fns  : Tab FnSt              -- host link * 64 + function
  mbx  : Tab MbxSt
  msix : Tab (BitVec 128)      -- half * 8192 + entry
  pba  : Tab Bool
deriving DecidableEq, Repr

/-- Windows, prefetch, semaphores, mirroring, DMA queues. -/
structure BrdgSt where
  units : List PfUnit
  sems  : Tab SemSt
  mgs   : Tab MgSt
  store : Tab W64              -- half * 32768 + word
  dqs   : Tab DqSt
  sel   : Nat                  -- FLOW_SEL
  selB  : Nat                  -- half B's own in SPLIT
  bucket : Tab Nat             -- mirror budget bytes spent, by host link
deriving DecidableEq, Repr

/-- Event controllers. -/
structure EvcSt where
  srcs  : Tab SrcSt
  recA  : List EvRec
  recB  : List EvRec
  lostA : Nat
  lostB : Nat
  hold  : Tab Bool             -- source group in hold-off
  holdClk : Tab Nat
deriving DecidableEq, Repr

/-- Error logs. -/
structure ErrSt where
  logA  : List LogRec
  logB  : List LogRec
  lostA : Nat
  lostB : Nat
  fullA : Bool
  fullB : Bool
deriving DecidableEq, Repr

/-- The state of the block. -/
structure State where
  pending : List Instr
  out     : List Emission
  clk     : Nat                -- cycles of the 1.25 GHz time domain since the model began
  freeCtr : Nat                -- the model's own: how many free values have been taken
  nextId  : Nat                -- the model's own: next transaction, cell or request number
  sys     : SysSt
  nv      : NvSt
  dict    : DictSt
  dictB   : DictSt             -- half B's instance, SPLIT only
  cnt     : Tab Nat            -- counters, by object key or register address
  lanes   : Tab LaneSt
  links   : Tab LlSt
  host    : HostSt
  fab     : FabSt
  brdg    : BrdgSt
  evc     : EvcSt
  err     : ErrSt
  eng     : EngAll
  pwr     : PwrSt
  time    : TimeSt
  test    : TestSt
deriving DecidableEq, Repr

/-- Reasons for which a step stops. No meaning of this model uses one: the spec gives every command
an effect, and a command whose event cannot occur changes nothing (safe). -/
inductive Fault where
  /-- Reserved for a state no command reaches; raised by no meaning (safe). -/
  | unreachable
deriving DecidableEq, Repr

/-- Refusals of a command. -/
inductive Refusal where
  /-- Raised by the dispatcher for a command without a meaning (safe). -/
  | notModelled (mnemonic : String)
deriving DecidableEq, Repr

/-- What every meaning answers. -/
abbrev Out := Host.Outcome State Fault Refusal

/-- Straps before any sampling: all 0. -/
def Straps.reset : Straps := ⟨0, 0, false, 0, false⟩

/-- A boot record copy that does not verify. -/
def BootRec.reset : BootRec := ⟨0, .empty, 0, .empty, 0, 0, false⟩

/-- A flash device as the model starts with it: erased (log entry 8). -/
def FlashSt.reset : FlashSt := ⟨[], [], BootRec.reset, BootRec.reset⟩

/-- Fuses as the model starts with them: nothing fused (log entry 10). -/
def FuseSt.reset : FuseSt := ⟨0, 0, false, 0, [[], [], [], []], [false, false, false, false]⟩

/-- Pins, straps and halves right after RESET_N asserts. -/
def SysSt.reset : SysSt :=
  { resetLow := true, heldBad := false, straps := Straps.reset, strapsB := Straps.reset,
    a := HalfSt.reset, b := HalfSt.reset, perst := [true, true, true, true],
    cfgActive := [0, 0, 0, 0], alert := 0, thermtrip := [false, false],
    hrefOk := [true, true, true, true], lrefOk := [true, true, true, true], sysclkOk := true,
    portGen := [], workers := [], romBytes := [], tickPhase := 0, clkStat := 0,
    fieldOk := true }

/-- The fabric at reset: empty. -/
def FabSt.reset : FabSt :=
  { txns := [], cells := [], flows := [], outs := [], c0 := [], brineA := BrineSt.reset,
    brineB := BrineSt.reset, reqs := [], tags := [], quars := [], splits := [], bonds := [] }

/-- Power at reset: S0, P3 clocks in start-up (R422). -/
def PwrSt.reset : PwrSt :=
  { sleep := 0, request := none, reqHalf := [0, 0], commit := false, exiting := false,
    early := false, refuser := 0, refTime := 0, cause := 0, inst := 0, level := 3, target := none,
    held := false, vcore := 0, veng := 0, avs := none, avsFail := false, tjA := 0, tjB := 0,
    resStart := 0, exitStart := 0, wakeLow := false, cave := CaveSt.reset, lastRestore := 0 }

/-- Time-keeping at reset (R398). -/
def TimeSt.reset : TimeSt :=
  { sec := 0, ns := 0, frac := 0, folOff := 0, running := false, incr := 0xCCCCCCCD,
    valid := false, uncertain := true, locked := false, bound := 0, boundClk := 0, loadH := 0,
    loadL := 0, loadNs := 0, stepNs := 0, ppsOut := false, ppsLast := none, ppsLost := false,
    mSeq := 0, mClk := none, cSeen := 0, fired := [false, false, false, false],
    tcAdv := [0, 0, 0, 0], tick := 0, ratio := 0, unc := 0, ratios := [], capNs := none,
    elapsed := 0, rindLost := false, ringA := [], ringB := [], fullA := false, fullB := false,
    ptm := none }

/-- Test at reset. -/
def TestSt.reset : TestSt :=
  { cnts := List.replicate 16 0, delayed := [], seen := List.replicate 16 0,
    bistA := ⟨false, 0, 0, 0, 0⟩, bistB := ⟨false, 0, 0, 0, 0⟩, tapA := 0x01, tapB := 0x01,
    offA := false, offB := false, starved := List.replicate 16 false }

/-- The machine right after reset: RESET_N is low and every block is in its reset state (R413). -/
def State.reset : State :=
  { pending := [], out := [], clk := 0, freeCtr := 0, nextId := 1,
    sys := SysSt.reset,
    nv := ⟨FlashSt.reset, FlashSt.reset, FuseSt.reset, UpSt.reset, UpSt.reset⟩,
    dict := DictSt.reset, dictB := DictSt.reset, cnt := [], lanes := [], links := [],
    host := ⟨[], [], [], [], []⟩, fab := FabSt.reset,
    brdg := ⟨[], [], [], [], [], 0, 0, []⟩, evc := ⟨[], [], [], 0, 0, [], []⟩,
    err := ⟨[], [], 0, 0, false, false⟩, eng := ⟨[], [], [], 0, 0, 0⟩, pwr := PwrSt.reset,
    time := TimeSt.reset, test := TestSt.reset }

end Sys2Proof.Machine
end

