-- ==== Sys2Proof/Machine/Ops.lean ====
section
/-! DEFINITION. The named operations every family uses: access to the parts of the state, running
configuration, counters, ownership by half, functions and flows as the configuration has them,
event and log records, and one cycle of the time domain. -/

namespace Sys2Proof.Machine

/-! ## Parts of the state -/

/-- Append what the device sends. -/
def emit (s : State) (e : Emission) : State := { s with out := s.out ++ [e] }

/-- The half's role and start-up. -/
def half (s : State) : Half → HalfSt
  | .a => s.sys.a
  | .b => s.sys.b

/-- Change a half's role and start-up. -/
def updHalf (s : State) (h : Half) (f : HalfSt → HalfSt) : State :=
  match h with
  | .a => { s with sys := { s.sys with a := f s.sys.a } }
  | .b => { s with sys := { s.sys with b := f s.sys.b } }

def updSys (s : State) (f : SysSt → SysSt) : State := { s with sys := f s.sys }
def updFab (s : State) (f : FabSt → FabSt) : State := { s with fab := f s.fab }
def updBrdg (s : State) (f : BrdgSt → BrdgSt) : State := { s with brdg := f s.brdg }
def updPwr (s : State) (f : PwrSt → PwrSt) : State := { s with pwr := f s.pwr }
def updTime (s : State) (f : TimeSt → TimeSt) : State := { s with time := f s.time }
def updTest (s : State) (f : TestSt → TestSt) : State := { s with test := f s.test }
def updNv (s : State) (f : NvSt → NvSt) : State := { s with nv := f s.nv }

/-- A lane, a local link, a host link, a function, a mailbox. -/
def lane (s : State) (n : Nat) : LaneSt := Tab.get LaneSt.reset s.lanes n
def updLane (s : State) (n : Nat) (f : LaneSt → LaneSt) : State :=
  { s with lanes := Tab.upd LaneSt.reset s.lanes n f }
def link (s : State) (l : Nat) : LlSt := Tab.get LlSt.reset s.links l
def updLink (s : State) (l : Nat) (f : LlSt → LlSt) : State :=
  { s with links := Tab.upd LlSt.reset s.links l f }
def hl (s : State) (m : Nat) : HlSt := Tab.get HlSt.reset s.host.hls m
def updHl (s : State) (m : Nat) (f : HlSt → HlSt) : State :=
  { s with host := { s.host with hls := Tab.upd HlSt.reset s.host.hls m f } }
/-- Send a TLP; a link in L0s or L1 comes back to L0 for it (R109; log entry 73). -/
def tlpOut (s : State) (m : Nat) (x : HostTlp) : State :=
  emit (if 1 ≤ (hl s m).pwr && (hl s m).pwr ≤ 4 then updHl s m fun y => { y with pwr := 0 } else s) (.tlp m x)
def fn (s : State) (n : Nat) : FnSt := Tab.get FnSt.reset s.host.fns n
def updFn (s : State) (n : Nat) (f : FnSt → FnSt) : State :=
  { s with host := { s.host with fns := Tab.upd FnSt.reset s.host.fns n f } }
def mbx (s : State) (m : Nat) : MbxSt := Tab.get MbxSt.reset s.host.mbx m
def updMbx (s : State) (m : Nat) (f : MbxSt → MbxSt) : State :=
  { s with host := { s.host with mbx := Tab.upd MbxSt.reset s.host.mbx m f } }

/-- A flow's state words, an output's round-robin state, a half's brine. -/
def flowSt (s : State) (f : Nat) : FlowSt := Tab.get FlowSt.reset s.fab.flows f
def updFlow (s : State) (n : Nat) (f : FlowSt → FlowSt) : State :=
  updFab s fun x => { x with flows := Tab.upd FlowSt.reset x.flows n f }
def outSt (s : State) (o : Nat) : OutSt := Tab.get OutSt.reset s.fab.outs o
def brine (s : State) : Half → BrineSt
  | .a => s.fab.brineA
  | .b => s.fab.brineB
def updBrine (s : State) (h : Half) (f : BrineSt → BrineSt) : State :=
  updFab s fun x => match h with
    | .a => { x with brineA := f x.brineA }
    | .b => { x with brineB := f x.brineB }

/-- A semaphore, a mirror group, a DMA queue, an event source. -/
def sem (s : State) (n : Nat) : SemSt := Tab.get SemSt.reset s.brdg.sems n
def updSem (s : State) (n : Nat) (f : SemSt → SemSt) : State :=
  updBrdg s fun x => { x with sems := Tab.upd SemSt.reset x.sems n f }
def mg (s : State) (n : Nat) : MgSt := Tab.get MgSt.reset s.brdg.mgs n
def updMg (s : State) (n : Nat) (f : MgSt → MgSt) : State :=
  updBrdg s fun x => { x with mgs := Tab.upd MgSt.reset x.mgs n f }
def dq (s : State) (n : Nat) : DqSt := Tab.get DqSt.reset s.brdg.dqs n
def updDq (s : State) (n : Nat) (f : DqSt → DqSt) : State :=
  updBrdg s fun x => { x with dqs := Tab.upd DqSt.reset x.dqs n f }
def src (s : State) (n : Nat) : SrcSt := Tab.get SrcSt.reset s.evc.srcs n
def updSrc (s : State) (n : Nat) (f : SrcSt → SrcSt) : State :=
  { s with evc := { s.evc with srcs := Tab.upd SrcSt.reset s.evc.srcs n f } }

/-- An engine, a cluster, a service. -/
def eng (s : State) (n : Nat) : EngSt := Tab.get EngSt.reset s.eng.engs n
def updEng (s : State) (n : Nat) (f : EngSt → EngSt) : State :=
  { s with eng := { s.eng with engs := Tab.upd EngSt.reset s.eng.engs n f } }
def clus (s : State) (n : Nat) : ClSt := Tab.get ClSt.reset s.eng.cls n
def updClus (s : State) (n : Nat) (f : ClSt → ClSt) : State :=
  { s with eng := { s.eng with cls := Tab.upd ClSt.reset s.eng.cls n f } }
def svc (s : State) (n : Nat) : SvSt := Tab.get SvSt.reset s.eng.svs n
def updSvc (s : State) (n : Nat) (f : SvSt → SvSt) : State :=
  { s with eng := { s.eng with svs := Tab.upd SvSt.reset s.eng.svs n f } }

/-- A fresh number for a transaction, a cell or a request. -/
def fresh (s : State) : Nat × State := (s.nextId, { s with nextId := s.nextId + 1 })

/-- A free value (log entry 1): nothing constrains it. -/
def takeFree (s : State) : Nat × State :=
  (Config.freeNat s.freeCtr, { s with freeCtr := s.freeCtr + 1 })

/-- Do `f` where `c` holds, nothing otherwise: an event that cannot occur changes nothing. -/
def onlyIf (c : Bool) (f : State → State) (s : State) : State := if c then f s else s

/-- Fold an operation over a list. -/
def forAll {α : Type} (s : State) (l : List α) (f : State → α → State) : State := l.foldl f s

/-! ## Numbers of ns and clk: one cycle of the time domain is 0.8 ns (R25) -/

/-- Cycles that last at least `n` ns. -/
def nsToClk (n : Nat) : Nat := ceilDiv (n * 5) 4
/-- Whole ns of `n` cycles. -/
def clkToNs (n : Nat) : Nat := n * 4 / 5

/-! ## Halves (Tables 01.1, 01.2) -/

def halfOfHl (m : Nat) : Half := if m < 8 then .a else .b
def halfOfLink (l : Nat) : Half := if l < 96 then .a else .b
def halfOfLp (p : Nat) : Half := if p < 24 then .a else .b
def halfOfEng (e : Nat) : Half := if e < 96 then .a else .b
def halfOfSrc (n : Nat) : Half := if n < 8192 then .a else .b
def halfOfSem (n : Nat) : Half := if n < 128 then .a else .b
def halfOfMg (n : Nat) : Half := if n < 256 then .a else .b
def halfOfDq (n : Nat) : Half := if n < 1024 then .a else .b
def halfOfSvc (n : Nat) : Half := if n < 16 then .a else .b
def halfOfBc (n : Nat) : Half := if n < 8 then .a else .b

/-- The half an end lies in (R20). -/
def halfOfEnd : End → Half
  | .fn n => halfOfHl (n / 64)
  | .link l => halfOfLink l
  | .eng e => halfOfEng e
  | .dq q => halfOfDq q

/-- Subindex of a counter given as :01 for half A, :02 for half B. -/
def hsub (h : Half) : Nat := halfIdx h + 1

/-! ## Mode (R2, R323) -/

def mode (s : State) : Nat := s.sys.straps.mode.toNat
def isSplit (s : State) : Bool := mode s == 1
def isManager (s : State) : Bool := mode s == 2
def isWorker (s : State) : Bool := mode s == 3
def isRecovery (s : State) : Bool := mode s == 4
def isTest (s : State) : Bool := mode s == 5

/-- The lead half; half A where none leads. -/
def leadHalf (s : State) : Half := if s.sys.b.role = .lead then .b else .a

/-- The half has completed start-up with its firmware (not the starter service). -/
def inService (s : State) (h : Half) : Bool := (half s h).boot == .complete

/-- The device is in S0 and the half is in service: its ports and press carry traffic. -/
def carries (s : State) (h : Half) : Bool :=
  inService s h && s.pwr.sleep == 0 && !s.sys.resetLow &&
  !(match h with | .a => s.test.offA | .b => s.test.offB)

/-- The links of the half are up: S0 or S1 (Table 14.2), in service, not in RECOVERY. -/
def linksOn (s : State) (h : Half) : Bool :=
  inService s h && s.pwr.sleep ≤ 1 && !s.sys.resetLow && !isRecovery s &&
  !(match h with | .a => s.test.offA | .b => s.test.offB)

/-- The host ports of the half are released (R422 step 5) and powered. -/
def portsOn (s : State) (h : Half) : Bool :=
  (half s h).boot != .reset && s.pwr.sleep ≤ 1 && !s.sys.resetLow &&
  (s.sys.sysclkOk || (half s h).boot == .complete || (half s h).boot == .serviceUp) &&
  !(match h with | .a => s.test.offA | .b => s.test.offB)

/-- The die link joins the halves: up, outside SPLIT, neither half in LEAD_UNRESOLVED (R19, R330, R334). -/
def dieUp (s : State) : Bool :=
  !isSplit s && s.sys.a.dlUp && s.sys.b.dlUp &&
  s.sys.a.role != .unresolved && s.sys.b.role != .unresolved

/-- Cross-half flows are alive: the die link is up, and an orphaned follower has been released and has acted on a
cut since (R334, R335). -/
def crossOk (s : State) : Bool :=
  dieUp s && s.sys.a.role != .orphaned && s.sys.b.role != .orphaned && !s.sys.a.freed && !s.sys.b.freed

/-! ## Running configuration (R346, R365) -/

/-- Half B keeps an instance of its own: SPLIT, and LEAD_UNRESOLVED (R19, R329). -/
def ownB (s : State) : Bool := isSplit s || s.sys.b.role == .unresolved

/-- The dictionary instance that serves a half. -/
def dictOf (s : State) (h : Half) : DictSt :=
  if ownB s && h == .b then s.dictB else s.dict

/-- Change the dictionary instance that serves a half. -/
def updDict (s : State) (h : Half) (f : DictSt → DictSt) : State :=
  if ownB s && h == .b then { s with dictB := f s.dictB } else { s with dict := f s.dict }

/-- The running values half `h` acts on: the follower acts on a cut later than the lead (R18, R218), and
keeps the earlier values until then. -/
def runTab (s : State) (h : Half) : Tab Nat :=
  let d := dictOf s h
  if d.folWait && h != leadHalf s then d.folPrev else d.run

/-- A running value as half `h` acts on it. -/
def cfg (s : State) (h : Half) (idx sub : Nat) : Nat :=
  Tab.get (odDefault idx sub) (runTab s h) (okey 0 idx sub)

/-- Listed entries of objects `lo` to `hi` whose subindex leaves `r` modulo `m`: index and subindex, in
ascending order. -/
def listed (s : State) (h : Half) (lo hi m r : Nat) : List (Nat × Nat) :=
  (runTab s h).filterMap fun (k, _) =>
    let idx := k / 256
    if lo ≤ idx && idx ≤ hi && k % 256 % m == r then some (idx, k % 256) else none

/-! ## Counters -/

/-- Register counters are keyed by their address above the objects' keys. -/
def rkey (addr : Nat) : Nat := 2 ^ 40 + addr

/-- Add to an object's counter. -/
def bumpN (s : State) (idx sub n : Nat) : State :=
  { s with cnt := Tab.upd 0 s.cnt (okey 0 idx sub) (· + n) }

/-- Count one. -/
def bump (s : State) (idx sub : Nat) : State := bumpN s idx sub 1

/-- Count one at a register. -/
def bumpR (s : State) (addr : Nat) : State := { s with cnt := Tab.upd 0 s.cnt (rkey addr) (· + 1) }

/-- Exact counts. -/
def count (s : State) (idx sub : Nat) : Nat := Tab.get 0 s.cnt (okey 0 idx sub)
def countR (s : State) (addr : Nat) : Nat := Tab.get 0 s.cnt (rkey addr)

/-- Registers of a local link, a host port's sub-link (Tables 05.11, 04.13). -/
def llReg (l off : Nat) : Nat := 0x400000 + 0x400 * l + off
def hpReg (m off : Nat) : Nat := 0x200000 + 0x10000 * (m / 4) + off + 0x20 * (m % 4)

/-! ## Device time (R398) -/

/-- TIME: seconds [31:0] in the high word, nanoseconds in the low word. -/
def timeNow (s : State) : W64 := BitVec.ofNat 64 ((s.time.sec % 2 ^ 32) * 2 ^ 32 + s.time.ns)

/-- Device time in nanoseconds. -/
def timeNs (s : State) : Nat := s.time.sec * 1000000000 + s.time.ns

/-! ## Host links, functions and pairs -/

/-- Sub-link s exists under a bifurcation code (Table 04.1). -/
def subPresent (code sub : Nat) : Bool :=
  match code with
  | 0 => sub == 0
  | 1 => sub == 0 || sub == 2
  | 2 => sub == 0 || sub == 2 || sub == 3
  | 3 => sub == 0 || sub == 1 || sub == 2
  | 4 => sub < 4
  | _ => false

/-- Width of sub-link s under a bifurcation code. -/
def subWidth (code sub : Nat) : Nat :=
  match code, sub with
  | 0, 0 => 16
  | 1, 0 => 8 | 1, 2 => 8
  | 2, 0 => 8 | 2, _ => 4
  | 3, 2 => 8 | 3, _ => 4
  | _, _ => 4

/-- Division in force at a host port. -/
def cfgActive (s : State) (n : Nat) : Nat := s.sys.cfgActive.getD n 0

/-- The host link exists in the division in force. RECOVERY has HP0 at x16 only (Table 12.1). -/
def hlPresent (s : State) (m : Nat) : Bool :=
  subPresent (cfgActive s (m / 4)) (m % 4) && !(isRecovery s && m != 0)

/-- Index of the function object with attribute k (R124). -/
def fnIdx (m k : Nat) : Nat := 0x2020 + 0x100 * (m / 4) + 0x10 * (m % 4) + k

/-- A function object's running value. -/
def fnObj (s : State) (n k : Nat) : Nat := cfg s (halfOfHl (n / 64)) (fnIdx (n / 64) k) (n % 64 + 1)

/-- A host port object's running value for the link. -/
def hlObj (s : State) (m k : Nat) : Nat :=
  cfg s (halfOfHl m) (0x2000 + 0x100 * (m / 4) + k) (m % 4 + 1)

/-- The function exists in the layout the host enumerated. -/
def fnExists (s : State) (n : Nat) : Bool :=
  hlPresent s (n / 64) && decide (n % 64 < (hl s (n / 64)).layout.length)

/-- What the layout in force says of a function. -/
def fnLay (s : State) (n : Nat) : FnLayout :=
  (hl s (n / 64)).layout.getD (n % 64) ⟨0, 0, 0, 0, 0, 0, false, 0⟩

/-- A link function or worker function that exists. -/
def fnIsEnd (s : State) (n : Nat) : Bool := fnExists s n && n % 64 != 0

/-- Configuration-space words that do not reset to 0, as the Base Specification has them (log entry 11):
Device Control, and the AER masks and severities. -/
def csReset (off : Nat) : W32 :=
  match off with
  | 0x78 => 0x00002810#32
  | 0x108 => 0x00400000#32
  | 0x10C => 0x00462030#32
  | 0x114 => 0x0000E000#32
  | _ => 0

/-- A writable word of a function's configuration space. -/
def cs (s : State) (n off : Nat) : W32 := Tab.get (csReset off) (fn s n).cs off

/-- Put a word of configuration space. -/
def setCs (s : State) (n off : Nat) (v : W32) : State :=
  updFn s n fun x => { x with cs := Tab.set (csReset off) x.cs off v }

def bme (s : State) (n : Nat) : Bool := bit (cs s n 0x04) 2
def mse (s : State) (n : Nat) : Bool := bit (cs s n 0x04) 1
def intDis (s : State) (n : Nat) : Bool := bit (cs s n 0x04) 10
def inD3 (s : State) (n : Nat) : Bool := fld (cs s n 0x44) 0 2 == 3
def pmeEn (s : State) (n : Nat) : Bool := bit (cs s n 0x44) 8
def msixEn (s : State) (n : Nat) : Bool := bit (cs s n 0xB0) 31
def msixMaskAll (s : State) (n : Nat) : Bool := bit (cs s n 0xB0) 30
def msiEn (s : State) (n : Nat) : Bool := bit (cs s n 0x50) 16
/-- Max Payload Size and Max Read Request Size in bytes (Device Control). -/
def mps (s : State) (n : Nat) : Nat := min 512 (128 * 2 ^ fld (cs s n 0x78) 5 3)
def mrrs (s : State) (n : Nat) : Nat := min 4096 (128 * 2 ^ fld (cs s n 0x78) 12 3)
def roEn (s : State) (n : Nat) : Bool := bit (cs s n 0x78) 4
def atomicReqEn (s : State) (n : Nat) : Bool := bit (cs s n 0x98) 6
def idoReq (s : State) (n : Nat) : Bool := bit (cs s n 0x98) 8
def idoCpl (s : State) (n : Nat) : Bool := bit (cs s n 0x98) 9
def ltrEn (s : State) (n : Nat) : Bool := bit (cs s n 0x98) 10
def tag10En (s : State) (n : Nat) : Bool := bit (cs s n 0x98) 12
def tag14En (s : State) (n : Nat) : Bool := bit (cs s n 0x2F8) 2
/-- Base of a 64-bit BAR pair whose low word is at `off`. -/
def bar64 (s : State) (n off : Nat) : Nat :=
  ((cs s n off).toNat / 16) * 16 + (cs s n (off + 4)).toNat * 2 ^ 32

/-- L2H traffic of the function may leave: Bus Master Enable is 1 and it is not in D3hot (R113,
R114). -/
def masterOn (s : State) (n : Nat) : Bool := bme s n && !inD3 s n

/-- Completion timeout of a function in µs (Table 04.11). -/
def ctoUs (s : State) (n : Nat) : Nat :=
  match fld (cs s n 0x98) 0 4 with
  | 1 => 80
  | 2 => 8000
  | 5 => 40000
  | 6 => 160000
  | 9 => 640000
  | 10 => 2500000
  | 13 => 10000000
  | 14 => 40000000
  | _ => 10000

/-- The protection partner of a function (R119). -/
def partnerFn (s : State) (n : Nat) : Option Nat :=
  let v := fnObj s n 6
  if v = 0xFFFF ∨ n % 64 = 0 then none else some ((v / 256) * 64 + v % 256)

/-- The primary of a function's pair: the member on the lower host link. -/
def primaryOf (s : State) (n : Nat) : Nat :=
  match partnerFn s n with
  | some p => if p / 64 < n / 64 then p else n
  | none => n

/-- The member that is active where `n` names the pair; `n` itself outside a pair. -/
def activeFn (s : State) (n : Nat) : Nat :=
  match partnerFn s n with
  | some p => if (fn s p).active && !(fn s n).active then p else n
  | none => n

/-- The pair of `n` has no host (R122). -/
def pairLost (s : State) (n : Nat) : Bool := (partnerFn s n).isSome && (fn s n).noHost

/-- The privileged view is presented by this PF0 (R92). -/
def privPf0 (s : State) (m : Nat) : Bool :=
  if isRecovery s then m / 4 == 0
  else if isSplit s then
    (if m < 8 then m / 4 == (if s.sys.straps.privHost.getLsbD 0 then 1 else 0)
     else m / 4 == (if s.sys.strapsB.privHost.getLsbD 1 then 3 else 2))
  else m / 4 == s.sys.straps.privHost.toNat

/-! ## Local ports and links -/

/-- LP_PORT_CFG of a port. -/
def portCfg (s : State) (p : Nat) : W32 := BitVec.ofNat 32 (cfg s (halfOfLp p) (0x3000 + 0x20 * p) 1)
def portWidth (s : State) (p : Nat) : Nat := fld (portCfg s p) 0 2
def portTether (s : State) (p : Nat) : Bool := bit (portCfg s p) 12
def portBond (s : State) (p : Nat) : Nat := fld (portCfg s p) 16 3

/-- The sub-link exists in the width in force (Table 05.1). -/
def linkExists (s : State) (l : Nat) : Bool :=
  !isRecovery s && match portWidth s (l / 4) with
    | 0 => l % 4 == 0
    | 1 => l % 2 == 0
    | 2 => true
    | _ => false

/-- Lanes of a sub-link: 4, 2 or 1 (Table 05.1). -/
def linkLanes (s : State) (l : Nat) : Nat :=
  match portWidth s (l / 4) with | 0 => 4 | 1 => 2 | _ => 1

/-- The lanes' numbers: lane l of the port group starts at the sub-link's own number. -/
def lanesOf (s : State) (l : Nat) : List Nat := span l (linkLanes s l)

/-- The sub-link in whose width a local lane lies. -/
def linkOfLane (s : State) (n : Nat) : Nat :=
  match portWidth s (n / 4) with
  | 0 => n / 4 * 4
  | 1 => n / 2 * 2
  | _ => n

def isTether (s : State) (l : Nat) : Bool := portTether s (l / 4)
def linkActive (s : State) (l : Nat) : Bool := (link s l).st == .active

/-- Features of the partner's capability frame (Table 05.9). -/
def features (s : State) (l : Nat) : Nat := ofBytesLE (((link s l).frame.drop 6).take 2)
def hasFeature (s : State) (l i : Nat) : Bool := (features s l / 2 ^ i) % 2 == 1
/-- Largest payload and largest read the partner accepts. -/
def rxMaxPayload (s : State) (l : Nat) : Nat := 64 * 2 ^ (((link s l).frame.getD 4 0).toNat % 4)
def rxMaxRead (s : State) (l : Nat) : Nat := 64 * 2 ^ (((link s l).frame.getD 4 0).toNat / 4 % 4)

/-- Members of a bond of the half of `l`, as links 4p, in port order (R150). -/
def bondMembers (s : State) (l : Nat) : List Nat :=
  let b := portBond s (l / 4)
  if b = 0 then [l]
  else ((List.range 48).filter fun p =>
    portBond s p == b && portTether s p && halfOfLp p == halfOfLink l).map (4 * ·)

/-- The link name of a tether: the lowest-numbered member (R337). -/
def tetherName (s : State) (l : Nat) : Nat :=
  if isTether s l then (bondMembers s l).headD l else l

/-- A link by which traffic named `l` may leave: itself, or any member in Active. -/
def anyActive (s : State) (l : Nat) : Bool := (bondMembers s l).any (linkActive s)

/-! ## Services (R250) -/

def svcCtrl (s : State) (v : Nat) : W32 := BitVec.ofNat 32 (cfg s (halfOfSvc v) (0x6000 + v) 1)
def svcEn (s : State) (v : Nat) : Bool := bit (svcCtrl s v) 0
def svcClusters (s : State) (v : Nat) : Nat := fld (svcCtrl s v) 8 12
def svcRot (s : State) (v : Nat) : Nat := cfg s (halfOfSvc v) (0x6000 + v) 3 % 4096
/-- Is cluster c (0 to 23) named by a 12-bit mask of its half? -/
def inMask (mask c : Nat) : Bool := mask.testBit (c % 12)
/-- A steward: SE000, SE096. -/
def isSteward (e : Nat) : Bool := e % 96 == 0
/-- Services of a half. -/
def svcsOf (h : Half) : List Nat := span (16 * halfIdx h) 16
/-- The enabled service an engine belongs to. -/
def svcOfEng (s : State) (e : Nat) : Option Nat :=
  if isSteward e then none
  else (svcsOf (halfOfEng e)).find? fun v => svcEn s v && inMask (svcClusters s v) (e / 8)

/-! ## Flows (R31, R214 to R217) -/

/-- Configuration word k of a flow as half `h` acts on it. -/
def fw (s : State) (h : Half) (f k : Nat) : W32 :=
  BitVec.ofNat 32 (cfg s h (0x5000 + f / 16) (8 * (f % 16) + k + 1))

/-- An end as words 1 code it (Table 08.1). -/
def endOf (v : Nat) : End :=
  match v / 4096 % 4 with
  | 0 => .fn (v % 4096)
  | 1 => .link (v % 4096)
  | 2 => .eng (v % 4096)
  | _ => .dq (v % 4096)

/-- The code of an end. -/
def endCode : End → Nat
  | .fn n => n
  | .link l => 4096 + l
  | .eng e => 8192 + e
  | .dq q => 12288 + q

def flowEn (s : State) (h : Half) (f : Nat) : Bool := bit (fw s h f 0) 0
def flowCls (s : State) (h : Half) (f : Nat) : Nat := fld (fw s h f 0) 1 2
def flowRelaxed (s : State) (h : Half) (f : Nat) : Bool := bit (fw s h f 0) 3
def flowBrine (s : State) (h : Half) (f : Nat) : Bool := bit (fw s h f 0) 4
def flowTs (s : State) (h : Half) (f : Nat) : Bool := bit (fw s h f 0) 5
def flowPartner (s : State) (h : Half) (f : Nat) : Option Nat :=
  if bit (fw s h f 0) 30 then some (fld (fw s h f 0) 16 14) else none
def flowSrc (s : State) (h : Half) (f : Nat) : End := endOf (fld (fw s h f 1) 0 14)
def flowSink (s : State) (h : Half) (f : Nat) : End := endOf (fld (fw s h f 1) 16 14)
def flowRate (s : State) (h : Half) (f : Nat) : Nat := (fw s h f 2).toNat
def flowBurst (s : State) (h : Half) (f : Nat) : Nat := fld (fw s h f 3) 0 25
def flowC0Rate (s : State) (h : Half) (f : Nat) : Nat := (fw s h f 4).toNat
def flowGuar (s : State) (h : Half) (f : Nat) : Nat := fld (fw s h f 5) 0 16
def flowCeil (s : State) (h : Half) (f : Nat) : Nat := fld (fw s h f 5) 16 16
def flowBrineCeil (s : State) (h : Half) (f : Nat) : Nat := fld (fw s h f 6) 0 24
def flowRefill (s : State) (h : Half) (f : Nat) : Nat := fld (fw s h f 6) 24 8
def flowWeight (s : State) (h : Half) (f : Nat) : Nat := fld (fw s h f 7) 0 8

/-- Word k of a DMA queue (Table 08.6). -/
def dqw (s : State) (q k : Nat) : Nat := cfg s (halfOfDq q) (0x5400 + q / 8) (8 * (q % 8) + k + 1)
def dqEn (s : State) (q : Nat) : Bool := (dqw s q 0).testBit 0

/-- A sub-window word (Table 06.2), function n = host link * 64 + function. -/
def inw (s : State) (n w k : Nat) : W32 :=
  BitVec.ofNat 32 (cfg s (halfOfHl (n / 64)) (0x4000 + n) (4 * w + k + 1))

/-- A flow is named by an enabled cluster-memory sub-window of its source function (R159). -/
def clusterFlow (s : State) (h : Half) (f : Nat) : Bool :=
  match flowSrc s h f with
  | .fn n => n % 64 != 0 && (List.range 8).any fun w =>
      bit (inw s n w 0) 0 && fld (inw s n w 0) 14 2 == 1 && fld (inw s n w 1) 0 14 == f
  | _ => false

/-- An end is absent under the configuration in force (R217). -/
def endAbsent (s : State) (h : Half) (f : Nat) (e : End) : Bool :=
  match e with
  | .fn n => !fnIsEnd s n
  | .link l => !linkExists s l
  | .eng x => (svcOfEng s x).isNone && !clusterFlow s h f
  | .dq q => !dqEn s q

/-- R217, R306, R334: dormant flows accept nothing. -/
def flowDormant (s : State) (h : Half) (f : Nat) : Bool :=
  endAbsent s h f (flowSrc s h f) || endAbsent s h f (flowSink s h f) || (flowSt s f).failed ||
  (halfOfEnd (flowSrc s h f) != halfOfEnd (flowSink s h f) && !crossOk s)

/-- The half a transaction of the flow toward `e` leaves at: for a protection pair, that of the
active member (R119, R20). -/
def sinkNow (s : State) (e : End) : End :=
  match e with
  | .fn n => .fn (activeFn s n)
  | e => e

/-! ## Events (R278 to R283) -/

/-- A source's configuration word (Table 10.1). -/
def sw (s : State) (n k : Nat) : W32 :=
  BitVec.ofNat 32 (cfg s (halfOfSrc n) (0x6800 + n / 16) (8 * (n % 16) + k + 1))
def srcEn (s : State) (n : Nat) : Bool := bit (sw s n 0) 0
def srcHost (s : State) (n : Nat) : Bool := bit (sw s n 0) 1
def srcLevel (s : State) (n : Nat) : Bool := bit (sw s n 0) 2
def srcWake (s : State) (n : Nat) : Bool := bit (sw s n 0) 3
def srcPri (s : State) (n : Nat) : Nat := fld (sw s n 0) 4 4
def srcGroup (s : State) (n : Nat) : Nat := 256 * halfIdx (halfOfSrc n) + fld (sw s n 0) 16 8
def srcFunc (s : State) (n : Nat) : Nat := fld (sw s n 4) 16 10
def srcFlow (s : State) (n : Nat) : Nat := fld (sw s n 4) 0 14
def srcVector (s : State) (n : Nat) : Nat := fld (sw s n 5) 0 11

/-- R277. -/
def srcDormant (s : State) (n : Nat) : Bool :=
  srcHost s n &&
  (!fnExists s (srcFunc s n) || !flowEn s (halfOfSrc n) (srcFlow s n) ||
   flowSink s (halfOfSrc n) (srcFlow s n) != .fn (srcFunc s n) ||
   (fnLay s (srcFunc s n)).msix ≤ srcVector s n)

/-- Voltage of both rails at a performance level, mV (Table 14.1). -/
def levelMv (level : Nat) : Nat := match level with | 0 => 800 | 1 => 720 | 2 => 650 | _ => 600

/-- Send a voltage request on AVSBus; `next` follows its acknowledgement (R381). -/
def avsStart (s : State) (rail : Bool) (mv : Nat) (use : AvsUse) (next : List (Bool × Nat)) : State :=
  emit (updPwr s fun p => { p with avs := some ⟨rail, mv, false, 1, use, next⟩ }) (.avs rail true mv)

/-- Request VDD_CORE, then VDD_ENG. -/
def avsBoth (s : State) (mv : Nat) (use : AvsUse) : State := avsStart s false mv use [(true, mv)]

/-- A cause counts as a wake from the request on (R388): the first three of Table 14.6 toward every state, the others
toward S1; toward S2 also a transaction that arrives after the commit (R386; log entry 75). -/
def wakeCounts (s : State) (cause : Nat) : Bool :=
  match s.pwr.request with
  | none => false
  | some v => decide (cause ≤ 3) || v == 1 || (v == 2 && s.pwr.commit && (cause == 5 || cause == 6))

/-- A wake begins exit, or is remembered during an entry (R388, R393). Exit from S2 and S3 requests the
voltages again, and a wake by a comparator drives WAKE_N low (R394, R396). -/
def wakeBy (s : State) (cause inst : Nat) : State :=
  if s.pwr.sleep = 0 then
    if wakeCounts s cause then
      updPwr s fun p => { p with early := true, cause := cause, inst := inst }
    else s
  else if s.pwr.exiting then s
  else
    let deep := decide (2 ≤ s.pwr.sleep)
    let s1 := updPwr s fun p => { p with exiting := true, cause := cause, inst := inst, exitStart := s.clk,
                                         wakeLow := deep && cause == 3 }
    onlyIf deep (fun t => avsBoth t (levelMv (if t.pwr.sleep = 3 then 3 else t.pwr.level)) .exit) s1

/-- A wake source of Table 14.6 fires: the first three count in every state while PWR_WAKE_EN enables them,
the others in S1. -/
def wakeSrc (s : State) (cause inst : Nat) : State :=
  let en := cfg s (leadHalf s) 0x7003 1
  let ok := match cause with
    | 1 => en.testBit 0 && !s.pwr.wakeLow
    | 2 => en.testBit (4 + inst)
    | 3 => en.testBit (8 + inst)
    | _ => decide (s.pwr.sleep ≤ 1)
  onlyIf ok (fun t => wakeBy t cause inst) s

/-- Does a function hold an INTx cause (R296)? -/
def intxCause (s : State) (n : Nat) : Bool :=
  ((fn s n).evt &&& (fn s n).evtEn) != 0 ||
  s.evc.srcs.any fun (k, _) => srcEn s k && srcHost s k && !srcDormant s k && activeFn s (srcFunc s k) == n &&
    (if srcLevel s k then (src s k).level && !(src s k).vanished else decide (0 < (src s k).count))

/-- The function's own wire drives the link (R105). -/
def wireOn (s : State) (n : Nat) : Bool :=
  intxCause s n && !intDis s n && !msiEn s n && !msixEn s n

/-- Send Assert_INTA or Deassert_INTA as the host link's combined wire changes (R105). -/
def intxUpdate (s : State) (m : Nat) : State :=
  let on := (List.range (hl s m).layout.length).any fun f => wireOn s (64 * m + f)
  if on && !(hl s m).intx then
    tlpOut (updHl s m fun x => { x with intx := true }) m .assertIntA
  else if !on && (hl s m).intx then
    tlpOut (updHl s m fun x => { x with intx := false }) m .deassertIntA
  else s

/-- An event arrives for a function in D3hot with PME_En: PME_Status and PM_PME (R113). -/
def pmEvent (s : State) (n : Nat) : State :=
  if inD3 s n && pmeEn s n then
    tlpOut (setCs s n 0x44 (cs s n 0x44 ||| 0x8000)) (n / 64) (.pmPme n)
  else s

/-- An arrival that has been admitted: the counter of an edge source, or of a host message source
on a rise, adds 1 up to 255 (R279). -/
def arriveAdmitted (s : State) (n : Nat) : State :=
  let h := halfOfSrc n
  let s1 := bump s 0x6C20 (hsub h)
  let s2 :=
    if (src s1 n).count = 255 then bump s1 0x6C22 (hsub h)
    else updSrc s1 n fun x =>
      { x with count := x.count + 1, order := if x.count = 0 then s.clk else x.order }
  let f := activeFn s (srcFunc s n)
  let s3 := onlyIf (srcHost s n) (fun t => intxUpdate (pmEvent t f) (f / 64)) s2
  onlyIf (srcWake s3 n && decide (s3.pwr.sleep ≤ 1)) (fun t => wakeBy t 4 n) s3

/-- An arrival whose origin is admitted: refused where the source is disabled or dormant, or where
a doorbell names a level source (R278, R280). -/
def arrive (s : State) (n : Nat) : State :=
  if srcEn s n && !srcDormant s n && !srcLevel s n then arriveAdmitted s n
  else bump s 0x6C21 (hsub (halfOfSrc n))

/-- Events the device raises: a record in the half's ring, and an arrival at the internal source
(R282, R283, Table 10.3). -/
def raiseEv (s : State) (h : Half) (off inst da db : Nat) : State :=
  let ring := match h with | .a => s.evc.recA | .b => s.evc.recB
  let lost := match h with | .a => s.evc.lostA | .b => s.evc.lostB
  let full := 512 ≤ ring.length
  let r : EvRec := ⟨off, da % 256, inst % 65536, db % 65536, lost, timeNow s⟩
  let ring' := if full then ring else ring ++ [r]
  let lost' := if full then min 65535 (lost + 1) else 0
  let evc := match h with
    | .a => { s.evc with recA := ring', lostA := lost' }
    | .b => { s.evc with recB := ring', lostB := lost' }
  let s1 := onlyIf full (fun t => bump t 0x6C27 (hsub h)) { s with evc := evc }
  arrive s1 (8192 * halfIdx h + 8064 + off)

/-! ## The error log (R318) -/

/-- "Logged": one record in the half's error log of 1,024; LOG_FULL when it first fills. -/
def logRec (s : State) (h : Half) (r : LogRec) : State :=
  let log := match h with | .a => s.err.logA | .b => s.err.logB
  let lost := match h with | .a => s.err.lostA | .b => s.err.lostB
  let was := match h with | .a => s.err.fullA | .b => s.err.fullB
  if 1024 ≤ log.length then
    let e := match h with
      | .a => { s.err with lostA := min 65535 (lost + 1) }
      | .b => { s.err with lostB := min 65535 (lost + 1) }
    bump { s with err := e } 0x8006 (hsub h)
  else
    let log' := log ++ [{ r with half := h, lost := lost, time := timeNow s }]
    let full := decide (log'.length = 1024)
    let e := match h with
      | .a => { s.err with logA := log', lostA := 0, fullA := was || full }
      | .b => { s.err with logB := log', lostB := 0, fullB := was || full }
    onlyIf (full && !was) (fun t => raiseEv t h 29 (halfIdx h) 0 0) { s with err := e }

/-- A log record by its code and fields. -/
def logC (s : State) (h : Half) (code unit : Nat) (status flow tag addr addr2 detail : Nat := 0) : State :=
  logRec s h ⟨code, status, h, unit, flow, tag, addr, addr2, detail, 0, 0⟩

/-- UNIT of an inbound sub-window, of a local link, of a host link (R318). -/
def unitWin (n w : Nat) : Nat := 0x8000 + 8 * n + w
def unitHl (m : Nat) : Nat := 0x1000 + m

/-! ## Function events and AER -/

/-- Functions that have a sub-window targeting the link (R309, R314). -/
def fnsTargeting (s : State) (l : Nat) : List Nat :=
  (List.range 16).flatMap fun m => ((List.range ((hl s m).layout.length)).map (64 * m + ·)).filter fun n =>
    n % 64 != 0 && (List.range 8).any fun w =>
      let c := inw s n w 0
      bit c 0 && fld c 8 6 != 0 && fld c 14 2 == 0 && fld c 16 8 == l

/-- MSI-X entry e of a function: address, data, mask (R103). -/
def msixKey (s : State) (n e : Nat) : Nat :=
  8192 * halfIdx (halfOfHl (n / 64)) + (fnLay s n).msixBase + e
/-- An entry at reset: masked, as the Base Specification has it (log entry 11). -/
def msixReset : BitVec 128 := BitVec.ofNat 128 (2 ^ 96)
def msixEnt (s : State) (n e : Nat) : BitVec 128 := Tab.get msixReset s.host.msix (msixKey s n e)

/-- Number of MSI vectors allocated. -/
def msiVectors (s : State) (n : Nat) : Nat := 2 ^ min 5 (fld (cs s n 0x50) 20 3)

/-- A vector is masked: by its entry or by Function Mask; under MSI by the mask bit of the vector it is sent as
(R293). -/
def vecMasked (s : State) (n v : Nat) : Bool :=
  if msixEn s n then msixMaskAll s n || (msixEnt s n v).getLsbD 96
  else bit (cs s n 0x60) (v % msiVectors s n)

/-- Set or clear a vector's pending bit. -/
def setPba (s : State) (n v : Nat) (b : Bool) : State :=
  if msixEn s n then { s with host := { s.host with pba := Tab.set false s.host.pba (msixKey s n v) b } }
  else
    let k := 2 ^ (v % msiVectors s n)
    setCs s n 0x64 (BitVec.ofNat 32
      (if b then (cs s n 0x64).toNat ||| k else (cs s n 0x64).toNat - ((cs s n 0x64).toNat &&& k)))

/-- Send the message of a vector. -/
def sendVec (s : State) (n v : Nat) : State :=
  let s1 := bump s 0x6C28 (hsub (halfOfHl (n / 64)))
  if msixEn s1 n then
    let e := msixEnt s1 n v
    tlpOut s1 (n / 64) (.msi n (fld e 0 64) (fld e 64 32))
  else
    let a := (cs s1 n 0x54).toNat + (cs s1 n 0x58).toNat * 2 ^ 32
    tlpOut s1 (n / 64) (.msi n a ((cs s1 n 0x5C).toNat + v % msiVectors s1 n))

/-- Signal the notify vector (R298). -/
def notify (s : State) (n : Nat) : State :=
  if msixEn s n || msiEn s n then
    if !masterOn s n then updFn s n fun x => { x with held := x.held ++ [(0, 0)] }
    else if vecMasked s n 0 then bump (setPba s n 0 true) 0x6C26 (hsub (halfOfHl (n / 64)))
    else sendVec s n 0
  else intxUpdate s (n / 64)

/-- A bit of EVC_FN_EVT sets (R298, Table 10.7). -/
def fnEvent (s : State) (n i : Nat) : State :=
  if !fnExists s n || bit (fn s n).evt i then s
  else
    let s1 := updFn s n fun x => { x with evt := x.evt ||| BitVec.ofNat 32 (2 ^ i) }
    onlyIf (bit (fn s1 n).evtEn i) (fun t => notify (pmEvent t n) n) s1

/-- AER: set an uncorrectable status bit and log the first header (R304, R305; the header's words are
free values, log entry 1). `adv`: an advisory error, no message of its own. -/
def aerMark (s : State) (n b : Nat) (adv : Bool) : State :=
  let st := cs s n 0x104
  let dev := (if adv then 0 else 2 ^ (if bit (cs s n 0x10C) b then 18 else 17)) + flag (b == 20) 19
  let s0 := setCs s n 0x78 (cs s n 0x78 ||| BitVec.ofNat 32 dev)
  let s1 := setCs s0 n 0x104 (st ||| BitVec.ofNat 32 (2 ^ b))
  if !bit st (fld (cs s1 n 0x118) 0 5) then
    let s3 := setCs s1 n 0x118 (BitVec.ofNat 32 ((cs s1 n 0x118).toNat / 32 * 32 + b))
    let w := (List.range 4).map fun i => BitVec.ofNat 32 (Config.freeNat (s3.freeCtr + i))
    updFn { s3 with freeCtr := s3.freeCtr + 4 } n fun x => { x with hdrLog := w }
  else s1

/-- AER: an uncorrectable error; the message the enables and the severity call for. -/
def aerUnc (s : State) (n b : Nat) : State :=
  let s2 := aerMark s n b false
  if bit (cs s n 0x108) b then s2
  else if bit (cs s n 0x10C) b then
    onlyIf (bit (cs s n 0x78) 2 || bit (cs s n 0x04) 8) (fun t => tlpOut t (n / 64) (.error n 2)) s2
  else onlyIf (bit (cs s n 0x78) 1 || bit (cs s n 0x04) 8) (fun t => tlpOut t (n / 64) (.error n 1)) s2

/-- AER: set a correctable status bit. -/
def aerCor (s : State) (n b : Nat) : State :=
  let s1 := setCs (setCs s n 0x78 (cs s n 0x78 ||| 0x10000#32)) n 0x110 (cs s n 0x110 ||| BitVec.ofNat 32 (2 ^ b))
  onlyIf (!bit (cs s n 0x114) b && bit (cs s n 0x78) 0) (fun t => tlpOut t (n / 64) (.error n 0)) s1

/-- AER for an error that an error completion reports (Role-Based Error Reporting): advisory where its
severity is non-fatal, so ERR_COR under the Advisory Non-Fatal mask in place of ERR_NONFATAL (R304;
log entry 11). -/
def aerAdv (s : State) (n b : Nat) : State :=
  if bit (cs s n 0x10C) b then aerUnc s n b else aerCor (aerMark s n b true) n 13

/-- Unsupported Request and Completer Abort of a posted request or message; the same of a request that
an error completion answers; Poisoned TLP, Completion Timeout, Unexpected Completion. -/
def aerUR (s : State) (n : Nat) : State := aerUnc s n 20
def aerCA (s : State) (n : Nat) : State := aerUnc s n 15
def aerURc (s : State) (n : Nat) : State := aerAdv s n 20
def aerCAc (s : State) (n : Nat) : State := aerAdv s n 15
def aerPoison (s : State) (n : Nat) : State := aerUnc s n 12
def aerCTO (s : State) (n : Nat) : State := aerUnc s n 14
def aerUnexp (s : State) (n : Nat) : State := aerAdv s n 16

/-- PF0 of each present host link of the privileged port (Table 11.1, internal errors). -/
def privPf0s (s : State) : List Nat :=
  ((List.range 16).filter fun m => hlPresent s m && privPf0 s m).map (64 * ·)

/-- Corrected Internal Error, Uncorrectable Internal Error. -/
def aerCorrInternal (s : State) : State := forAll s (privPf0s s) fun t n => aerCor t n 14
def aerUncInternal (s : State) : State := forAll s (privPf0s s) fun t n => aerUnc t n 22

/-- Drive ALERT_N low for a cause, or stop driving it for that cause. -/
def alertOn (s : State) (i : Nat) : State := updSys s fun y => { y with alert := y.alert ||| 2 ^ i }
def alertOff (s : State) (i : Nat) : State :=
  updSys s fun y => { y with alert := y.alert - (y.alert &&& 2 ^ i) }

/-! ## Perturbation slots (R440, R442) -/

/-- Word k of slot i: CTRL, TGT, P1, P2. -/
def tpw (s : State) (i k : Nat) : Nat := cfg s (if i < 8 then .a else .b) (0xA000 + i) (k + 1)
def tpOn (s : State) (i kind : Nat) : Bool := (tpw s i 0).testBit 0 && tpw s i 0 / 2 % 8 == kind
/-- A kind 6 slot withholds the advances of this LIMIT: target as Table 16.3 codes it. -/
def starving (s : State) (tgt : Nat) (np : Bool) (cls : Nat) : Bool :=
  (List.range 16).any fun i => s.test.starved.getD i false && tpOn s i 6 && tpw s i 1 == tgt &&
    (tpw s i 2).testBit 0 == np && tpw s i 2 / 2 % 4 == cls
/-- Count an act of a slot. -/
def tpAct (s : State) (i : Nat) : State :=
  updTest s fun t => { t with cnts := t.cnts.mapIdx fun j c => if j == i then (c + 1) % 2 ^ 64 else c }

/-- Count one occasion at a slot: does it act? On every P2-th (kinds 1 and 3). -/
def everyNth (s : State) (i : Nat) : Bool × State :=
  let n := s.test.seen.getD i 0 + 1
  let act := decide (n % max 1 (tpw s i 3) = 0)
  let s1 := updTest s fun t => { t with seen := t.seen.set i n }
  (act, if act then tpAct s1 i else s1)

/-! ## One cycle of the time domain (R398) -/

/-- One 0.8 ns cycle: the device time counter adds INCR while it runs (S0, S1); one rind tick passes
every 38,147 cycles (32.768 kHz). -/
def tick (s : State) : State :=
  let t := s.time
  let en := if s.pwr.sleep ≤ 1 then { s.eng with cyc := s.eng.cyc + (4 - s.pwr.level) } else s.eng
  let ph := s.sys.tickPhase + 1
  let wrap := 38147 ≤ ph
  let acc := t.frac + t.incr
  let ns := t.ns + acc / 2 ^ 32
  let t1 := if t.running && s.pwr.sleep ≤ 1 && s.sys.lrefOk.getD 0 true then
      { t with frac := acc % 2 ^ 32, ns := ns % 1000000000, sec := (t.sec + ns / 1000000000) % 2 ^ 48 }
    else t
  let t2 := if wrap then { t1 with tick := (t1.tick + 1) % 2 ^ 48 } else t1
  { s with clk := s.clk + 1, time := t2, eng := en, sys := { s.sys with tickPhase := if wrap then 0 else ph } }

end Sys2Proof.Machine
end

