-- ==== Sys2Proof/Machine/Access.lean ====
section
/-! DEFINITION. Who may write what: access paths and their privilege (R9, R92, R320, R358, R371), which
half an access reaches (R17, R19, R332), and what a denied write leaves behind (R320). -/

namespace Sys2Proof.Machine

/-- The half an access path enters at. -/
def pathHalf (s : State) : Path → Half
  | .reg m _ | .mbx m => halfOfHl m.val
  | .field _ => leadHalf s
  | .steward h => h

/-- The path works on half B's own copy of the device-wide select registers: SPLIT only (R1, R19). -/
def pathOwnB (s : State) (p : Path) : Bool := isSplit s && pathHalf s p == .b

/-- Session `n` of the dictionary is open. -/
def sessOpen (s : State) (n : Nat) : Bool :=
  n != 0 && (dictOf s (leadHalf s)).sessions.any fun x => x.num == n && x.opened

/-- The path presents the privileged view (R92, R354). -/
def pathPriv (s : State) : Path → Bool
  | .reg m f => f.val == 0 && privPf0 s m.val
  | .mbx m => privPf0 s m.val
  | .field n => sessOpen s n.toNat
  | .steward _ => true

/-- Path identity (R371). -/
def pathId : Path → Nat
  | .steward _ => 1
  | .field n => 0x10 + n.toNat
  | .reg m f => 0x100 + 64 * m.val + f.val
  | .mbx m => 0x100 + 64 * m.val

/-- The path can carry an access now: its function exists, answers memory requests, and its port is up;
the steward's needs its half running. -/
def pathLive (s : State) : Path → Bool
  | .reg m f =>
    let n := 64 * m.val + f.val
    fnExists s n && portsOn s (halfOfHl m.val) && mse s n && !inD3 s n
  | .mbx m => hlPresent s m.val && portsOn s (halfOfHl m.val)
  | .field _ => (half s (leadHalf s)).boot != .reset && !s.sys.resetLow
  | .steward h => (half s h).boot != .reset && !s.sys.resetLow

/-- An access through the path reaches a resource of half `h`. -/
def pathReaches (s : State) (p : Path) (h : Half) : Bool :=
  pathHalf s p == h || (!isSplit s && s.sys.a.dlUp && s.sys.b.dlUp && (half s (pathHalf s p)).role != .orphaned)

/-- A TLP that a host port takes is a wake in S1, or during an entry (R388, R393). -/
def tlpWake (s : State) (m : Nat) : State :=
  onlyIf (hlPresent s m && (hl s m).dlActive && portsOn s (halfOfHl m) && !s.sys.perst.getD (m / 4) true)
    (fun t => wakeBy t 5 m) s

/-- A management access is one too (Table 14.6): a register access arrives as a host's TLP; the steward's own access
is none. -/
def accessWake (s : State) : Path → State
  | .reg m _ => tlpWake s m.val
  | .mbx _ | .field _ => wakeBy s 7 0
  | .steward _ => s

/-- A write from an unprivileged view: ignored, counted, remembered (R320). -/
def deny (s : State) (p : Path) (code : Nat) : State :=
  updDict s (pathHalf s p) fun d => { d with denied := min 0xFFFFFFFF (d.denied + 1), privLast := code }

/-- ERR_PRIV_LAST of a register at `off`. -/
def denyReg (p : Path) (off : Nat) : Nat :=
  match p with
  | .reg m f => off % 2 ^ 26 + f.val * 2 ^ 26 + m.val * 2 ^ 32
  | _ => off % 2 ^ 26

/-- ERR_PRIV_LAST of an object. -/
def denyObj (p : Path) (idx sub : Nat) : Nat :=
  let o := idx * 256 + sub + 2 ^ 36
  match p with
  | .reg m f => o + f.val * 2 ^ 26 + m.val * 2 ^ 32
  | .mbx m => o + m.val * 2 ^ 32
  | .field _ => o + 2 ^ 37
  | .steward _ => o

/-- The object's area is served by the half: the starter service serves identity and security alone (R427). -/
def areaServed (s : State) (e : Half) (idx : Nat) : Bool :=
  (half s e).boot == .complete || ((half s e).boot == .serviceUp && 0x1000 ≤ idx && idx < 0x1200)

/-- A write of a privileged register at `off` that acts on a resource of half `h`; without its firmware a half
presents no register that can be written (R427). -/
def regAct (s : State) (p : Path) (off : Nat) (h : Half) (f : State → State) : State :=
  match p with
  | .reg _ _ | .steward _ =>
    if !pathLive s p || !inService s (pathHalf s p) then s
    else
      let s1 := accessWake s p
      if !pathPriv s1 p then deny s1 p (denyReg p off)
      else if !pathReaches s1 p h then s1
      else f s1
  | _ => s

/-- A write of a privileged object that acts on a resource of half `h`: over the mailbox, the field port
or by the steward. An orphaned follower refuses its own (R332, R469). -/
def objAct (s : State) (p : Path) (idx sub : Nat) (h : Half) (f : State → State) : State :=
  match p with
  | .mbx _ | .field _ | .steward _ =>
    if !pathLive s p || (half s (pathHalf s p)).stewardHalted || !areaServed s (pathHalf s p) idx then s
    else
      let s1 := accessWake s p
      if !pathPriv s1 p then deny s1 p (denyObj p idx sub)
      else if !pathReaches s1 p h || (half s1 h).role == .orphaned then s1
      else f s1
  | _ => s

/-- A register write that changes a sealed field of half `h` during a seal pass: the pass starts again (R374). -/
def sealTouch (s : State) (h : Half) (changed : Bool) : State :=
  if changed then updDict s h fun d => { d with sealDirty := d.sealDirty || d.sealRun } else s

/-- A resource that has both a register and an object. -/
def regOrObj (s : State) (p : Path) (off idx sub : Nat) (h : Half) (f : State → State) : State :=
  match p with
  | .reg _ _ => regAct s p off h f
  | _ => objAct s p idx sub h f

end Sys2Proof.Machine
end

