-- ==== Sys2Proof/Machine/Fabric.lean ====
section
/-! DEFINITION. Transactions in the fabric: buffers and shares (R36 to R39), ordering lanes (R43),
fences (R47), the vat and brine (R221 to R223), holding a flow back (R42), open requests and their
completions, and the ending of a transaction. -/

namespace Sys2Proof.Machine

/-! ## Buffers -/

/-- Header entries and data units of 64 bytes per half (Table 02.3). -/
def bufSize (d : Dir) (k : Kind) : Nat × Nat :=
  match d, k with
  | .h2l, .p => (2048, 8192)
  | .h2l, .np => (1024, 1024)
  | .h2l, .cpl => (8192, 32768)
  | .l2h, .p => (4096, 16384)
  | .l2h, .np => (4096, 1024)
  | .l2h, .cpl => (2048, 8192)
  | .l2l, .p => (8192, 32768)
  | .l2l, .np => (2048, 1024)
  | .l2l, .cpl => (4096, 16384)

/-- Eighths of a buffer that a class holds (R37). -/
def clsShare (c : Nat) : Nat := match c with | 1 => 2 | 2 => 4 | _ => 1

/-- 64-byte units of a payload (R39). -/
def units (n : Nat) : Nat := ceilDiv n 64

/-- Present host links of a host link's port. -/
def presentLinks (s : State) (m : Nat) : Nat :=
  ((List.range 4).filter fun k => hlPresent s (4 * (m / 4) + k)).length

/-- A host link's part of a partition of its half's host ingress buffers (R37, R108). -/
def hostPart (s : State) (m : Nat) (k : Kind) (c : Nat) : Nat × Nat :=
  let b := bufSize .h2l k
  let n := max 1 (presentLinks s m)
  (b.1 * clsShare c / 8 / 2 / n, b.2 * clsShare c / 8 / 2 / n)

/-- Payload a transaction occupies its buffer with. -/
def payLen (t : Txn) : Nat := match t.op with | .read | .lockAcq => 0 | _ => t.data.length

/-- Host link a transaction entered at. -/
def srcHl (t : Txn) : Option Nat := match t.src with | .fn n => some (n / 64) | _ => none

/-- Occupancy of a host link's part by the transactions still in the ingress buffer. -/
def hostUsed (s : State) (m : Nat) (k : Kind) (c : Nat) : Nat × Nat :=
  s.fab.txns.foldl (fun a t =>
    if t.left != 0 && t.kind == k && t.cls == c && t.dir == .h2l && srcHl t == some m && t.mark != .prefetch then
      (a.1 + 1, a.2 + units (payLen t)) else a) (0, 0)

/-- The host link's part has room for a transaction of this payload (R39). -/
def hostRoom (s : State) (m : Nat) (k : Kind) (c len : Nat) : Bool :=
  let p := hostPart s m k c
  let u := hostUsed s m k c
  u.1 + 1 ≤ p.1 && u.2 + units len ≤ p.2

/-- Completion space held in a half, for a direction and class (R38): by open requests and by
completions on their way. -/
def cplUsed (s : State) (h : Half) (d : Dir) (c : Nat) : Nat × Nat :=
  let a := s.fab.reqs.foldl (fun a r =>
    if r.half == h && r.dir == d && r.cls == c then (a.1 + r.resHdr, a.2 + r.resData) else a) (0, 0)
  s.fab.txns.foldl (fun a t =>
    if t.kind == .cpl && t.home == h && t.dir == d && t.cls == c then
      (a.1 + max 1 (units t.data.length), a.2 + max 1 (units t.data.length)) else a) a

/-- Room for the completions of a request of `len` bytes: one header entry and one data unit for
every started 64 bytes, at least one of each (R38). -/
def cplRoom (s : State) (h : Half) (d : Dir) (c len : Nat) : Bool :=
  let b := bufSize d .cpl
  let u := cplUsed s h d c
  let n := max 1 (units len)
  u.1 + n ≤ b.1 * clsShare c / 8 && u.2 + n ≤ b.2 * clsShare c / 8

/-- Direction in which the completions of a request travel. -/
def cplDir : Dir → Dir
  | .h2l => .l2h
  | .l2h => .h2l
  | .l2l => .l2l

/-- Direction of a request by its ends (R35). -/
def dirOf (a b : End) : Dir :=
  match a, b with
  | .fn _, _ => .h2l
  | _, .fn _ => .l2h
  | _, _ => .l2l

/-! ## Ordering -/

/-- Table 02.4: must the later kind never pass the earlier? -/
def mustWait (later earlier : Kind) : Bool :=
  match later, earlier with
  | .p, .p => true
  | .np, .p => true
  | .np, .np => true
  | .cpl, .p => true
  | .cpl, .cpl => true
  | _, _ => false

/-- The transactions accepted before `t`. -/
def before (s : State) (id : Nat) : List Txn := s.fab.txns.takeWhile fun t => t.id != id

/-- An earlier transaction of the lane that `t` must not pass is still in the ingress buffer. -/
def laneBlocked (s : State) (t : Txn) : Bool :=
  (before s t.id).any fun u => u.lane == t.lane && u.left != 0 && mustWait t.kind u.kind

/-- An earlier transaction of the lane that `t` must not pass has not left the egress. -/
def egressBlocked (s : State) (t : Txn) : Bool :=
  (before s t.id).any fun u => u.lane == t.lane && mustWait t.kind u.kind

/-- A fenced transaction waits: an earlier one from the same source end to the same egress is still
in the device (R47). -/
def fenceWaits (s : State) (t : Txn) : Bool :=
  t.fence && (before s t.id).any fun u => u.src == t.src && u.sink == t.sink

/-- The transaction with this number. -/
def txn? (s : State) (id : Nat) : Option Txn := s.fab.txns.find? fun t => t.id == id
def req? (s : State) (id : Nat) : Option Req := s.fab.reqs.find? fun r => r.id == id
def cell? (s : State) (id : Nat) : Option Cell := s.fab.cells.find? fun c => c.id == id

def updTxn (s : State) (id : Nat) (f : Txn → Txn) : State :=
  updFab s fun x => { x with txns := x.txns.map fun t => if t.id == id then f t else t }
def updReq (s : State) (id : Nat) (f : Req → Req) : State :=
  updFab s fun x => { x with reqs := x.reqs.map fun r => if r.id == id then f r else r }
def dropReq (s : State) (id : Nat) : State :=
  updFab s fun x => { x with reqs := x.reqs.filter fun r => r.id != id }

/-- Take a transaction out, with its pieces of cells; a cell left empty is gone. -/
def dropTxn (s : State) (id : Nat) : State :=
  updFab s fun x => { x with
    txns := x.txns.filter fun t => t.id != id
    cells := (x.cells.map fun c =>
      { c with parts := c.parts.filter (fun p => p.1 != id)
               bytes := ((c.parts.filter fun p => p.1 != id).map (·.2)).sum }).filter
      fun c => !c.parts.isEmpty }

/-! ## Accepting a transaction -/

/-- Packet bytes a transaction moves through cells; one without payload moves its 16-byte header
(log entry 12). -/
def txnSize (op : TOp) (data : List Byte) : Nat :=
  match op with
  | .read | .lockAcq => 16
  | _ => if data.isEmpty then 16 else data.length

/-- A transaction with every field that is not given at its plain value. -/
def mkTxn (flow lane : Nat) (kind : Kind) (cls : Nat) (a b : End) (ih home : Half) (op : TOp)
    (addr len : Nat) (data : List Byte) : Txn :=
  { id := 0, flow := flow, lane := lane, kind := kind, dir := dirOf a b, cls := cls, crCls := cls, via := 0, src := a,
    sink := b, ihalf := ih, home := home, op := op, addr := addr, len := len, data := data,
    poison := false, ro := false, ns := false, lock := false, fence := false,
    fenceOk := true, reserved := true, req := 0, part := 0, size := txnSize op data,
    left := txnSize op data, arrived := 0, sent := 0, released := false, vc1 := false, mark := .none,
    se := false, inTime := 0 }

/-- Put a transaction behind every one accepted before it; a fenced one is counted, and proceeds at
once when nothing earlier is in its way (R47, R55). -/
def addTxn (s : State) (t : Txn) : State :=
  let id := s.nextId
  let t1 := { t with id := id, inTime := (timeNow s).toNat,
                     fenceOk := !(t.fence && s.fab.txns.any fun u => u.src == t.src && u.sink == t.sink) }
  let s1 := updFab { s with nextId := id + 1 } fun x => { x with txns := x.txns ++ [t1] }
  onlyIf t.fence (fun u => bump u 0x5803 (hsub t.ihalf)) s1

/-- A flow's request as half `ih` accepts it: class, ends, lane and home half come from the flow
context then in force (R22, R35, R218). -/
def flowTxn (s : State) (ih : Half) (f : Nat) (kind : Kind) (op : TOp) (addr len : Nat)
    (data : List Byte) : Txn :=
  let a := flowSrc s ih f
  let b := sinkNow s (flowSink s ih f)
  mkTxn f (2 * f) kind (flowCls s ih f) a b ih (halfOfEnd b) op addr len data

/-- The ordering lane of the completions of flow f (R43): the partner's, or one of their own. -/
def cplLane (s : State) (h : Half) (f : Nat) : Nat :=
  match flowPartner s h f with
  | some p => 2 * p
  | none => 2 * f + 1

/-- The end a requester is, for the lane and egress of its completions. -/
def requesterEnd : Requester → End
  | .host _ n _ _ _ => .fn n
  | .link l _ => .link l
  | .eng e _ => .eng e
  | .dqDesc q _ | .dqData q _ => .dq q
  | .prefetch _ n _ _ => .fn n
  | .mirror _ => .link 0

/-- Send a completion toward an open request's requester: `status` of Table 05.8, its data, its
offset, and what is still to come; SE where a read of it is known to have changed state (R136). It takes over
the reservation of its data. -/
def sendCpl (s : State) (r : Req) (status : Nat) (data : List Byte) (off remain : Nat) (ch : Half) : State :=
  let b := requesterEnd r.who
  let tag := match r.who with | .host _ _ t _ _ => t | .link _ t => t | .eng _ k => k | _ => 0
  let t := mkTxn r.flow (cplLane s r.half r.flow) .cpl r.cls b b ch r.half (.cpl status remain off tag)
    (match r.parts.head? with | some p => p.addr + off | none => off) data.length data
  let t1 := { t with dir := r.dir, req := r.id, poison := status == 7, ro := r.ro,
                     se := !data.isEmpty && r.parts.any fun p => match p.st with | .got _ b => b | _ => false }
  let n := max 1 (units data.length)
  addTxn (updReq s r.id fun x => { x with resHdr := x.resHdr - n, resData := x.resData - n,
                                          sent := off + data.length }) t1

/-- Quarantine a tag for `us` microseconds, twice the value, at most 1 s (R209). -/
def quarantine (s : State) (side : TagSide) (tag us : Nat) : State :=
  updFab s fun x => { x with
    tags := x.tags.filter fun t => !(t.side == side && t.tag == tag)
    quars := x.quars ++ [⟨side, tag, s.clk + nsToClk (min (2 * us * 1000) 1000000000)⟩] }

/-- The half a tag's link lies in. -/
def sideHalf : TagSide → Half
  | .host m => halfOfHl m.val
  | .link l => halfOfLink l.val
  | .move e => halfOfEng e.val

/-- The programmed timeout of a tag in µs (R207). -/
def tagUs (s : State) (t : TagUse) : Nat :=
  match t.side with
  | .host _ => ctoUs s t.fn
  | .link l => cfg s (halfOfLink l.val) 0x5E10 (l.val + 1)
  | .move _ => 5000

/-! ## The vat and brine (R221 to R223) -/

/-- Cells of a flow held in its home half's vat (head and tail, or the C0 partition). -/
def vatOcc (s : State) (h : Half) (f : Nat) : Nat :=
  (s.fab.cells.filter fun c => c.half == h && c.flow == f &&
    (c.place == .head || c.place == .tail || c.place == .c0)).length
def headOcc (s : State) (h : Half) (f : Nat) : Nat :=
  (s.fab.cells.filter fun c => c.half == h && c.flow == f && c.place == .head).length
/-- A cell in a brine segment. -/
def inBrine (c : Cell) : Bool := match c.place with | .brine .. => true | _ => false
def brineOcc (s : State) (h : Half) (f : Nat) : Nat :=
  (s.fab.cells.filter fun c => c.half == h && c.flow == f && inBrine c).length
def tailOcc (s : State) (h : Half) (f : Nat) : Nat :=
  (s.fab.cells.filter fun c => c.half == h && c.flow == f && c.place == .tail).length

/-- Sum of the guarantees of the flows homed in a half (default guarantee 0). -/
def guarSum (s : State) (h : Half) : Nat :=
  (dictOf s h).run.foldl (fun a (k, _) =>
    let idx := k / 256
    let sub := k % 256
    if 0x5000 ≤ idx && idx < 0x5400 && sub % 8 == 6 then
      let f := (idx - 0x5000) * 16 + (sub - 1) / 8
      if flowEn s h f && halfOfEnd (flowSink s h f) == h && flowCls s h f != 0 then a + flowGuar s h f else a
    else a) 0

/-- Cells in the C0 partition, and in the staging reserve. -/
def c0Occ (s : State) (h : Half) : Nat := (s.fab.cells.filter fun c => c.half == h && c.place == .c0).length
def stagingOcc (s : State) (h : Half) : Nat := (s.fab.cells.filter fun c => c.half == h && c.place == .tail).length

/-- Free segments of the shared pool (R221). -/
def poolFree (s : State) (h : Half) : Nat :=
  let flows := (s.fab.cells.filter fun c => c.half == h && c.place == .head).map (·.flow)
  let used := (flows.eraseDups.map fun f => headOcc s h f - flowGuar s h f).sum
  262144 - cfg s h 0x5600 (hsub h) - 8192 - guarSum s h - used

/-- Segments per channel: devices x capacity / 256 bytes (Table 08.5). -/
def brineSegs (s : State) (h : Half) : Nat :=
  let c := cfg s h 0x5602 (hsub h)
  (c % 4) * (if c.testBit 3 then 2 else 1) * 2 ^ 27 / 256

/-- Brine is available: devices fitted, trained, and not lost (R239 to R241). -/
def brineUp (s : State) (h : Half) : Bool :=
  cfg s h 0x5602 (hsub h) % 4 != 0 && (brine s h).trained && !(brine s h).down

/-- Room in the flow's brine part (R222 step 3, R223). -/
def brineRoom (s : State) (h : Half) (f : Nat) : Bool :=
  flowBrine s h f && flowCls s h f != 0 && brineUp s h &&
  brineOcc s h f + tailOcc s h f < flowBrineCeil s h f && stagingOcc s h < 8192

/-- Where a cell of the flow that must wait is held (R222, R223), none: the flow is held back. -/
def holdPlace (s : State) (h : Half) (f cls : Nat) : Option CellPlace :=
  if cls = 0 then
    if c0Occ s h < cfg s h 0x5600 (hsub h) && vatOcc s h f < flowCeil s h f then some .c0 else none
  else if brineOcc s h f + tailOcc s h f != 0 then
    if brineRoom s h f then some .tail else none
  else if headOcc s h f < flowCeil s h f &&
      (headOcc s h f < flowGuar s h f || poolFree s h != 0) then some .head
  else if brineRoom s h f then some .tail
  else none

/-- Is the flow shaped (R219)? -/
def shaped (s : State) (h : Half) (f : Nat) : Bool := flowRate s h f != 0

/-- TOKENS refilled at RATE Mb/s up to BURST: RATE / 8000 bytes per ns, 0.8 ns a cycle, so RATE
bytes every 10,000 cycles (R219). -/
def refilled (s : State) (h : Half) (f : Nat) : FlowSt :=
  let x := flowSt s f
  let acc := x.frac + (s.clk - x.tokClk) * flowRate s h f
  { x with tokens := min (x.tokens + (acc / 10000 : Nat)) (flowBurst s h f : Nat)
           frac := acc % 10000, tokClk := s.clk }

/-! ## Holding a flow back and letting it go (R42, R146, R222 step 4) -/

/-- The local link a transaction entered at. -/
def srcLink (t : Txn) : Option Nat := match t.src with | .link l => some l | _ => none

/-- A cell of `t` cannot be placed: the flow is held back, by PAUSE where its local design honours
it. Each episode is counted. -/
def holdBack (s : State) (t : Txn) : State :=
  if (flowSt s t.flow).paused then s
  else
    let s1 := updFlow s t.flow fun x => { x with paused := true, bpCount := x.bpCount + 1, bpSince := some s.clk }
    let s2 := bump s1 0x5706 (hsub t.home)
    match srcLink t with
    | some l =>
      if hasFeature s2 l 4 && linkActive s2 l then
        emit (updLink s2 l fun x => { x with xoff := x.xoff ++ [(t.flow, s.clk)] }) (.block l (.pause true t.flow))
      else s2
    | none => s2

/-- The flow moves again: XON and the end of the episode. -/
def letGo (s : State) (f : Nat) : State :=
  let x := flowSt s f
  if !x.paused then s
  else
    let s1 := updFlow s f fun y => { y with paused := false, bpSince := none,
                                             bpNs := y.bpNs + clkToNs (s.clk - y.bpSince.getD s.clk) }
    forAll s1 ((List.range 192).filter fun l => (link s1 l).xoff.any fun (g, _) => g == f) fun u l =>
      emit (updLink u l fun y => { y with xoff := y.xoff.filter fun (g, _) => g != f }) (.block l (.pause false f))

/-! ## Frozen and lost links (R308 to R316) -/

/-- Containment state of a link end (Table 11.3). -/
def containOf (s : State) (l : Nat) : Nat := (link s l).contain
def isFrozen (s : State) (l : Nat) : Bool := containOf s l == 2 || containOf s l == 3
def isLost (s : State) (l : Nat) : Bool := containOf s l == 4

/-- Count an ending toward or from a frozen link (R310, R311). -/
def countFrozen (s : State) (h : Half) (k : Kind) : State :=
  match k with
  | .np => bump s 0x8007 (1 + halfIdx h)
  | .p => bump s 0x8007 (3 + halfIdx h)
  | .cpl => bump s 0x8007 (5 + halfIdx h)

/-! ## Outputs -/

/-- Press output of an end within its half (Table 01.3). -/
def outOf (e : End) : Nat :=
  match e with
  | .link l => l / 4 % 24 / 2
  | .fn n => 12 + n / 64 / 4 % 2
  | .eng x => 28 + x / 8 % 12 / 4
  | .dq _ => 31

/-- First transaction of a cell. -/
def cellTxn (s : State) (c : Cell) : Option Txn := c.parts.head?.bind fun p => txn? s p.1

/-- An earlier cell of the same flow waits in the home half: a cell cuts through only when none
does (R223). -/
def flowWaits (s : State) (h : Half) (f : Nat) : Bool :=
  s.fab.cells.any fun c => c.half == h && c.flow == f && c.place != .die

/-- The oldest cell of the flow in its home half, by queue part: head, brine, tail (R223). -/
def flowHead (s : State) (h : Half) (f : Nat) : Option Cell :=
  s.fab.cells.find? fun c => c.half == h && c.flow == f && (c.place == .head || c.place == .c0)

end Sys2Proof.Machine
end

