-- ==== Sys2Proof/Machine/Accept.lean ====
section
/-! DEFINITION. Handing a request to its flow: what a closed sink answers at once (R114, R122, R310,
R316), posted writes, and non-posted requests with their parts, tags and completion space. -/

namespace Sys2Proof.Machine

/-- What a sink says to a new request. -/
inductive Gate where
  | pass
  | refuse (status : Nat)   -- Table 05.8
  | allOnes                 -- R316
deriving DecidableEq, Repr

/-- Is a request toward this sink refused, and how? Bus Master Enable and D3hot (R113, R114), a pair
without a host (R122), a frozen or lost link (R310, R316). -/
def gate (s : State) (e : End) : Gate :=
  match e with
  | .fn n =>
    if pairLost s n then .refuse 8
    else if (fn s (activeFn s n)).switching then .pass
    else if !masterOn s (activeFn s n) then .refuse 4
    else .pass
  | .link l =>
    if isLost s (tetherName s l) then .allOnes
    else if containOf s (tetherName s l) == 3 then .refuse 2
    else .pass
  | _ => .pass

/-- Attribute objects k of a function's port count by function (R124). -/
def bumpFn (s : State) (n k : Nat) : State := bump s (fnIdx (n / 64) k) (n % 64 + 1)

/-- The count a closed sink keeps: dropped writes and refused requests of a function (R114, R122), of
a frozen link (R310), of a lost one (R316). -/
def gateCount (s : State) (h : Half) (e : End) (k : Kind) (g : Gate) : State :=
  match g, e with
  | .refuse 8, .fn n => if k == .p then bumpFn s n 13 else s
  | .refuse _, .fn n => if k == .p then bumpFn s n 9 else bumpFn s n 10
  | .refuse _, _ => countFrozen s h k
  | .allOnes, _ => if k == .p then bump s 0x800A (3 + halfIdx h) else bump s 0x800A (1 + halfIdx h)
  | .pass, _ => s

/-- A posted write of another service was dropped: the DMA descriptor it belongs to fails (R236). -/
def droppedMark (s : State) (m : TMark) (status : Nat) : State :=
  match m with
  | .dqWrite q n => updDq s q fun d => { d with jobs := d.jobs.map fun j =>
      if j.n == n then { j with status := (if j.status = 0 then status else j.status), phase := 3,
                                writes := j.writes - 1 } else j }
  | .mirror g | .mirrorEnd g => updMg s g fun x => { x with running := false }
  | _ => s

/-- Hand a posted write to its flow. -/
def submitP (s : State) (t : Txn) : State :=
  match gate s t.sink with
  | .pass => addTxn s t
  | .refuse st => droppedMark (gateCount s t.ihalf t.sink .p (.refuse st)) t.mark st
  | .allOnes => droppedMark (gateCount s t.ihalf t.sink .p .allOnes) t.mark 2

/-- A part still to be fetched. -/
def mkPart (off len addr : Nat) : ReqPart := ⟨off, len, addr, .waiting, []⟩

/-- Split a run of `len` bytes at offset `off`, address `a`, into parts that end at multiples of
`chunk` of the address (R108, R138). -/
def chunkParts (chunk : Nat) : Nat → Nat → Nat → Nat → List ReqPart
  | 0, _, _, _ => []
  | n + 1, off, a, len =>
    let k := min len (chunk - a % chunk)
    if len = 0 ∨ k = 0 then []
    else mkPart off k a :: chunkParts chunk n (off + k) (a + k) (len - k)

/-- Largest read the sink takes in one request: Max Read Request Size, RX_MAX_READ; one record or
one cluster access takes all (R108, R138, R251). -/
def readLimit (s : State) (e : End) : Nat :=
  match e with
  | .fn n => mrrs s n
  | .link l => rxMaxRead s l
  | _ => 4096

/-- Parts of a read toward `e`. -/
def readParts (s : State) (e : End) (off a len : Nat) : List ReqPart :=
  if len = 0 then [mkPart off 0 a]
  else chunkParts (readLimit s e) (len + 1) off a len

/-- Facts of a request beyond its transaction. -/
structure ReqOpts where
  split : Bool
  win   : Nat
  stop  : Option (Nat × Nat)
  lock  : Bool
  raddr : Nat
deriving DecidableEq, Repr

/-- A request that is neither split nor locked. -/
def ReqOpts.plain : ReqOpts := ⟨false, 0, none, false, 0⟩

/-- Open a non-posted request: reserve completion space where there is room (R38), and put one
transaction into the flow for every part still to be fetched. Without room its transactions wait in
their ingress partition, unreserved. Answers the request's number. -/
def submitNp (s : State) (who : Requester) (t : Txn) (len : Nat) (parts : List ReqPart)
    (o : ReqOpts := .plain) : Nat × State :=
  let id := s.nextId
  let d := cplDir t.dir
  let room := cplRoom s t.ihalf d t.cls len
  let n := if room then max 1 (units len) else 0
  let r : Req :=
    { id := id, who := who, flow := t.flow, cls := t.cls, dir := d, half := t.ihalf, resHdr := n,
      resData := n, len := len, raddr := o.raddr, split := o.split, win := o.win, stop := o.stop, parts := parts,
      sent := 0, lock := o.lock, ro := t.ro, dead := false }
  let s1 := updFab { s with nextId := id + 1 } fun x => { x with reqs := x.reqs ++ [r] }
  let s2 := forAll s1 (parts.zipIdx.filter fun (p, _) => p.st == .waiting) fun u (p, i) =>
    addTxn u { t with req := id, part := i, addr := p.addr, len := p.len, reserved := room,
                      lock := o.lock, ro := false }
  (id, s2)

/-- Reserve the space of a request that waits for it (R38). -/
def reserve (s : State) (id : Nat) : State :=
  match txn? s id with
  | some t =>
    match req? s t.req with
    | some r =>
      if !t.reserved && cplRoom s r.half r.dir r.cls r.len then
        let n := max 1 (units r.len)
        updFab s fun x => { x with
          reqs := x.reqs.map fun q => if q.id == r.id then { q with resHdr := n, resData := n } else q
          txns := x.txns.map fun u => if u.req == r.id && u.kind == .np then { u with reserved := true } else u }
      else s
    | none => s
  | none => s

/-- All bytes 0xFF (R316). -/
def ones (n : Nat) : List Byte := List.replicate n 0xFF

/-- A transaction sent by an engine, a DMA queue or the mirror of half `h` in flow `f`, whose address
is already in its sink's space. -/
def ownTxn (s : State) (h : Half) (f : Nat) (kind : Kind) (op : TOp) (addr len : Nat)
    (data : List Byte) : Txn := flowTxn s h f kind op addr len data

end Sys2Proof.Machine
end

