-- ==== Sys2Proof/Machine/Dma.lean ====
section
/-! DEFINITION. DMA queues (R232 to R237): descriptor fetch, the reads and writes of a descriptor,
its completion record, halts. -/

namespace Sys2Proof.Machine

def dqRing (s : State) (q : Nat) : Nat := 2 ^ ((dqw s q 0 / 256) % 16)
def dqOwner (s : State) (q : Nat) : Nat := (dqw s q 0 / 65536) % 1024
def dqCflow (s : State) (q : Nat) : Nat := dqw s q 1 % 16384
def dqSrc (s : State) (q : Nat) : Nat := (dqw s q 1 / 65536) % 16384
def dqBase (s : State) (q : Nat) : Nat := (dqw s q 2 + dqw s q 3 * 2 ^ 32) / 64 * 64
def dqRec (s : State) (q : Nat) : Nat := (dqw s q 4 + dqw s q 5 * 2 ^ 32) / 64 * 64

/-- The service that serves a half's queues (R250): 255 or a disabled one is none. -/
def dqService (s : State) (h : Half) : Option Nat :=
  let v := cfg s h 0x6043 (hsub h)
  if v < 32 && svcEn s v then some v else none

/-- CFLOW runs from the queue to its owner, or the queue is dormant (R232, R334). -/
def dqDormant (s : State) (q : Nat) : Bool :=
  let h := halfOfDq q
  let f := dqCflow s q
  !(flowEn s h f && flowSrc s h f == .dq q && flowSink s h f == .fn (dqOwner s q)) ||
  flowDormant s h f || halfOfHl (dqOwner s q / 64) != h

/-- The queue is paused by its owner's Bus Master Enable (R237). -/
def dqPausedBme (s : State) (q : Nat) : Bool := !masterOn s (activeFn s (dqOwner s q))

/-- Enabled, not dormant, not paused or halted (Table 08.7). -/
def dqRunning (s : State) (q : Nat) : Bool :=
  dqEn s q && !dqDormant s q && !dqPausedBme s q && !(dq s q).pSwitch && !(dq s q).halted

/-- Halt a queue: counted, its event source raised, nothing further read; what later descriptors had
under way is given up, a restart reads them again (R235, R236; log entry 13). -/
def dqHalt (s : State) (q status : Nat) : State :=
  let s0 := updFab s fun x => { x with reqs := x.reqs.filter fun r =>
    match r.who with | .dqDesc p _ | .dqData p _ => p != q | _ => true }
  let s1 := updDq s0 q fun d => { d with halted := true, last := status, jobs := [] }
  arrive (bump s1 0x5707 (hsub (halfOfDq q))) (dqSrc s q)

/-- Fetch descriptors from the consumer count up to the producer count, at most 8 at a time, up to
the end of the ring in one read (R235). -/
def dqFetch (s : State) (q : Nat) : State :=
  let d := dq s q
  let h := halfOfDq q
  if dqRunning s q && (dqService s h).isSome && gate s (sinkNow s (.fn (dqOwner s q))) == .pass then
    let avail := (d.prod + 65536 - d.cons) % 65536
    let ring := dqRing s q
    if ring < avail then dqHalt s q d.last
    else
      let have_ := d.jobs.length
      let first := (d.cons + have_) % 65536
      let n := min (min (8 - have_) (avail - have_)) (ring - first % ring)
      if n = 0 then s
      else
        let job (i : Nat) : DqJob := ⟨(first + i) % 65536, [], 0, 0, 0, 0⟩
        let s1 := updDq s q fun d => { d with jobs := d.jobs ++ (List.range n).map job }
        let t := ownTxn s1 h (dqCflow s q) .np .read (dqBase s q + 32 * (first % ring)) (32 * n) []
        (submitNp s1 (.dqDesc q first) t (32 * n) (readParts s1 t.sink 0 t.addr (32 * n))).2
  else s

/-- Descriptor fields (Table 08.3). -/
def descN (d : List Byte) (off n : Nat) : Nat := ofBytesLE ((d.drop off).take n)
def descLen (d : List Byte) : Nat := descN d 0x10 3
def descFence (d : List Byte) : Bool := (descN d 0x10 4).testBit 24
def descIrq (d : List Byte) : Bool := (descN d 0x10 4).testBit 25
def descRd (d : List Byte) : Nat := descN d 0x14 2 % 16384
def descWr (d : List Byte) : Nat := descN d 0x16 2 % 16384

/-- Change one descriptor of a queue. -/
def updJob (s : State) (q n : Nat) (f : DqJob → DqJob) : State :=
  updDq s q fun d => { d with jobs := d.jobs.map fun j => if j.n == n then f j else j }

/-- A read or write of the descriptor ended with a status other than OK (R236): no further request,
the first failing status stands. -/
def dqFail (s : State) (q n status : Nat) : State :=
  updJob s q n fun j => { j with status := (if j.status = 0 then status else j.status), phase := 3 }

/-- Issue the descriptor's next read: up to 4,096 bytes, not across 4 KiB (R235). -/
def dqNextRead (s : State) (q : Nat) (j : DqJob) : State :=
  let h := halfOfDq q
  let a := descN j.desc 0 8 + j.wrote
  let len := min (descLen j.desc - j.wrote) (4096 - a % 4096)
  let t := ownTxn s h (descRd j.desc) .np .read a len []
  match gate s t.sink with
  | .pass => (submitNp s (.dqData q j.n) t len (readParts s t.sink 0 a len)).2
  | .refuse st => dqFail (gateCount s h t.sink .np (.refuse st)) q j.n st
  | .allOnes => dqFail (gateCount s h t.sink .np .allOnes) q j.n 2

/-- A flow runs from this queue, enabled and not dormant. -/
def dqFlowOk (s : State) (q f : Nat) : Bool :=
  let h := halfOfDq q
  flowEn s h f && flowSrc s h f == .dq q && !flowDormant s h f

/-- Begin a fetched descriptor: LEN 0 and wrong flows end it without a request (R235). -/
def dqBegin (s : State) (q : Nat) (j : DqJob) : State :=
  if descLen j.desc = 0 then updJob s q j.n fun j => { j with status := 10, phase := 2 }
  else if !(dqFlowOk s q (descRd j.desc) && dqFlowOk s q (descWr j.desc)) then
    updJob s q j.n fun j => { j with status := 1, phase := 2 }
  else dqNextRead (updJob s q j.n fun j => { j with phase := 1 }) q { j with phase := 1 }

/-- Split data at the 4 KiB boundaries of its destination. -/
def cut4k : Nat → Nat → List Byte → List (Nat × List Byte)
  | 0, _, _ => []
  | n + 1, a, bs =>
    if bs.isEmpty then []
    else
      let k := 4096 - a % 4096
      (a, bs.take k) :: cut4k n (a + k) (bs.drop k)

/-- The writes that deliver a stretch of the descriptor's data; the first of all is fenced where
FENCE is 1, the last never carries Relaxed Ordering (R46, R235). -/
def dqWrites (s : State) (q : Nat) (j : DqJob) (data : List Byte) : State :=
  let h := halfOfDq q
  let len := descLen j.desc
  forAll s (cut4k (data.length + 1) (descN j.desc 8 8 + j.wrote) data) fun u (a, bs) =>
    let pos := ((dq u q).jobs.find? fun x => x.n == j.n).elim 0 (·.wrote)
    let fenced := descFence j.desc && pos == 0
    let last := decide (len ≤ pos + bs.length)
    let t := ownTxn u h (descWr j.desc) .p .write a bs.length bs
    submitP (updJob u q j.n fun x => { x with wrote := x.wrote + bs.length, writes := x.writes + 1 })
      { t with fence := fenced, ro := !fenced && !last, mark := .dqWrite q j.n }

/-- A record of 16 bytes (Table 08.4). -/
def dqRecordBytes (s : State) (q : Nat) (j : DqJob) : List Byte :=
  let phase := flag (dq s q).phase 31
  exactly 4 (j.desc.drop 0x18) ++ bytesLE 4 (j.wrote % 2 ^ 24 + j.status * 2 ^ 24 + phase) ++
    bytesLE 8 (timeNow s).toNat

/-- Write the record of the oldest descriptor once it is done and its writes are committed; the
consumer count advances; a descriptor ended by an error halts the queue (R235, R236), but for one that its owner's
Bus Master Enable refused: that queue pauses (R237; log entry 74). -/
def dqRecord1 (s : State) (q : Nat) : State :=
  match (dq s q).jobs with
  | j :: _ =>
    if 2 ≤ j.phase && j.writes == 0 then
      let h := halfOfDq q
      let ring := dqRing s q
      let t := ownTxn s h (dqCflow s q) .p .write (dqRec s q + 16 * (j.n % ring)) 16 (dqRecordBytes s q j)
      let s1 := submitP s { t with mark := .dqRecord q (descIrq j.desc) }
      let s2 := updDq s1 q fun d =>
        let turn := decide (ring ≤ d.passed + 1)
        { d with jobs := d.jobs.drop 1, cons := (j.n + 1) % 65536, last := j.status,
                 passed := if turn then 0 else d.passed + 1, phase := (if turn then !d.phase else d.phase) }
      if j.phase == 3 && !(j.status == 4 && dqPausedBme s q) then dqHalt s2 q j.status else s2
    else s
  | [] => s

/-- Fetched descriptors begin, in order, while the queue runs; paused or stopped, it starts none (R235, R237). -/
def dqBegins (s : State) (q : Nat) : State :=
  forAll s ((dq s q).jobs.filter fun j => j.phase == 0 && !j.desc.isEmpty) fun u j =>
    if dqRunning u q then dqBegin u q j else u

/-- Fetched descriptors begin; records in ring order, as far as descriptors are done; then the next fetch. -/
def dqAdvance (s : State) (q : Nat) : State :=
  dqFetch (forAll (dqBegins s q) (List.range 8) fun u _ => dqRecord1 u q) q

/-- Descriptors fetched by a request have arrived, or it failed: a failed fetch ends the first of
them (R236). -/
def dqOnDesc (s : State) (q first : Nat) (res : Except Nat (List Byte)) : State :=
  match res with
  | .error st => dqAdvance (dqFail s q first st) q
  | .ok data =>
    let n := data.length / 32
    dqAdvance (forAll s (List.range n) fun u i =>
      updJob u q ((first + i) % 65536) fun j => { j with desc := (data.drop (32 * i)).take 32 }) q

/-- Data of a descriptor has arrived, or its read failed. -/
def dqOnData (s : State) (q n : Nat) (res : Except Nat (List Byte)) : State :=
  match (dq s q).jobs.find? fun j => j.n == n with
  | none => s
  | some j =>
    match res with
    | .error st => dqAdvance (dqFail s q n st) q
    | .ok data =>
      if j.phase != 1 then dqAdvance s q
      else
        let s1 := dqWrites s q j data
        match (dq s1 q).jobs.find? fun x => x.n == n with
        | some k =>
          if k.phase != 1 then dqAdvance s1 q
          else if descLen k.desc ≤ k.wrote then dqAdvance (updJob s1 q n fun x => { x with phase := 2 }) q
          else dqAdvance (dqNextRead s1 q k) q
        | none => s1

/-- A write or record of the queue has been committed to its egress port: the record's IRQ raises the
queue's source. -/
def dqOnWrite (s : State) (q n : Nat) : State :=
  dqAdvance (updJob s q n fun j => { j with writes := j.writes - 1 }) q
def dqOnRecord (s : State) (q : Nat) (irq : Bool) : State :=
  onlyIf irq (fun t => arrive t (dqSrc t q)) s

end Sys2Proof.Machine
end

