-- ==== Sys2Proof/Machine/Mirror.lean ====
section
/-! DEFINITION. Latest-value mirroring (R194 to R204): groups, the store, passes in both directions,
stretch, pause and restart. -/

namespace Sys2Proof.Machine

/-- Word k (from 0) of a mirror group's objects (Table 07.8). -/
def mgw (s : State) (g k : Nat) : Nat := cfg s (halfOfMg g) (0x5C00 + g) (k + 1)
def mgEn (s : State) (g : Nat) : Bool := (mgw s g 0).testBit 0
def mgDown (s : State) (g : Nat) : Bool := (mgw s g 0).testBit 1
def mgLink (s : State) (g : Nat) : Nat := mgw s g 0 / 256 % 256
def mgStretchMax (s : State) (g : Nat) : Nat := mgw s g 0 / 65536 % 16
def mgFirst (s : State) (g : Nat) : Nat := mgw s g 1 % 4096
def mgCount (s : State) (g : Nat) : Nat := mgw s g 1 / 65536 % 8192
def mgStore (s : State) (g : Nat) : Nat := mgw s g 2 % 32768
def mgFlow (s : State) (g : Nat) : Nat := mgw s g 2 / 65536 % 16384
def mgPeriod (s : State) (g : Nat) : Nat := mgw s g 3 % 2 ^ 20

/-- The group's function as its flow names it. -/
def mgFn (s : State) (g : Nat) : Option Nat :=
  match flowSink s (halfOfMg g) (mgFlow s g) with | .fn n => some n | _ => none

/-- Dormant reason of R196, 0 none. -/
def mgDormant (s : State) (g : Nat) : Nat :=
  let h := halfOfMg g
  let f := mgFlow s g
  match flowSink s h f with
  | .fn n =>
    if !(flowEn s h f && flowSrc s h f == .link (mgLink s g)) then 1
    else if mgDown s g && (flowPartner s h f).isNone then 2
    else if !fnIsEnd s n then 3
    else if flowDormant s h f then 1
    else 0
  | _ => 1

/-- Pause reason of Table 07.5a, 0 none. -/
def mgPaused (s : State) (g : Nat) : Nat :=
  let x := mg s g
  if x.reason != 0 then x.reason
  else match mgFn s g with
    | none => 0
    | some n =>
      if pairLost s n then 3
      else if !masterOn s (activeFn s n) then 1
      else if !linkActive s (mgLink s g) || isFrozen s (mgLink s g) || isLost s (mgLink s g) then 4
      else if mgDown s g && !hasFeature s (mgLink s g) 0 then 5
      else 0

/-- Table address: ADDR_A for the primary, ADDR_B while its partner is active (R203). -/
def mgAddr (s : State) (g : Nat) : Nat :=
  let v := match mgFn s g with
    | some n => if activeFn s n == n then mgw s g 4 else mgw s g 5
    | none => mgw s g 4
  v / 64 * 64

/-- Store key of a half's word. -/
def storeKey (h : Half) (w : Nat) : Nat := halfIdx h * 32768 + w
def storeGet (s : State) (h : Half) (w : Nat) : W64 := Tab.get 0 s.brdg.store (storeKey h w)
def storePut (s : State) (h : Half) (w : Nat) (v : W64) : State :=
  updBrdg s fun b => { b with store := Tab.set 0 b.store (storeKey h w) v }

/-- Groups of a half. -/
def mgsOf (h : Half) : List Nat := span (256 * halfIdx h) 256

/-- The enabled group that maps word w of link l (R195: at most one). -/
def mgOfWord (s : State) (l w : Nat) : Option Nat :=
  (mgsOf (halfOfLink l)).find? fun g =>
    mgEn s g && mgLink s g == l && mgFirst s g ≤ w && w < mgFirst s g + mgCount s g

/-- Boundary spacing in µs. -/
def mgSpacing (s : State) (g : Nat) : Nat := mgPeriod s g * 2 ^ (mg s g).stretch

/-- A boundary arrives while a pass runs: skipped, counted, and the stretch adapts (R200). -/
def mgSkip (s : State) (g : Nat) : State :=
  let h := halfOfMg g
  let s1 := bump s 0x5E0A (hsub h)
  let k := (mg s1 g).stretch
  if k < mgStretchMax s1 g then
    onlyIf (k == 0) (fun t => raiseEv t h 8 g 1 0)
      (updMg s1 g fun x => { x with stretch := x.stretch + 1, halfRuns := 0 })
  else raiseEv s1 h 9 g k 0

/-- A pass ends: after 16 in a row within half the period in force, the stretch falls by 1 (R200). -/
def mgPassDone (s : State) (g : Nat) : State :=
  let quick := decide (2 * (s.clk - (mg s g).started) ≤ nsToClk (1000 * mgSpacing s g))
  updMg s g fun x =>
    let n := if quick then x.halfRuns + 1 else 0
    { x with running := false, doneSeq := x.seq, readDone := false,
             halfRuns := if n = 16 then 0 else n,
             stretch := if n = 16 then x.stretch - 1 else x.stretch }

/-- Pass sequence of a pass that starts now: 1 after enable, restart or a cut, else one more. -/
def mgStart (s : State) (g : Nat) : State :=
  updMg s g fun x => { x with seq := if x.fresh then 1 else (x.seq + 1) % 2 ^ 64, fresh := false,
                              resume := false, running := true, started := s.clk, changed := [], readDone := false }

/-- A write of the group's flow; never relaxed (R198). -/
def mgWrite (s : State) (g : Nat) (m : TMark) (off : Nat) (data : List Byte) : State :=
  let t := ownTxn s (halfOfMg g) (mgFlow s g) .p .write (mgAddr s g + off) data.length data
  submitP s { t with mark := m }

/-- Words of one 64-byte unit of the group's word space. -/
def mgUnit (s : State) (g u : Nat) : List Byte :=
  ((span (8 * u) (min 8 (mgCount s g - 8 * u))).map fun k =>
    bytesLE 8 (storeGet s (halfOfMg g) (mgStore s g + k)).toNat).flatten

/-- Join units that follow one another into runs of at most `mps` bytes that do not cross 4 KiB:
pairs of first unit and number of units. -/
def mgRuns (base mps : Nat) : List Nat → List (Nat × Nat)
  | [] => []
  | u :: t =>
    match mgRuns base mps t with
    | (v, n) :: rest =>
      if v = u + 1 ∧ 64 * (n + 1) ≤ mps ∧ (base + 0x40 + 64 * v) % 4096 ≠ 0 then (u, n + 1) :: rest
      else (u, 1) :: (v, n) :: rest
    | [] => [(u, 1)]

/-- Start an upward pass over the words marked changed (R198). -/
def mgPassUp (s : State) (g : Nat) : State :=
  let x := mg s g
  let words := if x.fresh || x.resume then List.range (mgCount s g) else x.changed
  if words.isEmpty then s
  else
    let units_ := (List.range (ceilDiv (mgCount s g) 8)).filter fun u => words.any fun w => w / 8 == u
    let n := match mgFn s g with | some n => activeFn s n | none => 0
    let s1 := mgStart s g
    let seq := (mg s1 g).seq
    let s2 := mgWrite s1 g (.mirror g) 0 (bytesLE 8 seq)
    let s3 := forAll s2 (mgRuns (mgAddr s g) (mps s n) units_) fun t (u, k) =>
      mgWrite t g (.mirror g) (0x40 + 64 * u) ((span u k).map (mgUnit t g)).flatten
    let s4 := mgWrite s3 g (.mirror g) 0x10
      (bytesLE 8 (timeNow s).toNat ++ bytesLE 8 x.superseded ++
       bytesLE 8 (mgSpacing s g + x.stretch * 2 ^ 32))
    mgWrite s4 g (.mirrorEnd g) 8 (bytesLE 8 seq)

/-- Start a downward pass: read words 0 to COUNT - 1 of the table (R201). -/
def mgPassDown (s : State) (g : Nat) : State :=
  let s1 := mgStart s g
  let s2 := updMg s1 g fun x => { x with readTime := (timeNow s).toNat,
                                         sentAny := x.sentAny && !(mg s g).fresh && !(mg s g).resume }
  let len := 8 * mgCount s g
  let t := ownTxn s2 (halfOfMg g) (mgFlow s g) .np .read (mgAddr s g + 0x40) len []
  (submitNp s2 (.mirror g) t len (readParts s2 t.sink 0 t.addr len)).2

/-- A downward read failed: nothing is sent, counted, MIRROR_READ_ERR (R202). -/
def mgReadErr (s : State) (g status : Nat) : State :=
  let h := halfOfMg g
  raiseEv (bump (updMg s g fun x => { x with running := false }) 0x5E0B (hsub h)) h 10 g status 0

/-- The table has been read: a STATE packet for each word that differs from the one last sent (all on
a first pass), in ascending order, in the partner flow (R201). -/
def mgOnRead (s : State) (g : Nat) (res : Except Nat (List Byte)) : State :=
  if !(mg s g).running then s
  else
    match res with
    | .error st => mgReadErr s g st
    | .ok data =>
      let h := halfOfMg g
      match flowPartner s h (mgFlow s g) with
      | none => mgReadErr s g 1
      | some p =>
        let x := mg s g
        let vals := (List.range (mgCount s g)).map fun k => (k, ofBytesLE ((data.drop (8 * k)).take 8))
        let diff := vals.filter fun (k, v) =>
          !x.sentAny || Tab.get 0 x.sentVals k != BitVec.ofNat 64 v
        let s1 := updMg s g fun y => { y with
          readDone := true, sentAny := true, acks := diff.length,
          sentVals := vals.foldl (fun t (k, v) => Tab.set 0 t k (BitVec.ofNat 64 v)) [] }
        forAll s1 diff fun u (k, v) =>
          let w := mgFirst u g + k
          let t := ownTxn u h p .p (.stateOut w) w 8 (bytesLE 8 v)
          addTxn u { t with mark := .mirrorState g }

/-- The group whose pass a transaction belongs to. -/
def mgOf (t : Txn) : Option Nat :=
  match t.mark with | .mirror g | .mirrorEnd g | .mirrorState g => some g | _ => none

/-- Forget a group's progress: at a cut that changes it, at a restart (R203, R204). What has begun to leave
completes; the rest of the pass is abandoned. -/
def mgRestart (s : State) (g : Nat) : State :=
  let s1 := updFab s fun x => { x with
    reqs := x.reqs.filter fun r => r.who != .mirror g
    txns := x.txns.filter fun t => !(mgOf t == some g && t.left == t.size) }
  updMg s1 g fun x => { x with seq := 0, doneSeq := 0, running := false, stretch := 0, halfRuns := 0,
                               reason := 0, fresh := true, resume := false, changed := [], sentVals := [], sentAny := false, acks := 0, readDone := false }

/-- Mirror budget (R200): a host link's writes spend it; 4 KiB may be spent ahead; it refills at
OD 0x5E20 Mb/s, that is value / 10,000 bytes per 0.8 ns cycle. The bucket table holds the bytes spent at
key m, the time of that count at 16 + m, the group last served plus 1 at 32 + m. -/
def budgetSpent (s : State) (m : Nat) : Nat :=
  Tab.get 0 s.brdg.bucket m - (s.clk - Tab.get 0 s.brdg.bucket (16 + m)) * cfg s (halfOfHl m) 0x5E20 (m + 1) / 10000
def budgetPut (s : State) (m v : Nat) : State :=
  updBrdg s fun b => { b with bucket := Tab.set 0 (Tab.set 0 b.bucket m v) (16 + m) s.clk }
def budgetPay (s : State) (m n : Nat) : State := budgetPut s m (budgetSpent s m + n)

/-- A mirror write toward host link m that waits in the ingress buffer. -/
def mirrorWrite (m : Nat) (t : Txn) : Bool :=
  t.left != 0 && (match t.mark, t.sink with | .mirror _, .fn n | .mirrorEnd _, .fn n => n / 64 == m | _, _ => false)

/-- The mirror write served next: the one begun, else the first of the group after the one last served, in
ascending number (R200). -/
def mirrorTurn (s : State) (m : Nat) : Option Txn :=
  let ts := s.fab.txns.filter (mirrorWrite m)
  match ts.find? fun t => t.left != t.size with
  | some t => some t
  | none =>
    let last := Tab.get 0 s.brdg.bucket (32 + m)
    let gs := ts.filterMap mgOf
    let g := (span last 512).find? fun g => gs.contains g
    match g with
    | some g => ts.find? fun t => mgOf t == some g
    | none => ts.foldl (fun a t => match a with
        | some u => if (mgOf t).getD 0 < (mgOf u).getD 0 then some t else some u
        | none => some t) none

/-- A mirror write that has left takes its group's turn. -/
def mirrorServed (s : State) (m g : Nat) : State :=
  updBrdg s fun b => { b with bucket := Tab.set 0 b.bucket (32 + m) (g + 1) }

end Sys2Proof.Machine
end

