-- ==== Sys2Proof/Machine/Deliver.lean ====
section
/-! DEFINITION. Returning completions to requesters (R167, R170, R205, R206), prefetch units and the
side-effect slot (R168 to R178), ending transactions on their way, timeouts of requests. -/

namespace Sys2Proof.Machine

/-! ## Prefetch units and the slot -/

def pfUnit? (s : State) (id : Nat) : Option PfUnit := s.brdg.units.find? fun u => u.id == id
def pfDrop (s : State) (id : Nat) : State :=
  updBrdg s fun b => { b with units := b.units.filter fun u => u.id != id }
def pfUpd (s : State) (id : Nat) (f : PfUnit → PfUnit) : State :=
  updBrdg s fun b => { b with units := b.units.map fun u => if u.id == id then f u else u }

/-- Half of a unit's function. -/
def pfHalf (u : PfUnit) : Half := halfOfHl (u.fn / 64)

/-- Event SE_DISCARD: the function event and the record (Tables 10.3, 10.7). -/
def seDiscard (s : State) (n off : Nat) : State :=
  raiseEv (fnEvent s n 1) (halfOfHl (n / 64)) 14 n 0 (off / 64)

/-- Data whose reading had a side effect is about to be lost: into the slot where it is free, else
logged and counted (R172, R174). -/
def seToSlot (s : State) (u : PfUnit) (data : List Byte) : State :=
  let h := pfHalf u
  if (fn s u.fn).slotVal then
    bump (logC s h 0x04 u.fn (addr := u.off) (addr2 := u.addr)) 0x4807 1
  else
    seDiscard (bump (updFn s u.fn fun f => { f with
      slotVal := true, slotTag := u.off, slotAddr := u.addr, slotData := exactly 64 data,
      slotClk := s.clk }) 0x4805 (hsub h)) u.fn u.off

/-- Discard a unit (R171): one held goes now, one in flight when its completion arrives. -/
def pfDiscard (s : State) (u : PfUnit) : State :=
  match u.st with
  | .got data se =>
    let s1 := bump (pfDrop s u.id) 0x4808 3
    if se then seToSlot s1 u data else s1
  | _ => pfUpd s u.id fun x => { x with drop := true }

/-- Discard every unit `p` chooses that no accepted read waits for. -/
def pfDiscardAll (s : State) (p : PfUnit → Bool) : State :=
  forAll s (s.brdg.units.filter fun u => p u && u.wins.isEmpty && !u.drop) pfDiscard

/-- Units of a flow's streams go when a posted write or AtomicOp is accepted in it (R171, R191). -/
def pfFlowWrite (s : State) (f : Nat) : State := pfDiscardAll s fun u => u.flow == f

/-- Data with a side effect is lost with an invalidated unit: logged and counted (R176, R178). -/
def pfLost (s : State) (u : PfUnit) (why : Nat) : State :=
  bump (logC s (pfHalf u) 0x06 u.fn (addr := u.off) (addr2 := u.addr) (detail := why)) 0x4807 4

/-- Invalidate units at re-initialisation (`why` 0) or at a cut (`why` 1): held data with a side effect is lost; a unit in
flight is dropped on arrival (R176, R178). One that a read accepted before the cut waits for still serves that read
(R177). -/
def pfInvalidate (s : State) (p : PfUnit → Bool) (why : Nat) : State :=
  forAll s (s.brdg.units.filter fun u => p u && (why == 0 || u.wins.isEmpty)) fun t u =>
    match u.st with
    | .got _ true => pfLost (pfDrop t u.id) u why
    | .got _ false => pfDrop t u.id
    | _ => pfUpd t u.id fun x => { x with drop := true, wins := [], gone := some why }

/-- Empty a function's slot in the same way. -/
def slotInvalidate (s : State) (n why : Nat) : State :=
  let f := fn s n
  if f.slotVal then
    bump (logC (updFn s n fun x => { x with slotVal := false, slotData := [] }) (halfOfHl (n / 64)) 0x06 n
      (addr := f.slotTag) (addr2 := f.slotAddr) (detail := why)) 0x4807 4
  else s

/-! ## Completions out of the device's own reach -/

/-- A completion cannot be delivered (R206): an error is discarded, logged, raised and counted; a
success counted; toward a re-initialised host link the port counts it too (R117). -/
def undeliverable (s : State) (r : Req) (status : Nat) : State :=
  let s1 := match r.who with
    | .host m _ _ _ _ => bumpR s (hpReg m 0x20)
    | _ => s
  let unit := match r.who with
    | .host m _ _ _ _ => unitHl m
    | .link l _ => l
    | .eng e _ => e
    | _ => 0
  let tag := match r.who with | .host _ _ t _ _ => t | .link _ t => t | .eng _ k => k | _ => 0
  if status = 0 then bump s1 0x5E18 (hsub r.half)
  else
    bump (raiseEv (logC s1 r.half 0x08 unit (status := status) (flow := r.flow) (tag := tag))
      r.half 11 r.flow status tag) 0x5E17 (hsub r.half)

/-- Its requester can no longer be answered: marked so, or a frozen or inactive link. -/
def cannotReach (s : State) (r : Req) : Bool :=
  r.dead || match r.who with
    | .link l _ => !anyActive s l || isFrozen s (tetherName s l)
    | .eng e _ => (eng s e).st == .halted || (eng s e).st == .notLoaded
    | _ => false

/-! ## Returning what has come back -/

/-- Data complete in address order, the first failing status met, and whether all is there. -/
def goodPrefix : List ReqPart → List Byte × Option Nat × Bool
  | [] => ([], none, true)
  | p :: t =>
    match p.st with
    | .got d _ =>
      let r := goodPrefix t
      (d ++ r.1, r.2.1, r.2.2)
    | .failed st => ([], some st, false)
    | _ => (p.buf, none, false)

/-- A part has neither ended nor failed. -/
def partOpen (p : ReqPart) : Bool := match p.st with | .waiting | .unit _ => true | _ => false

/-- Drop a request with the transactions of it that have not left. -/
def closeReq (s : State) (r : Req) : State :=
  dropReq (forAll s (s.fab.txns.filter fun t => t.req == r.id && t.kind == .np) fun u t => dropTxn u t.id) r.id

/-- The request ends with an error: what remains of it is released and the status returned. -/
def endReq (s : State) (r : Req) (status : Nat) (ch : Half) : State :=
  let s1 := if cannotReach s r then undeliverable s r status else sendCpl s r status [] r.sent
    (match r.who with | .host .. => r.len - r.sent | _ => 0) ch
  closeReq s1 r

/-- Largest multiple of 64 of the address reached by `n` more bytes from `a`. -/
def alignCut (a n : Nat) : Nat := (a + n) / 64 * 64 - a

/-- Address of the first byte of a request at its completer. -/
def reqAddr (r : Req) : Nat := match r.parts.head? with | some p => p.addr | none => 0

/-- Pass on what a host or local requester may have now (R136, R205): in address order; every
completion but the last ends on a 64-byte aligned address. -/
def deliverPlain (s : State) (r : Req) (ch : Half) : State :=
  let g := goodPrefix r.parts
  let new := g.1.drop r.sent
  if g.2.2 then
    dropReq (if cannotReach s r then undeliverable s r 0 else sendCpl s r 0 new r.sent 0 ch) r.id
  else
    match g.2.1 with
    | some st =>
      let s1 := if new.isEmpty || cannotReach s r then s
        else sendCpl s r 0 new r.sent (r.len - r.sent - new.length) ch
      endReq s1 ((req? s1 r.id).getD r) st ch
    | none =>
      let k := alignCut (reqAddr r + r.sent) new.length
      if k = 0 then s
      else if cannotReach s r then undeliverable (updReq s r.id fun x => { x with sent := r.sent + k }) r 0
      else sendCpl s r 0 (new.take k) r.sent (r.len - r.sent - k) ch

/-- The first beat that failed: offset and status. -/
def firstFail (r : Req) : Option (Nat × Nat) :=
  match r.parts.find? fun p => match p.st with | .failed _ => true | _ => false with
  | some p => some (p.off, match p.st with | .failed st => st | _ => 2)
  | none => r.stop

/-- A split read (R167): nothing until every issued beat is done, then one error or all the data. -/
def deliverSplit (s : State) (r : Req) (ch : Half) : State :=
  if r.parts.any partOpen then s
  else
    match firstFail r with
    | some (off, st) =>
      let h := r.half
      let s1 := bump (logC s h 0x02 r.win (flow := r.flow) (status := st) (addr := r.raddr + off)) 0x480B (hsub h)
      endReq s1 r (match r.who with | .host .. => 2 | _ => st) ch
    | none =>
      let d := (goodPrefix r.parts).1
      dropReq (if cannotReach s r then undeliverable s r 0 else sendCpl s r 0 d 0 0 ch) r.id

/-- Result of a request that is used as a whole. -/
def wholeResult (r : Req) : Option (Except Nat (List Byte)) :=
  let g := goodPrefix r.parts
  match r.parts.findSome? fun p => match p.st with | .failed st => some st | _ => none with
  | some st => some (.error st)
  | none => if g.2.2 then some (.ok g.1) else none

/-- Change a part of a request. -/
def updPart (s : State) (rid i : Nat) (f : ReqPart → ReqPart) : State :=
  updReq s rid fun r => { r with parts := r.parts.mapIdx fun j p => if j == i then f p else p }

/-- A read that waited for a unit which holds nothing fetches its bytes by a demand read (R170). -/
def demandPart (s : State) (r : Req) (i : Nat) (p : ReqPart) (u : PfUnit) : State :=
  let t := flowTxn s r.half u.flow .np .read p.addr p.len []
  addTxn (updPart s r.id i fun q => { q with st := .waiting })
    { t with req := r.id, part := i, cls := r.cls, reserved := decide (0 < r.resHdr) }

/-- Serve the parts of accepted reads that wait for a unit: with its data, or by demand reads. Answers
the requests touched. -/
def pfServe (s : State) (u : PfUnit) (data : Option (List Byte)) : State × List Nat :=
  let rs := s.fab.reqs.filter fun r => r.parts.any fun p => p.st == .unit u.id
  (forAll s rs fun t r => forAll t r.parts.zipIdx fun v (p, i) =>
    if p.st == .unit u.id then
      match data with
      | some d => updPart v r.id i fun q => { q with st := .got ((d.drop (p.addr - u.addr)).take p.len) false }
      | none => demandPart v r i p u
    else v, rs.map (·.id))

/-- Pass on what has come back for requests of hosts and local links. -/
def deliverOut (s : State) (rid : Nat) (ch : Half) : State :=
  match req? s rid with
  | none => s
  | some r => if r.split then deliverSplit s r ch else deliverPlain s r ch

/-- A prefetch completion (R170, R171): held; or discarded, to the slot with a side effect; or
nothing where its status or poison says so. -/
def pfArrive (s : State) (uid : Nat) (res : Except Nat (List Byte)) (se : Bool) (ch : Half) : State :=
  match pfUnit? s uid with
  | none => s
  | some u =>
    match res with
    | .error _ =>
      let p := pfServe (pfDrop s uid) u none
      p.1
    | .ok d =>
      if !u.wins.isEmpty then
        let p := pfServe (bump (pfDrop s uid) 0x4808 2) u (some d)
        forAll p.1 p.2 fun t rid => deliverOut t rid ch
      else if u.drop then
        match u.gone with
        | some why => onlyIf se (fun t => pfLost t u why) (pfDrop s uid)
        | none => onlyIf se (fun t => seToSlot t u d) (bump (pfDrop s uid) 0x4808 3)
      else pfUpd s uid fun x => { x with st := .got d se, clk := s.clk }

/-- Something came back for request `rid`: hand it to its requester. -/
def deliver (s : State) (rid : Nat) (ch : Half) : State :=
  match req? s rid with
  | none => s
  | some r =>
    match r.who with
    | .host .. | .link .. => deliverOut s rid ch
    | .eng _ _ =>
      match wholeResult r with
      | none => s
      | some (.ok d) =>
        dropReq (if cannotReach s r then undeliverable s r 0 else sendCpl s r 0 d 0 0 ch) rid
      | some (.error st) => endReq s r st ch
    | .dqDesc q n =>
      match wholeResult r with
      | none => s
      | some x => dqOnDesc (closeReq s r) q n x
    | .dqData q n =>
      match wholeResult r with
      | none => s
      | some x => dqOnData (closeReq s r) q n x
    | .mirror g =>
      match wholeResult r with
      | none => s
      | some x => mgOnRead (closeReq s r) g x
    | .prefetch _ _ _ u =>
      match wholeResult r with
      | none => s
      | some x =>
        let se := r.parts.any fun p => match p.st with | .got _ b => b | _ => false
        pfArrive (closeReq s r) u x se ch

/-- A part failed: in a split read no further beat is issued (R167). -/
def failPart (s : State) (rid i status : Nat) (ch : Half) : State :=
  match req? s rid with
  | none => s
  | some r =>
    let s1 := updPart s rid i fun p => { p with st := .failed status }
    let s2 := if r.split then
        let unsent := s1.fab.txns.filter fun t => t.req == rid && t.kind == .np
        forAll s1 unsent fun u t =>
          updPart (dropTxn u t.id) rid t.part fun p => if partOpen p then { p with st := .failed status } else p
      else s1
    deliver s2 rid ch

/-- Data arrived for a part; it is complete when all its bytes are there. -/
def gotPart (s : State) (rid i : Nat) (data : List Byte) (se : Bool) (ch : Half) : State :=
  deliver (updPart s rid i fun p =>
    let b := p.buf ++ data
    if p.len ≤ b.length then { p with buf := b, st := .got b se } else { p with buf := b }) rid ch

/-- End every part that is still open. -/
def failReq (s : State) (rid status : Nat) (ch : Half) : State :=
  match req? s rid with
  | none => s
  | some r =>
    match r.parts.findIdx? partOpen with
    | some i => failPart s rid i status ch
    | none => s

/-! ## Ending transactions before their sink -/

/-- End one transaction: a non-posted request completes with `status`, a posted write is dropped, a
completion discarded (R310, R334, R114). -/
def endTxn (s : State) (t : Txn) (status : Nat) : State :=
  let s1 := dropTxn s t.id
  match t.kind with
  | .np => failPart s1 t.req t.part status t.home
  | .p =>
    let s2 := droppedMark s1 t.mark status
    match t.mark with
    | .dqWrite q _ => dqAdvance s2 q
    | .splitBeat g win a =>
      let s3 := updFab s2 fun x => { x with splits := x.splits.filter fun f => f.id != g }
      let s4 := forAll s3 (s3.fab.txns.filter fun u => match u.mark with | .splitBeat k _ _ => k == g | _ => false)
        fun u b => if b.id < t.id then u else dropTxn u b.id
      bump (logC s4 t.ihalf 0x02 win (flow := t.flow) (addr := a)) 0x480B (hsub t.ihalf)
    | _ => s2
  | .cpl => s1

/-- End every transaction `p` chooses, counting each by `c`. -/
def endAll (s : State) (p : Txn → Bool) (status : Nat) (c : State → Txn → State) : State :=
  forAll s (s.fab.txns.filter p) fun u t => if (txn? u t.id).isSome then c (endTxn u t status) t else u

/-- A request toward a lost worker or link completes with all bytes 0xFF (R316). -/
def onesTxn (s : State) (t : Txn) : State :=
  let s1 := dropTxn s t.id
  match t.kind with
  | .np => gotPart s1 t.req t.part (ones (if t.len = 0 then 4 else t.len)) false t.home
  | _ => droppedMark s1 t.mark 2

end Sys2Proof.Machine
end

