-- ==== Sys2Proof/Machine/Egress.lean ====
section
/-! DEFINITION. Leaving the device: cluster memory (R159, R191), the host port's transmit queue (R45,
R46, R106, R108, R114), packets on a local link (R132 to R144, R229), and the link layer they pass. -/

namespace Sys2Proof.Machine

/-! ## Commitment -/

/-- A request has been delivered at its sink end (TX_BYTES, TX_PKTS). -/
def delivered (s : State) (t : Txn) : State :=
  if t.kind == .cpl then s
  else updFlow s t.flow fun x => { x with txBytes := (x.txBytes + payLen t) % 2 ^ 64,
                                          txPkts := (x.txPkts + 1) % 2 ^ 64 }

/-- A posted write has been committed to its egress port: it has left the device; the service that
issued it hears of it. -/
def commitP (s : State) (t : Txn) : State :=
  let s1 := delivered (dropTxn s t.id) t
  match t.mark with
  | .dqWrite q n => dqOnWrite s1 q n
  | .dqRecord q irq => dqOnRecord s1 q irq
  | _ => s1

/-! ## Cluster memory -/

/-- Result of an atomic on a little-endian value of `n` bytes: the new value. CAS carries its compare
operand first (R191, R193). -/
def atomicNew (op : AtomicOp) (n old : Nat) (operands : List Byte) : Nat :=
  let a := ofBytesLE (operands.take n)
  match op with
  | .fetchAdd => (old + a) % 2 ^ (8 * n)
  | .swap => a
  | .cas => if old = a then ofBytesLE ((operands.drop n).take n) else old

/-- Bytes an atomic returns: half its operands for CAS. -/
def atomicLen (op : AtomicOp) (operands : Nat) : Nat := match op with | .cas => operands / 2 | _ => operands

/-- Cluster memory serves a request of a cluster-memory sub-window (R159). -/
def clusterServe (s : State) (c : Nat) (t : Txn) : State :=
  match t.op with
  | .write =>
    commitP (updClus s c fun x => { x with mem := writeBytes 0 x.mem t.addr t.data }) t
  | .read =>
    let s1 := delivered (dropTxn s t.id) t
    gotPart s1 t.req t.part (readBytes 0 (clus s c).mem t.addr t.len) false t.home
  | .atomic op =>
    let n := atomicLen op t.data.length
    let old := readBytes 0 (clus s c).mem t.addr n
    let new := bytesLE n (atomicNew op n (ofBytesLE old) t.data)
    let s1 := updClus (delivered (dropTxn s t.id) t) c fun x => { x with mem := writeBytes 0 x.mem t.addr new }
    gotPart s1 t.req t.part old false t.home
  | _ => dropTxn s t.id

/-! ## Host ports -/

/-- Tags a function may use: first value, how many values, how many at once (Table 04.10; the values
of 10-bit and 14-bit tags: log entry 11). -/
def tagSpace (s : State) (n : Nat) : Nat × Nat × Nat :=
  if (hl s (n / 64)).flit && tag14En s n then (1024, 15360, 4096)
  else if tag10En s n then (256, 768, 768)
  else (0, 256, 256)

/-- Tags of a side that are in use or quarantined. -/
def tagBusy (s : State) (side : TagSide) (tag : Nat) : Bool :=
  s.fab.tags.any (fun u => u.side == side && u.tag == tag) ||
  s.fab.quars.any (fun u => u.side == side && u.tag == tag)
def tagsHeld (s : State) (side : TagSide) : Nat :=
  (s.fab.tags.filter fun u => u.side == side).length + (s.fab.quars.filter fun u => u.side == side).length

/-- Requests outstanding on a host port. -/
def portOpen (s : State) (p : Nat) : Nat :=
  (s.fab.tags.filter fun u => match u.side with | .host m => m.val / 4 == p | _ => false).length

/-- A free tag from a space: which one is a free value (R106, R136; log entry 1). -/
def pickTag (s : State) (side : TagSide) (sp : Nat × Nat × Nat) : Option Nat × State :=
  if sp.2.2 ≤ tagsHeld s side then (none, s)
  else
    let k := takeFree s
    ((List.range sp.2.1).findSome? fun i =>
      let t := sp.1 + (k.1 + i) % sp.2.1
      if tagBusy s side t then none else some t, k.2)

/-- Host link and local link numbers as the commands carry them. -/
def hostSide (m : Nat) : TagSide := .host (Fin.ofNat 16 m)
def linkSide (l : Nat) : TagSide := .link (Fin.ofNat 192 l)

/-- Take a tag for a part of a request that leaves now. -/
def takeTag (s : State) (side : TagSide) (tag : Nat) (t : Txn) (n : Nat) : State :=
  updFab s fun x => { x with tags := x.tags ++ [⟨side, tag, t.req, t.part, n, s.clk, false, false⟩] }

/-- Traffic class of a class: TC7 for C0 (R40). -/
def tcOf (c : Nat) : Nat := if c = 0 then 7 else 0

/-- Cut a run at address `a` into pieces that end at multiples of `k`. -/
def cutAt (k : Nat) : Nat → Nat → List Byte → List (Nat × List Byte)
  | 0, _, _ => []
  | n + 1, a, bs =>
    if bs.isEmpty ∨ k = 0 then []
    else
      let m := k - a % k
      (a, bs.take m) :: cutAt k n (a + m) (bs.drop m)

/-- Posted write TLPs, each at most Max Payload Size (R108); RO and IDO by R46. -/
def hostWriteOut (s : State) (n : Nat) (t : Txn) : State :=
  let ro := t.ro && !t.fence && roEn s n && flowRelaxed s t.home t.flow
  if t.data.isEmpty then
    tlpOut s (n / 64) (.memWrite n t.addr [] ro t.poison t.ns (idoReq s n) (tcOf t.cls))
  else
    forAll s (cutAt (mps s n) (t.data.length + 1) t.addr t.data) fun u (a, bs) =>
      tlpOut u (n / 64) (.memWrite n a bs ro t.poison t.ns (idoReq s n) (tcOf t.cls))

/-- Read Completion Boundary of a function's Link Control. -/
def rcb (s : State) (n : Nat) : Nat := if bit (cs s n 0x80) 3 then 128 else 64

/-- Pieces of a completion: at most Max Payload Size, cut at the Read Completion Boundary (R108). -/
def cplPieces (lim : Nat) : Nat → Nat → List Byte → List (List Byte)
  | 0, _, _ => []
  | n + 1, a, bs =>
    let k := lim - a % lim
    if bs.length ≤ k ∨ k = 0 then [bs] else bs.take k :: cplPieces lim n (a + k) (bs.drop k)

/-- Completion TLPs toward a host (Table 07.5): the data; or the status, with the AER bit of Table
11.1 in the function; POISON returns the outstanding bytes as zeros with EP = 1. -/
def hostCplOut (s : State) (n : Nat) (t : Txn) : State :=
  match t.op with
  | .cpl st rem _ tag =>
    let m := n / 64
    let ido := idoCpl s n
    let pieces (bs : List Byte) (ep : Bool) (rest : Nat) (u : State) : State :=
      (forAll (u, bs.length) (cplPieces (max (rcb s n) (mps s n)) (bs.length + 1) t.addr bs) fun v p =>
        (tlpOut v.1 m (.cplData tag p (rest + v.2 - p.length) ep t.ro ido), v.2 - p.length)).1
    if st = 0 then
      if t.data.isEmpty then tlpOut s m (.cpl tag .sc rem) else pieces t.data t.poison rem s
    else if st = 7 then pieces (List.replicate rem 0) true 0 s
    else if st = 1 then tlpOut (aerURc s n) m (.cpl tag .ur rem)
    else tlpOut (aerCAc s n) m (.cpl tag .ca rem)
  | _ => s
where
  forAll {σ α : Type} (x : σ) (l : List α) (f : σ → α → σ) : σ := l.foldl f x

/-- Try to send one transaction that has arrived at the host port: in lane order, past its fence, with
the link up, bus mastering on and a tag free (R43, R47, R106, R114). -/
def hostCommit (s : State) (id : Nat) : State :=
  match txn? s id with
  | none => s
  | some t =>
    match (if t.kind == .cpl then t.sink else sinkNow s t.sink) with
    | .fn n =>
      let m := n / 64
      if t.arrived < t.size || !t.fenceOk || egressBlocked s t || !(hl s m).dlActive ||
          (t.kind != .cpl && (fn s n).switching) then s
      else
        match t.kind, t.op with
        | .cpl, _ => hostCplOut (dropTxn s id) n t
        | .p, .message _ => s
        | .p, _ =>
          match gate s (.fn n) with
          | .pass => commitP (hostWriteOut s n t) t
          | .refuse st => endTxn (gateCount s t.home (.fn n) .p (.refuse st)) t st
          | .allOnes => s
        | .np, op =>
          match gate s (.fn n) with
          | .refuse st => endTxn (gateCount s t.home (.fn n) .np (.refuse st)) t st
          | _ =>
            let isA := match op with | .atomic _ => true | _ => false
            if isA && !atomicReqEn s n then endTxn (bump s 0x5E0C (hsub t.home)) t 1
            else if 4096 ≤ portOpen s (m / 4) then s
            else
              match pickTag s (hostSide m) (tagSpace s n) with
              | (none, _) => s
              | (some tag, s1) =>
                let s2 := takeTag (delivered (dropTxn s1 id) t) (hostSide m) tag t n
                match op with
                | .atomic a => tlpOut s2 m (.atomic n t.addr a t.data tag (tcOf t.cls))
                | _ => tlpOut s2 m (.memRead n t.addr t.len tag false t.ns (idoReq s n) (tcOf t.cls))
    | _ => s

/-- Serve what has arrived at a sink: cluster memory, or the host port's transmit queue. -/
def settleTxn (s : State) (id : Nat) : State :=
  match txn? s id with
  | none => s
  | some t =>
    match t.mark, t.kind with
    | .cluster c, .p | .cluster c, .np =>
      if t.arrived < t.size || egressBlocked s t then s else clusterServe s c t
    | _, _ => hostCommit s id

/-- Everything that can leave now toward hosts and cluster memory, in order of acceptance. -/
def settle (s : State) : State :=
  forAll s (s.fab.txns.filter fun t => t.size ≤ t.arrived) fun u t => settleTxn u t.id

/-! ## Packets -/

/-- Header bytes 0 to 11 (Table 05.5). -/
def hdrBytes (p : Pkt) : List Byte :=
  let f := p.flow.toNat
  let g := p.tag.toNat
  let l := p.len.toNat
  let q := p.seq.toNat
  [ BitVec.ofNat 8 (p.typ.toNat * 16 + p.cls.toNat * 4 + flag p.fence 1 + flag p.lock 0),
    BitVec.ofNat 8 (flag p.se 7 + flag p.poison 6 + f / 256),
    BitVec.ofNat 8 f,
    BitVec.ofNat 8 (g / 16),
    BitVec.ofNat 8 (g % 16 * 16 + l / 64),
    BitVec.ofNat 8 (l % 64 * 4 + q / 256),
    BitVec.ofNat 8 q ] ++ bytesBE 5 p.addr.toNat

/-- CRC of R133: header, four zero bytes, payload. -/
def pktCrc (p : Pkt) : W32 := crc32c (hdrBytes p ++ [0, 0, 0, 0] ++ p.payload)

/-- Credit cost in 64-byte units (Table 05.6): kind (none: credit-free) and units. -/
def pktCost (typ len : Nat) : Option Kind × Nat :=
  match typ with
  | 1 => (some .p, 1 + units len)
  | 2 => (some .np, 1)
  | 4 | 5 | 8 => (some .p, 2)
  | 6 => (some .np, 2)
  | 7 => (some .np, 1)
  | _ => (none, 0)

/-- Set the element at a class. -/
def setAt (l : List Nat) (i v : Nat) : List Nat := l.mapIdx fun j x => if j == i then v else x

/-- Credit for a packet of class `c` and cost `n` (R144): the kind advertised since Active, and
LIMIT - CONSUMED - n below 2,048. -/
def creditOk (x : LlSt) (np : Bool) (c n : Nat) : Bool :=
  let lim := if np then x.limNp else x.limP
  let con := if np then x.conNp else x.conP
  (if np then x.gotNp else x.gotP) && decide ((lim.getD c 0 + 8192 - con.getD c 0 - n) % 4096 < 2048)

/-- Spend credit. -/
def spend (x : LlSt) (np : Bool) (c n : Nat) : LlSt :=
  if np then { x with conNp := setAt x.conNp c ((x.conNp.getD c 0 + n) % 4096) }
  else { x with conP := setAt x.conP c ((x.conP.getD c 0 + n) % 4096) }

/-- Put a packet on the link: it takes the next SEQ and its CRC, is copied into the replay buffer, and
is counted (R133, R141). -/
def sendPkt (s : State) (l : Nat) (p : Pkt) (txn : Nat) (src : Option End) : State :=
  let p1 := { p with seq := BitVec.ofNat 10 (link s l).txSeq }
  let p2 := { p1 with crc := pktCrc p1 }
  let s1 := updLink s l fun x => { x with txSeq := (x.txSeq + 1) % 1024,
                                          replay := x.replay ++ [⟨p2.seq.toNat, p2, txn, src, 1⟩] }
  emit (bumpR s1 (llReg l 0x010)) (.packet l p2)

/-- A packet of the link layer's own, or one of a lost bond member: sent at once, or kept until the replay
buffer has room (R141). -/
def linkSend (s : State) (l : Nat) (p : Pkt) (txn : Nat) (src : Option End) : State :=
  if (link s l).replay.length < 256 && (link s l).owed.isEmpty then sendPkt s l p txn src
  else updLink s l fun x => { x with owed := x.owed ++ [⟨0, p, txn, src, 0⟩] }

/-- Packets kept back leave while the replay buffer has room, oldest first. A PING's round trip counts from
here. -/
def drainOwed (s : State) (l : Nat) : State :=
  forAll s (link s l).owed fun u r =>
    if 256 ≤ (link u l).replay.length then u
    else
      let u1 := updLink u l fun x => { x with owed := x.owed.drop 1 }
      let u2 := onlyIf (r.pkt.typ == 0) (fun t => updFab t fun x => { x with tags := x.tags.map fun g =>
        if g.ping && g.fn == l && g.tag == r.pkt.tag.toNat then { g with sent := t.clk } else g }) u1
      sendPkt u2 l r.pkt r.txn r.src

/-- A packet with nothing but its type, class, flow, tag, address and payload. -/
def mkPkt (typ cls flow tag len addr : Nat) (payload : List Byte) : Pkt :=
  { typ := BitVec.ofNat 4 typ, cls := BitVec.ofNat 2 cls, fence := false, lock := false, se := false,
    poison := false, flow := BitVec.ofNat 14 flow, tag := BitVec.ofNat 12 tag, len := BitVec.ofNat 10 len,
    seq := 0, addr := BitVec.ofNat 40 addr, payload := payload, crc := 0, errored := false }

/-- A completion with an error status that the bridge returns at the link itself (R33, R137, R311). -/
def linkCpl (s : State) (l : Nat) (req : Pkt) (status : Nat) : State :=
  if linkActive s l then
    linkSend s l (mkPkt 3 req.cls.toNat req.flow.toNat req.tag.toNat 0 (status * 2 ^ 36) []) 0 none
  else s

/-- Link shaper refill: capacity Mb/s is capacity / 10,000 bytes a cycle, to a depth of 4 KiB
(R229). -/
def shRefill (s : State) (x : LlSt) : LlSt :=
  match x.shTok with
  | none => x
  | some t =>
    let acc := x.shFrac + (s.clk - x.shClk) * x.capacity
    { x with shTok := some (min (t + (acc / 10000 : Nat)) 4096), shFrac := acc % 10000, shClk := s.clk }

/-- Bytes a packet occupies on the link (R229). -/
def onLink (len : Nat) : Nat := 16 + 8 * ceilDiv len 8

/-- A bond's key, and the number that places an ordering lane on a member: the lower of the flow and its
partner (R150). -/
def bondKey (s : State) (l : Nat) : Nat := halfIdx (halfOfLink l) * 8 + portBond s (l / 4)
def laneKey (s : State) (h : Half) (f : Nat) : Nat :=
  match flowPartner s h f with | some p => min f p | none => f

/-- The member of a bond that carries the lane of flow f: by its number modulo the members in Active, or
the one it still uses until its next idle point (R150). -/
def laneMember (s : State) (l f : Nat) : Nat :=
  if portBond s (l / 4) = 0 then l
  else
    let k := laneKey s (halfOfLink l) f
    let now := (bondMembers s l).filter (linkActive s)
    let b := Tab.get (([], []) : List Nat × List Nat) s.fab.bonds (bondKey s l)
    let byNumber := if now.isEmpty then l else now.getD (k % now.length) l
    match (b.1.zip b.2).find? fun p => p.1 == k with
    | some p => if linkActive s p.2 then p.2 else byNumber
    | none => byNumber

/-- Largest payload of the next packet of `t`: RX_MAX_PAYLOAD; a completion ends on a 64-byte aligned
address where it is not the last (R136, R138). -/
def nextLen (s : State) (l : Nat) (t : Txn) : Nat :=
  let rest := t.data.length - t.sent
  let k := min rest (rxMaxPayload s l)
  match t.op with
  | .cpl .. => if k < rest then alignCut (t.addr + t.sent) k else k
  | .write => k
  | _ => rest

/-- ADDR of an atomic: the address with the operation in bits [1:0] (Table 05.7). -/
def atomicCode : AtomicOp → Nat
  | .fetchAdd => 0
  | .swap => 1
  | .cas => 2

/-- The next packet of a transaction, its TAG given. -/
def pktOf (t : Txn) (k tag : Nat) : Pkt :=
  let bs := (t.data.drop t.sent).take k
  let p := match t.op with
    | .read => mkPkt 2 t.cls t.flow tag t.len t.addr []
    | .atomic a => mkPkt 6 t.cls t.flow tag t.data.length (t.addr / 4 * 4 + atomicCode a) t.data
    | .cpl st rem off tg =>
      mkPkt 3 t.cls t.flow tg k
        (st * 2 ^ 36 + (if st = 0 then rem + (t.data.length - t.sent - k) else 0) * 2 ^ 26 +
         (off + t.sent) * 2 ^ 16) bs
    | .stateOut w => mkPkt 5 t.cls t.flow 0 8 w t.data
    | _ => mkPkt 1 t.cls t.flow 0 k (t.addr + t.sent) bs
  { p with poison := (t.poison && t.kind != .cpl), se := t.se }

/-- May this transaction's next packet start on the link (R43, R47, R141, R144, R149, R309, R336)? -/
def mayStart (s : State) (l : Nat) (t : Txn) : Bool :=
  let x := link s l
  let k := nextLen s l t
  let p := pktOf t k 0
  let c := pktCost p.typ.toNat k
  (match t.sink with | .link a => (bondMembers s a).contains l && laneMember s a t.flow == l | _ => false) &&
  linkActive s l && !isFrozen s (tetherName s l) && !isLost s (tetherName s l) &&
  t.fenceOk && !egressBlocked s t &&
  (match t.kind with
   | .np => decide (t.size ≤ t.arrived)
   | _ => decide (min t.size (t.sent + k) ≤ t.arrived)) &&
  decide (x.replay.length < 256) && x.owed.isEmpty &&
  !(x.paused.any fun (f, _) => f == t.flow && t.kind != .cpl) &&
  (match c.1 with
   | some kd => creditOk x (kd == .np) t.cls c.2
   | none => true)

/-- The sink's gate: a transaction toward a frozen or lost link ends here (R310, R316). -/
def gateTxn (s : State) (t : Txn) : Option State :=
  match gate s t.sink with
  | .pass => none
  | .refuse st => some (endTxn (gateCount s t.home t.sink t.kind (.refuse st)) t st)
  | .allOnes => some (onesTxn (gateCount s t.home t.sink t.kind .allOnes) t)

/-- Start the next packet of a transaction: credit and replay space are taken; a transaction whose
last packet has started is committed, a request holds its tag, a zero-length write leaves without a
packet (R55, R141, R144). -/
def startPacket (s : State) (l : Nat) (t : Txn) : State :=
  let isW := match t.op with | .write => true | _ => false
  if isW && t.data.isEmpty then commitP s t
  else
    let k := nextLen s l t
    match t.kind with
    | .np =>
      match pickTag s (linkSide (tetherName s l)) (0, 4096, 4096) with
      | (none, _) => s
      | (some tag, s1) =>
        let p := pktOf t k tag
        let c := pktCost p.typ.toNat k
        let s2 := updLink s1 l fun x => spend x true t.cls c.2
        takeTag (delivered (dropTxn (sendPkt s2 l p t.id (some t.src)) t.id) t) (linkSide (tetherName s l)) tag t 0
    | .p =>
      let p := pktOf t k 0
      let c := pktCost p.typ.toNat k
      let s1 := sendPkt (updLink s l fun x => spend x false t.cls c.2) l p t.id (some t.src)
      if t.data.length ≤ t.sent + k then commitP s1 t
      else updTxn s1 t.id fun u => { u with sent := u.sent + k }
    | .cpl =>
      let s1 := sendPkt s l (pktOf t k 0) t.id none
      if t.data.length ≤ t.sent + k then dropTxn s1 t.id
      else updTxn s1 t.id fun u => { u with sent := u.sent + k }

/-! ## Credit returned to a local link (R144, R145) -/

/-- OD 0x3005 and 0x3006: the grant of a sub-link and class. -/
def grant (s : State) (l : Nat) (np : Bool) (c : Nat) : Nat :=
  cfg s (halfOfLink l) ((if np then 0x3006 else 0x3005) + 0x20 * (l / 4)) (4 * (l % 4) + c + 1)

/-- The CREDIT block of a kind. -/
def creditBlock (s : State) (l : Nat) (np : Bool) : State :=
  emit s (.block l (.credit np (if np then (link s l).advNp else (link s l).advP)))

/-- The LIMIT may stand at most the grant ahead of the units received, and never 2,048 (R144, R145);
what a packet that left the ingress buffer gives back advances it by its cost, and a CREDIT block
follows. A starved LIMIT stands still (R442). -/
def advance (s : State) (l : Nat) (np : Bool) (c n : Nat) : State :=
  if !linkActive s l || n = 0 || starving s l np c then s
  else
    let x := link s l
    let adv := (if np then x.advNp else x.advP).getD c 0
    let rx := (if np then x.rxNp else x.rxP).getD c 0
    let want := (rx + grant s l np c) % 4096
    let step := (want + 4096 - adv) % 4096
    let k := if step < 2048 then min n step else 0
    if k = 0 then s
    else
      let v := (adv + k) % 4096
      creditBlock (updLink s l fun y =>
        if np then { y with advNp := setAt y.advNp c v } else { y with advP := setAt y.advP c v }) l np

/-- Cost a transaction from a local link was accepted at. -/
def txnCost (t : Txn) : Nat :=
  match t.op with
  | .write => 1 + units t.data.length
  | .read | .lockAcq => 1
  | _ => 2

/-- The last byte of a transaction has left the ingress buffer: its space is returned (R39), to the
class its credit was taken from (R137). -/
def leftIngress (s : State) (t : Txn) : State :=
  match t.src, t.kind with
  | .link _, .p => advance s t.via false t.crCls (txnCost t)
  | .link _, .np => advance s t.via true t.crCls (txnCost t)
  | _, _ => s

end Sys2Proof.Machine
end

