-- ==== Sys2Proof/Machine/Crossing.lean ====
section
/-! DEFINITION. Cells (R14): leaving the ingress buffer, crossing to the egress, the vat or the die
link (R16, R39, R222, R223), errors they meet (R306), and the choice a calendar slot makes (R52,
R220). -/

namespace Sys2Proof.Machine

/-- Doorbells, state words, acquires and zero-length reads wait in the ingress buffer for their own
rule (R45, R55, R185, R197). -/
def waitsForRule (t : Txn) : Bool :=
  match t.op, t.mark with
  | .doorbell _, _ | .state _, _ | .lockAcq, _ => true
  | _, .zeroRead _ => true
  | _, _ => false

/-- A mirror write may enter the fabric in its group's turn and within its host link's budget (R200). -/
def budgetOk (s : State) (t : Txn) : Bool :=
  match t.mark, t.sink with
  | .mirror _, .fn n | .mirrorEnd _, .fn n =>
    (match mirrorTurn s (n / 64) with | some u => u.id == t.id | none => false) &&
    (t.left != t.size || decide (budgetSpent s (n / 64) + t.data.length ≤ 4096))
  | _, _ => true

/-- The next bytes of the transaction may leave its ingress buffer. -/
def mayLeave (s : State) (t : Txn) : Bool :=
  decide (t.left ≠ 0) && t.reserved && !waitsForRule t && !laneBlocked s t && budgetOk s t

/-- Move up to `room` bytes of a transaction out of its ingress buffer; space is returned when the last
has left. -/
def takeBytes (s : State) (t : Txn) (room : Nat) : Nat × State :=
  let k := min t.left room
  let s1 := updTxn s t.id fun u => { u with left := u.left - k }
  let s2 := match t.mark, t.sink with
    | .mirror g, .fn n | .mirrorEnd g, .fn n => mirrorServed (budgetPay s1 (n / 64) k) (n / 64) g
    | _, _ => s1
  (k, if t.left ≤ k then leftIngress s2 t else s2)

/-- Fill a cell with packets of one flow back to back (R14): transactions of the same flow, kind and
egress that are ready, in order, up to `room` bytes. -/
def fillCell : Nat → State → Txn → Nat → List (Nat × Nat) × State
  | 0, s, _, _ => ([], s)
  | n + 1, s, t, room =>
    let p := takeBytes s t room
    if p.1 = 0 then ([], s)
    else
      let rest := room - p.1
      let next := p.2.fab.txns.find? fun u =>
        u.flow == t.flow && u.kind == t.kind && u.ihalf == t.ihalf && u.sink == t.sink &&
        u.cls == t.cls && u.id != t.id && u.left != 0
      match next with
      | some u =>
        if rest = 0 || !mayLeave p.2 u then ([(t.id, p.1)], p.2)
        else
          let q := fillCell n p.2 u rest
          ((t.id, p.1) :: q.1, q.2)
      | none => ([(t.id, p.1)], p.2)

/-- Bytes of a cell. -/
def cellBytes (ps : List (Nat × Nat)) : Nat := (ps.map (·.2)).sum

/-- Bytes reach the egress port; what can leave toward hosts and cluster memory leaves. -/
def arriveBytes (s : State) (ps : List (Nat × Nat)) : State :=
  settle (forAll s ps fun u (id, n) => updTxn u id fun t => { t with arrived := t.arrived + n })

/-- Put a cell into a place. -/
def putCell (s : State) (h : Half) (t : Txn) (ps : List (Nat × Nat)) (pl : CellPlace) : State :=
  let id := s.nextId
  updFab { s with nextId := id + 1 } fun x => { x with cells := x.cells ++
    [⟨id, h, t.flow, t.kind, t.cls, ps, cellBytes ps, pl⟩] }

/-- The flow waits for link capacity: what has reached the egress is held by the link shaper, so further
cells stay in the vat (R230). -/
def capWaits (s : State) (f : Nat) : Bool :=
  (flowSt s f).capHeld && s.fab.txns.any fun t => t.flow == f && t.kind != .cpl && decide (t.size ≤ t.arrived)

/-- What has reached the cluster port and is no service event yet holds the flow's further cells in the vat
(R251, R264). -/
def svcWaits (s : State) (f : Nat) : Bool :=
  s.fab.txns.any fun t => t.flow == f && t.kind != .cpl && decide (t.size ≤ t.arrived) &&
    (match t.sink, t.mark with | .eng _, .cluster _ => false | .eng _, _ => true | _, _ => false) &&
    (match t.op with | .doorbell _ => false | _ => true)

/-- A cell of the transaction may cut through to the egress now (R223): the output is free, no earlier
cell of the flow waits, and the flow is not shaped (R219). Completions move in reserved space and
never wait in the vat. -/
def cutsThrough (s : State) (t : Txn) (outFree : Bool) : Bool :=
  outFree && (t.kind == .cpl || (!flowWaits s t.home t.flow && !shaped s t.home t.flow && !capWaits s t.flow && !svcWaits s t.flow &&
    !(match t.sink with | .link l => isFrozen s (tetherName s l) | _ => false)))

/-- The home half can take a cell of this transaction. -/
def homeTakes (s : State) (t : Txn) : Bool :=
  t.kind == .cpl || (holdPlace s t.home t.flow t.cls).isSome ||
  (!flowWaits s t.home t.flow && !shaped s t.home t.flow)

/-- A cell that nothing can take: toward a frozen link its transaction ends (R310); otherwise its flow
is held back (R222 step 4). -/
def cannotPlace (s : State) (t : Txn) : State :=
  match t.sink with
  | .link l =>
    if isFrozen s (tetherName s l) then endTxn (countFrozen s t.home t.kind) t 2 else holdBack s t
  | _ => holdBack s t

/-- One cell of the transaction leaves the ingress buffer of half h (R39). -/
def crossIngress (s : State) (t : Txn) (outFree : Bool) : State :=
  if !mayLeave s t then s
  else
    let go (pl : Option CellPlace) : State :=
      let r := fillCell 256 s t 256
      match pl with
      | none => arriveBytes r.2 r.1
      | some p => putCell r.2 t.home t r.1 p
    if t.home != t.ihalf then
      if !crossOk s || !outFree then s
      else if homeTakes s t then go (some .die)
      else cannotPlace s t
    else if cutsThrough s t outFree then go none
    else if t.kind == .cpl then s
    else
      match holdPlace s t.home t.flow t.cls with
      | some p => go (some p)
      | none => cannotPlace s t

/-- Every transaction of a cell has been released by its flow's shaper (R219). -/
def cellReleased (s : State) (c : Cell) : Bool :=
  !shaped s c.half c.flow || c.parts.all fun p => match txn? s p.1 with | some t => t.released || payLen t == 0 | none => true

/-- The flow of a held cell may move again once a place is free (R42). -/
def tryLetGo (s : State) (h : Half) (f cls : Nat) : State :=
  if (flowSt s f).paused && ((holdPlace s h f cls).isSome || !flowWaits s h f) then letGo s f else s

/-- A cell of the vat may cross: first of its flow's head, released, its link not frozen. -/
def cellReady (s : State) (c : Cell) : Bool :=
  (c.place == .head || c.place == .c0) &&
  (match flowHead s c.half c.flow with | some d => d.id == c.id | none => false) &&
  cellReleased s c && !capWaits s c.flow && !svcWaits s c.flow &&
  !(match cellTxn s c with
    | some t => (match t.sink with | .link l => isFrozen s (tetherName s l) | _ => false)
    | none => false)

/-- A held cell crosses the press to its egress port. -/
def crossVat (s : State) (c : Cell) : State :=
  let s1 := updFab s fun x => { x with cells := x.cells.filter fun d => d.id != c.id }
  tryLetGo (arriveBytes s1 c.parts) c.half c.flow c.cls

/-- A cell that has crossed the die link: to its egress where it may cut through, else held; a cell
without a place waits for the next attempt. -/
def dieArrive (s : State) (c : Cell) (outFree : Bool) : State :=
  match cellTxn s c with
  | none => updFab s fun x => { x with cells := x.cells.filter fun d => d.id != c.id }
  | some t =>
    if cutsThrough s t outFree then
      arriveBytes (updFab s fun x => { x with cells := x.cells.filter fun d => d.id != c.id }) c.parts
    else if t.kind == .cpl then s
    else
      match holdPlace s c.half c.flow c.cls with
      | some p => updFab s fun x => { x with
          cells := (x.cells.filter fun d => d.id != c.id) ++ [{ c with place := p }] }
      | none => s

/-! ## Errors a cell meets (R306) -/

/-- An uncorrectable word poisons its transaction; a completion ends its request with the poisoned
status, and nothing more of it follows (Table 07.5). -/
def poisonTxn (s : State) (id : Nat) : State :=
  match txn? s id with
  | none => s
  | some t =>
    match t.op with
    | .cpl _ rem off tg =>
      let s1 := updTxn s id fun u => { u with op := .cpl 7 (rem + u.data.length) off tg, data := [], poison := true }
      let later := s1.fab.txns.filter fun u => u.kind == .cpl && u.req == t.req && u.req != 0 && u.id != id
      let s2 := forAll s1 later fun v u => dropTxn v u.id
      match req? s2 t.req with
      | some r => closeReq s2 r
      | none => s2
    | _ => updTxn s id fun u => { u with poison := true }

/-- A configuration word of the flow holds an uncorrectable error: the flow fails. -/
def flowFails (s : State) (h : Half) (f word : Nat) : State :=
  let s1 := endAll s (fun t => t.flow == f && t.kind != .cpl) 2 fun u _ => u
  let s2 := updFlow s1 f fun x => { x with failed := true }
  let s3 := bump (aerUncInternal s2) 0x800C (5 + halfIdx h)
  raiseEv (logC s3 h 0x0E 0 (flow := f) (detail := word)) h 27 f word 0

/-- A state word holds one: it is set to 0 and counted, and the flow continues. -/
def stateWordFails (s : State) (h : Half) (f w : Nat) : State :=
  let s1 := updFlow s f fun x =>
    match w with
    | 1 => { x with tokens := 0 }
    | 4 => { x with bseq := 0 }
    | 6 => { x with txBytes := x.txBytes / 2 ^ 32 * 2 ^ 32 }
    | 7 => { x with txBytes := x.txBytes % 2 ^ 32 }
    | 8 => { x with txPkts := x.txPkts / 2 ^ 32 * 2 ^ 32 }
    | 9 => { x with txPkts := x.txPkts % 2 ^ 32 }
    | 10 => { x with bpNs := x.bpNs / 2 ^ 32 * 2 ^ 32 }
    | 11 => { x with bpNs := x.bpNs % 2 ^ 32 }
    | 12 => { x with bpCount := 0 }
    | 0 => { x with refused := false, capHeld := false, epoch := false }
    | k => if 32 ≤ k then { x with words := Tab.set 0 x.words (k + 16) 0 } else x
  bump s1 0x800C (5 + halfIdx h)

/-- What the crossing of a cell of flow f in half h meets. -/
def meetEcc (s : State) (h : Half) (f : Nat) (parts : List (Nat × Nat)) (fromVat : Bool)
    (e : EccFault) : State :=
  match e with
  | .clean => s
  | .vatCorrected => if fromVat then bump (aerCorrInternal s) 0x800C (1 + halfIdx h) else s
  | .vatUncorrectable seg =>
    if fromVat then
      let s1 := match parts.head? with | some p => poisonTxn s p.1 | none => s
      let s2 := bump (aerUncInternal s1) 0x800C (3 + halfIdx h)
      raiseEv (logC s2 h 0x0D (halfIdx h) (flow := f) (addr := seg)) h 26 f 0 0
    else s
  | .ctxConfig w => flowFails s h f w.val
  | .ctxState w => stateWordFails s h f w.val

/-! ## The calendar and the round robin (R52, R220) -/

/-- Core cycles so far: 1.6, 1.2, 0.8 and 0.4 GHz at P0 to P3, from the present level (log entry 15). -/
def coreCycles (s : State) : Nat := s.clk * (32 - 8 * s.pwr.level) / 25

/-- A kind 2 slot forces the output busy (R442). -/
def pressBusy (s : State) (h : Half) (port : Nat) : Bool :=
  (span (8 * halfIdx h) 8).any fun i =>
    tpOn s i 2 && tpw s i 1 == port &&
    (tpw s i 3 == 0 || decide (coreCycles s % (tpw s i 2 + tpw s i 3) < tpw s i 2))

/-- Cells of a half's vat that are ready for an output, in order of forming. -/
def readyFor (s : State) (h : Half) (port : Nat) : List Cell :=
  s.fab.cells.filter fun c => c.half == h && cellReady s c &&
    (match cellTxn s c with | some t => outOf t.sink == port | none => false)

/-- Quantum of a class (OD 0x5601). -/
def clsQuantum (s : State) (h : Half) (c : Nat) : Nat := cfg s h 0x5601 c

/-- Insertion sort of flows, ascending and without repeats. -/
def insFlow (f : Nat) : List Nat → List Nat
  | [] => [f]
  | g :: t => if f < g then f :: g :: t else if f = g then g :: t else g :: insFlow f t

/-- The round robin of two levels: visit classes, and flows within a class, each with its deficit. -/
def drr : Nat → State → Half → Nat → List Cell → Option Cell × State
  | 0, s, _, _, _ => (none, s)
  | n + 1, s, h, o, cells =>
    let x := outSt s o
    let mine := cells.filter fun c => c.cls == x.cls
    let nextCls (y : OutSt) : OutSt := { y with cls := if y.cls = 3 then 1 else y.cls + 1, classIn := false }
    let putOut (u : State) (y : OutSt) : State :=
      updFab u fun z => { z with outs := Tab.set OutSt.reset z.outs o y }
    if mine.isEmpty then
      drr n (putOut s (nextCls { x with defs := setAt x.defs (x.cls - 1) 0 })) h o cells
    else
      let q := if x.classIn then x.defs.getD (x.cls - 1) 0 else x.defs.getD (x.cls - 1) 0 + clsQuantum s h x.cls
      let flows := mine.foldl (fun l c => insFlow c.flow l) []
      let f := (flows.find? fun g => x.flowPos ≤ g).getD (flows.headD 0)
      let here := x.flowIn && f == x.flowPos
      let d := if here then (flowSt s f).deficit else (flowSt s f).deficit + flowWeight s h f * 256
      match mine.find? fun c => c.flow == f with
      | none => (none, s)
      | some c =>
        if d < c.bytes then
          drr n (updFlow (putOut s { x with defs := setAt x.defs (x.cls - 1) q, classIn := true,
                                            flowPos := f + 1, flowIn := false }) f
            fun y => { y with deficit := d }) h o cells
        else if q < c.bytes then
          drr n (updFlow (putOut s (nextCls { x with defs := setAt x.defs (x.cls - 1) q,
                                                     flowPos := f, flowIn := true })) f
            fun y => { y with deficit := d }) h o cells
        else
          let left := mine.any fun e => e.id != c.id && e.flow == f
          (some c, updFlow (putOut s { x with defs := setAt x.defs (x.cls - 1) (q - c.bytes),
                                              classIn := true, flowPos := f, flowIn := true }) f
            fun y => { y with deficit := if left then d - c.bytes else 0 })

/-- The cell that crosses at a slot (R52): the owner's, else the oldest of C0, else the round robin. -/
def slotChoice (s : State) (h : Half) (port : Nat) (owner : Option Nat) : Option Cell × State :=
  let cells := readyFor s h port
  let own := match owner with
    | some f => if s.pwr.level = 3 || (flowSt s f).refused then none
                else cells.find? fun (c : Cell) => c.flow == f && c.cls == 0
    | none => none
  match own with
  | some c => (some c, s)
  | none =>
    match cells.find? fun (c : Cell) => c.cls == 0 with
    | some c => (some c, s)
    | none => if cells.isEmpty then (none, s) else drr 16 s h (halfIdx h * 32 + port) cells

/-- Two or more inputs have cells for the output (OD 0x5708). -/
def contended (s : State) (cells : List Cell) : Bool :=
  decide (2 ≤ ((cells.filterMap fun c => (cellTxn s c).map fun t => endCode t.src).eraseDups).length)

end Sys2Proof.Machine
end

