-- ==== Sys2Proof/Machine/HostTraffic.lean ====
section
/-! DEFINITION. Host memory requests to the windows of link and worker functions (R154 to R181):
translation, access sizes, split accesses, prefetch, atomics, and what a miss or a refusal answers. -/

namespace Sys2Proof.Machine

/-! ## Acceptance across power states (R386) -/

/-- An ingress of half h takes transactions: links up; from the commit of S3 on they are discarded. -/
def ingressOn (s : State) (h : Half) : Bool := linksOn s h

/-- Toward S3 after the commit, a transaction is discarded and counted. -/
def s3Commit (s : State) : Bool := s.pwr.commit && s.pwr.request == some 3

/-- An arrival is a wake in S1, or during an entry (R386, R388, R393). -/
def wakeArrival (s : State) (cause inst : Nat) : State :=
  if s.pwr.sleep != 0 || s.pwr.request.isSome || s.pwr.commit then wakeBy s cause inst else s

/-! ## Windows -/

def winSize (c : W32) : Nat := 2 ^ fld c 8 6
def winOn (c : W32) : Bool := bit c 0 && fld c 8 6 != 0

/-- Tether link to the worker of a DEVID (OD 0x9005, R337). -/
def workerTether (s : State) (d : Nat) : Option Nat :=
  let p := cfg s (leadHalf s) 0x9005 d
  if 1 ≤ d && d ≤ 15 && p < 48 then some (tetherName s (4 * p)) else none

/-- Dormant reason of an inbound sub-window, 0 none (Table 06.4, R159, R334). -/
def inDormant (s : State) (n w : Nat) : Nat :=
  let h := halfOfHl (n / 64)
  let c := inw s n w 0
  let f := fld (inw s n w 1) 0 14
  let tgt := fld c 16 8
  let ttype := fld c 14 2
  let off := fld (inw s n w 2) 0 27 * 4096
  if ttype == 0 && !linkExists s tgt then 2
  else if !fnIsEnd s n then 3
  else
    let sinkOk := match flowSink s h f, ttype with
      | .link l, 0 => l == tgt
      | .eng e, 1 => e / 8 == tgt
      | .link l, 2 => workerTether s (fnLay s n).devid == some l
      | _, _ => false
    if !(flowEn s h f && flowSrc s h f == .fn n && sinkOk) || flowDormant s h f then 4
    else if 2 ^ (fnLay s n).bar2 < off + winSize c then 5
    else 0

/-- Sub-window that translates an aperture offset (R160). -/
def hitIn (s : State) (n off : Nat) : Option Nat :=
  (List.range 8).find? fun w =>
    let c := inw s n w 0
    let base := fld (inw s n w 2) 0 27 * 4096
    winOn c && inDormant s n w == 0 && base ≤ off && off < base + winSize c

/-- WIN_IN_HITS of a sub-window (R155): a request that hits it (DEDUCED, log entry 28). -/
def inHits (n w : Nat) : Nat := 0x840018 + 0x100 * n + 0x20 * w
def countIn (s : State) (n w : Nat) : State := bumpR s (inHits n w)

/-- Address at the target of an aperture offset through sub-window w. -/
def inAddr (s : State) (n w off : Nat) : Nat :=
  fld (inw s n w 3) 0 28 * 4096 + (off - fld (inw s n w 2) 0 27 * 4096)

/-- Access class of Table 06.5: 0 S1, 1 S4, 2 S8, 3 SB. -/
def accessClass (a len : Nat) : Nat :=
  if 1 ≤ len && len ≤ 3 && a / 4 == (a + len - 1) / 4 then 0
  else if len = 4 && a % 4 == 0 then 1
  else if len = 8 && a % 8 == 0 then 2
  else 3

/-- SIZES [7:4] of a window's CTRL permits the access. -/
def sizeOk (c : W32) (a len : Nat) : Bool := bit c (4 + accessClass a len)

/-- Beats of an access (R165): offset and length of each. -/
def beats (b : Nat) : Nat → Nat → Nat → Nat → List (Nat × Nat)
  | 0, _, _, _ => []
  | n + 1, off, a, len =>
    if len = 0 then []
    else
      let k := min len (b - a % b)
      (off, k) :: beats b n (off + k) (a + k) (len - k)

/-- Runs of enabled bytes of a write: offset and bytes (R135). -/
def runs : Nat → List (Option Byte) → List (Nat × List Byte)
  | _, [] => []
  | i, none :: t => runs (i + 1) t
  | i, some b :: t =>
    match t with
    | some _ :: _ =>
      match runs (i + 1) t with
      | (_, bs) :: rest => (i, b :: bs) :: rest
      | [] => [(i, [b])]
    | _ => (i, [b]) :: runs (i + 1) t

/-! ## Timestamps (R405) -/

/-- A packet or TLP of a flow with TS_EN toward a sink that is no engine: a record in the ring of the
ingress half; a full ring loses it, counted, and TS_RING_FULL once per filling. -/
def stampIn (s : State) (h : Half) (f : Nat) (dalfel : Bool) (seq : Nat) : State :=
  let eng := match flowSink s h f with | .eng _ => true | _ => false
  if !flowTs s h f || eng then s
  else
    let ring := match h with | .a => s.time.ringA | .b => s.time.ringB
    let full := match h with | .a => s.time.fullA | .b => s.time.fullB
    if 4096 ≤ ring.length then
      let s1 := bump s 0x7440 (hsub h)
      if full then s1
      else raiseEv (updTime s1 fun t => match h with
        | .a => { t with fullA := true } | .b => { t with fullB := true }) h 45 0 (halfIdx h) 0
    else
      let r : TsRec := ⟨timeNow s, s.time.frac / 65536, f, dalfel, seq⟩
      updTime s fun t => match h with
        | .a => { t with ringA := t.ringA ++ [r] } | .b => { t with ringB := t.ringB ++ [r] }

/-! ## Answers of the host port itself -/

/-- An error completion the host port returns, with its AER bit (Table 11.1). -/
def hostRefuse (s : State) (m n tag : Nat) (st : HostStatus) (len : Nat) : State :=
  let s1 := match st with | .ur => aerURc s n | .ca => aerCAc s n | _ => s
  tlpOut s1 m (.cpl tag st len)

/-- A host request that hit no window (R181). -/
def hostMiss (s : State) (n off : Nat) : State :=
  let h := halfOfHl (n / 64)
  bump (logC s h 0x03 n (addr := off)) 0x4801 (hsub h)

/-- Cluster memory reserved to the steward (R245). -/
def stewardRange (c off len : Nat) : Bool := c % 12 == 0 && 0xC0000 < off + max len 1 && off < 0xFFF00

/-! ## VC0 and VC1 (R37, R40) -/

/-- The TLP waits at the head of VC0 of its host link; the credits are withheld from now. -/
def waitVc0 (s : State) (m : Nat) (i : Instr) : State :=
  updHl s m fun x => { x with waitTlp := x.waitTlp ++ [i], vc0Since := some (x.vc0Since.getD s.clk) }

/-- VC1 traffic in a flow of another class is counted (R40). -/
def vc1Count (s : State) (vc1 : Bool) (cls : Nat) : State := onlyIf (vc1 && cls != 0) (fun t => bump t 0x5806 1) s

/-! ## Writes -/

/-- A run of a write through sub-window w, as a transaction. -/
def inTxn (s : State) (n w : Nat) (kind : Kind) (op : TOp) (off len : Nat) (data : List Byte)
    (r : HostReq) : Txn :=
  let h := halfOfHl (n / 64)
  let c := inw s n w 0
  let t := flowTxn s h (fld (inw s n w 1) 0 14) kind op (inAddr s n w off) len data
  let mk : TMark := if fld c 14 2 == 1 then .cluster (fld c 16 8) else .none
  { t with mark := mk, poison := r.ep, vc1 := r.vc1 }

/-- A split write (R165, R166): the beats before the first that the size check refuses are sent. -/
def splitWrite (s : State) (n w off : Nat) (bs : List Byte) (addr : Nat) (r : HostReq) : State :=
  let h := halfOfHl (n / 64)
  let c := inw s n w 0
  let b := if bit c 3 then 8 else 4
  let all := beats b (bs.length + 1) 0 addr bs.length
  let good := all.takeWhile fun (o, k) => sizeOk c (addr + o) k
  let bad := all.drop good.length
  let grp := s.nextId
  let s1 := forAll { s with nextId := grp + 1 } good fun u (o, k) =>
    let t := inTxn u n w .p .write (off + o) k ((bs.drop o).take k) r
    submitP u { t with mark := match t.mark with
      | .none => .splitBeat grp (unitWin n w) (addr + o)
      | m => m }
  match bad with
  | [] => s1
  | (o, _) :: _ =>
    if good.isEmpty then bump (logC s1 h 0x02 (unitWin n w) (addr := addr + o)) 0x480B (hsub h)
    else updFab s1 fun x => { x with splits := x.splits ++ [⟨grp, h, unitWin n w, addr + o⟩] }

/-- One run of contiguous enabled bytes. -/
def runWrite (s : State) (n w off : Nat) (bs : List Byte) (addr : Nat) (r : HostReq) : State :=
  let h := halfOfHl (n / 64)
  let c := inw s n w 0
  if bit c 2 then splitWrite s n w off bs addr r
  else if !sizeOk c addr bs.length then
    bump (logC s h 0x01 (unitWin n w) (addr := addr)) 0x4804 (hsub h)
  else submitP s (inTxn s n w .p .write off bs.length bs r)

/-- A host write accepted at aperture offset `off` of function n (R160, R164, R171, R307). -/
def windowWrite (s : State) (n off : Nat) (r : HostReq) : State :=
  let h := halfOfHl (n / 64)
  match hitIn s n off with
  | none => aerUR (hostMiss s n off) n
  | some w =>
    let s := countIn s n w
    let c := inw s n w 0
    let f := fld (inw s n w 1) 0 14
    let s1 := onlyIf r.ep (fun t => aerPoison t n) (vc1Count s r.vc1 (flowCls s h f))
    let cl := fld c 14 2 == 1
    if cl && stewardRange (fld c 16 8) (inAddr s n w off) r.data.length then bump s1 0x620A (hsub h)
    else if cl && r.ep then
      raiseEv (bump (logC s1 h 0x0F n (addr := off)) 0x800B (hsub h)) h 28 n 0 0
    else
      let s2 := stampIn (pfFlowWrite s1 f) h f false r.dlSeq.toNat
      let rs := runs 0 r.data
      if rs.isEmpty then submitP s2 (inTxn s2 n w .p .write off 0 [] r)
      else forAll s2 rs fun u (o, bs) => runWrite u n w (off + o) bs (r.addr.toNat + o) r

/-! ## Reads -/

/-- Requester of a host request. -/
def hostWho (n : Nat) (r : HostReq) (atomic : Bool) : Requester :=
  .host (n / 64) n r.tag.toNat r.addr.toNat atomic

/-- A request toward a closed sink (R310, R316). -/
def hostGated (s : State) (n : Nat) (r : HostReq) (len : Nat) (t : Txn) (g : Gate) : State :=
  let s1 := gateCount s t.ihalf t.sink .np g
  match g with
  | .allOnes => tlpOut s1 (n / 64) (.cplData r.tag.toNat (ones (if len = 0 then 4 else len)) 0 false r.ro (idoCpl s n))
  | _ => hostRefuse s1 (n / 64) n r.tag.toNat .ca len

/-- A zero-length read waits for the earlier posted writes of its function toward the same link
(R55). -/
def zeroRead (s : State) (n w off : Nat) (r : HostReq) : State :=
  let t := { inTxn s n w .np .read off 0 [] r with mark := .zeroRead n }
  match gate s t.sink with
  | .pass => (submitNp s (hostWho n r false) { t with ro := r.ro } 0 [mkPart 0 0 t.addr]).2
  | g => hostGated s n r 0 t g

/-- A split read (R167): parts are the beats before the first the size check refuses. -/
def splitRead (s : State) (n w off len : Nat) (r : HostReq) : State :=
  let c := inw s n w 0
  let h := halfOfHl (n / 64)
  let b := if bit c 3 then 8 else 4
  let a := r.addr.toNat
  let all := beats b (len + 1) 0 a len
  let good := all.takeWhile fun (o, k) => sizeOk c (a + o) k
  let stop := (all.drop good.length).head?.map fun (o, _) => (o, 6)
  let t := inTxn s n w .np .read off len [] r
  if good.isEmpty then
    let s1 := bump (logC s h 0x02 (unitWin n w) (status := 6) (addr := a)) 0x480B (hsub h)
    hostRefuse s1 (n / 64) n r.tag.toNat .ca len
  else
    let p := submitNp s (hostWho n r false) { t with ro := r.ro } len
      (good.map fun (o, k) => mkPart o k (t.addr + o))
      { split := true, win := unitWin n w, stop := stop, lock := false, raddr := a }
    p.2

/-- PF = 1 and the aperture prefetchable in force (R158, R168). -/
def pfActive (s : State) (n w : Nat) : Bool :=
  let c := inw s n w 0
  bit c 1 && (fnLay s n).pref && fld c 14 2 == 0

/-- Units of one stream that may still serve. -/
def stream (s : State) (n w : Nat) : List PfUnit :=
  s.brdg.units.filter fun u => u.fn == n && u.w == w && !u.drop && u.wins.isEmpty

/-- A read outside the stream's range restarts it (R169 step 3). -/
def pfRestart (s : State) (n w off : Nat) : State :=
  let us := stream s n w
  match us with
  | [] => s
  | u :: t =>
    let lo := t.foldl (fun a v => min a v.off) u.off
    let hi := t.foldl (fun a v => max a (v.off + 64)) (u.off + 64)
    if lo ≤ off && off < hi then s else pfDiscardAll s fun v => v.fn == n && v.w == w

/-- Pieces of a read by 64-byte units of the aperture. -/
def unitPieces (off len : Nat) : List (Nat × Nat) := beats 64 (len + 1) 0 off len

/-- Serve one piece: from the slot, from a unit held or in flight, or by demand (R170, R173). -/
def pfPiece (s : State) (rid n w off base a k : Nat) : ReqPart × State :=
  let f := fn s n
  let h := halfOfHl (n / 64)
  let unitOff := off / 64 * 64
  if f.slotVal && f.slotTag == unitOff && s.clk ≤ f.slotClk + nsToClk (1000 * cfg s h 0x4800 2) then
    (⟨base, k, a, .got ((f.slotData.drop (off - unitOff)).take k) true, []⟩,
     bump (updFn s n fun x => { x with slotVal := false, slotData := [] }) 0x4806 (hsub h))
  else
    match (stream s n w).find? fun u => u.off == unitOff with
    | some u =>
      match u.st with
      | .got d _ =>
        (⟨base, k, a, .got ((d.drop (off - unitOff)).take k) false, []⟩, bump (pfDrop s u.id) 0x4808 2)
      | _ => (⟨base, k, a, .unit u.id, []⟩, pfUpd s u.id fun x => { x with wins := [rid] })
    | none => (mkPart base k a, s)

/-- Join neighbouring pieces that are all to be fetched, up to `lim` bytes and not across its
multiples. -/
def joinParts (lim : Nat) : List ReqPart → List ReqPart
  | [] => []
  | p :: t =>
    match joinParts lim t with
    | q :: rest =>
      if p.st == .waiting && q.st == .waiting && p.addr / lim == (q.addr + q.len - 1) / lim &&
          p.off + p.len == q.off
      then { p with len := p.len + q.len } :: rest
      else p :: q :: rest
    | [] => [p]

/-- Prefetch READs for the units after the last one requested, until PF_DEPTH are held or in flight
beyond it, not past the sub-window; each takes a unit of the half's pool of 16,384 (R168, R169). -/
def pfAhead (s : State) (n w last : Nat) (r : HostReq) : State :=
  let c := inw s n w 0
  let h := halfOfHl (n / 64)
  let depth := fld c 24 5
  let stopAt := fld (inw s n w 2) 0 27 * 4096 + winSize c
  forAll s ((List.range depth).map fun i => last + 64 * (i + 1)) fun u off =>
    if stopAt < off + 64 || ((stream u n w).any fun x => x.off == off) then u
    else if 16384 ≤ (u.brdg.units.filter fun x => halfOfHl (x.fn / 64) == h).length then bump u 0x4808 4
    else
      let id := u.nextId
      let t := { inTxn u n w .np .read off 64 [] r with mark := .prefetch, poison := false }
      let u1 := updBrdg { u with nextId := id + 1 } fun b => { b with units := b.units ++
        [⟨id, n, w, off, t.addr, t.flow, .waiting, u.clk, false, [], none⟩] }
      let p := submitNp u1 (.prefetch (n / 64) n w id) t 64 [mkPart 0 64 t.addr]
      let s2 := updReq p.2 p.1 fun q => { q with resHdr := 0, resData := 0 }
      bump (updFab s2 fun x => { x with txns := x.txns.map fun v =>
        if v.req == p.1 then { v with reserved := true } else v }) 0x4808 1

/-- A read through a prefetching sub-window (R169, R170). -/
def pfRead (s : State) (n w off len : Nat) (r : HostReq) : State :=
  let s1 := pfRestart s n w off
  let t := inTxn s1 n w .np .read off len [] r
  let rid := s1.nextId
  let built := (unitPieces off len).foldl (fun (acc : List ReqPart × State) (o, k) =>
    let p := pfPiece acc.2 rid n w (off + o) o (t.addr + o) k
    (acc.1 ++ [p.1], p.2)) ([], s1)
  let parts := joinParts (readLimit s t.sink) built.1
  let p := submitNp built.2 (hostWho n r false) { t with ro := r.ro } len parts
  deliver (pfAhead p.2 n w ((off + len - 1) / 64 * 64) r) p.1 (halfOfHl (n / 64))

/-- A host read of `r.len` bytes at aperture offset `off` of function n. -/
def windowRead (s : State) (n off : Nat) (r : HostReq) : State :=
  let h := halfOfHl (n / 64)
  let m := n / 64
  let len := r.len
  match hitIn s n off with
  | none => hostRefuse (hostMiss s n off) m n r.tag.toNat .ur len
  | some w =>
    let s := countIn s n w
    let c := inw s n w 0
    let f := fld (inw s n w 1) 0 14
    let s1 := stampIn (vc1Count s r.vc1 (flowCls s h f)) h f false r.dlSeq.toNat
    if len = 0 then zeroRead s1 n w off r
    else
      let t := inTxn s1 n w .np .read off len [] r
      if fld c 14 2 == 1 && stewardRange (fld c 16 8) t.addr len then
        hostRefuse (bump s1 0x620A (hsub h)) m n r.tag.toNat .ca len
      else if !bit c 2 && !sizeOk c r.addr.toNat len then
        hostRefuse (bump (logC s1 h 0x01 (unitWin n w) (addr := r.addr.toNat)) 0x4804 (hsub h)) m n r.tag.toNat .ca len
      else
        match gate s1 t.sink with
        | .pass =>
          if bit c 2 then splitRead s1 n w off len r
          else if pfActive s1 n w then pfRead s1 n w off len r
          else (submitNp s1 (hostWho n r false) { t with ro := r.ro } len (readParts s1 t.sink 0 t.addr len)).2
        | g => hostGated s1 n r len t g

/-! ## AtomicOps (R191) -/

/-- The bytes of an AtomicOp's operands. -/
def operandBytes (r : HostReq) : List Byte := r.data.map (·.getD 0)

/-- A host AtomicOp at aperture offset `off` of function n. -/
def windowAtomic (s : State) (n off : Nat) (r : HostReq) (op : AtomicOp) : State :=
  let h := halfOfHl (n / 64)
  let m := n / 64
  let ops := operandBytes r
  let len := atomicLen op ops.length
  match hitIn s n off with
  | none => hostRefuse (hostMiss s n off) m n r.tag.toNat .ur len
  | some w =>
    let s := countIn s n w
    let c := inw s n w 0
    let f := fld (inw s n w 1) 0 14
    let s1 := stampIn (vc1Count s r.vc1 (flowCls s h f)) h f false r.dlSeq.toNat
    let t := inTxn s1 n w .np (.atomic op) off len ops r
    let b := if bit c 3 then 8 else 4
    let oneBeat := r.addr.toNat / b == (r.addr.toNat + ops.length - 1) / b
    if fld c 14 2 == 1 && stewardRange (fld c 16 8) t.addr len then
      hostRefuse (bump s1 0x620A (hsub h)) m n r.tag.toNat .ca len
    else if !sizeOk c r.addr.toNat ops.length || (bit c 2 && !oneBeat) then
      hostRefuse (bump (logC s1 h 0x01 (unitWin n w) (addr := r.addr.toNat)) 0x4804 (hsub h)) m n r.tag.toNat .ca len
    else
      match gate s1 t.sink with
      | .pass =>
        let listed := match t.sink with | .link l => hasFeature s1 l 2 | _ => true
        if !listed then hostRefuse s1 m n r.tag.toNat .ur len
        else
          let s2 := pfFlowWrite s1 f
          (submitNp s2 (hostWho n r true) { t with ro := r.ro } len [mkPart 0 len t.addr]).2
      | g => hostGated s1 n r len t g

/-! ## Decode of a memory address (R97, R100, R113, R115) -/

/-- What an address of a host link's memory space names. -/
inductive HostHit where
  | aperture (n off : Nat)          -- BAR2 of a link or worker function
  | bar0 (n off : Nat)
  | bar2 (m off : Nat)              -- BAR2 of PF0
  | bar4 (n off : Nat)
  | miss
deriving DecidableEq, Repr

/-- Does a range of size 2^k based at a BAR hold the address? -/
def barHas (base k a : Nat) : Bool := base / 2 ^ k * 2 ^ k ≤ a && a < base / 2 ^ k * 2 ^ k + 2 ^ k

/-- The BAR an address hits: of functions with Memory Space Enable that are not in D3hot. -/
def hostDecode (s : State) (m a : Nat) : HostHit :=
  ((List.range (hl s m).layout.length).findSome? fun f =>
    let n := 64 * m + f
    if !mse s n || inD3 s n then none
    else if f = 0 then
      if barHas (bar64 s n 0x10) 26 a then some (.bar0 n (a % 2 ^ 26))
      else if barHas (bar64 s n 0x18) 16 a then some (.bar2 m (a % 2 ^ 16))
      else none
    else
      let k := (fnLay s n).bar2
      if barHas (bar64 s n 0x10) 16 a then some (.bar0 n (a % 2 ^ 16))
      else if barHas (bar64 s n 0x18) k a then some (.aperture n (a % 2 ^ k))
      else if barHas (bar64 s n 0x20) 16 a then some (.bar4 n (a % 2 ^ 16))
      else none).getD .miss

/-- The host link takes a memory request now: a start-up still running answers Unsupported Request
(R425). -/
def hostTakes (s : State) (m : Nat) : Bool := hlPresent s m && (hl s m).dlActive && portsOn s (halfOfHl m)

/-- Class partition a TLP would use: that of the window's flow. -/
def tlpClass (s : State) (n off : Nat) : Nat :=
  match hitIn s n off with
  | some w => flowCls s (halfOfHl (n / 64)) (fld (inw s n w 1) 0 14)
  | none => 2

/-- Room for a TLP in its host link's part; a TLP behind another that waits on VC0 waits too (R37,
R40). -/
def tlpRoom (s : State) (n off : Nat) (k : Kind) (len : Nat) (vc1 : Bool) : Bool :=
  hostRoom s (n / 64) k (tlpClass s n off) len && (vc1 || (hl s (n / 64)).waitTlp.isEmpty)

end Sys2Proof.Machine
end

