-- ==== Sys2Proof/Machine/C0.lean ====
section
/-! DEFINITION. Class C0 reservations: slots on the outputs a flow crosses (R50, R51), refusal and
re-admission at a change of level (R53) or of a link's capacity (R231). -/

namespace Sys2Proof.Machine

/-- Rate of one slot in Mb/s at a level (Table 02.5); 0: the calendar is not used. -/
def slotRate (level : Nat) : Nat := match level with | 0 => 5120 | 1 => 3840 | 2 => 2560 | _ => 0

/-- Slots of a reserved rate: the larger of 2 and the rate over the slot rate, rounded up (R51). -/
def slotsOf (level rate : Nat) : Nat := max 2 (ceilDiv rate (slotRate level))

/-- Enabled C0 flows, ascending, as half `h`'s configuration has them. -/
def c0Flows (s : State) (h : Half) : List Nat :=
  ((listed s h 0x5000 0x53FF 8 1).map fun (i, k) => (i - 0x5000) * 16 + (k - 1) / 8).filter fun f =>
    flowEn s h f && flowCls s h f == 0

/-- The home half of a configured flow (R20); in SPLIT, that of the instance that enables it. -/
def flowHome (s : State) (f : Nat) : Half :=
  if isSplit s then (if flowEn s .b f && halfOfEnd (flowSink s .b f) == .b then .b else .a)
  else halfOfEnd (flowSink s (leadHalf s) f)

/-- Slots reserved on an output (half * 32 + port). -/
def resOn (rs : List C0Res) (out : Nat) : Nat := ((rs.filter fun r => r.out == out).map (·.slots)).sum

/-- The die-link output of a half with the fewest reserved slots, lowest number on a tie: PP14 to
PP21. -/
def dieOut (rs : List C0Res) (h : Half) : Nat :=
  let base := 32 * halfIdx h
  (span 15 7).foldl (fun best p => if resOn rs (base + p) < resOn rs best then base + p else best) (base + 14)

/-- Reservations of one flow: its egress output, and a die-link output where the source end lies in the
other half. -/
def c0Of (s : State) (level : Nat) (rs : List C0Res) (f : Nat) : List C0Res :=
  let h := flowHome s f
  let b := flowSink s h f
  let g := halfOfEnd (flowSrc s h f)
  let n := slotsOf level (flowC0Rate s h f)
  let own : C0Res := ⟨32 * halfIdx h + outOf b, f, n⟩
  if g = h then [own] else [own, ⟨dieOut rs g, f, n⟩]

/-- Reservations of a list of flows, in order. -/
def c0Place (s : State) (level : Nat) (fs : List Nat) : List C0Res :=
  fs.foldl (fun rs f => rs ++ c0Of s level rs f) []

/-- Some output of the reservations carries more than 160 slots: the flows that cross one. -/
def c0Over (rs : List C0Res) : List Nat := (rs.filter fun r => decide (160 < resOn rs r.out)).map (·.flow)

/-- First C0 flow that does not fit, for the check of AG10 (R51): its rate is 0, or an output it crosses
overflows. -/
def c0Misfit (s : State) (level : Nat) (fs : List Nat) : Option Nat :=
  match fs.find? fun f => flowC0Rate s (flowHome s f) f == 0 with
  | some f => some f
  | none =>
    if level = 3 then none
    else (fs.foldl (fun (a : Option Nat × List C0Res) f =>
      if a.1.isSome then a
      else
        let rs := a.2 ++ c0Of s level a.2 f
        if (c0Over rs).isEmpty then (none, rs) else (some f, rs)) (none, [])).1

/-- C0 flows toward a link whose summed rate exceeds the announced capacity (R231). -/
def capOver (s : State) (fs : List Nat) : List Nat :=
  fs.filter fun f =>
    let h := flowHome s f
    match flowSink s h f with
    | .link l =>
      let cap := (link s l).capacity
      cap != 0xFFFFFFFF &&
      decide (cap < ((fs.filter fun g => flowSink s h g == .link l).map fun g => flowC0Rate s h g).sum)
    | _ => false

/-- Flows that cannot all stay admitted. -/
def c0Bad (s : State) (level : Nat) (fs : List Nat) : List Nat :=
  (if level = 3 then [] else c0Over (c0Place s level fs)) ++ capOver s fs

/-- Refuse the highest flow number until the rest fit: what is left. -/
def c0Shed : Nat → State → Nat → List Nat → List Nat
  | 0, _, _, fs => fs
  | n + 1, s, level, fs =>
    match c0Bad s level fs with
    | [] => fs
    | f :: t =>
      let top := t.foldl max f
      c0Shed n s level (fs.filter (· != top))

/-- Insert a flow number in ascending order. -/
def insAsc (f : Nat) : List Nat → List Nat
  | [] => [f]
  | g :: t => if f ≤ g then f :: g :: t else g :: insAsc f t

/-- Judge every C0 flow again: refuse highest first until the rest fit, then re-admit lowest first those
that now fit; C0_REFUSED for each change (R53, R231). -/
def c0Judge (s : State) (level : Nat) : State :=
  let all := if isSplit s then c0Flows s .a ++ c0Flows s .b else c0Flows s (leadHalf s)
  let now := all.filter fun f => !(flowSt s f).refused
  let kept := c0Shed (now.length + 1) s level now
  let fin := (all.filter fun f => (flowSt s f).refused).foldl
    (fun acc f => if (c0Bad s level (insAsc f acc)).isEmpty then insAsc f acc else acc) kept
  let s1 := forAll s (now.filter fun f => !fin.contains f) fun u f =>
    raiseEv (bump (updFlow u f fun x => { x with refused := true }) 0x5802 2)
      (flowHome u f) 6 f 0 0
  let s2 := forAll s1 (fin.filter fun f => (flowSt s f).refused) fun u f =>
    raiseEv (bump (updFlow u f fun x => { x with refused := false }) 0x5802 3)
      (flowHome u f) 6 f 1 0
  updFab s2 fun x => { x with c0 := if level = 3 then [] else c0Place s2 level fin }

end Sys2Proof.Machine
end

