-- ==== Sys2Proof/Machine/Sem.lean ====
section
/-! DEFINITION. Bridge semaphores (R183 to R190). -/

namespace Sys2Proof.Machine

def semEn (s : State) (n : Nat) : Bool := (cfg s (halfOfSem n) (0x5A00 + n) 1).testBit 0
def semCount (s : State) (n : Nat) : Nat := cfg s (halfOfSem n) (0x5A00 + n) 1 / 256 % 16

/-- Payload of an acquire's completion (Table 07.1). -/
def semPayload (s : State) (n : Nat) : List Byte :=
  let x := sem s n
  bytesLE 4 (n % 256 + (x.holders.length % 16) * 256 + (x.grants % 65536) * 65536)

/-- Units in use: holders and released units not yet free. -/
def semUsed (x : SemSt) : Nat := x.holders.length + x.freeing.length

/-- Grant a unit to a link's open acquire. -/
def semGrant (s : State) (n l rid : Nat) : State :=
  let s1 := updSem s n fun x => { x with holders := x.holders ++ [(l, s.clk)], grants := x.grants + 1 }
  gotPart (bump s1 0x5E00 (hsub (halfOfSem n))) rid 0 (semPayload s1 n) false (halfOfSem n)

/-- Grant waiting acquires in the order they reached the semaphore, while units are free (R185). -/
def semServe : Nat → State → Nat → State
  | 0, s, _ => s
  | k + 1, s, n =>
    let x := sem s n
    match x.waiters with
    | (l, rid) :: rest =>
      if semEn s n && decide (semUsed x < semCount s n) then
        semServe k (semGrant (updSem s n fun y => { y with waiters := rest }) n l rid) n
      else s
    | [] => s

/-- An acquire reaches its semaphore (R185). -/
def semArrive (s : State) (n l rid : Nat) : State :=
  let x := sem s n
  let h := halfOfSem n
  if x.holders.any fun p => p.1 == l then
    gotPart (bump s 0x5E05 (hsub h)) rid 0 (semPayload s n) false h
  else if x.waiters.any fun p => p.1 == l then
    failPart (bump s 0x5E05 (hsub h)) rid 0 2 h
  else if decide (semUsed x < semCount s n) && x.waiters.isEmpty then semGrant s n l rid
  else updSem s n fun y => { y with waiters := y.waiters ++ [(l, rid)] }

/-- A holder's unit is released under the commit condition: everything the link sent with LOCK = 1
before now (R189). -/
def semRelease (s : State) (n l : Nat) : State :=
  updSem s n fun x => { x with holders := x.holders.filter fun p => p.1 != l
                               freeing := x.freeing ++ [(l, s.nextId)] }

/-- The commit condition of R189 holds for a released unit. -/
def semCommitted (s : State) (l bound : Nat) : Bool :=
  !(s.fab.txns.any fun t => t.lock && t.src == .link l && t.id < bound) &&
  !(s.fab.reqs.any fun r => r.lock && r.id < bound &&
      match r.who with | .link k _ => k == l | _ => false)

/-- A released unit frees, and the next waiter is granted. -/
def semFree (s : State) (n l : Nat) : State :=
  match (sem s n).freeing.find? fun p => p.1 == l with
  | some p =>
    if semCommitted s l p.2 then
      semServe 192 (updSem s n fun x => { x with freeing := x.freeing.erase p }) n
    else s
  | none => s

/-- SEM_FORCED (R190): `reason` is the row of Table 07.2. -/
def semForced (s : State) (n l reason : Nat) : State :=
  raiseEv (bump s 0x5E04 (hsub (halfOfSem n))) (halfOfSem n) 7 n l reason

/-- The holder link leaves Active or is frozen: its units free at once, its waiting acquires go
(R190). -/
def semDropLink (s : State) (l : Nat) : State :=
  forAll s (s.brdg.sems.map (·.1)) fun u n =>
    let x := sem u n
    let u1 := updSem u n fun y => { y with waiters := y.waiters.filter fun p => p.1 != l }
    if x.holders.any (fun p => p.1 == l) || x.freeing.any (fun p => p.1 == l) then
      let held := x.holders.any fun p => p.1 == l
      let u2 := updSem u1 n fun y => { y with holders := y.holders.filter fun p => p.1 != l
                                              freeing := y.freeing.filter fun p => p.1 != l }
      semServe 192 (onlyIf held (fun t => semForced t n l 1) u2) n
    else u1

/-- An accepted apply disables the semaphore: units free at the cut, waiting acquires complete with CA
(R190). -/
def semDisable (s : State) (n : Nat) : State :=
  let x := sem s n
  let s1 := forAll s x.holders fun u p => semForced u n p.1 3
  let s2 := updSem s1 n fun y => { y with holders := [], freeing := [], waiters := [] }
  forAll s2 x.waiters fun u p => failPart u p.2 0 2 (halfOfSem n)

/-- May a link of half h reach the semaphore (R185, R334)? -/
def semReachable (s : State) (h : Half) (n : Nat) : Bool :=
  semEn s n && (halfOfSem n == h || dieUp s)

end Sys2Proof.Machine
end

