-- ==== Sys2Proof/Machine/Contain.lean ====
section
/-! DEFINITION. Containment of local links and workers (R308 to R317, R336 to R340): freezing, losing,
inserting and releasing a link, what becomes of its traffic, and a link leaving Active (R140, R150). -/

namespace Sys2Proof.Machine

/-! ## Workers -/

/-- The worker whose tether this link belongs to (OD 0x9005). -/
def workerOf (s : State) (l : Nat) : Option Nat :=
  (span 1 15).find? fun d => workerTether s d == some (tetherName s l)

/-- State, present seen, applied, HIERARCHY or loss marks of a worker; at start-up IDLE. -/
def worker (s : State) (d : Nat) : Nat × Bool × Bool × Bool := Tab.get (0, false, false, false) s.sys.workers d
def updWorker (s : State) (d : Nat) (f : Nat × Bool × Bool × Bool → Nat × Bool × Bool × Bool) : State :=
  updSys s fun y => { y with workers := Tab.upd (0, false, false, false) y.workers d f }

/-- MANAGER_CONFLICT is in force in the half (R340). -/
def inConflict (s : State) (h : Half) : Bool := (half s h).conflict

/-- The tether's partner carries a DEVID that is not the one expected (R336). -/
def miswired (s : State) (l : Nat) : Bool :=
  isTether s l && linkActive s l &&
  (if isManager s then workerOf s l != some (link s l).devid
   else isWorker s && (link s l).devid != 0)

/-- A worker is reachable (R336). -/
def reachable (s : State) (d : Nat) : Bool :=
  match workerTether s d with
  | some l => (bondMembers s l).any (fun k => linkActive s k && (link s k).role == 2 && (link s k).devid == d) &&
      !inConflict s (halfOfLink l)
  | none => false

/-- Functions of the worker d, and functions with a sub-window that reaches link k behind it. -/
def fnsOfWorker (s : State) (d : Nat) : List Nat :=
  (List.range 16).flatMap fun m => ((List.range ((hl s m).layout.length)).map (64 * m + ·)).filter fun n =>
    (fnLay s n).ftype == 2 && (fnLay s n).devid == d

/-- The all-ones model holds for the link (R307 preamble, R316): every link of a worker device, and
tethers. -/
def onesModel (s : State) (l : Nat) : Bool := isWorker s || (isManager s && isTether s l)

/-! ## Ending traffic of a link -/

/-- A completion toward a link that can no longer be given to it (R206). -/
def cplUndeliverable (s : State) (t : Txn) : State :=
  let st := match t.op with | .cpl st _ _ _ => st | _ => 0
  let s1 := dropTxn s t.id
  match req? s1 t.req with
  | some r => undeliverable s1 r st
  | none =>
    let tag := match t.op with | .cpl _ _ _ g => g | _ => 0
    let unit := match t.sink with | .link l => l | .fn n => unitHl (n / 64) | .eng e => e | .dq q => q
    if st = 0 then bump s1 0x5E18 (hsub t.home)
    else bump (raiseEv (logC s1 t.home 0x08 unit (status := st) (flow := t.flow) (tag := tag))
      t.home 11 t.flow st tag) 0x5E17 (hsub t.home)

/-- Completions on their way to the link are discarded under R206; its open requests can no longer be
answered. -/
def dropAnswers (s : State) (l : Nat) : State :=
  let s1 := forAll s (s.fab.txns.filter fun t => t.kind == .cpl && t.sink == .link l) fun u t => cplUndeliverable u t
  updFab s1 fun x => { x with reqs := x.reqs.map fun r =>
    match r.who with | .link k _ => if k == l then { r with dead := true } else r | _ => r }

/-- LOCK = 1 transactions the link sent that are not yet committed to their egress are discarded
(R311). -/
def dropLocked (s : State) (l : Nat) : State :=
  forAll s (s.fab.txns.filter fun t => t.lock && t.src == .link l && t.kind != .cpl) fun u t =>
    let u1 := dropTxn u t.id
    if t.kind == .np then dropReq u1 t.req else u1

/-- Requests sent to the link before now stay unanswered (R310). -/
def markOld (s : State) (l : Nat) : State :=
  updFab s fun x => { x with tags := x.tags.map fun t =>
    if (t.side == linkSide l) && !t.ping then { t with old := true } else t }

/-- Requests open from before the freeze end with CA; their tags are quarantined (R310, R209). -/
def endOld (s : State) (l : Nat) : State :=
  forAll s (s.fab.tags.filter fun t => (t.side == linkSide l) && t.old) fun u t =>
    let u1 := quarantine u t.side t.tag (tagUs u t)
    if t.req = 0 then u1
    else failPart (countFrozen u1 (halfOfLink l) .np) t.req t.part 2 (halfOfLink l)

/-- Requests already sent to a lost link are answered with all ones (R316). -/
def onesSent (s : State) (l : Nat) : State :=
  forAll s (s.fab.tags.filter fun t => (t.side == linkSide l) && !t.ping) fun u t =>
    let u1 := quarantine u t.side t.tag (tagUs u t)
    match req? u1 t.req with
    | some r =>
      let len := (r.parts.getD t.part (mkPart 0 0 0)).len
      let have_ := (r.parts.getD t.part (mkPart 0 0 0)).buf.length
      gotPart (bump u1 0x800A (1 + halfIdx (halfOfLink l))) t.req t.part
        (ones (if len = 0 then 4 else len - have_)) false (halfOfLink l)
    | none => u1

/-- Everything held toward a lost link is answered with all ones or dropped (R316). -/
def onesHeld (s : State) (l : Nat) : State :=
  forAll s (s.fab.txns.filter fun t => t.kind != .cpl && t.sink == .link l) fun u t =>
    onesTxn (bump u 0x800A ((if t.kind == .p then 3 else 1) + halfIdx t.home)) t

/-! ## Freezing and losing -/

/-- A link in RUN enters HELD; on one already frozen only the cause is logged (R309, R315). -/
def freezeLink (s : State) (l cause : Nat) : State :=
  let h := halfOfLink l
  match containOf s l with
  | 1 =>
    let s1 := updLink s l fun x => { x with contain := 2, cause := cause, present := false, applied := false }
    let s2 := raiseEv s1 h 19 l cause 0
    let s3 := forAll s2 (fnsTargeting s2 l) fun u n => fnEvent u n 5
    let s4 := bump (logC s3 h 0x10 l (detail := cause)) 0x8003 (l + 1)
    semDropLink (dropLocked (dropAnswers (markOld s4 l) l) l) l
  | 2 | 3 =>
    let s1 := onlyIf (cause == 1) (fun t => updLink t l fun x => { x with present := false, applied := false }) s
    logC s1 h 0x10 l (detail := cause)
  | _ => s

/-- A local link of a worker device is lost: the all-ones model (R316). -/
def loseLink (s : State) (l : Nat) : State :=
  let h := halfOfLink l
  if containOf s l = 4 then updLink s l fun x => { x with present := false, applied := false }
  else if containOf s l = 0 then s
  else
    let d := s.sys.straps.devid.toNat
    let s1 := updLink s l fun x => { x with contain := 4, present := false, applied := false }
    let s2 := raiseEv (logC s1 h 0x14 l (detail := d)) h 25 l d 0
    let s3 := forAll s2 (fnsTargeting s2 l) fun u n => fnEvent u n 5
    onesHeld (onesSent (semDropLink (dropAnswers s3 l) l) l) l

/-- A worker is lost (R316): its tether and every function of it. -/
def loseWorker (s : State) (d : Nat) : State :=
  if (worker s d).1 = 4 then updWorker s d fun _ => (4, false, false, false)
  else if (worker s d).1 = 0 then s
  else
    let h := leadHalf s
    let s1 := updWorker s d fun _ => (4, false, false, false)
    let s2 := raiseEv (logC s1 h 0x14 (0x100 + d) (detail := d)) h 23 d 0 0
    let s3 := forAll s2 (fnsOfWorker s2 d) fun u n => fnEvent u n 5
    match workerTether s3 d with
    | some l => onesHeld (onesSent (semDropLink (dropAnswers
        (updLink s3 l fun x => { x with contain := 4 }) l) l) l) l
    | none => s3

/-- What the loss of a sub-link, or a fatal error of one, means for its containment. -/
def contain (s : State) (l cause : Nat) : State :=
  let nm := tetherName s l
  if isManager s && isTether s l then
    if anyActive s l then s
    else match workerOf s l with
      | some d => loseWorker s d
      | none => s
  else if isWorker s then (if anyActive s l then s else loseLink s nm)
  else freezeLink s l cause

/-! ## Leaving Active (R140) -/

/-- A port's generation lapses when no sub-link of it is in Lock, Exchange or Active (R468). -/
def portIdle (s : State) (p : Nat) : State :=
  if (List.range 4).any fun k =>
      let st := (link s (4 * p + k)).st
      st == .lock || st == .exchange || st == .active
  then s else updSys s fun y => { y with portGen := Tab.set 0 y.portGen p 0 }

/-- DOWN blocks: 8 of them (R129, R140). -/
def sendDown (s : State) (l reason : Nat) : State :=
  forAll s (List.range 8) fun u _ => emit u (.block l (.down reason))

/-- Lanes of the sub-link forget what they had gained. -/
def resetLanes (s : State) (l : Nat) : State :=
  forAll s (lanesOf s l) fun u n => updLane u n fun x =>
    { x with present := false, cdr := false, adapt := false, rxReady := false, cwLock := false,
             cwGood := 0, cwBad := 0, blkLock := false, blkGood := 0, blkWin := 0, bip := 0,
             aligned := false, alnSeq := 0, deskew := false, inv := false }

/-- Electrical idle for 1 ms, then Detect; what the attempt had gathered is forgotten. -/
def toDetect (s : State) (l : Nat) : State :=
  portIdle (updLink (resetLanes s l) l fun x =>
    { x with st := .detect, idle := true, gen := 0, rdyCount := [0, 0, 0, 0],
             rdySeen := [false, false, false, false], sentAck := [0, 0, 0, 0], frameOk := false,
             ackFrame := false, capSent := 0 }) (l / 4)

/-- A lane of a lost bond member resumes on its new member once every packet it had sent
unacknowledged has been sent again there, in order (R150). -/
def bondResend (s : State) (l : Nat) (lost : List Replay) : State :=
  forAll s (lost.filter fun r => r.pkt.typ != 0) fun u r =>
    let m := laneMember u l r.pkt.flow.toNat
    if m = l || !linkActive u m then u else linkSend u m r.pkt r.txn r.src

/-- What a link that has left Active no longer holds. -/
def dropLinkLayer (s : State) (l : Nat) : State :=
  let s1 := updLink s l fun x => { x with
    replay := [], owed := [], evt := x.evt ||| 2, ping := none, xoff := [], paused := [], annSeq := none,
    shTok := x.shTok, nakSent := false, rxAcked := 0 }
  updFab s1 fun x => { x with tags := x.tags.filter fun t => !(t.ping && t.fn == l) }

/-- STATE packets of a pass that the lost link has not acknowledged abandon the pass. -/
def abandonPasses (s : State) (l : Nat) : State :=
  forAll s ((mgsOf (halfOfLink l)).filter fun g => mgEn s g && mgLink s g == l && mgDown s g && (mg s g).running)
    fun u g => updMg u g fun x => { x with running := false, sentAny := false, acks := 0, readDone := false }

/-- A link that leaves Active is a wake, in S1 and while an entry is under way (R388, R393); the device's own step 2 of an
entry into S2 or S3 is none. -/
def downWake (s : State) (l : Nat) : State :=
  if s.pwr.commit && s.pwr.request != some 1 then s else wakeBy s 6 l

/-- A sub-link leaves Active: DOWN blocks where its transmitter runs, its replay buffer discarded (a
bond moves its lanes), LINK_DOWN and the reason, and containment (R140, R150, R309, R316). -/
def leaveActive (s : State) (l reason : Nat) (txRuns : Bool := true) : State :=
  if !linkActive s l then s
  else
    let lost := (link s l).replay ++ (link s l).owed
    let s1 := onlyIf txRuns (fun t => sendDown t l reason) s
    let s2 := toDetect (dropLinkLayer s1 l) l
    let s3 := updLink s2 l fun x => { x with reason := reason, nextGen := 0 }
    let s4 := bumpR s3 (llReg l 0x038)
    let s5 := if portBond s4 (l / 4) != 0 && anyActive s4 l then bondResend s4 l lost else s4
    contain (downWake (abandonPasses s5 l) l) l 1

/-! ## Insertion (R314, R317) -/

/-- Every worker function configured on the manager is reachable: HIERARCHY_COMPLETE, once. -/
def hierarchyCheck (s : State) : State :=
  let h := leadHalf s
  let ds := ((List.range 16).flatMap fun m => ((hl s m).layout.filter fun y => y.ftype == 2).map (·.devid)).eraseDups
  if isManager s && !(half s h).hierDone && !ds.isEmpty && ds.all (reachable s) then
    let n := ((span 1 15).filter (reachable s)).length
    raiseEv (updHalf s h fun x => { x with hierDone := true }) h 54 0 n 0
  else s

/-- A worker's tether is there again, or for the first time. -/
def insertWorker (s : State) (d : Nat) : State :=
  let h := leadHalf s
  let w := worker s d
  if !reachable s d then s
  else if w.1 = 0 then hierarchyCheck (updWorker s d fun _ => (1, false, false, false))
  else if w.1 = 4 && !w.2.1 then
    hierarchyCheck (raiseEv (updWorker s d fun x => (x.1, true, false, x.2.2.2)) h 24 d 0 0)
  else s

/-- A link enters Active from IDLE, HELD, FROZEN or LOST (R314, R316, R317). -/
def insertLink (s : State) (l : Nat) : State :=
  let nm := tetherName s l
  let h := halfOfLink l
  if isManager s && isTether s l then
    let s1 := updLink s nm fun x => { x with contain := if x.contain = 0 then 1 else x.contain }
    match workerOf s1 l with
    | some d => insertWorker s1 d
    | none => s1
  else
    let c := containOf s nm
    if c = 1 then s
    else
      let s1 := raiseEv (updLink s nm fun x =>
        { x with contain := if c = 0 then 1 else c, present := decide (c ≠ 0), applied := false }) h 18 nm 0 0
      forAll s1 (fnsTargeting s1 nm) fun u n => fnEvent u n 4

/-- MANAGER_CONFLICT (R340): every worker is lost; only RESET_N clears it. -/
def managerConflict (s : State) (l : Nat) : State :=
  let h := halfOfLink l
  if (half s h).conflict then s
  else
    let s1 := raiseEv (updHalf s h fun x => { x with conflict := true }) h 17 (l / 4) 0 0
    let s2 := updHalf s1 (otherHalf h) fun x => { x with conflict := true }
    forAll s2 (span 1 15) loseWorker

/-- TETHER_MISWIRED (R336): DEVID received, DEVID expected or 0xFFFF. -/
def tetherCheck (s : State) (l : Nat) : State :=
  if miswired s l then
    raiseEv s (leadHalf s) 53 (l / 4) (link s l).devid
      (if isManager s then (workerOf s l).getD 0xFFFF else 0)
  else s

/-! ## Release (R313, R317) -/

/-- A release is refused: logged with its reason, counted, RELEASE_REFUSED. -/
def releaseRefused (s : State) (h : Half) (unit reason : Nat) : State :=
  raiseEv (bump (logC s h 0x13 unit (detail := reason)) 0x8009 (hsub h)) h 22 unit reason 0

/-- 1 written to ERR_LL_RELEASE.RELEASE of a link. -/
def releaseLink (s : State) (l : Nat) : State :=
  let h := halfOfLink l
  let x := link s l
  let lost := x.contain == 4 && isWorker s
  if x.contain = 2 || x.contain = 3 || lost then
    if !linkActive s l then releaseRefused s h l 1
    else if (x.present || lost) && !x.applied then releaseRefused s h l 2
    else
      let s1 := endOld s l
      let s2 := updLink s1 l fun y => { y with contain := 1, present := false, applied := false, cause := 0 }
      let s3 := raiseEv (logC s2 h 0x12 l) h 21 l 0 0
      settle s3
  else s

/-- 1 written to ERR_WK_RELEASE.RELEASE of a worker. -/
def releaseWorker (s : State) (d : Nat) : State :=
  let h := leadHalf s
  let w := worker s d
  if w.1 = 4 then
    if !reachable s d then releaseRefused s h (0x100 + d) 1
    else if !w.2.2.1 then releaseRefused s h (0x100 + d) 2
    else
      let s1 := updWorker s d fun _ => (1, false, false, false)
      let s2 := match workerTether s1 d with
        | some l => updLink s1 l fun y => { y with contain := 1, cause := 0 }
        | none => s1
      logC s2 h 0x12 (0x100 + d)
  else s

/-- The freeze timer of a link in HELD ends (R312). -/
def freezeExpires (s : State) (l : Nat) : State :=
  if containOf s l != 2 then s
  else
    let h := halfOfLink l
    let np := (s.fab.txns.filter fun t => t.kind == .np && t.sink == .link l).length +
      (s.fab.tags.filter fun t => (t.side == linkSide l) && t.old && t.req != 0).length
    let p := (s.fab.txns.filter fun t => t.kind == .p && t.sink == .link l).length
    let s1 := updLink s l fun x => { x with contain := 3 }
    let s2 := endAll s1 (fun t => t.kind != .cpl && t.sink == .link l) 2 fun u t => countFrozen u t.home t.kind
    let s3 := endOld s2 l
    raiseEv (logC s3 h 0x11 l (addr := np) (addr2 := p)) h 20 l 0 (min np 65535)

end Sys2Proof.Machine
end

