-- ==== Sys2Proof/Machine/LocalTraffic.lean ====
section
/-! DEFINITION. Packets received on a local link: the link layer (R133, R141, R142, R144), malformed
packets (R137), containment (R311, R336), classification (R32, R33), outbound translation (R156 to R167),
completions (R136, R205 to R211), semaphore packets (R185 to R189), state words (R197, R202), doorbells
(R278), capacity announcements (R147, R229, R231) and PINGs (R136). -/

namespace Sys2Proof.Machine

/-! ## Outbound entries -/

/-- Word k of outbound entry e, in half h's copy (R22, Table 06.3). -/
def outw (s : State) (h : Half) (e k : Nat) : W32 :=
  BitVec.ofNat 32 (cfg s h (0x4400 + e / 16) (8 * (e % 16) + k + 1))

/-- Entries whose CTRL word differs from its default: no other can be enabled. -/
def outListed (s : State) (h : Half) : List Nat :=
  (listed s h 0x4400 0x44FF 8 1).map fun (i, k) => (i - 0x4400) * 16 + (k - 1) / 8

def outSrc (c : W32) : Nat := fld c 16 8
def outBase (s : State) (h : Half) (e : Nat) : Nat := fld (outw s h e 2) 0 28 * 4096

/-- Target end of an entry: a host function, named by its primary, or a local link. -/
def outTarget (s : State) (h : Half) (e : Nat) : End :=
  let t := outw s h e 1
  if fld (outw s h e 0) 14 2 == 0 then .fn (fld t 8 8 * 64 + fld t 0 8) else .link (fld t 8 8)

/-- Dormant reason of an entry, 0 none (Table 06.4). -/
def outDormant (s : State) (h : Half) (e : Nat) : Nat :=
  if !linkExists s (outSrc (outw s h e 0)) then 1
  else match outTarget s h e with
    | .link l => if linkExists s l then 0 else 2
    | .fn n => if fnIsEnd s n then 0 else 3
    | _ => 0

/-- The entry of a source link that contains an address (R161). -/
def outFind (s : State) (h : Half) (nm a : Nat) : Option Nat :=
  (outListed s h).find? fun e =>
    let c := outw s h e 0
    winOn c && outSrc c == nm && outDormant s h e == 0 &&
    decide (outBase s h e ≤ a) && decide (a < outBase s h e + winSize c)

/-- TBASE_B is in use: the partner of the pair is active (R162). -/
def outPartner (s : State) (h : Half) (e : Nat) : Bool :=
  match outTarget s h e with
  | .fn n => activeFn s n != n
  | _ => false

/-- Address at the target of a source address (R161, R162). -/
def outAddr (s : State) (h : Half) (e a : Nat) : Nat :=
  let k := if outPartner s h e then 6 else 4
  (outw s h e k).toNat / 4096 * 4096 + (outw s h e (k + 1)).toNat * 2 ^ 32 + (a - outBase s h e)

/-- What outbound translation answers: the entry, or a miss. -/
def translateOut (s : State) (h : Half) (nm f a : Nat) : Option Nat :=
  match outFind s h nm a with
  | some e => if outTarget s h e == flowSink s h f then some e else none
  | none => none

/-- WIN_OUT_HITS of an entry (R155): a request that it translates (DEDUCED, log entry 28). -/
def outHits (e : Nat) : Nat := 0x800028 + 0x40 * e

/-! ## Format rules (R134, R135, R137) -/

/-- A PING: TYPE 0, or any request type with LEN 0. -/
def isPing (p : Pkt) : Bool := p.len == 0 && (decide (p.typ.toNat ≤ 8) && p.typ != 3)

def isNpType (p : Pkt) : Bool := p.typ == 2 || p.typ == 6 || p.typ == 7
def isPType (p : Pkt) : Bool := p.typ == 1 || p.typ == 4 || p.typ == 5 || p.typ == 8

/-- The range crosses a 4 KiB boundary. -/
def cross4k (p : Pkt) : Bool := decide (4096 < p.addr.toNat % 4096 + p.len.toNat)

/-- Operation of an ATOMIC (Table 05.7). -/
def atomicOf (p : Pkt) : Option AtomicOp :=
  match p.addr.toNat % 4 with
  | 0 => some .fetchAdd
  | 1 => some .swap
  | 2 => some .cas
  | _ => none

/-- An ATOMIC's length fits its operation, and its address its operand. -/
def atomicOk (p : Pkt) : Bool :=
  let n := p.len.toNat
  let a := p.addr.toNat / 4 * 4
  match atomicOf p with
  | some .cas => (n == 8 || n == 16 || n == 32) && a % (n / 2) == 0
  | some _ => (n == 4 || n == 8) && a % n == 0
  | none => false

/-- A packet with a good CRC that breaks a format rule (R137). -/
def malformed (tether : Bool) (p : Pkt) : Bool :=
  let n := p.len.toNat
  match p.typ.toNat with
  | 0 => n != 0
  | 1 | 2 => decide (512 < n) || n == 0 || cross4k p
  | 3 => decide (512 < n)
  | 4 => n != 4 || tether
  | 5 => n != 8
  | 6 => !atomicOk p
  | 7 | 8 => n != 4
  | 9 => n != 8 || tether
  | _ => true

/-! ## Answers at the link and credit -/

/-- Give back the credit of a packet that enters no buffer. -/
def creditBack (s : State) (l : Nat) (p : Pkt) : State :=
  match pktCost p.typ.toNat p.len.toNat with
  | (some k, n) => advance s l (k == .np) p.cls.toNat n
  | _ => s

/-- A request that the link layer itself turns away: a non-posted one with `status`. -/
def turnAway (s : State) (l : Nat) (p : Pkt) (status : Nat) : State :=
  let s1 := creditBack s l p
  if isNpType p then linkCpl s1 l p status else s1

/-- An ACK or NAK block carrying the last packet received in order. -/
def sendAck (s : State) (l : Nat) (nak : Bool) : State :=
  emit (updLink s l fun x => { x with rxAcked := if nak then x.rxAcked else 0 })
    (.block l (.ack nak (((link s l).rxSeq + 1023) % 1024)))

/-- A cause of Table 11.4 other than leaving Active; the all-ones model knows no such cause. -/
def fatal (s : State) (l cause : Nat) : State := if onesModel s l then s else freezeLink s l cause

/-- A malformed packet: discarded, counted, LP_LINK_EVT.MALFORMED; too many within 1 ms freeze the
link (R137, R309). -/
def onMalformed (s : State) (l : Nat) (p : Pkt) : State :=
  let s1 := bumpR (updLink s l fun x =>
    let fresh := decide (x.malStart + 1250000 ≤ s.clk) || x.malCount = 0
    { x with evt := x.evt ||| 8, malStart := if fresh then s.clk else x.malStart,
             malCount := if fresh then 1 else x.malCount + 1 }) (llReg l 0x028)
  let s2 := turnAway s1 l p 1
  if cfg s (halfOfLink l) 0x8000 2 < (link s1 l).malCount then fatal s2 l 3 else s2

/-! ## Requests into a flow -/

/-- The transaction of a packet of flow f. -/
def pktTxn (s : State) (l : Nat) (p : Pkt) (kind : Kind) (op : TOp) (addr len : Nat) (data : List Byte)
    (ns : Bool) : Txn :=
  let h := halfOfLink l
  let t := flowTxn s h p.flow.toNat kind op addr len data
  { t with src := .link (tetherName s l), fence := p.fence, poison := p.poison, ns := ns, lock := p.lock,
           crCls := p.cls.toNat, via := l }

/-- A non-posted request that the bridge answers in place of its target: the completion travels in the
flow's completion lane (R43). -/
def refuseNp (s : State) (l : Nat) (p : Pkt) (status : Nat) : State :=
  let h := halfOfLink l
  let t := pktTxn s l p .np .read 0 0 [] false
  let q := submitNp (creditBack s l p) (.link (tetherName s l) p.tag.toNat) t 0 []
  match req? q.2 q.1 with
  | some r => endReq q.2 r status h
  | none => q.2

/-- Hand a non-posted request to its flow, or answer as the sink's gate says. -/
def giveNp (s : State) (l : Nat) (p : Pkt) (t : Txn) (len : Nat) (parts : List ReqPart) (o : ReqOpts) : State :=
  let h := halfOfLink l
  match gate s t.sink with
  | .pass => (submitNp s (.link (tetherName s l) p.tag.toNat) t len parts o).2
  | .refuse st => refuseNp (gateCount s h t.sink .np (.refuse st)) l p st
  | .allOnes =>
    let q := submitNp (creditBack (gateCount s h t.sink .np .allOnes) l p)
      (.link (tetherName s l) p.tag.toNat) t len [⟨0, len, t.addr, .got (ones len) false, []⟩] o
    deliver q.2 q.1 h

/-- A size refusal (R164, Table 06.6). -/
def sizeRefused (s : State) (l : Nat) (p : Pkt) (e : Nat) : State :=
  let h := halfOfLink l
  let s1 := bump (logC s h 0x01 e (addr := p.addr.toNat)) 0x4804 (hsub h)
  if isNpType p then refuseNp s1 l p 6 else creditBack s1 l p

/-- A LOCK = 1 packet passes: its entry is bound to a semaphore that the link holds (R187). -/
def lockPasses (s : State) (h : Half) (nm e : Nat) : Bool :=
  bit (outw s h e 0) 24 && (sem s (fld (outw s h e 1) 16 8)).holders.any fun x => x.1 == nm

/-- Beat size of a split entry. -/
def outBeat (c : W32) : Nat := if bit c 2 then 8 else 4

/-- A WRITE through entry e (R164 to R166). -/
def outWrite (s : State) (l : Nat) (p : Pkt) (e : Nat) : State :=
  let h := halfOfLink l
  let c := outw s h e 0
  let a := p.addr.toNat
  let t := pktTxn s l p .p .write (outAddr s h e a) p.len.toNat p.payload (bit c 3)
  if !bit c 1 then
    if !sizeOk c a p.len.toNat then sizeRefused s l p e
    else match gate s t.sink with
      | .pass => submitP s t
      | _ => creditBack (submitP s t) l p
  else
    let all := beats (outBeat c) (p.payload.length + 1) 0 a p.len.toNat
    let good := all.takeWhile fun (o, k) => sizeOk c (a + o) k
    let grp := s.nextId
    let s1 := forAll { s with nextId := grp + 1 } good fun u (o, k) =>
      submitP u { t with op := .write, addr := t.addr + o, len := k, data := (p.payload.drop o).take k,
                         size := k, left := k, fence := p.fence && o == 0, mark := .splitBeat grp e (a + o) }
    match all.drop good.length with
    | [] => s1
    | (o, _) :: _ =>
      if good.isEmpty then
        creditBack (bump (logC s1 h 0x02 e (flow := p.flow.toNat) (addr := a + o)) 0x480B (hsub h)) l p
      else updFab s1 fun x => { x with splits := x.splits ++ [⟨grp, h, e, a + o⟩] }

/-- A READ through entry e (R164, R165, R167). -/
def outRead (s : State) (l : Nat) (p : Pkt) (e : Nat) : State :=
  let h := halfOfLink l
  let c := outw s h e 0
  let a := p.addr.toNat
  let len := p.len.toNat
  let t := pktTxn s l p .np .read (outAddr s h e a) len [] (bit c 3)
  if !bit c 1 then
    if !sizeOk c a len then sizeRefused s l p e
    else giveNp s l p t len (readParts s t.sink 0 t.addr len) { ReqOpts.plain with lock := p.lock, raddr := a }
  else
    let all := beats (outBeat c) (len + 1) 0 a len
    let good := all.takeWhile fun (o, k) => sizeOk c (a + o) k
    let stop := (all.drop good.length).head?.map fun (o, _) => (o, 6)
    if good.isEmpty then
      refuseNp (bump (logC s h 0x02 e (status := 6) (flow := p.flow.toNat) (addr := a)) 0x480B (hsub h)) l p 6
    else
      giveNp s l p t len (good.map fun (o, k) => mkPart o k (t.addr + o))
        { split := true, win := e, stop := stop, lock := p.lock, raddr := a }

/-- An ATOMIC through entry e (R192); a local target must list the feature. -/
def outAtomic (s : State) (l : Nat) (p : Pkt) (e : Nat) : State :=
  let h := halfOfLink l
  let c := outw s h e 0
  let a := p.addr.toNat / 4 * 4
  let n := p.len.toNat
  let b := outBeat c
  let oneBeat := a / b == (a + n - 1) / b
  if !sizeOk c a n || (bit c 1 && !oneBeat) then sizeRefused s l p e
  else match atomicOf p with
    | none => s
    | some op =>
      let t := pktTxn s l p .np (.atomic op) (outAddr s h e a) (atomicLen op n) p.payload (bit c 3)
      let listed := match t.sink with
        | .link k => hasFeature s k 2 || isLost s (tetherName s k) || isFrozen s (tetherName s k)
        | _ => true
      if !listed then refuseNp s l p 1
      else giveNp s l p t (atomicLen op n) [mkPart 0 (atomicLen op n) t.addr]
        { ReqOpts.plain with lock := p.lock, raddr := a }

/-- LOCK_ACQ through entry e (R185): UR without a semaphore, CA where it is disabled or out of reach;
the acquire waits for completion space, then reaches its semaphore. -/
def outAcquire (s : State) (l : Nat) (p : Pkt) (e : Nat) : State :=
  let h := halfOfLink l
  let n := fld (outw s h e 1) 16 8
  if !bit (outw s h e 0) 24 then refuseNp s l p 1
  else if !semReachable s h n then refuseNp s l p 2
  else
    let t := pktTxn s l p .np .lockAcq n 4 [] false
    match gate s t.sink with
    | .allOnes => giveNp s l p t 4 [] .plain
    | _ =>
      let q := submitNp s (.link (tetherName s l) p.tag.toNat) { t with lock := false } 4 [mkPart 0 4 n]
      match q.2.fab.txns.find? fun x => x.req == q.1 with
      | some x =>
        if x.reserved then semArrive (leftIngress (dropTxn q.2 x.id) x) n (tetherName s l) q.1 else q.2
      | none => q.2

/-- LOCK_REL through entry e (R189). -/
def outRelease (s : State) (l : Nat) (p : Pkt) (e : Nat) : State :=
  let h := halfOfLink l
  let nm := tetherName s l
  let n := fld (outw s h e 1) 16 8
  let s1 := creditBack s l p
  if lockPasses s h nm e && ofBytesLE (p.payload.take 4) % 256 == n then semRelease s1 n nm
  else bump (logC s1 h 0x07 n (detail := nm)) 0x5E03 (hsub h)

/-- A WRITE, READ or ATOMIC of a flow whose sink end is an engine: service work, whose address is the
packet's own (R251; log entry 16). -/
def outEngine (s : State) (l : Nat) (p : Pkt) : State :=
  let a := p.addr.toNat
  let n := p.len.toNat
  match p.typ.toNat with
  | 1 => submitP s (pktTxn s l p .p .write a n p.payload false)
  | 2 => giveNp s l p (pktTxn s l p .np .read a n [] false) n [mkPart 0 n a] { ReqOpts.plain with raddr := a }
  | 6 => match atomicOf p with
    | some op =>
      let b := a / 4 * 4
      giveNp s l p (pktTxn s l p .np (.atomic op) b (atomicLen op n) p.payload false) (atomicLen op n)
        [mkPart 0 (atomicLen op n) b] { ReqOpts.plain with raddr := b }
    | none => s
  | _ => s

/-- A request that goes through an outbound entry: a miss, the lock check, then its own rules. -/
def outRequest (s : State) (l : Nat) (p : Pkt) : State :=
  let h := halfOfLink l
  let nm := tetherName s l
  let a := if p.typ == 6 then p.addr.toNat / 4 * 4 else p.addr.toNat
  let engSink := match flowSink s h p.flow.toNat with | .eng _ => true | _ => false
  if engSink && !p.lock && (p.typ == 1 || p.typ == 2 || p.typ == 6) then outEngine s l p
  else match translateOut s h nm p.flow.toNat a with
    | none =>
      if isNpType p then refuseNp (bump s 0x4802 (hsub h)) l p 5
      else creditBack (bump s 0x4803 (hsub h)) l p
    | some e =>
      let s := bumpR s (outHits e)
      if p.lock && (p.typ == 1 || p.typ == 2 || p.typ == 6) && !lockPasses s h nm e then
        let s1 := bump s 0x5E02 (hsub h)
        if isNpType p then refuseNp s1 l p 9 else creditBack s1 l p
      else match p.typ.toNat with
        | 1 => outWrite s l p e
        | 2 => outRead s l p e
        | 6 => outAtomic s l p e
        | 7 => outAcquire s l p e
        | 8 => outRelease s l p e
        | _ => s

/-- STATE: its word of the link, or dropped (R197, R202). -/
def rxState (s : State) (l : Nat) (p : Pkt) : State :=
  let h := halfOfLink l
  let w := p.addr.toNat % 4096
  match mgOfWord s (tetherName s l) w with
  | some g =>
    if mgDown s g then creditBack (bump s 0x5E08 (hsub h)) l p
    else addTxn s (pktTxn s l p .p (.state w) w 8 p.payload false)
  | none => creditBack (bump s 0x5E08 (hsub h)) l p

/-- A packet of a flow the bridge has paused that started more than 500 ns after the XOFF (R146). -/
def lateCheck (s : State) (l : Nat) (p : Pkt) : State :=
  if (link s l).xoff.any fun (f, c) => f == p.flow.toNat && decide (c + 625 < s.clk) then
    bumpR (updLink s l fun x => { x with evt := x.evt ||| 16 }) (llReg l 0x02C)
  else s

/-- A request packet, classified (R33), in the flow's class (R35, R137). -/
def rxRequest (s : State) (l : Nat) (p : Pkt) : State :=
  let h := halfOfLink l
  let f := p.flow.toNat
  if !flowEn s h f || flowSrc s h f != .link (tetherName s l) || flowDormant s h f then
    turnAway (bump s 0x5800 (hsub h)) l p 1
  else
    let s1 := lateCheck (onlyIf (p.cls.toNat != flowCls s h f) (fun t => bumpR t (llReg l 0x030)) s) l p
    let s2 := stampIn s1 h f true p.seq.toNat
    match p.typ.toNat with
    | 4 => addTxn s2 { pktTxn s2 l p .p (.doorbell (ofBytesLE (p.payload.take 2) % 16384)) 0 4 p.payload false with lock := false }
    | 5 => rxState s2 l p
    | _ => outRequest s2 l p

/-! ## Completions (R136, R205, R207, R210, R211, R310, R334) -/

/-- STATUS, REMAIN and OFFSET of a completion (Table 05.7). -/
def cplStatus (p : Pkt) : Nat := p.addr.toNat / 2 ^ 36
def cplRemain (p : Pkt) : Nat := p.addr.toNat / 2 ^ 26 % 1024

/-- Remove a tag in use. -/
def freeTag (s : State) (side : TagSide) (tag : Nat) : State :=
  updFab s fun x => { x with tags := x.tags.filter fun t => !((t.side == side) && t.tag == tag) }

/-- Bytes a part still lacks. -/
def partLack (s : State) (rid i : Nat) : Nat :=
  match req? s rid with
  | some r =>
    let q := r.parts.getD i (mkPart 0 0 0)
    q.len - q.buf.length
  | none => 0

/-- A completion of a request this link's tag stands for. -/
def matchCpl (s : State) (l : Nat) (p : Pkt) (u : TagUse) : State :=
  let h := halfOfLink l
  let raw := cplStatus p
  let known := raw == 0 || raw == 1 || raw == 2 || raw == 6 || raw == 7
  let s1 := onlyIf (!known) (fun t => bumpR t (llReg l 0x028)) s
  let st := if !known then 2 else if raw == 0 && p.poison then 7 else raw
  let last := st != 0 || (cplRemain p == 0 && decide (partLack s u.req u.part ≤ p.len.toNat))
  if u.req = 0 then   -- ended when the die link went down (R334)
    onlyIf (st != 0 || cplRemain p == 0) (fun t => freeTag t u.side u.tag) (bump s1 0x9007 (5 + halfIdx h))
  else
    let s2 := onlyIf last (fun t => freeTag t u.side u.tag) s1
    if st != 0 then failPart s2 u.req u.part st h
    else gotPart s2 u.req u.part (p.payload.take (partLack s u.req u.part)) p.se h

/-- The answer of a PING: the round trip in ns. -/
def pingAnswer (s : State) (l : Nat) (u : TagUse) : State :=
  updLink (freeTag s u.side u.tag) l fun x => { x with ping := none, rtt := clkToNs (s.clk - u.sent) }

/-- Match a completion by its tag (R210, R211). -/
def cplNow (s : State) (l : Nat) (p : Pkt) : State :=
  let h := halfOfLink l
  let nm := tetherName s l
  let tag := p.tag.toNat
  match s.fab.tags.find? fun u => (u.side == linkSide nm) && u.tag == tag with
  | some u =>
    if u.ping then pingAnswer s l u
    else if isFrozen s nm then bump s 0x8007 (5 + halfIdx h)
    else matchCpl s l p u
  | none =>
    if s.fab.quars.any fun q => (q.side == linkSide nm) && q.tag == tag then
      bump (logC s h 0x09 l (tag := tag)) 0x5E13 (hsub h)
    else bump (logC s h 0x0A l (tag := tag)) 0x5E15 (hsub h)

/-- A kind 1 slot of the link or host link target (R442). -/
def delaySlot (s : State) (tgt : Nat) : Option Nat :=
  (List.range 16).find? fun i => tpOn s i 1 && tpw s i 1 == tgt

/-- A completion arrives: held by a kind 1 slot, or behind one held (R442), else matched. -/
def rxCpl (s : State) (l : Nat) (p : Pkt) : State :=
  let behind := s.test.delayed.any fun d => d.link.any fun x => x.1 == l
  match delaySlot s l with
  | some i =>
    let d := everyNth s i
    if d.1 || behind then
      updTest d.2 fun t => { t with delayed := t.delayed ++ [⟨if d.1 then i else 16, none, some (l, p)⟩] }
    else cplNow d.2 l p
  | none =>
    if behind then updTest s fun t => { t with delayed := t.delayed ++ [⟨16, none, some (l, p)⟩] }
    else cplNow s l p

/-! ## Capacity announcements -/

/-- The announcement is newer than the last one applied since Active (R147). -/
def annNewer (x : LlSt) (q : Nat) : Bool :=
  match x.annSeq with
  | none => true
  | some old => let d := (q + 65536 - old) % 65536; decide (1 ≤ d) && decide (d ≤ 32767)

/-- CAP_ANN: recorded, LP_LINK_EVT.CAP_ANN, the shaper put in place full, re-rated or removed, and the
link's C0 flows judged again (R147, R229, R231). -/
def rxCapAnn (s : State) (l : Nat) (p : Pkt) : State :=
  let cap := ofBytesLE (p.payload.take 4)
  let q := ofBytesLE ((p.payload.drop 4).take 2)
  if !annNewer (link s l) q then s
  else
    let y := shRefill s (link s l)
    let s1 := updLink s l fun _ => { y with
      capacity := cap, annSeq := some q, evt := y.evt ||| 32,
      shTok := if cap = 0xFFFFFFFF then none else some (y.shTok.getD 4096),
      shClk := s.clk, shFrac := if y.shTok.isSome then y.shFrac else 0 }
    c0Judge s1 s1.pwr.level

/-! ## The receiver -/

/-- PING: answered by the link layer with flow 0, LEN 0, status OK and its tag (R136). -/
def rxPing (s : State) (l : Nat) (p : Pkt) : State :=
  linkSend s l (mkPkt 3 0 0 p.tag.toNat 0 0 []) 0 none

/-- Units received; a cost beyond the advertised LIMIT freezes the link (R144, Table 11.4). -/
def rxUnits (s : State) (l : Nat) (p : Pkt) : State :=
  match pktCost p.typ.toNat p.len.toNat with
  | (some k, n) =>
    let c := p.cls.toNat
    let np := k == .np
    let x := link s l
    let rx := ((if np then x.rxNp else x.rxP).getD c 0 + n) % 4096
    let adv := (if np then x.advNp else x.advP).getD c 0
    let s1 := updLink s l fun y =>
      if np then { y with rxNp := setAt y.rxNp c rx } else { y with rxP := setAt y.rxP c rx }
    if 2048 ≤ (adv + 4096 - rx) % 4096 then fatal s1 l 2 else s1
  | _ => s

/-- A packet received in order. -/
def rxInOrder (s : State) (l : Nat) (p : Pkt) : State :=
  let h := halfOfLink l
  let nm := tetherName s l
  if isPing p then rxPing s l p
  else
    let s1 := rxUnits s l p
    if malformed (isTether s l) p then onMalformed s1 l p
    else if miswired s1 l then turnAway (bump s1 0x9008 (hsub h)) l p 1
    else if p.typ == 9 then rxCapAnn s1 l p
    else if p.typ == 3 then rxCpl s1 l p
    else if isFrozen s1 nm then
      turnAway (bump s1 0x8007 ((if isNpType p then 1 else 3) + halfIdx h)) l p 2
    else rxRequest s1 l p

/-- A packet arrives (R133, R141, R142): bad or after a gap, one NAK; a duplicate, acknowledged; in
order, handled. Toward S3 after the commit it is discarded; a sleeping or sleep-bound device wakes
(R386, R388). -/
def rxPacket (s : State) (l : Nat) (p : Pkt) : State :=
  let h := halfOfLink l
  if !linkActive s l || !ingressOn s h then s
  else if s3Commit s then bump s 0x7006 3
  else
    let s0 := wakeArrival s 6 l
    let d := (p.seq.toNat + 1024 - (link s0 l).rxSeq) % 1024
    if p.errored || p.crc != pktCrc p || (decide (1 ≤ d) && decide (d ≤ 511)) then
      if (link s0 l).nakSent then s0
      else sendAck (bumpR (updLink s0 l fun x => { x with nakSent := true }) (llReg l 0x024)) l true
    else if d != 0 then sendAck s0 l false
    else
      let s1 := bumpR (updLink s0 l fun x =>
        { x with rxSeq := (x.rxSeq + 1) % 1024, rxAcked := x.rxAcked + 1, nakSent := false }) (llReg l 0x018)
      let s2 := if 32 ≤ (link s1 l).rxAcked then sendAck s1 l false else s1
      rxInOrder s2 l p

/-- A command names its packet's TYPE; a packet of a reserved TYPE may come under any of them (R137). A
header that spells another type is another command's. -/
def rxAs (t : Nat) (s : State) (l : Nat) (p : Pkt) : State :=
  onlyIf (p.typ.toNat == t || decide (10 ≤ p.typ.toNat)) (fun u => rxPacket u l p) s

/-! ## Commands -/

/-- DALFEL_WRITE (R156): a packet of TYPE 1 is received. -/
def execDalfelWrite (l : LL) (p : Pkt) (s : State) : Out := .next (rxAs 1 s l p)
/-- DALFEL_READ (R156): a packet of TYPE 2 is received. -/
def execDalfelRead (l : LL) (p : Pkt) (s : State) : Out := .next (rxAs 2 s l p)
/-- DALFEL_CPL (R136): a packet of TYPE 3 is received. -/
def execDalfelCpl (l : LL) (p : Pkt) (s : State) : Out := .next (rxAs 3 s l p)
/-- DOORBELL (R278): a packet of TYPE 4 is received. -/
def execDoorbell (l : LL) (p : Pkt) (s : State) : Out := .next (rxAs 4 s l p)
/-- STATE (R197): a packet of TYPE 5 is received. -/
def execState (l : LL) (p : Pkt) (s : State) : Out := .next (rxAs 5 s l p)
/-- ATOMIC (R192): a packet of TYPE 6 is received. -/
def execAtomic (l : LL) (p : Pkt) (s : State) : Out := .next (rxAs 6 s l p)
/-- LOCK_ACQ (R185): a packet of TYPE 7 is received. -/
def execLockAcq (l : LL) (p : Pkt) (s : State) : Out := .next (rxAs 7 s l p)
/-- LOCK_REL (R189): a packet of TYPE 8 is received. -/
def execLockRel (l : LL) (p : Pkt) (s : State) : Out := .next (rxAs 8 s l p)
/-- CAP_ANN (R147): a packet of TYPE 9 is received. -/
def execCapAnn (l : LL) (p : Pkt) (s : State) : Out := .next (rxAs 9 s l p)
/-- PING (R136): TYPE 0, or any request type with LEN 0 (R134). -/
def execPing (l : LL) (p : Pkt) (s : State) : Out :=
  .next (onlyIf (isPing p || p.typ == 0) (fun u => rxPacket u l p) s)

end Sys2Proof.Machine
end

