-- ==== Sys2Proof/Machine/FabricCmd.lean ====
section
/-! DEFINITION. Commands of the fabric: cells crossing the press (R14, R39, R52), completion space
(R38), fences (R47), doorbells, state words and zero-length reads in their place (R45, R55, R197),
shapers (R219, R229), the brine (R223 to R227, R240, R241), packets starting (R141, R144, R145) and
semaphore units (R186, R189, R190). -/

namespace Sys2Proof.Machine

/-! ## VC0 (R40) -/

/-- What a waiting TLP asks of its partition: its request, kind and payload. -/
def tlpReq : Instr → Option (HostReq × Kind × Nat)
  | .hostMemoryWrite _ r => some (r, .p, r.data.length)
  | .hostMemoryRead _ r => some (r, .np, 0)
  | .hostAtomicop _ r _ => some (r, .np, r.data.length)
  | _ => none

/-- Serve a TLP whose address hit the aperture of function n. -/
def serveTlp (s : State) (n off : Nat) : Instr → State
  | .hostMemoryWrite _ r => windowWrite s n off r
  | .hostMemoryRead _ r => windowRead s n off r
  | .hostAtomicop _ r op => windowAtomic s n off r op
  | _ => s

/-- A memory request that no function claims: Unsupported Request in PF0 (Table 11.1). -/
def unclaimed (s : State) (m : Nat) : Instr → State
  | .hostMemoryWrite _ _ => aerUR s (64 * m)
  | .hostMemoryRead _ r => hostRefuse s m (64 * m) r.tag.toNat .ur r.len
  | .hostAtomicop _ r op => hostRefuse s m (64 * m) r.tag.toNat .ur (atomicLen op r.data.length)
  | _ => s

/-- VC0 of the host link moves again: the time its credits were withheld is added up (OD 0x5801). -/
def vc0Moves (s : State) (m : Nat) : State :=
  match (hl s m).vc0Since with
  | some c => bumpN (updHl s m fun x => { x with vc0Since := none }) 0x5801 (m / 4 + 1) (clkToNs (s.clk - c))
  | none => s

/-- TLPs waiting at the head of VC0 enter, in order, while their partitions have room. -/
def retryVc0 : Nat → State → Nat → State
  | 0, s, _ => s
  | k + 1, s, m =>
    match (hl s m).waitTlp with
    | [] => vc0Moves s m
    | i :: rest =>
      let popped := updHl s m fun x => { x with waitTlp := rest }
      match tlpReq i with
      | none => retryVc0 k popped m
      | some (r, kd, len) =>
        match hostDecode s m r.addr.toNat with
        | .aperture n off =>
          if hostRoom s m kd (tlpClass s n off) len then retryVc0 k (serveTlp popped n off i) m else s
        | _ => retryVc0 k (unclaimed popped m i) m

/-- Every host link of a half tries its waiting TLPs. -/
def retryHalf (s : State) (h : Half) : State :=
  forAll s (span (8 * halfIdx h) 8) fun u m =>
    if (hl u m).waitTlp.isEmpty && (hl u m).vc0Since.isNone then u else retryVc0 (((hl u m).waitTlp).length + 1) u m

/-! ## Cells -/

/-- A transaction of the half's ingress sends one cell. -/
def pressIngress (s : State) (h : Half) (t : Txn) (outFree : Bool) (ecc : EccFault) : State :=
  if t.ihalf != h || t.left = 0 then s
  else
    let s1 := meetEcc s h t.flow [(t.id, 0)] false ecc
    match txn? s1 t.id with
    | some u => retryHalf (crossIngress s1 u (outFree && !pressBusy s1 u.home (outOf u.sink))) h
    | none => retryHalf s1 h

/-- A cell of the half's vat crosses to its egress. -/
def pressVat (s : State) (h : Half) (c : Cell) (outFree : Bool) (ecc : EccFault) : State :=
  if c.half != h || !cellReady s c then s
  else
    match cellTxn s c with
    | none => s
    | some t =>
      if !outFree || pressBusy s h (outOf t.sink) then s
      else
        let s1 := meetEcc s h c.flow c.parts true ecc
        match cell? s1 c.id with
        | some d => crossVat s1 d
        | none => s1

/-- PRESS_CELL_CROSS (R14, R39, R222, R306): `id` names a transaction that waits in the ingress buffers
of half `h`, or a cell held in its vat; `outFree` says that its output is free in this slot. -/
def execPressCellCross (h : Half) (id : Nat) (outFree : Bool) (ecc : EccFault) (s : State) : Out :=
  .next (onlyIf (carries s h) (fun u =>
    match txn? u id with
    | some t => pressIngress u h t outFree ecc
    | none =>
      match cell? u id with
      | some c => pressVat u h c outFree ecc
      | none => u) s)

/-- Outputs that send cells outward: local, host and engine ports; the die-link, vat and queue ports take
no part (Table 01.3). -/
def sendsOut (port : Nat) : Bool := decide (port < 14) || (decide (28 ≤ port) && decide (port < 31))

/-- One choice of an output. -/
def slotCell (s : State) (h : Half) (port : Nat) (owner : Option Nat) : State × Bool :=
  let r := slotChoice s h port owner
  match r.1 with
  | some c => (crossVat r.2 c, decide (c.bytes ≤ 128))
  | none => (r.2, false)

/-- CALENDAR_SLOT (R52, R220): the slot's owner, else the oldest C0 cell, else the round robin; a cell of
at most 128 bytes leaves the slot's second cycle to the round robin. A kind 2 slot holds the output. -/
def execCalendarSlot (h : Half) (port : PP) (owner : Option FlowNo) (s : State) : Out :=
  .next (onlyIf (carries s h && sendsOut port.val) (fun u =>
    if pressBusy u h port.val then
      forAll u ((span (8 * halfIdx h) 8).filter fun i => tpOn u i 2 && tpw u i 1 == port.val) tpAct
    else
      let u1 := onlyIf (contended u (readyFor u h port.val))
        (fun t => bump t 0x5708 (32 * halfIdx h + port.val + 1)) u
      let r := slotCell u1 h port.val (owner.map (·.val))
      if r.2 then
        let rest := (readyFor r.1 h port.val).filter fun c => c.cls != 0
        if rest.isEmpty then r.1
        else
          let d := drr 16 r.1 h (halfIdx h * 32 + port.val) rest
          match d.1 with
          | some c => crossVat d.2 c
          | none => d.2
      else r.1) s)

/-- DIE_LINK_CELL_ARRIVE (R16, R223): a cell on the die link reaches half `h`. -/
def execDieLinkCellArrive (h : Half) (cell : Nat) (s : State) : Out :=
  .next (match cell? s cell with
    | some c =>
      if c.half == h && c.place == .die && crossOk s then
        dieArrive s c (match cellTxn s c with
          | some t => (readyFor s h (outOf t.sink)).isEmpty && !pressBusy s h (outOf t.sink)
          | none => true)
      else s
    | none => s)

/-! ## Waiting transactions -/

/-- CPL_SPACE_RESERVED (R38): the request reserves its completion space and may be issued; an acquire
reaches its semaphore (R185). -/
def execCplSpaceReserved (id : Nat) (s : State) : Out :=
  let s1 := reserve s id
  .next (match txn? s1 id with
    | some t =>
      match t.op, t.src with
      | .lockAcq, .link l =>
        if t.reserved then semArrive (leftIngress (dropTxn s1 id) t) t.addr l t.req else s1
      | _, _ => s1
    | none => s1)

/-- FENCE_RELEASE (R47): nothing earlier is in the fenced transaction's way. -/
def execFenceRelease (id : Nat) (s : State) : Out :=
  .next (match txn? s id with
    | some t => if t.fence && !fenceWaits s t then settle (updTxn s id fun u => { u with fenceOk := true }) else s
    | none => s)

/-- Every earlier posted write of the transaction's flow has been committed. -/
def flowWritesDone (s : State) (t : Txn) : Bool :=
  !(before s t.id).any fun u => u.flow == t.flow && u.kind == .p

/-- The origin that a doorbell of local link l has is admitted (Table 10.2). -/
def linkAdmitted (s : State) (n l : Nat) : Bool :=
  match fld (sw s n 0) 8 2 with
  | 1 => fld (sw s n 1) 0 10 == l
  | 3 => true
  | _ => false

/-- An open-origin doorbell of half `h` arrives at a source: internal sources and, in SPLIT, sources of the
other half refuse it (R278). -/
def doorbellAt (s : State) (h : Half) (n : Nat) (admitted : Bool) : State :=
  let across := halfOfSrc n != h
  if across && !dieUp s then bump s 0x6C21 (hsub h)
  else if !admitted || 8064 ≤ n % 8192 then bump s 0x6C21 (hsub (halfOfSrc n))
  else arrive s n

/-- A posted write that engine e issued (R256). -/
def engWrote (t : Txn) (e : Nat) : Bool := match t.mark with | .engWrite k _ => k == e | _ => false

/-- FLOW_DOORBELL_RAISE (R45, R256, R278): the doorbell of a local link leaves its flow and arrives at its
source; that of an engine waits for the engine's earlier writes of the flow. -/
def execFlowDoorbellRaise (id : Nat) (s : State) : Out :=
  .next (match txn? s id with
    | some t =>
      match t.op, t.src with
      | .doorbell n, .link l =>
        if flowWritesDone s t then
          let s1 := leftIngress (dropTxn s id) t
          doorbellAt s1 t.ihalf n (linkAdmitted s1 n l)
        else s
      | .doorbell n, .eng e =>
        if (before s id).any (fun u => u.flow == t.flow && engWrote u e) then s
        else doorbellAt (dropTxn s id) t.ihalf n true
      | _, _ => s
    | none => s)

/-! ## State words (R197, R280, R290, R297) -/

/-- A source's level rises or falls: an offer not yet accepted is withdrawn, a source in service shows
CLAIMED_INACTIVE, a message source counts each rise, an INTx wire follows. -/
def setLevel (s : State) (n : Nat) (v : Bool) : State :=
  let x := src s n
  if x.level == v then s
  else
    let s1 := updSrc s n fun y => { y with level := v, order := if v then s.clk else y.order }
    if srcHost s1 n then
      let f := activeFn s1 (srcFunc s1 n)
      let msg := msixEn s1 f || msiEn s1 f
      let s2 := onlyIf (v && srcEn s1 n && !srcDormant s1 n && msg) (fun t => arriveAdmitted t n) s1
      let s3 := onlyIf (!v && x.pos == .claimed) (fun t =>
        bump (updSrc t n fun y => { y with vanished := true }) 0x6C25 (srcFunc s n / 64 + 1)) s2
      onlyIf (v && !msg) (fun t => pmEvent t f) (if msg then s3 else intxUpdate s3 (f / 64))
    else if v then
      let s2 := updSrc s1 n fun y => { y with vanished := false }
      onlyIf (srcEn s2 n && srcWake s2 n && decide (s2.pwr.sleep ≤ 1)) (fun t => wakeBy t 4 n) s2
    else match x.pos with
      | .offered e => updEng (updSrc s1 n fun y => { y with pos := .idle }) e fun g => { g with offer := none }
      | .held _ => updSrc s1 n fun y => { y with pos := .idle }
      | .inService _ => updSrc s1 n fun y => { y with vanished := true }
      | _ => s1

/-- Level sources of a half that read this store word. -/
def levelSrcs (s : State) (h : Half) (w : Nat) : List Nat :=
  ((listed s h 0x6800 0x6BFF 8 1).map fun (i, k) => (i - 0x6800) * 16 + (k - 1) / 8).filter fun n =>
    halfOfSrc n == h && srcLevel s n && fld (sw s n 2) 0 15 == w

/-- A value enters word `w` of the store: the group's word is marked changed, a value already marked is
superseded, and level sources follow their bits. -/
def storeIn (s : State) (g w : Nat) (v : W64) : State :=
  let h := halfOfMg g
  let k := w - mgFirst s g
  let sw_ := mgStore s g + k
  let s1 := storePut s h sw_ v
  let s2 := if (mg s1 g).changed.contains k then
      bump (updMg s1 g fun x => { x with superseded := x.superseded + 1 }) 0x5E09 (hsub h)
    else updMg s1 g fun x => { x with changed := x.changed ++ [k] }
  forAll s2 (levelSrcs s2 h sw_) fun u n => setLevel u n (v.getLsbD (fld (sw u n 2) 16 6))

/-- STATE_VALUE_COMMIT (R197, R280): the published value enters the store once the flow's earlier posted
writes are committed. -/
def execStateValueCommit (id : Nat) (s : State) : Out :=
  .next (match txn? s id with
    | some t =>
      match t.op, t.src with
      | .state w, .link l =>
        if flowWritesDone s t then
          let s1 := leftIngress (dropTxn s id) t
          match mgOfWord s1 l w with
          | some g => storeIn s1 g w (BitVec.ofNat 64 (ofBytesLE (t.data.take 8)))
          | none => bump s1 0x5E08 (hsub t.ihalf)
        else s
      | _, _ => s
    | none => s)

/-- The posted writes of function n toward link l that its link layer has not yet acknowledged. -/
def unacked (s : State) (n l bound : Nat) : Bool :=
  (s.fab.txns.any fun u => u.kind == .p && u.src == .fn n && u.sink == .link l && u.id < bound) ||
  (bondMembers s l).any fun k => (link s k).replay.any fun r =>
    r.src == some (.fn n) && r.pkt.typ == 1 && decide (r.txn < bound)

/-- ZERO_LEN_READ_FLUSH (R55): every posted write accepted earlier from the function for the link has been
acknowledged by its link layer; the read completes with one DW of zero. -/
def execZeroLenReadFlush (id : Nat) (s : State) : Out :=
  .next (match txn? s id with
    | some t =>
      match t.mark, t.sink with
      | .zeroRead n, .link l =>
        if t.reserved && !unacked s n l id then gotPart (dropTxn s id) t.req t.part [0, 0, 0, 0] false t.home else s
      | .zeroRead n, _ =>
        if t.reserved && !(before s id).any (fun u => u.kind == .p && u.src == .fn n && u.sink == t.sink) then
          gotPart (dropTxn s id) t.req t.part [0, 0, 0, 0] false t.home
        else s
      | _, _ => s
    | none => s)

/-! ## Shapers -/

/-- SHAPER_RELEASE (R219): the flow's first transaction not yet released takes its payload from TOKENS;
one larger than BURST takes a full allowance and leaves it negative. -/
def execShaperRelease (f : FlowNo) (s : State) : Out :=
  let n := f.val
  .next (match s.fab.txns.find? fun t => t.flow == n && !t.released && t.kind != .cpl && payLen t != 0 with
    | none => s
    | some t =>
      if !shaped s t.home n then s
      else
        let x := refilled s t.home n
        let len : Nat := payLen t
        let burst := flowBurst s t.home n
        if decide ((len : Int) ≤ x.tokens) || (decide (burst < len) && decide (x.tokens = (burst : Int))) then
          updTxn (updFlow s n fun _ => { x with tokens := x.tokens - (len : Int) }) t.id
            fun u => { u with released := true }
        else updFlow s n fun _ => x)

/-- LINK_SHAPER_PACKET_START (R229 to R231): the shaper of a link in place holds at least the packet's
length, C0 ahead of every other class; otherwise the flow waits for capacity. -/
def execLinkShaperPacketStart (l : LL) (id : Nat) (s : State) : Out :=
  let k := l.val
  .next (match txn? s id with
    | none => s
    | some t =>
      if !carries s (halfOfLink k) || (link s k).shTok.isNone then s
      else match gateTxn s t with
        | some s1 => (match t.sink with | .link a => if (bondMembers s a).contains k then s1 else s | _ => s)
        | none =>
          if !mayStart s k t then s
          else
            let x := shRefill s (link s k)
            let cost : Nat := onLink (match t.op with | .read => 0 | _ => nextLen s k t)
            let tok := x.shTok.getD 0
            let ahead := t.cls != 0 && s.fab.txns.any fun u => u.cls == 0 && mayStart s k u
            if decide ((cost : Int) ≤ tok) && !ahead then
              let s1 := updFlow (updLink s k fun _ => { x with shTok := some (tok - (cost : Int)) }) t.flow
                fun y => { y with capHeld := false }
              startPacket s1 k t
            else updFlow (updLink s k fun _ => x) t.flow fun y => { y with capHeld := true })

/-- EGRESS_PACKET_START (R43, R47, R141, R144, R309): the next packet of a transaction starts on a link
without a link shaper. -/
def execEgressPacketStart (l : LL) (id : Nat) (s : State) : Out :=
  let k := l.val
  .next (match txn? s id with
    | none => s
    | some t =>
      if !carries s (halfOfLink k) || (link s k).shTok.isSome then s
      else match gateTxn s t with
        | some s1 => (match t.sink with | .link a => if (bondMembers s a).contains k then s1 else s | _ => s)
        | none => if mayStart s k t then startPacket s k t else s)

/-- CREDIT_WAIT_TIMEOUT (R145): a packet whose cost is beyond every credit the partner has shown since
Active has waited for more than 1 ms; LP_LINK_EVT.CREDIT_SHORT sets, and the packet goes on waiting. -/
def execCreditWaitTimeout (l : LL) (id : Nat) (s : State) : Out :=
  let k := l.val
  .next (match txn? s id with
    | none => s
    | some t =>
      let x := link s k
      let c := pktCost (pktOf t (nextLen s k t) 0).typ.toNat (nextLen s k t)
      let most := match c.1 with
        | some .np => x.maxNp.getD t.cls 0
        | _ => x.maxP.getD t.cls 0
      if linkActive s k && c.1.isSome && decide (most < c.2) &&
          (match t.sink with | .link a => (bondMembers s a).contains k | _ => false) then
        updLink s k fun y => { y with evt := y.evt ||| 0x40 }
      else s)

/-! ## Brine -/

/-- Cells of a flow in its vat tail, and in its brine part, oldest first. -/
def tailCell (s : State) (f : Nat) : Option Cell :=
  s.fab.cells.find? fun (c : Cell) => c.flow == f && c.place == .tail
def brineCell (s : State) (f : Nat) : Option Cell :=
  s.fab.cells.find? fun (c : Cell) => c.flow == f && inBrine c

/-- Put a cell elsewhere without changing its place in the queue. -/
def moveCell (s : State) (id : Nat) (pl : CellPlace) : State :=
  updFab s fun x => { x with cells := x.cells.map fun c => if c.id == id then { c with place := pl } else c }

/-- Interleave key of an epoch (OD 0x5604). -/
def brineKey (s : State) (h : Half) (epoch : Nat) : W64 :=
  BitVec.ofNat 64 (cfg s h 0x5604 (2 * halfIdx h + epoch + 1))

/-- Segments of a half's channel in use. -/
def chanUsed (s : State) (h : Half) (ch : Nat) : Nat :=
  (s.fab.cells.filter fun c => c.half == h && (match c.place with | .brine k _ _ => k == ch | _ => false)).length

/-- Bytes moved by a channel in the present window. -/
def brineMoved (s : State) (h : Half) (ch : Nat) : State :=
  updBrine s h fun b => { b with wrBytes := setAt b.wrBytes ch (b.wrBytes.getD ch 0 + 256) }

/-- BRINE_SEGMENT_WRITE (R223, R224, R225): the flow's oldest tail cell goes to the channel that the
current epoch's key selects; a full channel keeps it in the tail and holds the flow back. -/
def execBrineSegmentWrite (f : FlowNo) (s : State) : Out :=
  let n := f.val
  .next (match tailCell s n with
    | none => s
    | some c =>
      let h := c.half
      if !carries s h || !brineUp s h || flowBrineCeil s h n ≤ brineOcc s h n then s
      else
        let ep := cfg s h 0x5605 (hsub h) % 2
        let seq := (flowSt s n).bseq
        let ch := brineChannel (brineKey s h ep) (BitVec.ofNat 32 n) (BitVec.ofNat 32 seq)
        if brineSegs s h ≤ chanUsed s h ch then
          let s1 := bump s 0x5702 (hsub h)
          match cellTxn s1 c with
          | some t => holdBack s1 t
          | none => s1
        else
          brineMoved (updFlow (moveCell s c.id (.brine ch ep seq)) n fun x =>
            { x with bseq := (x.bseq + 1) % 2 ^ 32, epoch := ep == 1 }) h ch)

/-- A brine word in error: corrected and counted, or the transaction is poisoned (R226). -/
def brineEcc (s : State) (c : Cell) (ch : Nat) (ecc : MemEcc) : State :=
  let g := 8 * halfIdx c.half + ch
  match ecc with
  | .clean => s
  | .corrected => bump (aerCorrInternal s) 0x5703 (g + 1)
  | .uncorrectable a =>
    let s1 := match c.parts.head? with | some p => poisonTxn s p.1 | none => s
    let s2 := bump (aerUncInternal s1) 0x5704 (g + 1)
    raiseEv (logC s2 c.half 0x0B g (flow := c.flow) (addr := a.toNat)) c.half 4 c.flow g 0

/-- When the brine part is empty the vat tail joins the head (R223). -/
def tailJoins (s : State) (h : Half) (f : Nat) : State :=
  if brineOcc s h f != 0 then s
  else updFab s fun x => { x with cells := x.cells.map fun c =>
    if c.half == h && c.flow == f && c.place == .tail then { c with place := .head } else c }

/-- BRINE_SEGMENT_READ (R223, R226): the oldest segment returns to the vat head while that is less than
REFILL deep. -/
def execBrineSegmentRead (f : FlowNo) (ecc : MemEcc) (s : State) : Out :=
  let n := f.val
  .next (match brineCell s n with
    | none => s
    | some c =>
      let h := c.half
      match c.place with
      | .brine ch _ _ =>
        if !carries s h || !(brine s h).trained || flowRefill s h n ≤ headOcc s h n then s
        else
          let s1 := brineMoved (moveCell s c.id .head) h ch
          tryLetGo (tailJoins (brineEcc s1 { c with place := .head } ch ecc) h n) h n c.cls
      | _ => s)

/-- One channel at the end of a window: its share in %, whether it exceeds the threshold, the dwell. -/
def chanWindow (s : State) (h : Half) (ch : Nat) : State :=
  let b := brine s h
  let total := b.wrBytes.sum
  let mine := b.wrBytes.getD ch 0
  let share := if total = 0 then 0 else 100 * mine / total
  let s0 := updBrine s h fun x => { x with share := setAt x.share ch share }
  if total < 1025000 then s0
  else if cfg s h 0x5606 1 * total < 100 * mine then
    let n := b.hotCount.getD ch 0 + 1
    let s1 := updBrine s0 h fun x => { x with hotCount := setAt x.hotCount ch n }
    if cfg s h 0x5606 2 ≤ n && !(b.hotRaised.getD ch false) then
      let g := 8 * halfIdx h + ch
      raiseEv (bump (updBrine s1 h fun x => { x with hotRaised := x.hotRaised.mapIdx fun i v => v || i == ch })
        0x5700 (g + 1)) h 3 g share 0
    else s1
  else updBrine s0 h fun x =>
    { x with hotCount := setAt x.hotCount ch 0, hotRaised := x.hotRaised.mapIdx fun i v => v && i != ch }

/-- BRINE_MONITOR_WINDOW (R227): every channel's share of the window; a window of less than 8.2 Gb/s is
not counted. -/
def execBrineMonitorWindow (h : Half) (s : State) : Out :=
  .next (onlyIf (carries s h) (fun u =>
    updBrine (forAll u (List.range 8) fun v ch => chanWindow v h ch) h fun b =>
      { b with wrBytes := List.replicate 8 0 }) s)

/-- Segments held by a half whose brine is lost: their transactions are logged; requests end with CA,
writes are dropped, completions discarded (R241). -/
def brineLost (s : State) (h : Half) : State :=
  let lost := (s.fab.cells.filter fun c => c.half == h && inBrine c).flatMap fun c =>
    c.parts.map fun p => (p.1, match c.place with | .brine ch _ _ => ch | _ => 0)
  let s1 := forAll s lost fun u (id, ch) =>
    match txn? u id with
    | some t => endTxn (logC u h 0x0C (8 * halfIdx h + ch) (flow := t.flow)) t 2
    | none => u
  forAll s1 (((s1.fab.cells.filter fun c => c.half == h && c.place == .tail).map (·.flow)).eraseDups) fun u f =>
    tailJoins u h f

/-- BRINE_TRAINING_DONE (R240, R241): the half's channels are ready; or one failed and the brine is
unavailable, what it held lost. Before start-up completes it stands for the training of step 8. -/
def execBrineTrainingDone (h : Half) (failed : Option (Fin 8)) (s : State) : Out :=
  .next (if (cfg s h 0x5602 (hsub h) % 4 = 0 && (half s h).boot != .firmware) || (half s h).boot == .reset || (brine s h).trained || (brine s h).down then s
    else match failed with
      | none => updBrine s h fun b => { b with trained := true, down := false }
      | some ch =>
        let s1 := updBrine s h fun b => { b with trained := false, down := true }
        brineLost (raiseEv s1 h 5 (8 * halfIdx h + ch.val) 0 0) h)

/-- BRINE_TRACKING_PASS (R240): holds the channel's traffic for at most 1 µs; nothing else changes. -/
def execBrineTrackingPass (_c : BC) (s : State) : Out := .next s

/-! ## Semaphores -/

/-- SEMAPHORE_UNIT_FREE (R189): the commit condition holds for a unit that link l released. -/
def execSemaphoreUnitFree (n : Sem) (l : LL) (s : State) : Out :=
  .next (semFree s n.val (tetherName s l.val))

/-- ACQUIRE_TIMEOUT (R186): a waiting acquire completes with TIMEOUT and leaves the queue. -/
def execAcquireTimeout (n : Sem) (l : LL) (s : State) : Out :=
  let k := tetherName s l.val
  .next (match (sem s n.val).waiters.find? fun p => p.1 == k with
    | some p =>
      failPart (bump (updSem s n.val fun x => { x with waiters := x.waiters.filter fun q => q.1 != k }) 0x5E01
        (hsub (halfOfSem n.val))) p.2 0 3 (halfOfSem n.val)
    | none => s)

/-- HOLD_LIMIT_EXPIRY (R190, Table 07.2): the holder loses its unit, which frees under the commit
condition. -/
def execHoldLimitExpiry (n : Sem) (l : LL) (s : State) : Out :=
  let k := tetherName s l.val
  .next (if (sem s n.val).holders.any (fun p => p.1 == k) then
      semFree (semRelease (semForced s n.val k 2) n.val k) n.val k
    else s)

end Sys2Proof.Machine
end

