-- ==== Sys2Proof/Machine/Evt.lean ====
section
/-! DEFINITION. The event controllers: routing sources to engines (R284 to R292), messages, INTx and
function events toward hosts (R293 to R299), doorbell registers and the event ring (R278, R283). -/

namespace Sys2Proof.Machine

/-! ## Pending sources and eligible engines -/

/-- The source's counter or level calls for service. -/
def srcWants (s : State) (n : Nat) : Bool :=
  let x := src s n
  if srcLevel s n then x.level else decide (0 < x.count)

/-- R284: an engine source that is pending (a held one is pending too). -/
def srcPending (s : State) (n : Nat) : Bool :=
  let x := src s n
  srcEn s n && !srcHost s n && !x.masked && srcWants s n &&
  (match x.pos with | .idle | .held _ => true | _ => false)

/-- Engine e of the half is named by the source's target mask (Table 10.1). -/
def srcMask (s : State) (n e : Nat) : Bool :=
  halfOfEng e == halfOfSrc n && bit (sw s n (4 + e % 96 / 32)) (e % 32)

/-- Running priority: that of the top entry, 0 with an empty stack (R287). -/
def runPri (s : State) (e : Nat) : Nat := match (eng s e).stack with | x :: _ => x.pri | [] => 0

/-- The engine runs or waits, and neither halts nor loads. -/
def engUp (s : State) (e : Nat) : Bool :=
  ((eng s e).st == .running || (eng s e).st == .waiting) && !(eng s e).loading

/-- The engine can take a source of this priority (R284), apart from a pending return. -/
def priFits (s : State) (e pri : Nat) : Bool :=
  decide (runPri s e < pri) || (pri == 0 && (eng s e).st == .waiting && (eng s e).stack.isEmpty)

/-- Engine e is eligible for source n; `own` is the engine that issued the source's own EOI (R285). -/
def srcEligible (s : State) (n : Nat) (own : Option Nat) (e : Nat) : Bool :=
  srcMask s n e && engUp s e && ((eng s e).pendRet.isNone || own == some e) && priFits s e (srcPri s n)

/-- The engine with the lowest running priority; among equals the first after the engine that last
accepted the source, in ascending local number (R284). -/
def srcChoose (s : State) (n : Nat) (own : Option Nat := none) : Option Nat :=
  let es := (span (96 * halfIdx (halfOfSrc n)) 96).filter (srcEligible s n own)
  let low := es.foldl (fun a e => min a (runPri s e)) 16
  let best := es.filter fun e => runPri s e == low
  match best.find? fun e => (src s n).lastEng ≤ e % 96 with
  | some e => some e
  | none => best.head?

/-- Source a goes before source b: the higher priority, then the earlier, then the lower number. -/
def srcBefore (s : State) (a b : Nat) : Bool :=
  decide (srcPri s b < srcPri s a) ||
  (srcPri s a == srcPri s b &&
    (decide ((src s a).order < (src s b).order) || ((src s a).order == (src s b).order && decide (a < b))))

/-- No other pending source that would be routed to engine e goes first. -/
def srcFirst (s : State) (n e : Nat) : Bool :=
  !(s.evc.srcs.any fun (k, x) => k != n && x.pos == .idle && srcPending s k && srcBefore s k n &&
    srcChoose s k == some e)

/-- Withdraw an engine's offer: its source is pending again where it calls for service. -/
def offerDrop (s : State) (e : Nat) : State :=
  match (eng s e).offer with
  | none => s
  | some o =>
    updSrc (updEng s e fun g => { g with offer := none }) o.src fun x => { x with pos := .idle, order := s.clk }

/-- Offer the source to the engine: an engine holds at most one offer, and only a higher priority
replaces it (R286). -/
def offerTo (s : State) (n e : Nat) : State :=
  let free := match (eng s e).offer with | none => true | some o => decide (o.pri < srcPri s n)
  if free then
    updSrc (updEng (offerDrop s e) e fun g => { g with
      offer := some ⟨n, srcPri s n, (sw s n 3).setWidth 64⟩ }) n
      fun x => { x with pos := .offered e }
  else updSrc s n fun x => { x with pos := .idle }

/-- Coalescing window of an engine, ns (R285). -/
def engWindow (s : State) (e : Nat) : Nat := cfg s (halfOfEng e) 0x6C00 (e + 1) % 2 ^ 20

/-- Route a pending source (R284, R285): offered at once to an engine in WAIT, to one without a window, or
to the engine of its own EOI; held otherwise. -/
def srcRoute (s : State) (n : Nat) (own : Option Nat := none) : State :=
  if !srcPending s n then s
  else
    match srcChoose s n own with
    | none => s
    | some e =>
      if own == some e || (eng s e).st == .waiting || engWindow s e = 0 then offerTo s n e
      else updSrc s n fun x => { x with pos := .held e }

/-- SOURCE_OFFER (R284, R285): a pending source that is not held is routed, in the controller's order. -/
def execSourceOffer (n : ES) (s : State) : Out :=
  .next (if (src s n.val).pos == .idle && (match srcChoose s n.val with | some e => srcFirst s n.val e | none => false)
    then srcRoute s n.val else s)

/-- COALESCING_HOLD_END (R285): the hold ends; the source is routed again and offered. -/
def execCoalescingHoldEnd (n : ES) (s : State) : Out :=
  .next (match (src s n.val).pos with
    | .held _ =>
      let s1 := updSrc s n.val fun x => { x with pos := .idle }
      match srcChoose s1 n.val with
      | some e => if srcPending s1 n.val then offerTo s1 n.val e else s1
      | none => s1
    | _ => s)

/-- An engine of its mask enters WAIT: every held source it is eligible for is offered at once (R285). -/
def enterWait (s : State) (e : Nat) : State :=
  let s1 := updEng s e fun g => { g with st := .waiting }
  forAll s1 (s1.evc.srcs.filter fun (k, x) =>
    (match x.pos with | .held _ => true | _ => false) && srcPending s1 k && srcEligible s1 k none e) fun u (k, _) =>
      offerTo (updSrc u k fun x => { x with pos := .idle }) k e

/-- Acceptance (R287): the entry is pushed with its return address, an edge counter gives one, and the
engine continues at HANDLER. -/
def offerTake (s : State) (e : Nat) (o : Offer) (ret : W64) : State :=
  let s1 := updSrc s o.src fun x => { x with pos := .inService e, lastEng := e % 96 + 1,
                                             count := if srcLevel s o.src then x.count else x.count - 1 }
  updEng s1 e fun g => { g with
    offer := none, pendRet := none, stack := ⟨o.src, o.pri, ret⟩ :: g.stack, pc := o.handler, st := .running,
    waitFor := .none }

/-- A source leaves service, as if by EOI (R288, R290). -/
def srcLeave (s : State) (n : Nat) : State :=
  updSrc s n fun x => { x with pos := .idle, vanished := false, order := s.clk }

/-- An engine halts or starts loading: its offer, its stack and its pending return are dropped (R286,
R291). -/
def engDropEvents (s : State) (e : Nat) : State :=
  let s1 := offerDrop s e
  updEng (forAll s1 (eng s1 e).stack fun u x => srcLeave u x.src) e fun g => { g with stack := [], pendRet := none }

/-- EVC_SRC_MASK (R286): masking withdraws an offer that is not yet accepted. -/
def setMask (s : State) (n : Nat) (v : Bool) : State :=
  let x := src s n
  let s1 := updSrc s n fun y => { y with masked := v }
  if v then
    match x.pos with
    | .offered e => bump (offerDrop s1 e) 0x6C24 (hsub (halfOfSrc n))
    | .held _ => updSrc s1 n fun y => { y with pos := .idle }
    | _ => s1
  else onlyIf (x.masked && srcWants s n) (fun t => updSrc t n fun y => { y with order := t.clk }) s1

/-- EVC_SRC_MASK (R286, R302). -/
def execEvcSrcMask (p : Path) (n : ES) (v : Bool) (s : State) : Out :=
  .next (regOrObj s p (0x01880004 + 8 * n.val) (0x6D00 + n.val / 128) (n.val % 128 / 32 + 1) (halfOfSrc n.val)
    fun t => setMask t n.val v)

/-! ## Messages toward hosts -/

/-- The function a host source reaches now (R293). -/
def srcFnNow (s : State) (n : Nat) : Nat := activeFn s (srcFunc s n)

/-- Hold-off of a source's group, ns; internal sources have none (R295). -/
def srcHoldoff (s : State) (n : Nat) : Nat :=
  let g := srcGroup s n
  if 8064 ≤ n % 8192 then 0 else cfg s (halfOfSrc n) (0x6C10 + g / 128) (g % 128 + 1) % 2 ^ 27

/-- The source may form a message (R294). -/
def mayForm (s : State) (n : Nat) : Bool :=
  let f := srcFnNow s n
  srcEn s n && srcHost s n && !srcDormant s n && !flowDormant s (halfOfSrc n) (srcFlow s n) && decide (0 < (src s n).count) && !(src s n).masked &&
  (src s n).pos == .idle && (msixEn s f || msiEn s f) &&
  (8064 ≤ n % 8192 || !Tab.get false s.evc.hold (srcGroup s n))

/-- Form the message: the counter clears, and a posted write enters the lane of FLOW (R294). -/
def formMessage (s : State) (n : Nat) : State :=
  let f := srcFnNow s n
  let v := 2 * srcVector s n + (if msixEn s f then 1 else 0)
  let s1 := updSrc s n fun x => { x with count := 0, pos := .formed v }
  let t := flowTxn s1 (halfOfSrc n) (srcFlow s1 n) .p (.message n) 0 0 []
  addTxn s1 { t with size := 0, left := 0 }

/-- HOST_MESSAGE_FORM (R294). -/
def execHostMessageForm (n : ES) (s : State) : Out :=
  .next (onlyIf (mayForm s n.val) (fun t => formMessage t n.val) s)

/-- The hold-off of a group starts when a message of one of its open sources is sent (R295). -/
def startHoldoff (s : State) (n : Nat) : State :=
  if srcHoldoff s n = 0 then s
  else { s with evc := { s.evc with hold := Tab.set false s.evc.hold (srcGroup s n) true,
                                    holdClk := Tab.set 0 s.evc.holdClk (srcGroup s n) s.clk } }

/-- The outcome of a message at its commit point (R294): held, discarded, pended, or sent. `k` is twice
the vector plus 1 for MSI-X. -/
def messageOutcome (s : State) (n k : Nat) : State :=
  let f := srcFnNow s n
  let v := k / 2
  let done (u : State) (c : Option Nat) : State := updSrc u n fun x => { x with pos := .idle, count := c.getD x.count }
  if !masterOn s f then updFn s f fun x => { x with held := x.held ++ [(n + 1, k)] }
  else if !(if k % 2 = 1 then msixEn s f else !msixEn s f && msiEn s f) then intxUpdate (done s (some 1)) (f / 64)
  else if vecMasked s f v then bump (setPba (done s none) f v true) 0x6C26 (hsub (halfOfSrc n))
  else startHoldoff (sendVec (done s none) f v) n

/-- HOST_MESSAGE_COMMIT (R294): the formed message enters the transmit queue behind every earlier posted
write of its lane. -/
def execHostMessageCommit (n : ES) (s : State) : Out :=
  .next (match s.fab.txns.find? fun t => t.op == .message n.val, (src s n.val).pos with
    | some t, .formed k =>
      if t.fenceOk && !egressBlocked s t && (hl s (srcFnNow s n.val / 64)).dlActive then
        messageOutcome (dropTxn s t.id) n.val k
      else s
    | _, _ => s)

/-- Sources of a group that have ever been raised, in ascending number. -/
def groupSrcs (s : State) (g : Nat) : List Nat :=
  (s.evc.srcs.map (·.1)).filter fun n => srcGroup s n == g && n % 8192 < 8064

/-- HOLDOFF_END (R295): every source of the group with a counter above 0 forms its message. -/
def execHoldoffEnd (g : SG) (s : State) : Out :=
  .next (if Tab.get false s.evc.hold g.val then
      let s1 := { s with evc := { s.evc with hold := Tab.set false s.evc.hold g.val false } }
      forAll s1 (groupSrcs s1 g.val) fun u n => onlyIf (mayForm u n) (fun t => formMessage t n) u
    else s)

/-- Re-initialisation of a host link clears its host sources and function events, and discards its
messages (R299). -/
def evcReinit (s : State) (m : Nat) : State :=
  let mine := (s.evc.srcs.map (·.1)).filter fun n => srcHost s n && srcFunc s n / 64 == m
  let s1 := forAll s mine fun u n => updSrc u n fun x => { x with count := 0, pos := .idle, vanished := false }
  let s2 := updFab s1 fun x => { x with txns := x.txns.filter fun t =>
    match t.op with | .message n => !mine.contains n | _ => true }
  forAll s2 (span (64 * m) 64) fun u n => updFn u n fun x => { x with evt := 0, evtEn := 0, held := [] }

/-- An accepted apply of AG17 takes effect (R292): disabled sources lose their counter and their offers. -/
def evcCut (s : State) (h : Half) : State :=
  let off := (s.evc.srcs.map (·.1)).filter fun n => halfOfSrc n == h && !srcEn s n
  let s1 := forAll s off fun u n =>
    let u1 := updSrc u n fun x => { x with count := 0 }
    match (src u1 n).pos with
    | .offered e => offerDrop u1 e
    | .held _ => updSrc u1 n fun x => { x with pos := .idle }
    | _ => u1
  forAll s1 (span (8 * halfIdx h) 8) intxUpdate

/-! ## Function registers -/

/-- The function registers of (m, f) can be reached: BAR0 answers (R115). -/
def fnRegs (s : State) (m f : Nat) : Bool := pathLive s (.reg (Fin.ofNat 16 m) (Fin.ofNat 64 f)) && (hl s m).dlActive

/-- The lowest-numbered source of the function that holds a cause and is not claimed (R296). -/
def claimable (s : State) (n : Nat) : Option Nat :=
  (s.evc.srcs.map (·.1)).find? fun k =>
    srcEn s k && srcHost s k && !srcDormant s k && srcFnNow s k == n && (src s k).pos != .claimed && srcWants s k

/-- Claim: the value EVC_FN_CLAIM reads, and the state after (R296, Table 10.8). -/
def claimRead (s : State) (n : Nat) : Nat × State :=
  if msixEn s n || msiEn s n then (0, s)
  else
    match claimable s n with
    | none => (0, s)
    | some k =>
      if srcLevel s k then
        (k + 2 ^ 14 + 2 ^ 15, updSrc s k fun x => { x with pos := .claimed, vanished := false })
      else
        (k + 2 ^ 15 + (src s k).count * 2 ^ 16, intxUpdate (updSrc s k fun x => { x with count := 0 }) (n / 64))

/-- EVC_FN_CLAIM (R296): the read claims a source and returns it. -/
def execEvcFnClaim (m : HL) (f : Fn) (tag : BitVec 14) (s0 : State) : Out :=
  let s := tlpWake s0 m.val
  let n := 64 * m.val + f.val
  .next (if !(hl s m.val).dlActive then s
    else if !fnRegs s m.val f.val then hostRefuse s m.val (64 * m.val) tag.toNat .ur 4
    else
      let r := claimRead s n
      tlpOut r.2 m.val (.cplData tag.toNat (bytesLE 4 r.1) 0 false false false))

/-- A DONE of source k in function n: the claim of a level source ends; a level that has risen again asserts anew. -/
def fnDone (s : State) (n k : Nat) : State :=
  if srcFnNow s k == n && (src s k).pos == .claimed then
    intxUpdate (updSrc s k fun x => { x with pos := .idle, vanished := false }) (n / 64)
  else s

/-- EVC_FN_DONE (R296, R297). -/
def execEvcFnDone (m : HL) (f : Fn) (n : BitVec 14) (s0 : State) : Out :=
  let s := tlpWake s0 m.val
  .next (if fnRegs s m.val f.val then fnDone s (64 * m.val + f.val) n.toNat else s)

/-- EVC_FN_EVT of function n is written: 1 clears. -/
def fnEvtClr (s : State) (n : Nat) (v : W32) : State :=
  intxUpdate (updFn s n fun x => { x with evt := x.evt &&& ~~~v }) (n / 64)

/-- EVC_FN_EVT (R298). -/
def execEvcFnEvt (m : HL) (f : Fn) (v : W32) (s0 : State) : Out :=
  let s := tlpWake s0 m.val
  .next (if fnRegs s m.val f.val then fnEvtClr s (64 * m.val + f.val) v else s)

/-- EVC_FN_EVT_EN of function n is written: enabling a bit that is set signals the notify vector once. -/
def fnEvtEn (s : State) (n : Nat) (v : W32) : State :=
  let x := fn s n
  let en := v &&& 0x3F#32
  let s1 := updFn s n fun y => { y with evtEn := en }
  intxUpdate (onlyIf ((en &&& ~~~x.evtEn &&& x.evt) != 0) (fun t => notify t n) s1) (n / 64)

/-- EVC_FN_EVT_EN (R298). -/
def execEvcFnEvtEn (m : HL) (f : Fn) (v : W32) (s0 : State) : Out :=
  let s := tlpWake s0 m.val
  .next (if fnRegs s m.val f.val then fnEvtEn s (64 * m.val + f.val) v else s)

/-- A doorbell of function n to source k: an arrival with the function as origin (R278). -/
def fnDbell (s : State) (n k : Nat) : State :=
  doorbellAt s (halfOfHl (n / 64)) k (match fld (sw s k 0) 8 2 with
    | 2 => fld (sw s k 1) 0 10 == n
    | 3 => true
    | _ => false)

/-- EVC_FN_DBELL (R278). -/
def execEvcFnDbell (m : HL) (f : Fn) (n : BitVec 14) (s0 : State) : Out :=
  let s := tlpWake s0 m.val
  .next (if fnRegs s m.val f.val then fnDbell s (64 * m.val + f.val) n.toNat else s)

/-- EVC_DBELL (R278): an arrival with management origin. -/
def execEvcDbell (p : Path) (h : Half) (n : BitVec 14) (s : State) : Out :=
  .next (regAct s p (0x018C0000 + 0x100 * halfIdx h) h fun t => doorbellAt t h n.toNat true)

/-- The ring without its oldest record (R283). -/
def erecPop (s : State) (h : Half) : State :=
  match h with
  | .a => { s with evc := { s.evc with recA := s.evc.recA.drop 1 } }
  | .b => { s with evc := { s.evc with recB := s.evc.recB.drop 1 } }

/-- EVC_EREC_POP (R283). -/
def execEvcErecPop (p : Path) (h : Half) (s : State) : Out :=
  .next (regAct s p (0x018C0018 + 0x100 * halfIdx h) h fun t => erecPop t h)

end Sys2Proof.Machine
end

