-- ==== Sys2Proof/Machine/Operands.lean ====
section
/-! DEFINITION. The operand forms of engine instructions: the fields of Table 09.3, immediates (R248), the
move word (Table 09.6), the reply word (R252) and the regions of an engine's address space (Table 09.1). -/

namespace Sys2Proof.Machine

/-- Bits [25:0] of an instruction word: opcode [31:26] is the command itself. -/
abbrev EngWord := BitVec 26

/-- [25:21]: rd in R, I and J; rs2 (data) in S; rs1 in B. -/
def opA (x : EngWord) : Nat := fld x 21 5
/-- [20:16]: rs1 in R, I and S; rs2 in B. -/
def opB (x : EngWord) : Nat := fld x 16 5
/-- [15:11]: rs2 in R. -/
def opC (x : EngWord) : Nat := fld x 11 5
/-- [10:0]: fn in R. -/
def opFn (x : EngWord) : Nat := fld x 0 11
/-- imm16, as it stands. -/
def opImm (x : EngWord) : Nat := fld x 0 16
/-- imm16 sign-extended to 64 bits. -/
def immS (x : EngWord) : W64 := (x.setWidth 16).signExtend 64
/-- imm16 zero-extended (ANDI, ORI, XORI). -/
def immZ (x : EngWord) : W64 := (x.setWidth 16).setWidth 64
/-- 4 times off16, from the branch itself. -/
def offB (x : EngWord) : W64 := immS x <<< 2
/-- 4 times off21, from the jump itself. -/
def offJ (x : EngWord) : W64 := ((x.setWidth 21).signExtend 64) <<< 2
/-- The sign-extended imm16 << 16 of LUI. -/
def immU (x : EngWord) : W64 := ((x.setWidth 16 ++ (0 : BitVec 16)) : W32).signExtend 64

/-- The whole instruction word: FINFO of fault ILLEGAL (Table 09.7). -/
def instrWord (op : Nat) (x : EngWord) : W64 := BitVec.ofNat 64 (op * 2 ^ 26 + x.toNat)

/-! ## Regions -/

/-- Region of Table 09.1 in which `n` bytes at `a` lie whole: 0 local program and data, 1 the inbox, 2
cluster memory. -/
def engRegion (a n : Nat) : Option Nat :=
  if a + n ≤ 0xC000 then some 0
  else if 0xC000 ≤ a ∧ a + n ≤ 0x10000 then some 1
  else if 0x100000 ≤ a ∧ a + n ≤ 0x200000 then some 2
  else none

/-! ## Move word and reply word -/

def mvFlow (w : W64) : Nat := fld w 0 14
def mvFence (w : W64) : Bool := bit w 14
def mvNf (w : W64) : Bool := bit w 15
def mvLaddr (w : W64) : Nat := fld w 16 21
def mvLen (w : W64) : Nat := fld w 37 13
def mvAop (w : W64) : Nat := fld w 50 2
def mvRsvd (w : W64) : Bool := fld w 52 12 != 0

/-- The operation of an AOP code. -/
def aopOf (k : Nat) : AtomicOp := match k with | 0 => .fetchAdd | 1 => .swap | _ => .cas
/-- Operand length of an atomic (R135, R191): 4 or 8; for CAS, compare operand first, 8, 16 or 32. -/
def atomicLenOk (op : AtomicOp) (len : Nat) : Bool :=
  match op with | .cas => len == 8 || len == 16 || len == 32 | _ => len == 4 || len == 8

/-- Size of one operand. -/
def operandSize (op : AtomicOp) (len : Nat) : Nat := match op with | .cas => len / 2 | _ => len

/-- A local range of a move or reply lies within one region; nothing is asked of an empty one. -/
def rangeOk (a n : Nat) : Bool := n == 0 || (engRegion a n).isSome
/-- ... and, for a destination, does not touch the inbox. -/
def destOk (a n : Nat) : Bool := n == 0 || engRegion a n == some 0 || engRegion a n == some 2

/-- A remote range that crosses no 4 KiB boundary. -/
def in4k (a n : Nat) : Bool := decide (a % 4096 + n ≤ 4096)

def rpStatus (w : W64) : Nat := fld w 0 4
def rpLaddr (w : W64) : Nat := fld w 16 21
def rpLen (w : W64) : Nat := fld w 37 13
def rpRsvd (w : W64) : Bool := fld w 4 12 != 0 || fld w 50 14 != 0

/-- Statuses that Table 05.8 marks "either". -/
def statusEither (st : Nat) : Bool := st == 0 || st == 1 || st == 2 || st == 6 || st == 7

end Sys2Proof.Machine
end

