-- ==== Sys2Proof/Machine/Steward.lean ====
section
/-! DEFINITION. What ends when a steward halts or a path is gone: mailboxes (R102), sessions (R357) and the
ownership of apply groups (R371). -/

namespace Sys2Proof.Machine

/-- What a path that is gone no longer holds: its latch, its view and the groups it owns (R361, R371). -/
def pathGone (s : State) (h : Half) (id : Nat) : State :=
  updDict s h fun d => { d with views := Tab.set false d.views id false, latches := Tab.set (0, 0) d.latches id (0, 0),
                                owners := Tab.keep (fun _ v => v != id) d.owners }

/-- MBX_DONE of PF0 while DONE_IE is 1 (Table 10.7). -/
def mbxDone (s : State) (m : Nat) : State := onlyIf (mbx s m).ien (fun t => fnEvent t (64 * m) 0) s

/-- The mailbox ends on its own: BUSY clears, STEWARD_DOWN sets (R102). -/
def mbxEnd (x : MbxSt) : MbxSt :=
  { x with down := true, busy := false, rspLen := 0, answer := none, taken := false, orphan := [] }

/-- The mailboxes of a half whose steward has halted (R102). -/
def mbxStewardDown (s : State) (h : Half) : State :=
  forAll s ((span (8 * halfIdx h) 8).filter (hlPresent s)) fun u m =>
    if (mbx u m).down then u else mbxDone (updMbx u m mbxEnd) m

/-- Session `n` ends: the groups it owns are free (R357). -/
def sessEnd (s : State) (h : Half) (n : Nat) : State :=
  pathGone (updDict s h fun d => { d with sessions := d.sessions.filter fun x => x.num != n }) h (0x10 + n)

/-- Every session that the half's instance holds ends. -/
def sessionsEnd (s : State) (h : Half) : State :=
  forAll s ((dictOf s h).sessions.map (·.num)) fun u n => sessEnd u h n

/-- A steward halts (R262): ALERT_N low, its mailboxes and sessions end, its half answers no request. -/
def stewardHalt (s : State) (h : Half) : State :=
  let s1 := alertOn (updHalf s h fun x => { x with stewardHalted := true }) (1 + halfIdx h)
  let s2 := mbxStewardDown s1 h
  if h == leadHalf s2 then sessionsEnd s2 h else s2

end Sys2Proof.Machine
end

