-- ==== Sys2Proof/Machine/Svc.lean ====
section
/-! DEFINITION. Services: engines in rotation, buckets and assignment (R263, R264), inbox records (R251),
engine memory (R245), what an engine's halt does (R261, R262). -/

namespace Sys2Proof.Machine

/-! ## Engine memory -/

/-- `n` bytes of an engine's address space (Table 09.1). -/
def engBytes (s : State) (e a n : Nat) : List Byte :=
  if a < 0x10000 then readBytes 0 (eng s e).mem a n else readBytes 0 (clus s (e / 8)).mem (a - 0x100000) n

/-- Store bytes in an engine's address space. -/
def engPut (s : State) (e a : Nat) (bs : List Byte) : State :=
  if a < 0x10000 then updEng s e fun g => { g with mem := writeBytes 0 g.mem a bs }
  else updClus s (e / 8) fun c => { c with mem := writeBytes 0 c.mem (a - 0x100000) bs }

/-- The access touches cluster memory reserved to the steward, and the engine is none (R245). -/
def engReserved (e a n : Nat) : Bool :=
  !isSteward e && 0x100000 ≤ a && stewardRange (e / 8) (a - 0x100000) n

/-! ## Rotation and buckets -/

/-- The engine takes part in its service's rotation: its cluster is in ROT, it is loaded and not halted. -/
def engInRot (s : State) (v e : Nat) : Bool :=
  svcEn s v && !isSteward e && inMask (svcClusters s v) (e / 8) && inMask (svcRot s v) (e / 8) && engUp s e

/-- Engines of a service in rotation, ascending. -/
def svcEngines (s : State) (v : Nat) : List Nat :=
  (span (96 * halfIdx (halfOfSvc v)) 96).filter (engInRot s v)

/-- Deal the engines to 256 buckets, one after another (R263). -/
def dealBuckets (es : List Nat) : List Nat :=
  if es.isEmpty then [] else (List.range 256).map fun i => es.getD (i % es.length) 0

/-- The service that works a flow: that of its engine end, or the one that serves the DMA queue whose record
flow it is (R250). -/
def flowSvc (s : State) (h : Half) (f : Nat) : Option Nat :=
  match flowSink s h f, flowSrc s h f with
  | .eng e, _ => svcOfEng s e
  | _, .dq q => if dqCflow s q == f && dqEn s q then dqService s h else none
  | _, _ => none

/-- The half whose engines or queues a flow names, as half `h` has it configured. -/
def flowSvcEnd (s : State) (h : Half) (f : Nat) : Option Half :=
  match flowSink s h f, flowSrc s h f with
  | .eng e, _ => some (halfOfEng e)
  | _, .dq q => some (halfOfDq q)
  | _, _ => none

/-- The half a flow is dispatched in. -/
def flowSvcHalf (s : State) (f : Nat) : Half := if flowSvcEnd s .b f == some .b then .b else .a

/-- CUR_EPOCH and the key of an epoch (OD 0x6040, OD 0x6041). -/
def curEpoch (s : State) (h : Half) : Bool := (cfg s h 0x6041 (hsub h)).testBit 0
def dispKey (s : State) (h : Half) (ep : Bool) : W64 :=
  BitVec.ofNat 64 (cfg s h 0x6040 (2 * halfIdx h + 1 + if ep then 1 else 0))

/-- The engine that a flow's bucket names under the current epoch (R263). -/
def flowBucketEng (s : State) (h : Half) (f : Nat) : Option Nat :=
  match flowSvc s h f with
  | none => none
  | some v => (svc s v).buckets[dispatchBucket (dispKey s h (curEpoch s h)) (BitVec.ofNat 32 f)]?

/-- Work in flight: records in the assigned engine's inbox that are not finished (R264). -/
def flowBusy (s : State) (f : Nat) : Bool :=
  match (flowSt s f).assigned with
  | none => false
  | some e => (eng s e).inbox.any fun r => r.flow == f && !r.done

/-- Assign an idle flow to the engine its bucket names: a change of engine is a move (OD 0x6203). -/
def flowAssign (s : State) (h : Half) (f : Nat) : State :=
  match flowBucketEng s h f with
  | none => s
  | some e =>
    let was := (flowSt s f).assigned
    onlyIf (was.isSome && was != some e) (fun t => bump t 0x6203 (hsub h))
      (updFlow s f fun x => { x with assigned := some e, asgEpoch := curEpoch s h })

/-- At an idle point the flow is assigned again in the three cases of R264. -/
def flowIdle (s : State) (f : Nat) : State :=
  let h := flowSvcHalf s f
  let x := flowSt s f
  if flowBusy s f then s
  else if x.assigned.isNone || x.assigned != flowBucketEng s h f || x.asgEpoch != curEpoch s h then flowAssign s h f
  else s

/-- Flows that stand assigned to an engine of the half. -/
def assignedFlows (s : State) (h : Half) : List Nat :=
  (s.fab.flows.filter fun (_, x) => match x.assigned with | some e => halfOfEng e == h | none => false).map (·.1)

/-- Deal a service's engines again (R263); idle flows move at once (R264); an empty rotation is reported
once (SERVICE_EMPTY). -/
def svDeal (s : State) (v : Nat) : State :=
  let h := halfOfSvc v
  let es := svcEngines s v
  let empty := svcEn s v && es.isEmpty
  let s1 := onlyIf (empty && !(svc s v).empty) (fun t => raiseEv t h 1 v 0 0) s
  let s2 := updSvc s1 v fun x => { x with buckets := dealBuckets es, empty := empty }
  forAll s2 ((assignedFlows s2 h).filter fun f => flowSvc s2 h f == some v) flowIdle

/-! ## Halts (R261, R262) -/

/-- An accepted request that a record answers ends with CA. -/
def recordCa (s : State) (r : InRec) : State :=
  if r.kind == 2 || r.kind == 3 then
    if r.replied then s else failPart s r.req r.part 2 (match req? s r.req with | some q => q.half | none => .a)
  else s

/-- A DMA queue whose DQ_READY is dropped halts with status CA (R236, R261). -/
def dqDropped (s : State) (r : InRec) : State := if r.kind == 4 then dqHalt s r.queue 2 else s

/-- The steps of R261 for the records of a halted engine. -/
def dropRecords (s : State) (e : Nat) : State :=
  let rs := (eng s e).inbox.filter fun r => !r.done
  let s1 := updEng s e fun g => { g with inbox := [], inTail := 0 }
  forAll s1 rs fun u r =>
    if r.kind == 1 || r.kind == 4 then dqDropped (bump u 0x6207 (hsub (halfOfEng e))) r else recordCa u r

/-- Completions on their way to an engine that can no longer take them (R206, R261). -/
def engForget (s : State) (e : Nat) : State :=
  let lost := s.fab.txns.filter fun t => t.kind == .cpl && t.sink == .eng e
  forAll s lost fun u t =>
    match t.op with
    | .cpl st _ _ slot =>
      undeliverable (dropTxn u t.id)
        { id := 0, who := .eng e slot, flow := t.flow, cls := t.cls, dir := t.dir, half := t.home, resHdr := 0,
          resData := 0, len := 0, raddr := 0, split := false, win := 0, stop := none, parts := [], sent := 0,
          lock := false, ro := false, dead := true } st
    | _ => u

/-- The engine halts (R261): counted, reported, out of rotation; its records are answered or dropped and its
flows released. A steward's halt drives ALERT_N low and silences its half (R262). -/
def engHalt (s : State) (e code : Nat) : State :=
  let h := halfOfEng e
  let s1 := raiseEv (bump (updEng s e fun g => { g with st := .halted, waitFor := .none }) 0x6205 (hsub h)) h 0 e code 0
  let s2 := engForget (dropRecords (engDropEvents s1 e) e) e
  if isSteward e then stewardHalt s2 h
  else
    match svcOfEng s2 e with
    | some v => svDeal s2 v
    | none => s2

/-- Fault `code` with FINFO `info` (R260): to the handler, or to a halt where FVEC is 0 or a fault is being
handled. FRET points after a BREAK. -/
def engFault (s : State) (e code : Nat) (info : W64) : State :=
  let g := eng s e
  let took := g.fvec != 0 && !g.inFault
  let s1 := updEng s e fun g => { g with
    faults := (g.faults + 1) % 2 ^ 32, fstat := code, fpc := g.pc, finfo := info, waitFor := .none,
    st := (if g.st == .waiting then .running else g.st) }
  if took then
    updEng s1 e fun x => { x with fret := (if code = 10 then x.pc + 4 else x.pc), inFault := true, pc := x.fvec }
  else engHalt s1 e code

/-- The fault codes of Table 09.7. -/
def fIllegal : Nat := 1
def fFetch : Nat := 2
def fAlign : Nat := 3
def fAddr : Nat := 4
def fMove : Nat := 5
def fMoveArg : Nat := 6
def fQueue : Nat := 7
def fCtx : Nat := 8
def fStack : Nat := 9
def fBreak : Nat := 10
def fEcc : Nat := 11

/-! ## Inbox records (R251) -/

/-- Bytes of a record: header, and payload padded to 32. -/
def recSize (payload : Nat) : Nat := 32 + 32 * ceilDiv payload 32

/-- Where a record of `size` bytes goes: never split at the end of the region, behind the newest record, in
space that has been reclaimed. None: it does not fit. -/
def inboxPlace (g : EngSt) (size : Nat) : Option Nat :=
  match g.inbox.head? with
  | none => if g.inTail + size ≤ 0x4000 then some g.inTail else some 0
  | some r =>
    let front := r.addr - 0xC000
    if front < g.inTail then
      if g.inTail + size ≤ 0x4000 then some g.inTail
      else if size ≤ front then some 0
      else none
    else if g.inTail + size ≤ front then some g.inTail
    else none

/-- Reclaim the space of finished records, in inbox order. -/
def inboxReclaim (g : EngSt) : EngSt := { g with inbox := g.inbox.dropWhile (·.done) }

/-- The header of Table 09.5. -/
def recHeader (flow cls kind : Nat) (poison : Bool) (len aop addr src time : Nat) : List Byte :=
  bytesLE 4 (flow + cls * 2 ^ 16 + kind * 2 ^ 18 + flag poison 22) ++ bytesLE 4 (len + aop * 2 ^ 13) ++
    bytesLE 8 addr ++ bytesLE 4 src ++ bytesLE 4 0 ++ bytesLE 8 time

/-- A record enters the inbox; an engine in WAIT goes on (R249). -/
def recPut (s : State) (e off : Nat) (bs : List Byte) (r : InRec) : State :=
  let s1 := engPut s e (0xC000 + off) (exactly r.size bs)
  updEng s1 e fun g =>
    let g1 := { g with inbox := g.inbox ++ [r], inTail := off + r.size, events := (g.events + 1) % 2 ^ 64,
                       winEv := g.winEv + 1 }
    if g1.st == .waiting then { g1 with st := .running, pc := g1.pc + 4 } else g1

end Sys2Proof.Machine
end

