-- ==== Sys2Proof/Machine/EngIsa.lean ====
section
/-! DEFINITION. The engine instruction set (R244 to R258): what every instruction shares, arithmetic, special
registers, loads and stores, branches, engine atomics. A command names the instruction at the engine's program
counter; memory at the counter is not compared with it (log entry 20). -/

namespace Sys2Proof.Machine

/-! ## What every instruction shares -/

/-- A general register; g0 reads as zero (R244). -/
def engReg (s : State) (e r : Nat) : W64 := if r = 0 then 0 else (eng s e).regs.getD r 0

/-- Write a general register; a write of g0 is discarded. -/
def setReg (s : State) (e r : Nat) (v : W64) : State :=
  if r = 0 then s else updEng s e fun g => { g with regs := g.regs.set r v }

/-- The next instruction. -/
def engNext (s : State) (e : Nat) : State := updEng s e fun g => { g with pc := g.pc + 4, waitFor := .none }

/-- Write rd and go on. -/
def engRd (s : State) (e r : Nat) (v : W64) : State := engNext (setReg s e r v) e

/-- Go on elsewhere. -/
def engJump (s : State) (e : Nat) (pc : W64) : State := updEng s e fun g => { g with pc := pc, waitFor := .none }

/-- The lowest slot whose failed move has not yet caused its fault (R255): slot, flow and status. -/
def failedSlot (g : EngSt) : Option (Nat × Nat × Nat) :=
  g.slots.zipIdx.findSome? fun (x, i) => match x with | .failed f st => some (i, f, st) | _ => none

/-- The engine can execute: it runs, and what it waits for, if anything, is this instruction's own. -/
def engCan (s : State) (e : Nat) (own : EngWait → Bool) : Bool :=
  let g := eng s e
  g.st == .running && !g.loading && own g.waitFor && s.pwr.sleep == 0 && !s.sys.resetLow

/-- Execute the instruction at the counter: first the fault of a failed move (R255; none while a fault is
handled), then the fetch (FETCH, ADDR), then the instruction itself. -/
def engRun (s : State) (e : Nat) (own : EngWait → Bool) (f : State → State) : Out :=
  .next (
    if !engCan s e own then s
    else
      let g := eng s e
      match if g.inFault then none else failedSlot g with
      | some (i, fl, st) =>
        engFault (updEng s e fun x => { x with slots := x.slots.set i .free }) e fMove
          (BitVec.ofNat 64 (i + st * 16 + fl * 2 ^ 16))
      | none =>
        let pc := g.pc.toNat
        if pc % 4 ≠ 0 || (engRegion pc 4).isNone then engFault s e fFetch g.pc
        else if engReserved e pc 4 then engFault s e fAddr g.pc
        else f s)

/-- An instruction that waits for nothing. -/
def engDo (s : State) (e : SE) (f : State → State) : Out := engRun s e.val (· == .none) f

/-- Fault ILLEGAL with the instruction word. -/
def engIllegal (s : State) (e op : Nat) (x : EngWord) : State := engFault s e fIllegal (instrWord op x)

/-- R format with fn 0: rd from rs1 and rs2. -/
def engR (s : State) (e : SE) (op : Nat) (x : EngWord) (f : W64 → W64 → W64) : Out :=
  engDo s e fun t =>
    if opFn x ≠ 0 then engIllegal t e.val op x
    else engRd t e.val (opA x) (f (engReg t e.val (opB x)) (engReg t e.val (opC x)))

/-- I format: rd from rs1. -/
def engI (s : State) (e : SE) (x : EngWord) (f : W64 → W64) : Out :=
  engDo s e fun t => engRd t e.val (opA x) (f (engReg t e.val (opB x)))

/-- A shift amount: the low 6 bits. -/
def shamt (v : W64) : Nat := fld v 0 6

/-- A truth value as a register. -/
def b64 (c : Bool) : W64 := if c then 1 else 0

/-! ## Arithmetic and logic -/

/-- ADD. -/
def execEngAdd (e : SE) (x : BitVec 26) (s : State) : Out := engR s e 0x00 x (· + ·)
/-- SUB. -/
def execEngSub (e : SE) (x : BitVec 26) (s : State) : Out := engR s e 0x01 x (· - ·)
/-- AND. -/
def execEngAnd (e : SE) (x : BitVec 26) (s : State) : Out := engR s e 0x02 x (· &&& ·)
/-- OR. -/
def execEngOr (e : SE) (x : BitVec 26) (s : State) : Out := engR s e 0x03 x (· ||| ·)
/-- XOR. -/
def execEngXor (e : SE) (x : BitVec 26) (s : State) : Out := engR s e 0x04 x (· ^^^ ·)
/-- SLL. -/
def execEngSll (e : SE) (x : BitVec 26) (s : State) : Out := engR s e 0x05 x fun a b => a <<< shamt b
/-- SRL: zero fill. -/
def execEngSrl (e : SE) (x : BitVec 26) (s : State) : Out := engR s e 0x06 x fun a b => a >>> shamt b
/-- SRA: sign fill. -/
def execEngSra (e : SE) (x : BitVec 26) (s : State) : Out := engR s e 0x07 x fun a b => a.sshiftRight (shamt b)
/-- MUL: the low 64 bits. -/
def execEngMul (e : SE) (x : BitVec 26) (s : State) : Out := engR s e 0x08 x (· * ·)
/-- SLT: signed. -/
def execEngSlt (e : SE) (x : BitVec 26) (s : State) : Out := engR s e 0x0A x fun a b => b64 (BitVec.slt a b)
/-- SLTU: unsigned. -/
def execEngSltu (e : SE) (x : BitVec 26) (s : State) : Out := engR s e 0x0B x fun a b => b64 (BitVec.ult a b)
/-- HASH (R259). -/
def execEngHash (e : SE) (x : BitVec 26) (s : State) : Out := engR s e 0x0C x fun a b => mix (a ^^^ b)

/-- CRC (R259): fn 1 to 8, else ILLEGAL. -/
def execEngCrc (e : SE) (x : BitVec 26) (s : State) : Out :=
  engDo s e fun t =>
    if opFn x = 0 ∨ 8 < opFn x then engIllegal t e.val 0x0D x
    else engRd t e.val (opA x)
      ((crcUpdate ((engReg t e.val (opB x)).setWidth 32) (bytesLE (opFn x) (engReg t e.val (opC x)).toNat)).setWidth 64)

/-- ADDI. -/
def execEngAddi (e : SE) (x : BitVec 26) (s : State) : Out := engI s e x (· + immS x)
/-- ANDI: zero-extended immediate. -/
def execEngAndi (e : SE) (x : BitVec 26) (s : State) : Out := engI s e x (· &&& immZ x)
/-- ORI. -/
def execEngOri (e : SE) (x : BitVec 26) (s : State) : Out := engI s e x (· ||| immZ x)
/-- XORI. -/
def execEngXori (e : SE) (x : BitVec 26) (s : State) : Out := engI s e x (· ^^^ immZ x)
/-- SLLI. -/
def execEngSlli (e : SE) (x : BitVec 26) (s : State) : Out := engI s e x fun a => a <<< shamt (immS x)
/-- SRLI. -/
def execEngSrli (e : SE) (x : BitVec 26) (s : State) : Out := engI s e x fun a => a >>> shamt (immS x)
/-- SRAI. -/
def execEngSrai (e : SE) (x : BitVec 26) (s : State) : Out := engI s e x fun a => a.sshiftRight (shamt (immS x))

/-- LUI: rs1 must be 0. -/
def execEngLui (e : SE) (x : BitVec 26) (s : State) : Out :=
  engDo s e fun t => if opB x ≠ 0 then engIllegal t e.val 0x17 x else engRd t e.val (opA x) (immU x)

/-! ## Special registers (Table 09.2) -/

/-- ID. -/
def csrId (s : State) (e : Nat) : Nat :=
  e + (e / 8) * 2 ^ 8 + halfIdx (halfOfEng e) * 2 ^ 13 +
  (match svcOfEng s e with | some v => v * 2 ^ 16 | none => 2 ^ 21) + flag (isSteward e) 23

/-- CYCLE: engine cycles since the load; one unit of the engine clock is 0.4 cycle (R265, Table 09.8). -/
def csrCycle (s : State) (e : Nat) : Nat := (s.eng.cyc - (eng s e).loadClk) * 2 / 5

/-- The slot is busy: under way, or keeping a status. -/
def slotBusy : Slot → Bool | .busy .. => true | .kept _ => true | _ => false

/-- MSLOTS. -/
def csrSlots (g : EngSt) : Nat := (g.slots.zipIdx.map fun (x, i) => flag (slotBusy x) i).sum

/-- A count in 8 bits; above 255 the spec states no reading (log entry 6). -/
def count8 (key n : Nat) : Nat := if n ≤ 255 then n else Config.counterOverflow key n % 256

/-- INBOX: waiting, and popped but not finished. -/
def csrInbox (g : EngSt) : Nat :=
  count8 0x00B (g.inbox.filter fun r => !r.popped).length +
  count8 0x10B (g.inbox.filter fun r => r.popped && !r.done).length * 2 ^ 8

/-- A special register's value; none: the number is not in the table. -/
def csrRead (s : State) (e k : Nat) : Option W64 :=
  let g := eng s e
  match k with
  | 0x000 => some (BitVec.ofNat 64 (csrId s e))
  | 0x001 => some (BitVec.ofNat 64 (csrCycle s e))
  | 0x002 => some (timeNow s)
  | 0x003 => some g.fvec
  | 0x004 => some (BitVec.ofNat 64 (g.fstat + flag g.inFault 8))
  | 0x005 => some g.fpc
  | 0x006 => some g.finfo
  | 0x007 => some g.fret
  | 0x008 => some (BitVec.ofNat 64 (runPri s e))
  | 0x009 => some (match g.stack with | t :: _ => BitVec.ofNat 64 t.src | [] => 0xFFFFFFFFFFFFFFFF#64)
  | 0x00A => some (BitVec.ofNat 64 (csrSlots g))
  | 0x00B => some (BitVec.ofNat 64 (csrInbox g))
  | 0x00C => some (b64 (curEpoch s (halfOfEng e)))
  | _ => none

/-- CSRR (R247). -/
def execEngCsrr (e : SE) (x : BitVec 26) (s : State) : Out :=
  engDo s e fun t =>
    match if opB x = 0 then csrRead t e.val (opImm x) else none with
    | some v => engRd t e.val (opA x) v
    | none => engIllegal t e.val 0x18 x

/-- CSRW (R247): FVEC and FRET; any other number is ILLEGAL. -/
def execEngCsrw (e : SE) (x : BitVec 26) (s : State) : Out :=
  engDo s e fun t =>
    let v := engReg t e.val (opB x)
    if opA x ≠ 0 then engIllegal t e.val 0x19 x
    else match opImm x with
      | 0x003 => engNext (updEng t e.val fun g => { g with fvec := v }) e.val
      | 0x007 => engNext (updEng t e.val fun g => { g with fret := v }) e.val
      | _ => engIllegal t e.val 0x19 x

/-! ## Waiting, interrupts, faults -/

/-- WAIT (R249, R285): idle until a record waits, a move slot completes or an interrupt is accepted. -/
def execEngWait (e : SE) (x : BitVec 26) (s : State) : Out :=
  engDo s e fun t =>
    if x ≠ 0 then engIllegal t e.val 0x1A x
    else if (eng t e.val).inbox.any (fun r => !r.popped) then engNext t e.val
    else enterWait t e.val

/-- EOI (R288, R289): the top of the stack ends; its return address becomes the pending return; a source
that calls for service again is routed at once. -/
def execEngEoi (e : SE) (x : BitVec 26) (s : State) : Out :=
  engDo s e fun t =>
    let v := engReg t e.val (opB x)
    let n := fld v 0 14
    if opA x ≠ 0 ∨ opC x ≠ 0 ∨ opFn x ≠ 0 then engIllegal t e.val 0x1B x
    else
      match (eng t e.val).stack, (eng t e.val).pendRet with
      | top :: rest, none =>
        if top.src = n then
          let t1 := updEng t e.val fun g => { g with stack := rest, pendRet := some top.ret }
          srcRoute (srcLeave (engNext t1 e.val) n) n (some e.val)
        else engFault (bump t 0x6C23 (hsub (halfOfEng e.val))) e.val fStack (BitVec.ofNat 64 n)
      | _, _ => engFault (bump t 0x6C23 (hsub (halfOfEng e.val))) e.val fStack (BitVec.ofNat 64 n)

/-- Enter a handler; one at an unmapped address raises FETCH at entry (R287). -/
def enterHandler (s : State) (e : Nat) (o : Offer) (ret : W64) : State :=
  let s1 := offerTake s e o ret
  if (engRegion o.handler.toNat 4).isNone then engFault s1 e fFetch o.handler else s1

/-- RETI (R260, R288): from a fault; else to the pending return, or into a waiting offer in its place; else
ILLEGAL. -/
def execEngReti (e : SE) (x : BitVec 26) (s : State) : Out :=
  engDo s e fun t =>
    let g := eng t e.val
    if x ≠ 0 then engIllegal t e.val 0x1C x
    else if g.inFault then updEng t e.val fun y => { y with inFault := false, pc := y.fret }
    else
      match g.pendRet, g.offer with
      | some r, some o => enterHandler t e.val o r
      | some r, none => updEng t e.val fun y => { y with pendRet := none, pc := r }
      | none, _ => engIllegal t e.val 0x1C x

/-- OFFER_ACCEPT (R286, R287): at an instruction boundary; a waiting instruction is abandoned and executed
again after the return. -/
def execOfferAccept (e : SE) (s : State) : Out :=
  .next (
    let g := eng s e.val
    match g.offer with
    | some o =>
      if engUp s e.val && g.pendRet.isNone && s.pwr.sleep == 0 then enterHandler s e.val o g.pc else s
    | none => s)

/-- A posted write of the engine is not yet committed. -/
def engWrites (s : State) (e : Nat) : Bool :=
  s.fab.txns.any fun t => engWrote t e

/-- What FENCE waits for: loads and stores are performed as they execute (R246); moves by free slots and
committed writes. -/
def fenceMet (s : State) (e : Nat) (moves : Bool) : Bool :=
  !moves || ((eng s e).slots.all (· == .free) && !engWrites s e)

/-- FENCE (R249): rd, rs1, rs2 and fn[10:2] must be 0. -/
def execEngFence (e : SE) (x : BitVec 26) (s : State) : Out :=
  engRun s e.val (fun w => match w with | .none | .fence .. => true | _ => false) fun t =>
    if opA x ≠ 0 ∨ opB x ≠ 0 ∨ opC x ≠ 0 ∨ 4 ≤ opFn x then engIllegal t e.val 0x1D x
    else
      let mv := (opFn x).testBit 1
      if fenceMet t e.val mv then engNext t e.val
      else updEng t e.val fun g => { g with waitFor := .fence ((opFn x).testBit 0) mv }

/-- FENCE_COMPLETE (R249). -/
def execFenceComplete (e : SE) (s : State) : Out :=
  .next (match (eng s e.val).waitFor with
    | .fence _ mv => if fenceMet s e.val mv && engUp s e.val && s.pwr.sleep == 0 then engNext s e.val else s
    | _ => s)

/-- BREAK. -/
def execEngBreak (e : SE) (x : BitVec 26) (s : State) : Out :=
  engDo s e fun t => if x ≠ 0 then engIllegal t e.val 0x1E x else engFault t e.val fBreak 0

/-- A reserved opcode (R248). -/
def reservedOp (op : Nat) : Bool :=
  op == 0x09 || op == 0x0E || op == 0x0F || op == 0x1F || decide (0x3D ≤ op)

/-- RESERVED_OPCODE (R248): fault ILLEGAL with the word. -/
def execReservedOpcode (e : SE) (w : W32) (s : State) : Out :=
  if reservedOp (fld w 26 6) then engDo s e fun t => engFault t e.val fIllegal (w.setWidth 64) else .next s

/-! ## Loads, stores, atomics -/

/-- Checks of a data access: alignment first (log entry 21), then the address. -/
def accessFault (e a n : Nat) : Option Nat :=
  if a % n ≠ 0 then some fAlign
  else if (engRegion a n).isNone || engReserved e a n then some fAddr
  else none

/-- A store into the inbox lies within a record that has been popped and not finished (R246). -/
def inPopped (g : EngSt) (a n : Nat) : Bool :=
  g.inbox.any fun r => r.popped && !r.done && r.addr ≤ a && a + n ≤ r.addr + r.size

/-- Checks of a store. -/
def storeFault (s : State) (e a n : Nat) : Option Nat :=
  match accessFault e a n with
  | some f => some f
  | none => if engRegion a n == some 1 && !inPopped (eng s e) a n then some fAddr else none

/-- The address of a load or store. -/
def engAddr (s : State) (e : Nat) (x : EngWord) : W64 := engReg s e (opB x) + immS x

/-- A load of `n` bytes, zero-extended; corrected errors are counted, an uncorrectable one is fault ECC. -/
def engLoad (s : State) (e : SE) (x : EngWord) (n : Nat) (ecc : MemEcc) : Out :=
  engDo s e fun t =>
    let a := engAddr t e.val x
    match accessFault e.val a.toNat n with
    | some f => engFault t e.val f a
    | none =>
      match ecc with
      | .uncorrectable at_ => engFault t e.val fEcc at_
      | .clean => engRd t e.val (opA x) (BitVec.ofNat 64 (ofBytesLE (engBytes t e.val a.toNat n)))
      | .corrected => engRd (aerCorrInternal (bump t 0x620B (hsub (halfOfEng e.val)))) e.val (opA x)
          (BitVec.ofNat 64 (ofBytesLE (engBytes t e.val a.toNat n)))

/-- A store of the low `n` bytes of rs2. -/
def engStore (s : State) (e : SE) (x : EngWord) (n : Nat) : Out :=
  engDo s e fun t =>
    let a := engAddr t e.val x
    match storeFault t e.val a.toNat n with
    | some f => engFault t e.val f a
    | none => engNext (engPut t e.val a.toNat (bytesLE n (engReg t e.val (opA x)).toNat)) e.val

/-- LD. -/
def execEngLd (e : SE) (x : BitVec 26) (ecc : MemEcc) (s : State) : Out := engLoad s e x 8 ecc
/-- LW. -/
def execEngLw (e : SE) (x : BitVec 26) (ecc : MemEcc) (s : State) : Out := engLoad s e x 4 ecc
/-- LH. -/
def execEngLh (e : SE) (x : BitVec 26) (ecc : MemEcc) (s : State) : Out := engLoad s e x 2 ecc
/-- LB. -/
def execEngLb (e : SE) (x : BitVec 26) (ecc : MemEcc) (s : State) : Out := engLoad s e x 1 ecc
/-- SD. -/
def execEngSd (e : SE) (x : BitVec 26) (s : State) : Out := engStore s e x 8
/-- SW. -/
def execEngSw (e : SE) (x : BitVec 26) (s : State) : Out := engStore s e x 4
/-- SH. -/
def execEngSh (e : SE) (x : BitVec 26) (s : State) : Out := engStore s e x 2
/-- SB. -/
def execEngSb (e : SE) (x : BitVec 26) (s : State) : Out := engStore s e x 1

/-- An engine atomic (R257): the new value from the old one, rs2 and rd; the old value goes to rd. -/
def engAtomic (s : State) (e : SE) (op : Nat) (x : EngWord) (f : Nat → Nat → Nat → Nat) : Out :=
  engDo s e fun t =>
    let a := engReg t e.val (opB x)
    let n := if opFn x = 1 then 4 else 8
    if 2 ≤ opFn x then engIllegal t e.val op x
    else
      match storeFault t e.val a.toNat n with
      | some k => engFault t e.val k a
      | none =>
        let m := 2 ^ (8 * n)
        let old := ofBytesLE (engBytes t e.val a.toNat n)
        let new := f old ((engReg t e.val (opC x)).toNat % m) ((engReg t e.val (opA x)).toNat % m) % m
        engRd (engPut t e.val a.toNat (bytesLE n new)) e.val (opA x) (BitVec.ofNat 64 old)

/-- AADD. -/
def execEngAadd (e : SE) (x : BitVec 26) (s : State) : Out := engAtomic s e 0x30 x fun old b _ => old + b
/-- ASWP. -/
def execEngAswp (e : SE) (x : BitVec 26) (s : State) : Out := engAtomic s e 0x31 x fun _ b _ => b
/-- ACAS. -/
def execEngAcas (e : SE) (x : BitVec 26) (s : State) : Out :=
  engAtomic s e 0x32 x fun old b d => if old = d then b else old

/-! ## Branches and jumps -/

/-- B format: taken by 4 times off16 from the branch. -/
def engBranch (s : State) (e : SE) (x : EngWord) (c : W64 → W64 → Bool) : Out :=
  engDo s e fun t =>
    if c (engReg t e.val (opA x)) (engReg t e.val (opB x)) then engJump t e.val ((eng t e.val).pc + offB x)
    else engNext t e.val

/-- BEQ. -/
def execEngBeq (e : SE) (x : BitVec 26) (s : State) : Out := engBranch s e x fun a b => a == b
/-- BNE. -/
def execEngBne (e : SE) (x : BitVec 26) (s : State) : Out := engBranch s e x fun a b => a != b
/-- BLT: signed. -/
def execEngBlt (e : SE) (x : BitVec 26) (s : State) : Out := engBranch s e x fun a b => BitVec.slt a b
/-- BGE: signed. -/
def execEngBge (e : SE) (x : BitVec 26) (s : State) : Out := engBranch s e x fun a b => !BitVec.slt a b
/-- BLTU: unsigned. -/
def execEngBltu (e : SE) (x : BitVec 26) (s : State) : Out := engBranch s e x fun a b => BitVec.ult a b
/-- BGEU: unsigned. -/
def execEngBgeu (e : SE) (x : BitVec 26) (s : State) : Out := engBranch s e x fun a b => !BitVec.ult a b

/-- JAL. -/
def execEngJal (e : SE) (x : BitVec 26) (s : State) : Out :=
  engDo s e fun t =>
    let pc := (eng t e.val).pc
    engJump (setReg t e.val (opA x) (pc + 4)) e.val (pc + offJ x)

/-- JALR: bits [1:0] of the target are cleared. -/
def execEngJalr (e : SE) (x : BitVec 26) (s : State) : Out :=
  engDo s e fun t =>
    let tgt := (engReg t e.val (opB x) + immS x) &&& ~~~3#64
    engJump (setReg t e.val (opA x) ((eng t e.val).pc + 4)) e.val tgt

end Sys2Proof.Machine
end

