-- ==== Sys2Proof/Machine/Flags.lean ====
section
/-! DEFINITION. Status words the machine computes from its state: flow state words (Table 08.2), DMA queue
status (Table 08.7), engine and service status (Table 09.10), event controller status (Table 10.8). -/

namespace Sys2Proof.Machine

/-! ## Flow state words (Table 08.2) -/

/-- Cells of a flow in brine segments written under an epoch other than the current one (OLD_OCC). -/
def oldOcc (s : State) (h : Half) (f : Nat) : Nat :=
  let cur := cfg s h 0x5605 (hsub h) % 2
  (s.fab.cells.filter fun c => c.half == h && c.flow == f &&
    match c.place with | .brine _ ep _ => ep != cur | _ => false).length

/-- A per-flow pause or credit hold is in force (R42, R146). -/
def flowPaused (s : State) (f : Nat) : Bool :=
  (flowSt s f).paused || s.links.any fun (_, x) => x.paused.any fun (g, _) => g == f

/-- Word 16. -/
def flowStat (s : State) (h : Half) (f : Nat) : Nat :=
  let x := flowSt s f
  let d := flowDormant s h f
  flag (flowEn s h f && !d) 0 + flag d 1 + flag (flowPaused s f) 2 + flag (brineOcc s h f != 0) 3 +
    flag x.refused 4 + flag x.capHeld 5 + flag x.epoch 6

/-- Signed TOKENS as 32 bits. -/
def tokensWord (v : Int) : Nat := (BitVec.ofInt 32 v).toNat

/-- Time the flow has been held back, the present episode included. -/
def flowBpNs (s : State) (f : Nat) : Nat :=
  let x := flowSt s f
  x.bpNs + match x.bpSince with | some c => clkToNs (s.clk - c) | none => 0

/-- Word k of a flow's context as half `h` holds it: configuration, state, service words (R214, R258). -/
def flowWord (s : State) (h : Half) (f k : Nat) : W32 :=
  let x := flowSt s f
  if k < 8 then fw s h f k
  else if 48 ≤ k ∧ k < 64 then Tab.get 0 x.words k
  else BitVec.ofNat 32 (match k with
    | 16 => flowStat s h f
    | 17 => tokensWord (if shaped s h f then (refilled s h f).tokens else x.tokens)
    | 18 => vatOcc s h f
    | 19 => brineOcc s h f
    | 20 => x.bseq
    | 21 => oldOcc s h f
    | 22 => x.txBytes
    | 23 => x.txBytes / 2 ^ 32
    | 24 => x.txPkts
    | 25 => x.txPkts / 2 ^ 32
    | 26 => flowBpNs s f
    | 27 => flowBpNs s f / 2 ^ 32
    | 28 => x.bpCount
    | _ => 0)

/-! ## DMA queues -/

/-- FLOW_DQ_STAT. -/
def dqStat (s : State) (q : Nat) : Nat :=
  let d := dq s q
  flag (dqRunning s q) 0 + flag (dqDormant s q) 1 + flag (dqPausedBme s q) 2 + flag d.pSwitch 3 + flag d.halted 4 +
    place d.last 8 4

/-! ## Engines and services (Table 09.10) -/

/-- SE_STAT.STATE. -/
def engRunCode : EngRun → Nat
  | .notLoaded => 0
  | .running => 1
  | .waiting => 2
  | .halted => 3

/-- The engine holds buckets. -/
def engHolds (s : State) (e : Nat) : Bool :=
  (svcsOf (halfOfEng e)).any fun v => (svc s v).buckets.contains e

/-- SE_STAT. -/
def seStat (s : State) (e : Nat) : Nat :=
  let g := eng s e
  engRunCode g.st + flag g.inFault 2 + flag g.loading 3 + flag (engHolds s e) 4

/-- SE_FLOWS: flows assigned to the engine. -/
def seFlows (s : State) (e : Nat) : Nat := (s.fab.flows.filter fun (_, x) => x.assigned == some e).length

/-- The enabled service a cluster belongs to. -/
def svcOfCluster (s : State) (c : Nat) : Option Nat :=
  (svcsOf (if c < 12 then .a else .b)).find? fun v => svcEn s v && inMask (svcClusters s v) c

/-- Engines of a cluster that a service may use: the steward is none. -/
def clusterEngs (c : Nat) : List Nat := (span (8 * c) 8).filter fun e => !isSteward e

/-- R270: in CLUSTERS, not in ROT, no flow assigned, every engine in WAIT with no busy slot and an empty
stack. -/
def drained (s : State) (c : Nat) : Bool :=
  match svcOfCluster s c with
  | none => false
  | some v =>
    !inMask (svcRot s v) c && !(clus s c).loading &&
    (clusterEngs c).all fun e =>
      (eng s e).st == .waiting && (eng s e).slots.all (· == .free) && (eng s e).stack.isEmpty && seFlows s e == 0

/-- Clusters of a service, as numbers 0 to 23. -/
def svcClusterList (s : State) (v : Nat) : List Nat :=
  (span (12 * halfIdx (halfOfSvc v)) 12).filter fun c => inMask (svcClusters s v) c

/-- SE_SVC_STAT. -/
def svcStat (s : State) (v : Nat) : Nat :=
  if svcEn s v then
    (((svcClusterList s v).filter (drained s)).map fun c => 2 ^ (c % 12)).sum + place (svcEngines s v).length 16 7
  else 0

/-- Versions that run in the service's clusters. -/
def svcVersions (s : State) (v : Nat) : List Nat :=
  if svcEn s v then
    ((svcClusterList s v).filter fun c => (clus s c).loaded && !(clus s c).loading).map fun c => (clus s c).version
  else []

/-- SE_SVC_VER. -/
def svcVer (s : State) (v : Nat) : Nat :=
  let vs := svcVersions s v
  match vs with
  | [] => 0
  | x :: t => t.foldl min x + t.foldl max x * 2 ^ 16

/-- OD 0x6200: flows assigned under the epoch that is not current. -/
def oldAssigned (s : State) (h : Half) : Nat :=
  ((assignedFlows s h).filter fun f => (flowSt s f).asgEpoch != curEpoch s h).length

/-! ## Event controllers (Table 10.8) -/

/-- EVC_SRC_STAT.STATE. -/
def srcState (s : State) (n : Nat) : Nat :=
  let x := src s n
  if !srcEn s n || srcDormant s n then 6
  else match x.pos with
    | .held _ => 2
    | .offered _ => 3
    | .inService _ => if x.vanished then 5 else 4
    | .formed _ => 7
    | .claimed => if x.vanished then 5 else 7
    | .idle =>
      if srcHost s n then
        if !srcWants s n then 0 else if msixEn s (srcFnNow s n) || msiEn s (srcFnNow s n) then 1 else 7
      else if srcPending s n then 1 else 0

/-- EVC_SRC_STAT. -/
def srcStat (s : State) (n : Nat) : Nat :=
  let x := src s n
  x.count + place (srcState s n) 8 3 + flag x.level 11 + flag (x.count == 255) 12 + flag (x.pos == .claimed) 13 +
    (match x.pos with | .offered e | .inService e | .held e => place (e % 96) 16 7 | _ => 0)

/-- EVC_ENG_STAT. -/
def evcEngStat (s : State) (e : Nat) : Nat :=
  let g := eng s e
  place g.stack.length 0 5 + place (runPri s e) 5 4 + flag g.pendRet.isSome 9 + flag (g.st == .waiting) 10 +
    (match g.stack with | t :: _ => place t.src 16 14 | [] => 0)

/-- EVC_SG_STAT: HOLDING, and the rest of the hold-off in µs, rounded up. -/
def sgStat (s : State) (g : Nat) : Nat :=
  if Tab.get false s.evc.hold g then
    let h : Half := if g < 256 then .a else .b
    let total := cfg s h (0x6C10 + g / 128) (g % 128 + 1) % 2 ^ 27
    1 + ceilDiv (total - clkToNs (s.clk - Tab.get 0 s.evc.holdClk g)) 1000 * 2 ^ 8
  else 0

/-- EVC_EREC0 and EVC_EREC1 of the oldest record (Table 10.4). -/
def erecs (s : State) : Half → List EvRec
  | .a => s.evc.recA
  | .b => s.evc.recB
def erec0 (s : State) (h : Half) : Nat :=
  match erecs s h with
  | [] => 0
  | r :: _ => r.kind % 128 + 2 ^ 7 + place r.da 8 8 + place r.inst 16 16 + place r.db 32 16 + place r.lost 48 16
def erec1 (s : State) (h : Half) : Nat :=
  match erecs s h with | [] => 0 | r :: _ => r.time.toNat

end Sys2Proof.Machine
end

