-- ==== Sys2Proof/Machine/EngCmd.lean ====
section
/-! DEFINITION. The inbox (R251, R252), moves (R253 to R255), doorbells and contexts (R256, R258), delivery
of service events (R251, R264, R265), hot engines (R266), the memory window (R272). -/

namespace Sys2Proof.Machine

/-! ## The inbox -/

/-- The record at an address that is popped and not finished. -/
def openRec (g : EngSt) (a : W64) : Option InRec := g.inbox.find? fun r => r.addr == a.toNat && r.popped && !r.done

/-- Change the record at an address. -/
def updRec (s : State) (e a : Nat) (f : InRec → InRec) : State :=
  updEng s e fun g => { g with inbox := g.inbox.map fun r => if r.addr == a && !r.done then f r else r }

/-- QPOP (R251): the oldest record not yet popped, or 0. -/
def execEngQpop (e : SE) (x : BitVec 26) (s : State) : Out :=
  engDo s e fun t =>
    if opB x ≠ 0 ∨ opC x ≠ 0 ∨ opFn x ≠ 0 then engIllegal t e.val 0x33 x
    else
      match (eng t e.val).inbox.find? fun r => !r.popped with
      | none => engRd t e.val (opA x) 0
      | some r => engRd (updRec t e.val r.addr fun y => { y with popped := true }) e.val (opA x) (BitVec.ofNat 64 r.addr)

/-- Finish a record: a READ or ATOMIC without REPLY is answered CA; space goes in inbox order. -/
def finishRec (s : State) (e : Nat) (r : InRec) : State :=
  let unanswered := (r.kind == 2 || r.kind == 3) && !r.replied
  let s1 := onlyIf unanswered (fun t => bump (recordCa t r) 0x6206 (hsub (halfOfEng e))) s
  updEng (updRec s1 e r.addr fun y => { y with done := true }) e inboxReclaim

/-- QDONE (R251, R252): fault QUEUE where rs1 is no popped, unfinished record. -/
def execEngQdone (e : SE) (x : BitVec 26) (s : State) : Out :=
  engDo s e fun t =>
    let a := engReg t e.val (opB x)
    if opA x ≠ 0 ∨ opC x ≠ 0 ∨ opFn x ≠ 0 then engIllegal t e.val 0x34 x
    else
      match openRec (eng t e.val) a with
      | none => engFault t e.val fQueue a
      | some r => engNext (finishRec t e.val r) e.val

/-- The reply word is malformed for a request that wants `want` bytes (R252). -/
def replyBad (w : W64) (want : Nat) : Bool :=
  rpRsvd w || !statusEither (rpStatus w) || (rpStatus w == 0 && rpLen w != want) || !rangeOk (rpLaddr w) (rpLen w)

/-- The half a request's completions start from: its requester's (R38). -/
def reqHalf (s : State) (id : Nat) : Half := match req? s id with | some q => q.half | none => .a

/-- REPLY (R252): answers the READ or ATOMIC in a popped, unfinished record once. -/
def execEngReply (e : SE) (x : BitVec 26) (s : State) : Out :=
  engDo s e fun t =>
    let a := engReg t e.val (opB x)
    let w := engReg t e.val (opC x)
    if opA x ≠ 0 ∨ opFn x ≠ 0 then engIllegal t e.val 0x3C x
    else
      match openRec (eng t e.val) a with
      | none => engFault t e.val fQueue a
      | some r =>
        if !(r.kind == 2 || r.kind == 3) || r.replied then engFault t e.val fQueue a
        else if replyBad w r.want then engFault t e.val fMoveArg w
        else if engReserved e.val (rpLaddr w) (rpLen w) && rpLen w != 0 then
          engFault t e.val fAddr (BitVec.ofNat 64 (rpLaddr w))
        else
          let t1 := engNext (updRec t e.val r.addr fun y => { y with replied := true }) e.val
          if r.req = 0 then bump t1 0x9007 (5 + halfIdx (halfOfEng e.val))   -- ended by the die link (R334)
          else if rpStatus w = 0 then
            gotPart t1 r.req r.part (engBytes t1 e.val (rpLaddr w) (rpLen w)) false (halfOfEng e.val)
          else failPart t1 r.req r.part (rpStatus w) (halfOfEng e.val)

/-! ## Moves (R253 to R255) -/

/-- Put a slot's state. -/
def setSlot (s : State) (e i : Nat) (x : Slot) : State := updEng s e fun g => { g with slots := g.slots.set i x }

/-- A free slot: which one is a free value (R253; log entry 1). -/
def pickSlot (s : State) (e : Nat) : Option Nat × State :=
  let free := (eng s e).slots.zipIdx.filterMap fun (x, i) => if x == .free then some i else none
  if free.isEmpty then (none, s)
  else
    let k := takeFree s
    (free[k.1 % free.length]?, k.2)

/-- A slot ends with a status: OK frees it; an error stays for MWAIT where NF is 1, else it is a fault to be
taken before the next instruction (R255). -/
def slotEnd (s : State) (e i flow : Nat) (nf : Bool) (st : Nat) : State :=
  setSlot s e i (if st = 0 then .free else if nf then .kept st else .failed flow st)

/-- R254: the flow is enabled, not dormant, and starts at an engine of the issuing engine's service or at a
DMA queue dispatched to it. -/
def moveAllowed (s : State) (e f : Nat) : Bool :=
  let h := halfOfEng e
  flowEn s h f && !flowDormant s h f && (svcOfEng s e).isSome &&
  match flowSrc s h f with
  | .eng k => svcOfEng s k == svcOfEng s e
  | .dq q => halfOfDq q == h && dqService s h == svcOfEng s e
  | _ => false

/-- A move write enters its flow; the slot waits for MOVE_COMPLETE. A sink that takes nothing drops it and
counts it (R114, R122, R310). -/
def moveWrite (s : State) (e i : Nat) (ra : Nat) (w : W64) : State :=
  let t := ownTxn s (halfOfEng e) (mvFlow w) .p .write ra (mvLen w) (engBytes s e (mvLaddr w) (mvLen w))
  submitP (setSlot s e i (.busy (mvFlow w) (mvLaddr w) (mvNf w) true))
    { t with fence := mvFence w, mark := .engWrite e i }

/-- A move read or atomic enters its flow. -/
def moveReq (s : State) (e i : Nat) (op : TOp) (ra len : Nat) (data : List Byte) (w : W64) : State :=
  let h := halfOfEng e
  let t := { ownTxn s h (mvFlow w) .np op ra len data with fence := mvFence w }
  let s1 := setSlot s e i (.busy (mvFlow w) (mvLaddr w) (mvNf w) false)
  match gate s t.sink with
  | .pass =>
    (submitNp s1 (.eng e i) t len (match op with | .read => readParts s t.sink 0 ra len | _ => [mkPart 0 len ra])).2
  | .refuse st => slotEnd (gateCount s1 h t.sink .np (.refuse st)) e i (mvFlow w) (mvNf w) st
  | .allOnes => slotEnd (gateCount (engPut s1 e (mvLaddr w) (ones len)) h t.sink .np .allOnes) e i (mvFlow w) (mvNf w) 0

/-- What the three moves share: the checks of the move word (MOVE_ARG), a free slot, the flow's admission
(UR), then the move itself. -/
def engMove (s : State) (e : SE) (op : Nat) (x : EngWord) (bad : Nat → W64 → Bool) (len : W64 → Nat)
    (go : State → Nat → Nat → W64 → State) : Out :=
  engRun s e.val (fun w => w == .none || w == .freeSlot) fun t =>
    let ra := (engReg t e.val (opB x)).toNat
    let w := engReg t e.val (opC x)
    if opFn x ≠ 0 then engIllegal t e.val op x
    else if mvRsvd w || !in4k ra (len w) || bad ra w then engFault t e.val fMoveArg w
    else if engReserved e.val (mvLaddr w) (mvLen w) && mvLen w != 0 then
      engFault t e.val fAddr (BitVec.ofNat 64 (mvLaddr w))
    else
      match pickSlot t e.val with
      | (none, _) => updEng t e.val fun g => { g with waitFor := .freeSlot }
      | (some i, t1) =>
        let t2 := engRd t1 e.val (opA x) (BitVec.ofNat 64 i)
        if op ≠ 0x37 ∧ mvLen w = 0 then t2
        else if !moveAllowed t2 e.val (mvFlow w) then slotEnd t2 e.val i (mvFlow w) (mvNf w) 1
        else go t2 i ra w

/-- MVR (R253). -/
def execEngMvr (e : SE) (x : BitVec 26) (s : State) : Out :=
  engMove s e 0x35 x (fun _ w => mvAop w != 0 || decide (4096 < mvLen w) || !destOk (mvLaddr w) (mvLen w)) mvLen
    fun t i ra w => moveReq t e.val i .read ra (mvLen w) [] w

/-- MVW (R253). -/
def execEngMvw (e : SE) (x : BitVec 26) (s : State) : Out :=
  engMove s e 0x36 x (fun _ w => mvAop w != 0 || decide (4096 < mvLen w) || !rangeOk (mvLaddr w) (mvLen w)) mvLen
    fun t i ra w => moveWrite t e.val i ra w

/-- MVA (R253): the operand length of R135, naturally aligned to the operand size. -/
def execEngMva (e : SE) (x : BitVec 26) (s : State) : Out :=
  engMove s e 0x37 x
    (fun ra w => mvAop w == 3 || !atomicLenOk (aopOf (mvAop w)) (mvLen w) || !destOk (mvLaddr w) (mvLen w) ||
      ra % operandSize (aopOf (mvAop w)) (mvLen w) != 0)
    (fun w => operandSize (aopOf (mvAop w)) (mvLen w))
    fun t i ra w =>
      let op := aopOf (mvAop w)
      moveReq t e.val i (.atomic op) ra (operandSize op (mvLen w)) (engBytes t e.val (mvLaddr w) (mvLen w)) w

/-- An engine in WAIT goes on: a move slot has completed (R249). -/
def engWake (s : State) (e : Nat) : State :=
  updEng s e fun g => if g.st == .waiting then { g with st := .running, pc := g.pc + 4 } else g

/-- The completion that has arrived for a slot. -/
def slotCpl (s : State) (e i : Nat) : Option Txn :=
  s.fab.txns.find? fun t =>
    t.kind == .cpl && t.sink == .eng e && decide (t.size ≤ t.arrived) && t.fenceOk && !egressBlocked s t &&
    (match t.op with | .cpl _ _ _ k => k == i | _ => false)

/-- MOVE_COMPLETE (R254, R255): a write has been taken from engine memory; or the completion data is written
to LADDR; or an error ends the move. -/
def execMoveComplete (e : SE) (slot : Fin 16) (s : State) : Out :=
  let i := slot.val
  .next (
    if !engUp s e.val then s
    else
      match (eng s e.val).slots.getD i .free with
      | .busy fl la nf wr =>
        if wr then engWake (slotEnd s e.val i fl nf 0) e.val
        else
          match slotCpl s e.val i with
          | none => s
          | some t =>
            match t.op with
            | .cpl st _ _ _ =>
              let s1 := dropTxn s t.id
              let s2 := if st = 0 then engPut s1 e.val la t.data else s1
              engWake (slotEnd s2 e.val i fl nf st) e.val
            | _ => s
      | _ => s)

/-- A slot has completed or is free. -/
def slotDone (g : EngSt) (i : Nat) : Bool := match g.slots.getD i .free with | .busy .. => false | _ => true

/-- MWAIT (R255): the status of slot rs1[3:0], collected; with fn[0] once every slot has completed. -/
def execEngMwait (e : SE) (x : BitVec 26) (s : State) : Out :=
  engRun s e.val (fun w => match w with | .none | .slot _ | .allSlots => true | _ => false) fun t =>
    let i := fld (engReg t e.val (opB x)) 0 4
    let g := eng t e.val
    if opC x ≠ 0 ∨ 2 ≤ opFn x then engIllegal t e.val 0x38 x
    else if opFn x = 1 && !(List.range 16).all (slotDone g) then
      updEng t e.val fun y => { y with waitFor := .allSlots }
    else if !slotDone g i then updEng t e.val fun y => { y with waitFor := .slot i }
    else
      match g.slots.getD i .free with
      | .kept st => engRd (setSlot t e.val i .free) e.val (opA x) (BitVec.ofNat 64 st)
      | _ => engRd t e.val (opA x) 0

/-! ## Doorbells and contexts -/

/-- An ordering lane of its own for a doorbell that waits on a flow's writes. -/
def doorbellLane (e : Nat) : Nat := 2 ^ 20 + e

/-- DBELL (R256): at once, or once the engine's earlier writes of the flow are committed. -/
def execEngDbell (e : SE) (x : BitVec 26) (s : State) : Out :=
  engDo s e fun t =>
    let v := (engReg t e.val (opB x)).toNat
    let q := engReg t e.val (opC x)
    let f := fld q 0 14
    if opA x ≠ 0 ∨ opFn x ≠ 0 ∨ 16383 < v then engIllegal t e.val 0x39 x
    else
      let t1 := engNext t e.val
      let mine (u : Txn) : Bool := u.flow == f && engWrote u e.val
      if bit q 14 && t1.fab.txns.any mine then
        let d := mkTxn f (doorbellLane e.val) .np 1 (.eng e.val) (.eng e.val) (halfOfEng e.val) (halfOfEng e.val)
          (.doorbell v) 0 0 []
        addTxn t1 { d with size := 0, left := 0 }
      else doorbellAt t1 (halfOfEng e.val) v true

/-- CTXR (R258): any word of a flow homed in the engine's half. -/
def execEngCtxr (e : SE) (x : BitVec 26) (s : State) : Out :=
  engDo s e fun t =>
    let f := fld (engReg t e.val (opB x)) 0 14
    let k := fld (engReg t e.val (opC x)) 0 6
    let h := halfOfEng e.val
    if opFn x ≠ 0 then engIllegal t e.val 0x3A x
    else if flowHome t f ≠ h then engFault t e.val fCtx (BitVec.ofNat 64 (f + k * 2 ^ 16))
    else engRd t e.val (opA x) ((flowWord t h f k).setWidth 64)

/-- CTXW (R258): a service word, 48 to 63. -/
def execEngCtxw (e : SE) (x : BitVec 26) (s : State) : Out :=
  engDo s e fun t =>
    let f := fld (engReg t e.val (opB x)) 0 14
    let k := fld (engReg t e.val (opC x)) 0 6
    if opFn x ≠ 0 then engIllegal t e.val 0x3B x
    else if flowHome t f ≠ halfOfEng e.val || k < 48 then engFault t e.val fCtx (BitVec.ofNat 64 (f + k * 2 ^ 16))
    else engNext (updFlow t f fun y => { y with words := Tab.set 0 y.words k ((engReg t e.val (opA x)).setWidth 32) }) e.val

/-! ## Service events -/

/-- The flow's next service event among its transactions: the first that has reached the cluster port. -/
def nextEvent (s : State) (f : Nat) : Option Txn :=
  s.fab.txns.find? fun t =>
    t.flow == f && t.kind != .cpl && decide (t.size ≤ t.arrived) && t.fenceOk && !egressBlocked s t &&
    (match t.sink, t.mark with | .eng _, .cluster _ => false | .eng _, _ => true | _, _ => false) &&
    (match t.op with | .write | .read | .atomic _ => true | _ => false)

/-- Bytes of the next record of a write: up to the next 512-byte boundary of the remote address (R251). -/
def pieceLen (t : Txn) : Nat :=
  if t.data.length ≤ 512 then t.data.length
  else min (t.data.length - t.sent) (512 - (t.addr + t.sent) % 512)

/-- TIME of a record: the ingress time while the flow has TS_EN (Table 09.5). -/
def recTime (s : State) (h : Half) (t : Txn) : Nat := if flowTs s h t.flow then t.inTime else 0

/-- The record of a transaction's next piece: its bytes, and what the inbox keeps of it. -/
def recOf (s : State) (h : Half) (t : Txn) (off : Nat) : List Byte × InRec :=
  let src := endCode t.src
  let base : InRec := ⟨0xC000 + off, 32, t.flow, 1, 0, t.req, t.part, 0, false, false, false⟩
  match t.op with
  | .read =>
    (recHeader t.flow t.cls 2 t.poison t.len 0 t.addr src (recTime s h t), { base with kind := 2, want := t.len })
  | .atomic op =>
    (recHeader t.flow t.cls 3 t.poison t.data.length (atomicCode op) t.addr src (recTime s h t) ++ t.data,
     { base with kind := 3, want := operandSize op t.data.length, size := recSize t.data.length })
  | _ =>
    let k := pieceLen t
    (recHeader t.flow t.cls 1 t.poison k 0 (t.addr + t.sent) src (recTime s h t) ++ (t.data.drop t.sent).take k,
     { base with size := recSize k })

/-- Bytes the next record takes. -/
def recNeed (t : Txn) : Nat :=
  match t.op with | .read => 32 | .atomic _ => recSize t.data.length | _ => recSize (pieceLen t)

/-- Count a deferral (1) or an inbox stall (2) of the flow's waiting event once. -/
def seenOnce (s : State) (f bitv idx sub : Nat) : State :=
  if (flowSt s f).evSeen.testBit (bitv - 1) then s
  else bump (updFlow s f fun x => { x with evSeen := x.evSeen + bitv }) idx sub

/-- The counts of a delivered event: its flow's ceiling starts, its service counts it (R265, R266). -/
def eventSent (s : State) (f e : Nat) : State :=
  let s1 := updFlow s f fun x => { x with nextEv := s.eng.cyc + 125, evSeen := 0 }
  match svcOfEng s1 e with
  | some v => updSvc s1 v fun x => { x with events := x.events + 1, winEv := x.winEv + 1 }
  | none => s1

/-- Deliver a transaction's next record into the inbox of engine e. -/
def deliverTxn (s : State) (e off : Nat) (t : Txn) : State :=
  let r := recOf s (halfOfEng e) t off
  let s1 := eventSent (recPut s e off r.1 r.2) t.flow e
  match t.op with
  | .write =>
    let k := pieceLen t
    if t.data.length ≤ t.sent + k then commitP s1 t else updTxn s1 t.id fun u => { u with sent := u.sent + k }
  | _ => delivered (dropTxn s1 t.id) t

/-- Deliver a DQ_READY event of queue q (R251). -/
def deliverDq (s : State) (e off q f : Nat) : State :=
  let h := halfOfEng e
  let bs := recHeader f (flowCls s h f) 4 false 0 0 q (endCode (.dq q)) 0
  let r : InRec := ⟨0xC000 + off, 32, f, 4, 0, 0, 0, q, false, false, false⟩
  updDq (eventSent (recPut s e off bs r) f e) q fun d => { d with ready := false }

/-- The queue whose DQ_READY waits under this record flow. -/
def readyDq (s : State) (h : Half) (f : Nat) : Option Nat :=
  match flowSrc s h f with
  | .dq q => if dqCflow s q == f && (dq s q).ready then some q else none
  | _ => none

/-- SERVICE_EVENT_DELIVER (R251, R264, R265): to the engine the flow is assigned to, once the ceiling allows,
the engine is in rotation or the flow is new to it, and its inbox has room. -/
def execServiceEventDeliver (f : FlowNo) (s : State) : Out :=
  let h := flowSvcHalf s f.val
  .next (
    if !carries s h then s
    else
      let s1 := flowIdle s f.val
      let ev := nextEvent s1 f.val
      let q := readyDq s1 h f.val
      match (flowSt s1 f.val).assigned, flowSvc s1 h f.val with
      | some e, some v =>
        if ev.isNone && q.isNone then s1
        else if !engInRot s1 v e then s1
        else if s1.eng.cyc < (flowSt s1 f.val).nextEv then seenOnce s1 f.val 1 0x6204 (hsub h)
        else
          let need := match ev with | some t => recNeed t | none => 32
          match inboxPlace (eng s1 e) need with
          | none => seenOnce s1 f.val 2 0x6209 (hsub h)
          | some off =>
            match ev, q with
            | some t, _ => deliverTxn s1 e off t
            | none, some k => deliverDq s1 e off k f.val
            | none, none => s1
      | _, _ => s1)

/-- FLOW_IDLE_POINT (R264). -/
def execFlowIdlePoint (f : FlowNo) (s : State) : Out := .next (flowIdle s f.val)

/-! ## Hot engines (R266) -/

/-- An engine's share of the last window, % of fair share. -/
def hotShare (mine n total : Nat) : Nat :=
  if total = 0 then Config.unstated 0x6208 mine % 2 ^ 16 else mine * n * 100 / total

/-- One engine at the end of a window of its service. -/
def hotEngine (s : State) (h : Half) (n total : Nat) (e : Nat) : State :=
  let g := eng s e
  let sh := hotShare g.winEv n total
  let s1 := updEng s e fun x => { x with share := sh, winEv := 0 }
  if total < 10000 ∨ n ≤ 1 then s1
  else if cfg s h 0x6042 1 * total < g.winEv * n * 100 then
    let k := g.hotWin + 1
    let s2 := updEng s1 e fun x => { x with hotWin := k }
    if cfg s h 0x6042 2 ≤ k && !g.hot then
      bump (raiseEv (updEng s2 e fun x => { x with hot := true }) h 2 e (min sh 255) 0) 0x6202 (e + 1)
    else s2
  else updEng s1 e fun x => { x with hotWin := 0, hot := false }

/-- ENGINE_HOT_WINDOW (R266): every service of the half, each engine in rotation. -/
def execEngineHotWindow (h : Half) (s : State) : Out :=
  .next (if !carries s h then s
    else forAll s ((svcsOf h).filter (svcEn s)) fun u v =>
      let es := svcEngines u v
      let total := (svc u v).winEv
      updSvc (forAll u es fun t e => hotEngine t h es.length total e) v fun x => { x with winEv := 0 })

/-! ## Registers -/

/-- SE_EVENTS and SE_FAULTS return to 0. -/
def seClear (s : State) (e : Nat) : State := updEng s e fun g => { g with events := 0, faults := 0 }

/-- SE_CNT_CLR (R272). -/
def execSeCntClr (p : Path) (e : SE) (s : State) : Out :=
  .next (regAct s p (0x01000000 + 0x100 * e.val) (halfOfEng e.val) fun t => seClear t e.val)

def memSelSet (s : State) (p : Path) (v : Nat) : State :=
  if pathOwnB s p then { s with eng := { s.eng with memSelB := v } } else { s with eng := { s.eng with memSel := v } }

/-- SE_MEM_SEL (R272). -/
def execSeMemSel (p : Path) (v : BitVec 8) (s : State) : Out :=
  .next (regAct s p 0x01100000 (pathHalf s p) fun t => memSelSet t p v.toNat)

/-- The engine a path's memory window shows. -/
def memSelOf (s : State) (p : Path) : Nat := if pathOwnB s p then s.eng.memSelB else s.eng.memSel

/-- A write of one word through the memory window of the selected engine (R272). -/
def windowPut (s : State) (e off : Nat) (w : W32) : State :=
  let a := off / 4 * 4
  if 192 ≤ e then s
  else if isSteward e || engReserved e a 4 || !((eng s e).st == .halted || drained s (e / 8)) then
    bump s 0x6201 (hsub (halfOfEng e))
  else if (engRegion a 4).isNone then s
  else engPut s e a (bytesLE 4 w.toNat)

/-- ENGINE_MEMORY_WINDOW_WRITE (R272). -/
def execEngineMemoryWindowWrite (p : Path) (off : BitVec 21) (w : W32) (s : State) : Out :=
  let e := memSelOf s p
  .next (regAct s p (0x01400000 + off.toNat) (halfOfEng e) fun t => windowPut t e off.toNat w)

end Sys2Proof.Machine
end

