-- ==== Sys2Proof/Machine/Image.lean ====
section
/-! DEFINITION. Flash, boot records and the Holtel image (R415 to R420, R432): where a slot's bytes lie, the
header and its sections, when an image verifies, the service programs that count as present. -/

namespace Sys2Proof.Machine

/-- The flash device a half reads (R415). -/
def flash (s : State) : Half → FlashSt
  | .a => s.nv.a
  | .b => s.nv.b
def updFlash (s : State) (h : Half) (f : FlashSt → FlashSt) : State :=
  match h with
  | .a => updNv s fun n => { n with a := f n.a }
  | .b => updNv s fun n => { n with b := f n.b }

/-- The devices a write through half `h` reaches: its own in SPLIT, else both (R415). -/
def flashTargets (s : State) (h : Half) : List Half := if isSplit s then [h] else [.a, .b]

/-- Base of a slot (Table 15.1): 0 A, 1 B. -/
def slotBase (sl : Nat) : Nat := if sl = 0 then 0 else 0x02000000

/-- Bytes of a slot; erased flash reads 0xFF (log entry 8). -/
def slotBytes (f : FlashSt) (sl off n : Nat) : List Byte := readBytes 0xFF f.bytes (slotBase sl + off) n
def slotWord (f : FlashSt) (sl off n : Nat) : Nat := ofBytesLE (slotBytes f sl off n)

/-- The boot record in force: the valid copy with the higher sequence number (R417). -/
def bootRec (f : FlashSt) : BootRec :=
  if f.rec0.ok && (!f.rec1.ok || f.rec1.seq < f.rec0.seq) then f.rec0
  else if f.rec1.ok then f.rec1
  else BootRec.reset

/-- Update the boot record: the copy that is not in force is written with the next sequence number (R417). -/
def putBootRec (f : FlashSt) (g : BootRec → BootRec) : FlashSt :=
  let r := bootRec f
  let n := { g r with seq := r.seq + 1, ok := true }
  if f.rec0.ok && (!f.rec1.ok || f.rec1.seq < f.rec0.seq) then { f with rec1 := n } else { f with rec0 := n }

/-- State and attempts of a slot in a record. -/
def BootRec.state (r : BootRec) (sl : Nat) : SlotState := if sl = 0 then r.stA else r.stB
def BootRec.attempts (r : BootRec) (sl : Nat) : Nat := if sl = 0 then r.attA else r.attB
def BootRec.put (r : BootRec) (sl : Nat) (st : SlotState) (att : Nat) : BootRec :=
  if sl = 0 then { r with stA := st, attA := att } else { r with stB := st, attB := att }

/-- Set a slot's state on every device a write through the half reaches. -/
def setSlotState (s : State) (h : Half) (sl : Nat) (st : SlotState) (att : Nat := 0) : State :=
  forAll s (flashTargets s h) fun u k => updFlash u k fun f => putBootRec f fun r => r.put sl st att

/-- State of a slot as a half reads it. -/
def slotState (s : State) (h : Half) (sl : Nat) : SlotState := (bootRec (flash s h)).state sl

/-- The code of OD 0x1022:01 and :02. -/
def slotCode : SlotState → Nat
  | .empty => 0
  | .written => 1
  | .valid => 2
  | .trial => 3
  | .confirmed => 4
  | .bad => 5

/-! ## The header (Table 15.2) -/

/-- ASCII "HOLT". -/
def magic : List Byte := [0x48, 0x4F, 0x4C, 0x54]

/-- One section entry. -/
structure Section where
  typ  : Nat
  off  : Nat
  len  : Nat
  hash : List Byte
deriving DecidableEq, Repr

def imgSections (f : FlashSt) (sl : Nat) : List Section :=
  (List.range (min 64 (slotWord f sl 6 2))).map fun i =>
    let b := 0x100 + 64 * i
    ⟨slotWord f sl b 1, slotWord f sl (b + 4) 4, slotWord f sl (b + 8) 4, slotBytes f sl (b + 16) 48⟩

def imgVersion (f : FlashSt) (sl : Nat) : Nat := slotWord f sl 0x0C 4
def imgSvn (f : FlashSt) (sl : Nat) : Nat := slotWord f sl 0x10 2
def imgKey (f : FlashSt) (sl : Nat) : Nat := slotWord f sl 0x12 1

/-- Section lengths and counts within the limits of Table 15.3. -/
def sectionsOk (f : FlashSt) (sl : Nat) : Bool :=
  let xs := imgSections f sl
  let n (t : Nat) := (xs.filter fun x => x.typ == t).length
  n 1 == 1 && n 3 ≤ 1 && n 4 ≤ 1 &&
  xs.all fun x => match x.typ with
    | 1 => decide (x.len ≤ 0x400000)
    | 2 => decide (slotWord f sl (x.off + 4) 4 ≤ 0xC000) && decide (slotWord f sl (x.off + 8) 4 ≤ 0xC0000)
    | 3 => decide (x.len ≤ 0x10000)
    | 4 => decide (x.len ≤ 0x100000)
    | _ => true

/-- The header verifies (R420): its fields, lengths, key, signature and security version. -/
def headerOk (s : State) (f : FlashSt) (sl : Nat) : Bool :=
  let z := s.nv.fuses
  let k := imgKey f sl
  slotBytes f sl 0 4 == magic && slotWord f sl 4 2 == 1 && slotWord f sl 0x13 1 == 0x20 &&
  1 ≤ slotWord f sl 6 2 && slotWord f sl 6 2 ≤ 64 && slotWord f sl 8 4 ≤ 32505856 && sectionsOk f sl &&
  k < 4 && !(z.revoked.getD k true) && (z.keys.getD k []).length == 48 &&
  z.keys.getD k [] == Config.sha384 (slotBytes f sl 0x20 97) &&
  Config.ecdsaP384 (slotBytes f sl 0x20 97) (slotBytes f sl 0 0x1F00) (slotBytes f sl 0x1F00 96) &&
  decide (z.counter ≤ imgSvn f sl)

/-- A section's hash matches. -/
def sectionOk (f : FlashSt) (sl : Nat) (x : Section) : Bool := Config.sha384 (slotBytes f sl x.off x.len) == x.hash

/-- The sections of a type verify. -/
def typeOk (f : FlashSt) (sl t : Nat) : Bool :=
  (imgSections f sl).all fun x => x.typ != t || sectionOk f sl x

/-- The image verifies (R420). -/
def imageOk (s : State) (f : FlashSt) (sl : Nat) : Bool :=
  headerOk s f sl && (imgSections f sl).all (sectionOk f sl)

/-- The first section of a type. -/
def sectionOf (f : FlashSt) (sl t : Nat) : Option Section := (imgSections f sl).find? fun x => x.typ == t

/-! ## The configuration record (Table 15.3) -/

/-- An entry: index, subindex, value bytes. -/
abbrev RecEntry := Nat × Nat × List Byte

/-- Entries of index (2), subindex (1), 0 (1), length (2), 0 (2), value padded to 4 bytes. -/
def parseRecord : Nat → List Byte → List RecEntry
  | 0, _ => []
  | n + 1, bs =>
    if bs.length < 8 then []
    else
      let len := ofBytesLE ((bs.drop 4).take 2)
      (ofBytesLE (bs.take 2), ofBytesLE ((bs.drop 2).take 1), (bs.drop 8).take len) ::
        parseRecord n (bs.drop (8 + 4 * ceilDiv len 4))

/-- The entries of a slot's configuration record; none where it has no such section. -/
def imgRecord (f : FlashSt) (sl : Nat) : Option (List RecEntry) :=
  (sectionOf f sl 3).map fun x =>
    let bs := slotBytes f sl x.off x.len
    parseRecord bs.length bs

/-! ## Service programs (R269, R432) -/

/-- A service section and where it lies. -/
structure Program where
  slot  : Nat
  sec   : Section
  ver   : Nat
  llen  : Nat
  clen  : Nat
  entry : Nat
deriving DecidableEq, Repr

/-- Slots whose service sections count as present (R432). -/
def presentSlot (st : SlotState) : Bool := st == .valid || st == .trial || st == .confirmed

/-- Service sections of a program that a half's flash holds in a slot that counts. -/
def programs (s : State) (h : Half) (prog : Nat) : List Program :=
  let f := flash s h
  [0, 1].flatMap fun sl =>
    if presentSlot (slotState s h sl) then
      ((imgSections f sl).filter fun x => x.typ == 2 && slotWord f sl x.off 2 == prog).map fun x =>
        ⟨sl, x, slotWord f sl (x.off + 2) 2, slotWord f sl (x.off + 4) 4, slotWord f sl (x.off + 8) 4,
          slotWord f sl (x.off + 12) 4⟩
    else []

/-- The program at a target version; 0 selects the highest present (R269). -/
def findProgram (s : State) (h : Half) (prog ver : Nat) : Option Program :=
  let ps := programs s h prog
  if ver = 0 then ps.foldl (fun a p => match a with
    | some q => if q.ver < p.ver then some p else some q
    | none => some p) none
  else ps.find? fun p => p.ver == ver

end Sys2Proof.Machine
end

