-- ==== Sys2Proof/Machine/Load.lean ====
section
/-! DEFINITION. Loading service programs (R269), drained clusters (R270), restarts (R261), and what an accepted
apply of AG16 changes. -/

namespace Sys2Proof.Machine

def svcProg (s : State) (v : Nat) : Nat := cfg s (halfOfSvc v) (0x6000 + v) 2 % 2 ^ 16
def svcTargetVer (s : State) (v : Nat) : Nat := cfg s (halfOfSvc v) (0x6000 + v) 2 / 2 ^ 16 % 2 ^ 16

/-- The program a service loads now. -/
def svcProgram (s : State) (v : Nat) : Option Program :=
  findProgram s (halfOfSvc v) (svcProg s v) (svcTargetVer s v)

/-- A loading engine leaves everything behind: its events, its moves' completions, its inbox. -/
def engQuit (s : State) (e : Nat) : State :=
  let s1 := engForget (dropRecords (engDropEvents s e) e) e
  let s2 := updFab s1 fun x => { x with reqs := x.reqs.map fun r =>
    match r.who with | .eng k _ => if k == e then { r with dead := true } else r | _ => r }
  updEng s2 e fun g => { g with slots := List.replicate 16 .free, waitFor := .none }

/-- The cluster starts loading: its engines are absent from every mask (R270, R291). -/
def clusterLoad (s : State) (c : Nat) : State :=
  let s1 := updClus s c fun x => { x with loading := true }
  forAll s1 (clusterEngs c) fun u e => updEng (engQuit u e) e fun g => { g with loading := true }

/-- Start an engine at a program's entry address, its local memory holding the local part and zeros (R269). -/
def engStart (s : State) (v : Nat) (p : Program) (e : Nat) : State :=
  let f := flash s (halfOfSvc v)
  let regs := (((List.replicate 32 (0 : W64)).set 1 (BitVec.ofNat 64 (e % 8))).set 2 (BitVec.ofNat 64 v)).set 3
    (BitVec.ofNat 64 p.ver)
  updEng s e fun g => { EngSt.reset with
    regs := regs, pc := BitVec.ofNat 64 p.entry, st := .running, version := p.ver, loadClk := s.eng.cyc,
    mem := writeBytes 0 [] 0 (slotBytes f p.slot (p.sec.off + 16) p.llen),
    events := g.events, faults := g.faults, winEv := g.winEv, hotWin := g.hotWin, hot := g.hot, share := g.share }

/-- Cluster memory after a load: the cluster part, zeros, and the steward's range as it was. -/
def clusterMem (s : State) (v c : Nat) (p : Program) : Tab Byte :=
  let f := flash s (halfOfSvc v)
  let kept := Tab.keep (fun k _ => c % 12 == 0 && 0xC0000 ≤ k && k < 0xFFF00) (clus s c).mem
  writeBytes 0 kept 0 (slotBytes f p.slot (p.sec.off + 16 + p.llen) p.clen)

/-- SVC_HASH_FAIL (R432). -/
def svcHashFail (s : State) (h : Half) : State := updHalf s h fun x => { x with bootStat := x.bootStat ||| 0x80 }

/-- The load ends (R269, R432): a section whose hash fails is not loaded and its cluster stays out; else every
engine starts, and the rotation is dealt again. -/
def clusterLoaded (s : State) (c : Nat) : State :=
  let s1 := updClus s c fun x => { x with loading := false }
  let quit := forAll s1 (clusterEngs c) fun u e =>
    updEng u e fun g => { g with loading := false, st := .notLoaded }
  match svcOfCluster s1 c with
  | none => quit
  | some v =>
    match svcProgram s1 v with
    | none => updClus quit c fun x => { x with loaded := false }
    | some p =>
      if !sectionOk (flash s1 (halfOfSvc v)) p.slot p.sec then
        svcHashFail (updClus quit c fun x => { x with loaded := false }) (halfOfSvc v)
      else
        let mem := clusterMem s1 v c p
        let s2 := updClus s1 c fun x => { x with mem := mem, svc := v + 1, version := p.ver, loaded := true }
        svDeal (forAll s2 (clusterEngs c) fun u e => engStart u v p e) v

/-- The steward of a half works: its firmware runs. -/
def stewardUp (s : State) (h : Half) : Bool := inService s h && !(half s h).stewardHalted

/-- CLUSTER_DRAINED (R270): a drained cluster that runs another version than the target is reloaded. -/
def execClusterDrained (c : EC) (s : State) : Out :=
  .next (
    if drained s c.val && stewardUp s (if c.val < 12 then .a else .b) && s.pwr.sleep == 0 then
      match svcOfCluster s c.val with
      | some v =>
        match svcProgram s v with
        | some p => if p.ver ≠ (clus s c.val).version then clusterLoad s c.val else s
        | none => s
      | none => s
    else s)

/-- CLUSTER_LOAD_COMPLETE (R269). -/
def execClusterLoadComplete (c : EC) (s : State) : Out :=
  .next (if (clus s c.val).loading && stewardUp s (if c.val < 12 then .a else .b) && s.pwr.sleep == 0
    then clusterLoaded s c.val else s)

/-- Restart a halted engine (R261): reloaded with its service's target version, back in rotation. -/
def engRestart (s : State) (e : Nat) : State :=
  if (eng s e).st != .halted || isSteward e || !stewardUp s (halfOfEng e) then s
  else
    match svcOfEng s e with
    | none => s
    | some v =>
      match svcProgram s v with
      | none => s
      | some p =>
        if sectionOk (flash s (halfOfSvc v)) p.slot p.sec then svDeal (engStart (engQuit s e) v p e) v
        else svcHashFail s (halfOfSvc v)

/-- ENGINE_RESTART (R261): OD 0x6100. -/
def execEngineRestart (p : Path) (e : SE) (s : State) : Out :=
  .next (objAct s p 0x6100 (e.val + 1) (halfOfEng e.val) fun t => engRestart t e.val)

/-- An accepted apply of AG16 (R263, R264, R267, R269): clusters of services that it enables, or that it adds,
load; every rotation is dealt again; idle flows move to what the current key names. `was` says which
services were enabled before. -/
def svcCut (s : State) (h : Half) (was : List Nat) : State :=
  let need (t : State) (v c : Nat) : Bool :=
    !was.contains v || !(clus t c).loaded || (clus t c).svc != v + 1
  let s1 := forAll s ((svcsOf h).filter (svcEn s)) fun u v =>
    forAll u (svcClusterList u v) fun t c => if need t v c && !(clus t c).loading then clusterLoad t c else t
  let s2 := forAll s1 (svcsOf h) svDeal
  forAll s2 (assignedFlows s2 h) flowIdle

/-- Enabled services of a half. -/
def enabledSvcs (s : State) (h : Half) : List Nat := (svcsOf h).filter (svcEn s)

end Sys2Proof.Machine
end

