-- ==== Sys2Proof/Machine/WinCmd.lean ====
section
/-! DEFINITION. Commands of windows and the side-effect slot (R171 to R174), request timeouts and quarantine
(R208, R209), mirroring (R198 to R203), DMA queues and the flow window (R235, R236, R242). -/

namespace Sys2Proof.Machine

/-! ## Prefetch units and the slot -/

/-- PREFETCH_LIFETIME_EXPIRY (R171): the held unit at aperture offset `unit` is discarded. -/
def execPrefetchLifetimeExpiry (m : HL) (f : Fn) (w : Fin 8) (unit : Nat) (s : State) : Out :=
  .next (match s.brdg.units.find? fun u => u.fn == 64 * m.val + f.val && u.w == w.val && u.off == unit with
    | some u => match u.st with | .got .. => pfDiscard s u | _ => s
    | none => s)

/-- SLOT_HOLD_EXPIRY (R174): the data is lost, logged with the tag and counted. -/
def execSlotHoldExpiry (m : HL) (f : Fn) (s : State) : Out :=
  let n := 64 * m.val + f.val
  .next (if (fn s n).slotVal then
      bump (logC (updFn s n fun x => { x with slotVal := false, slotData := [] }) (halfOfHl m.val) 0x05 n
        (addr := (fn s n).slotTag)) 0x4807 2
    else s)

/-- The slot of function n is freed without a record (R174). -/
def slotFree (s : State) (n : Nat) : State :=
  if (fn s n).slotVal then bump (updFn s n fun x => { x with slotVal := false, slotData := [] }) 0x4807 3 else s

/-- WIN_SLOT_FREE (R174). -/
def execWinSlotFree (p : Path) (m : HL) (f : Fn) (s : State) : Out :=
  let n := 64 * m.val + f.val
  .next (regAct s p (0x00880010 + 0x80 * n) (halfOfHl m.val) fun t => slotFree t n)

/-! ## Timeouts -/

/-- The open request of a move slot whose flow's sink is an engine, all of it delivered there (R254). -/
def engineMove (s : State) (e : SE) (k : Nat) : Option Req :=
  s.fab.reqs.find? fun r => r.who == .eng e.val k &&
    (match flowSink s (halfOfEng e.val) r.flow with | .eng _ => true | _ => false) &&
    !(s.fab.txns.any fun t => t.req == r.id)

/-- The 5,000 us of a move toward an engine have passed (R254): the move ends with TIMEOUT. It holds no tag. -/
def moveTimeout (s : State) (e : SE) (k : Nat) : State :=
  match engineMove s e k with
  | none => s
  | some r => failReq s r.id 3 (halfOfEng e.val)

/-- COMPLETION_TIMEOUT (R208, R254): the requester learns of it, the reservation goes, the tag is quarantined; a
request sent to a host sets Completion Timeout in its function. Of a request that the die link ended nothing is
reported (R334). A move toward an engine is named by its engine and slot. -/
def execCompletionTimeout (side : TagSide) (tag : BitVec 14) (s : State) : Out :=
  let k := tag.toNat
  .next (match side with
  | .move e => moveTimeout s e k
  | _ => match s.fab.tags.find? fun u => u.side == side && u.tag == k && !u.ping with
    | none => s
    | some u =>
      let h := sideHalf side
      let s1 := quarantine s side k (tagUs s u)
      let s2 := match side with
        | .host _ => bump (aerCTO s1 u.fn) 0x5E11 (hsub h)
        | .link _ => bump s1 0x5E12 (hsub h)
        | .move _ => s1
      if u.req = 0 then s1 else failPart s2 u.req u.part 3 h)

/-- QUARANTINE_END (R209): the tag is free. -/
def execQuarantineEnd (side : TagSide) (tag : BitVec 14) (s : State) : Out :=
  .next (updFab s fun x => { x with quars := x.quars.filter fun q => !(q.side == side && q.tag == tag.toNat) })

/-! ## Mirroring -/

/-- The group makes passes: enabled, with words, not dormant, its half in service (R194, R196). -/
def mgLive (s : State) (g : Nat) : Bool := carries s (halfOfMg g) && mgEn s g && mgCount s g != 0 && mgDormant s g == 0

/-- A boundary (R198, R200, R201, R203): none while paused; skipped while a pass runs. -/
def mgBoundary (s : State) (g : Nat) (pass : State → Nat → State) : State :=
  if mgPaused s g != 0 then updMg s g fun x => { x with resume := true }
  else if (mg s g).running then mgSkip s g
  else pass s g

/-- MIRROR_BOUNDARY_UP (R198). -/
def execMirrorBoundaryUp (g : MG) (s : State) : Out :=
  .next (if mgLive s g.val && !mgDown s g.val then mgBoundary s g.val mgPassUp else s)

/-- MIRROR_PASS_END (R200): the END write has been committed. -/
def execMirrorPassEnd (g : MG) (s : State) : Out :=
  .next (if (mg s g.val).running && !mgDown s g.val && !(s.fab.txns.any fun t => t.mark == .mirrorEnd g.val)
    then mgPassDone s g.val else s)

/-- MIRROR_BOUNDARY_DOWN (R201). -/
def execMirrorBoundaryDown (g : MG) (s : State) : Out :=
  .next (if mgLive s g.val && mgDown s g.val then mgBoundary s g.val mgPassDown else s)

/-- A STATE packet of the group has left and is not yet acknowledged by the link layer. -/
def stateUnacked (s : State) (g : Nat) : Bool :=
  (s.fab.txns.any fun t => t.mark == .mirrorState g) ||
  (bondMembers s (mgLink s g)).any fun l => (link s l).replay.any fun r =>
    r.pkt.typ == 5 && mgFirst s g ≤ r.pkt.addr.toNat && r.pkt.addr.toNat < mgFirst s g + mgCount s g

/-- DOWNWARD_PASS_ACKED (R201): ACK and ACK_TIME are written in one write. -/
def execDownwardPassAcked (g : MG) (s : State) : Out :=
  .next (
    let x := mg s g.val
    if x.running && x.readDone && mgDown s g.val && !stateUnacked s g.val then
      mgPassDone (mgWrite s g.val (.mirror g.val) 0 (bytesLE 8 x.seq ++ bytesLE 8 x.readTime)) g.val
    else s)

/-- FLOW_MG_RESTART (R203). -/
def execFlowMgRestart (p : Path) (g : MG) (s : State) : Out :=
  .next (regOrObj s p (0x00E10024 + 0x40 * g.val) (0x5C00 + g.val) 8 (halfOfMg g.val) fun t => mgRestart t g.val)

/-- MIRROR_BUDGET_REFILL (R200): the bucket holds enough for the next mirror write of the link. -/
def execMirrorBudgetRefill (m : HL) (s : State) : Out :=
  .next (match mirrorTurn s m.val with
    | some t => budgetPut s m.val (min (budgetSpent s m.val) (4096 - t.data.length))
    | none => s)

/-! ## DMA queues and the flow window -/

/-- The producer count is written: descriptors become available, and a service event is created (R235,
R251). -/
def dqProd (s : State) (q v : Nat) : State :=
  let moved := (dq s q).prod != v
  dqAdvance (updDq s q fun d => { d with prod := v, ready := d.ready || moved }) q

/-- FLOW_DQ_PROD (R235): through the privileged register, or from the owner's view at 0xE000 + 8 j. -/
def execFlowDqProd (p : Path) (q : DQ) (v : BitVec 16) (s : State) : Out :=
  .next (match p with
    | .reg m f =>
      if f.val ≠ 0 ∧ dqEn s q.val ∧ dqOwner s q.val = 64 * m.val + f.val then
        if pathLive s p then dqProd s q.val v.toNat else s
      else regAct s p (0x00C10018 + 0x40 * q.val) (halfOfDq q.val) fun t => dqProd t q.val v.toNat
    | _ => regAct s p (0x00C10018 + 0x40 * q.val) (halfOfDq q.val) fun t => dqProd t q.val v.toNat)

/-- A restart continues from the consumer count, and what a stop left fetched but not begun is read again; PHASE is 1
through the next pass (R234, R236, R237). -/
def dqRestart (s : State) (q : Nat) : State :=
  dqAdvance (updDq s q fun d => { d with
    halted := false, pSwitch := false, phase := true, passed := 0,
    jobs := d.jobs.filter fun j => j.phase != 0 || j.desc.isEmpty }) q

/-- FLOW_DQ_RESTART (R236). -/
def execFlowDqRestart (p : Path) (q : DQ) (s : State) : Out :=
  .next (regAct s p (0x00C10024 + 0x40 * q.val) (halfOfDq q.val) fun t => dqRestart t q.val)

/-- The flow a path's context window shows. -/
def flowSelOf (s : State) (p : Path) : Nat := if pathOwnB s p then s.brdg.selB else s.brdg.sel
def flowSelSet (s : State) (p : Path) (f : Nat) : State :=
  updBrdg s fun b => if pathOwnB s p then { b with selB := f } else { b with sel := f }

/-- FLOW_SEL (R242). -/
def execFlowSel (p : Path) (f : BitVec 14) (s : State) : Out :=
  .next (regAct s p 0x00C00000 (pathHalf s p) fun t => flowSelSet t p f.toNat)

end Sys2Proof.Machine
end

