-- ==== Sys2Proof/Machine/CfgSpace.lean ====
section
/-! DEFINITION. Configuration space of a function (R87 to R97, R426): what each word reads, which bits a
write changes, and the layout a host link enumerates (R89, R103). The places of registers inside the
standard capabilities are those of the PCI Express Base Specification, which the spec names and does not
print (log entry 11). -/

namespace Sys2Proof.Machine

/-! ## Layout (R87, R89, R103) -/

/-- MSI-X entries the functions of a host link take. -/
def msixEntries (s : State) (m : Nat) : Nat :=
  ((List.range (hlObj s m 3)).map fun f => fnObj s (64 * m + f) 3).sum

/-- First entry of a host link's functions in its half's table (R103). -/
def msixFirst (s : State) (m : Nat) : Nat :=
  (((span (8 * halfIdx (halfOfHl m)) 8).filter fun k => decide (k < m) && hlPresent s k).map (msixEntries s)).sum

/-- A half under the starter service presents PF0 only (R427). -/
def starterServed (s : State) (h : Half) : Bool :=
  (half s h).boot == .service || (half s h).boot == .serviceUp || isRecovery s

/-- The layout the function objects in force give a host link. PF0's aperture field holds the log2 size of
its expansion ROM. -/
def layoutOf (s : State) (m : Nat) : List FnLayout :=
  let n := if starterServed s (halfOfHl m) then 1 else hlObj s m 3
  let rom := cfg s (halfOfHl m) (0x200A + 0x100 * (m / 4)) 1
  ((List.range n).foldl (fun (acc : List FnLayout × Nat) f =>
    let o := fnObj s (64 * m + f)
    (acc.1 ++ [{ ftype := if f = 0 then 0 else o 0, subsys := o 1, cls := o 2 % 2 ^ 24, msix := o 3,
                 msixBase := acc.2, bar2 := if f = 0 then rom else o 4, pref := f != 0 && o 5 == 1,
                 devid := if f = 0 then 0 else o 7 }], acc.2 + o 3)) ([], msixFirst s m)).1

/-! ## Reading -/

/-- VSEC PROT of a function: 0 unpaired, 1 active, 2 standby, 3 no host (Table 04.5, R122). -/
def protState (s : State) (n : Nat) : Nat :=
  if (partnerFn s n).isNone then 0
  else if (fn s n).noHost then 3
  else if activeFn s n == n then 1 else 2

/-- Header of an extended capability: identifier, version, next. -/
def extCap (id ver next : Nat) : Nat := id + place ver 16 4 + place next 20 12

/-- Extended capabilities every function has (Table 04.4). -/
def extAll (pf0 : Bool) : Nat → Nat
  | 0x100 => extCap 1 2 0x148
  | 0x148 => extCap 0xE 1 (if pf0 then 0x150 else 0x2C8)
  | 0x2C8 => extCap 0xB 1 (if pf0 then 0x2E0 else 0x2F0)
  | 0x2F0 => extCap 0x2F 1 0
  | _ => 0

/-- Extended capabilities of PF0 only (Table 04.4). -/
def extPf0 : Nat → Nat
  | 0x150 => extCap 0x19 1 0x1A0
  | 0x1A0 => extCap 0x25 1 0x1B0
  | 0x1B0 => extCap 0x26 1 0x1E0
  | 0x1E0 => extCap 0x2A 1 0x210
  | 0x210 => extCap 0x31 1 0x240
  | 0x240 => extCap 0x27 1 0x290
  | 0x290 => extCap 0x18 1 0x298
  | 0x298 => extCap 0x1E 1 0x2A8
  | 0x2A8 => extCap 0x1F 1 0x2B8
  | 0x2B8 => extCap 3 1 0x2C8
  | 0x2E0 => extCap 0x22 1 0x2F0
  | _ => 0

/-- Read-only fields of PF0's own capabilities: L1 PM Substates, PTM requester, serial number, readiness
times (R110, R109, R91, R426). -/
def capPf0 (s : State) (m off : Nat) : Nat :=
  match off with
  | 0x29C => if cfgActive s (m / 4) = 0 then 0x1F + place 20 8 8 + place 1 16 2 + place 4 19 5 else 0
  | 0x2AC => 1
  | 0x2BC => s.nv.fuses.dsn
  | 0x2C0 => s.nv.fuses.dsn / 2 ^ 32
  | 0x2E4 => (115 + 4 * 2 ^ 9) + place (115 + 4 * 2 ^ 9) 12 12 + 2 ^ 31
  | 0x2E8 => 0
  | _ => 0

/-- The function has an interrupt cause while neither MSI nor MSI-X is enabled: Interrupt Status (R105). -/
def intStatus (s : State) (n : Nat) : Bool := intxCause s n && !msiEn s n && !msixEn s n

/-- Read-only bits of a word of the first 256 bytes (Tables 04.3, 04.4, 04.6, 04.7, 04.15). -/
def csLow (s : State) (n off : Nat) : Nat :=
  let m := n / 64
  let f := n % 64
  let y := fnLay s n
  let pref := flag (f != 0 && y.pref) 3
  match off with
  | 0x00 => 0x25601F7A
  | 0x04 => flag (intStatus s n) 19 + 2 ^ 20
  | 0x08 => place y.cls 8 24 + 0x20
  | 0x0C => if f = 0 ∧ (hl s m).layout.length ≤ 1 then 0 else 0x800000
  | 0x10 => 4
  | 0x18 => 4 + pref
  | 0x20 => if f = 0 then 0 else 4
  | 0x2C => place y.subsys 16 16 + 0x1F7A
  | 0x34 => 0x40
  | 0x3C => 0x100
  | 0x40 => 0x01 + place 0x50 8 8 + place 3 16 3 + 2 ^ 27 + 2 ^ 30
  | 0x44 => 8
  | 0x50 => 0x05 + place 0x70 8 8 + place 5 17 3 + 2 ^ 23 + 2 ^ 24
  | 0x70 => 0x10 + place 0xB0 8 8 + place 2 16 4
  | 0x74 => 2 + 2 ^ 5 + place 4 6 3 + place 5 9 3 + 2 ^ 15
  | 0x78 => flag (s.fab.tags.any fun t => (match t.side with | .host _ => true | _ => false) && t.fn == n) 21
  | 0x7C => place (hlObj s m 1) 0 4 + place (subWidth (cfgActive s (m / 4)) (m % 4)) 4 6 + place 3 10 2 +
      place 2 12 3 + place 3 15 3 + 2 ^ 22
  | 0x80 => place (hl s m).rate 16 4 + place (hl s m).width 20 6
  | 0x94 => 15 + 2 ^ 7 + 2 ^ 8 + 2 ^ 9 + flag (f == 0) 11 + 2 ^ 16 + 2 ^ 17
  | 0x9C => place (2 ^ hlObj s m 1 - 1) 1 7 + 2 ^ 31
  | 0xB0 => 0x11 + place (y.msix - 1) 16 11
  | 0xB4 => if f = 0 then 0x8002 else 0x0004
  | 0xB8 => if f = 0 then 0xC002 else 0x8004
  | _ => 0

/-- Read-only bits of a word from 0x100 on (Tables 04.4 to 04.6). -/
def csHigh (s : State) (n off : Nat) : Nat :=
  let m := n / 64
  let f := n % 64
  let y := fnLay s n
  let last := f + 1 == (hl s m).layout.length
  match off with
  | 0x118 => fld (cs s n 0x118) 0 5
  | 0x11C => ((fn s n).hdrLog.getD 0 0).toNat
  | 0x120 => ((fn s n).hdrLog.getD 1 0).toNat
  | 0x124 => ((fn s n).hdrLog.getD 2 0).toNat
  | 0x128 => ((fn s n).hdrLog.getD 3 0).toNat
  | 0x14C => if last then 0 else place (f + 1) 8 8
  | 0x2CC => 0x0001 + place 1 16 4 + place 0x14 20 12
  | 0x2D0 => y.ftype + place m 8 8 + flag (f == 0 && privPf0 s m) 16 + place (protState s n) 17 2 + place y.devid 20 4
  | 0x2D4 => mode s + flag (halfOfHl m == .b) 3
  | 0x2D8 => y.msixBase
  | 0x2F4 => 2 ^ 1 + 2 ^ 2 + 2 ^ 3
  | _ => extAll (f == 0) off + (if f = 0 then extPf0 off + capPf0 s m off else 0)

/-! ## Writing -/

/-- Address bits of a BAR of size 2^k, low and high word. -/
def barLow (k : Nat) : Nat := if k < 32 then 2 ^ 32 - 2 ^ k else 0
def barHigh (k : Nat) : Nat := if k ≤ 32 then 0xFFFFFFFF else 2 ^ 32 - 2 ^ (k - 32)

/-- Bits a write stores. -/
def csRw (s : State) (n off : Nat) : Nat :=
  let f := n % 64
  let k := (fnLay s n).bar2
  match off with
  | 0x04 => 0x546
  | 0x0C => 0xFF
  | 0x10 => if f = 0 then barLow 26 else barLow 16
  | 0x14 => 0xFFFFFFFF
  | 0x18 => if f = 0 then barLow 16 else barLow k
  | 0x1C => if f = 0 then 0xFFFFFFFF else barHigh k
  | 0x20 => if f = 0 then 0 else barLow 16
  | 0x24 => if f = 0 then 0 else 0xFFFFFFFF
  | 0x30 => if f = 0 ∧ k ≠ 0 then barLow k + 1 else 0
  | 0x3C => 0xFF
  | 0x44 => 0x103
  | 0x50 => 0x710000
  | 0x54 => 0xFFFFFFFC
  | 0x58 => 0xFFFFFFFF
  | 0x5C => 0xFFFF
  | 0x60 => 0xFFFFFFFF
  | 0x78 => 0x79FF
  | 0x80 => 0x2CB
  | 0x98 => if f = 0 then 0x174F else 0x134F
  | 0xA0 => 0x3F
  | 0xB0 => 0xC0000000
  | 0x108 => 0x5FF030
  | 0x10C => 0x5FF030
  | 0x114 => 0xF1C1
  | 0x294 => if f = 0 then 0x1FFF1FFF else 0
  | 0x2A0 => if f = 0 ∧ cfgActive s (n / 256) = 0 then 0xE3FF000F else 0
  | 0x2A4 => if f = 0 ∧ cfgActive s (n / 256) = 0 then 0xFB else 0
  | 0x2B0 => if f = 0 then 0xFF01 else 0
  | 0x2F8 => 0xC
  | _ => 0

/-- Bits that a written 1 clears. -/
def csW1c (off : Nat) : Nat :=
  match off with
  | 0x04 => 0xF9000000
  | 0x44 => 0x8000
  | 0x78 => 0xF0000
  | 0x104 => 0x5FF030
  | 0x110 => 0xF1C1
  | _ => 0

/-- Bits that only the device sets. -/
def csRo (off : Nat) : Nat := if off = 0x64 then 0xFFFFFFFF else 0

/-- A word of the function's configuration space (R93 to R95). -/
def csRead (s : State) (n off : Nat) : W32 :=
  let held := cs s n off &&& BitVec.ofNat 32 (csRw s n off ||| csW1c off ||| csRo off)
  held ||| BitVec.ofNat 32 (if off < 0x100 then csLow s n off else csHigh s n off)

/-- Mask of a write's byte enables. -/
def beMask (be : BitVec 4) : Nat := ((List.range 4).map fun i => flag (be.getLsbD i) 0 * 0xFF * 256 ^ i).sum

/-- What a write leaves in the word: an unsupported power state is not taken. -/
def csMerge (s : State) (n off : Nat) (v : W32) (be : BitVec 4) : W32 :=
  let old := cs s n off
  let rw := BitVec.ofNat 32 (csRw s n off &&& beMask be)
  let wc := BitVec.ofNat 32 (csW1c off &&& beMask be)
  let new := (old &&& ~~~rw &&& ~~~(wc &&& v)) ||| (v &&& rw)
  if off = 0x44 ∧ (fld new 0 2 = 1 ∨ fld new 0 2 = 2) then (new &&& 0xFFFFFFFC#32) ||| (old &&& 3#32) else new

/-- Set or clear one bit of a word. -/
def csBit (s : State) (n off i : Nat) (b : Bool) : State :=
  let v := (cs s n off).toNat
  setCs s n off (BitVec.ofNat 32 (v - (v &&& 2 ^ i) + flag b i))

end Sys2Proof.Machine
end

