-- ==== Sys2Proof/Machine/HostCmd.lean ====
section
/-! DEFINITION. Host links and their functions: Bus Master Enable, Memory Space Enable and D3hot (R113 to
R115), re-initialisation (R116 to R118), protection pairs (R119 to R122), configuration requests (R90) and
link power states (R109). -/

namespace Sys2Proof.Machine

/-- The half has completed start-up, by its firmware or by the starter service (R425, R427). -/
def startedUp (s : State) (h : Half) : Bool := (half s h).boot == .complete || (half s h).boot == .serviceUp

/-- The host link carries TLPs: present, DL_Active, its port powered and released. -/
def hlUp (s : State) (m : Nat) : Bool := hostTakes s m && !s.sys.perst.getD (m / 4) true

/-- Configuration writes of the host are served (R118, R425). -/
def cfgServed (s : State) (n : Nat) : Bool := hlUp s (n / 64) && startedUp s (halfOfHl (n / 64)) && fnExists s n

/-! ## Traffic of a function (R113, R114) -/

/-- L2H transactions of a function that have not left: refused with `st` and counted; the messages stay. -/
def refuseFn (s : State) (n st : Nat) : State :=
  endAll s (fun t => t.kind != .cpl && t.sink == .fn n && (match t.op with | .message _ => false | _ => true)) st
    fun u t => gateCount u t.home t.sink t.kind (.refuse st)

/-- DMA queues whose owner, or whose owner's pair, this function is. -/
def dqsOfFn (s : State) (n : Nat) : List Nat :=
  (s.brdg.dqs.map (·.1)).filter fun q => activeFn s (dqOwner s q) == n

/-- Vectors of a function whose pending bit is set and whose mask is clear. -/
def pendingVecs (s : State) (n : Nat) : List Nat :=
  (List.range (if msixEn s n then (fnLay s n).msix else msiVectors s n)).filter fun v =>
    !vecMasked s n v && (if msixEn s n then Tab.get false s.host.pba (msixKey s n v) else bit (cs s n 0x64) v)

/-- Pending bits whose mask is clear are cleared and their messages sent (R294). -/
def sweepPending (s : State) (n : Nat) : State :=
  if masterOn s n && (msixEn s n || msiEn s n) then
    forAll s (pendingVecs s n) fun u v => sendVec (setPba u n v false) n v
  else s

/-- Mastering is on again: the held messages go out in order, the paused queues continue (R114, R237). -/
def masterBack (s : State) (n : Nat) : State :=
  if !masterOn s n then s
  else
    let held := (fn s n).held
    let s1 := updFn s n fun x => { x with held := [] }
    let s2 := forAll s1 held fun u p => if p.1 = 0 then notify u n else messageOutcome u (p.1 - 1) p.2
    forAll (sweepPending s2 n) (dqsOfFn s2 n) dqAdvance

/-- Bus Master Enable, written. -/
def setBme (s : State) (n : Nat) (b : Bool) : State :=
  let was := masterOn s n
  let s1 := csBit s n 0x04 2 b
  if was && !b then refuseFn s1 n 4 else if !was && b then masterBack s1 n else s1

/-- Power state, written: D0 or D3hot (R113). -/
def setD3 (s : State) (n : Nat) (d3 : Bool) : State :=
  let was := masterOn s n
  let v := (cs s n 0x44).toNat
  let s1 := setCs s n 0x44 (BitVec.ofNat 32 (v - v % 4 + (if d3 then 3 else 0)))
  if was && d3 then refuseFn s1 n 4 else if !was then masterBack s1 n else s1

/-- MSI-X disabled: held messages are discarded, the sources keep their state (R114). -/
def msixOff (s : State) (n : Nat) : State :=
  let held := (fn s n).held
  let s1 := updFn (csBit s n 0xB0 31 false) n fun x => { x with held := [] }
  let s2 := forAll s1 (held.filter fun p => p.1 != 0) fun u p => updSrc u (p.1 - 1) fun x => { x with pos := .idle }
  intxUpdate s2 (n / 64)

/-- The LTR message of PF0: the values of OD 0x2007 (R112). -/
def sendLtr (s : State) (m : Nat) : State := tlpOut s m (.ltr (hlObj s m 7))

/-! ## Re-initialisation (R116, R117) -/

/-- Requests the device has sent on the link end with HOST_LOST, counted; their tags are quarantined. -/
def endSent (s : State) (p : TagUse → Bool) (m : Nat) : State :=
  forAll s (s.fab.tags.filter fun t => (t.side == hostSide m) && p t) fun u t =>
    let v := quarantine u t.side t.tag (tagUs u t)
    if t.req = 0 then v else failPart (bumpR v (hpReg m 0x24)) t.req t.part 8 (halfOfHl m)

/-- Completions on their way to the link are discarded at the port and counted; requests of its host can
no longer be answered (R117). -/
def dropHostCpls (s : State) (m : Nat) : State :=
  let s1 := forAll s (s.fab.txns.filter fun t => t.kind == .cpl &&
      (match t.sink with | .fn n => n / 64 == m | _ => false)) fun u t =>
    onlyIf ((req? u t.req).isNone) (fun v => bumpR v (hpReg m 0x20)) (cplUndeliverable u t)
  updFab s1 fun x => { x with reqs := x.reqs.map fun r =>
    match r.who with | .host k _ _ _ _ => if k == m then { r with dead := true } else r | _ => r }

/-- Mirror groups of the functions of the link: paused until a restart (R203). -/
def mirrorReinit (s : State) (m : Nat) : State :=
  forAll s ((span 0 512).filter fun g => mgEn s g && (match mgFn s g with
      | some n => activeFn s n / 64 == m && !(fn s (activeFn s n)).switching
      | none => false)) fun u g => updMg u g fun x => { x with reason := 2, running := false }

/-- The mailbox of a PF0 returns to its reset state; a request in progress is still served (R102). -/
def mbxReinit (s : State) (m : Nat) : State :=
  let s1 := updDict s (halfOfHl m) fun d => { d with apply := d.apply.map fun q => { q with src := match q.src with
    | .mdpMbx k live hdr a r => .mdpMbx k (live && k != m) hdr a r
    | x => x } }
  updMbx s1 m fun x =>
    { MbxSt.reset with
      down := x.down
      orphan := if x.busy && !x.taken then x.orphan ++ [readBytes 0 x.req 0 x.reqLen] else x.orphan }

/-- Members of pairs on the link that are active start to switch over (R120). -/
def startSwitch (s : State) (m : Nat) : State :=
  forAll s ((List.range (hl s m).layout.length).map (64 * m + ·)) fun u n =>
    if (partnerFn u n).isSome && activeFn u n == n && !(fn u n).noHost then
      updFn u n fun x => { x with switching := true }
    else u

/-- A host link re-initialises (R116, R117): the event bit, the counts, the traffic, and every function at
its defaults under the layout then in force. -/
def hlReinit (s : State) (m i : Nat) : State :=
  let fns := (List.range (hl s m).layout.length).map (64 * m + ·)
  let h := halfOfHl m
  let s1 := bumpR (updHl s m fun x => { x with evt := x.evt ||| BitVec.ofNat 32 (2 ^ i), dlActive := false }) (hpReg m 0x18)
  let s2 := startSwitch (endSent s1 (fun _ => true) m) m
  let s3 := forAll s2 fns fun u n =>
    let v := slotInvalidate u n 0
    let w := updFn v n fun x => { FnSt.reset with active := x.active, noHost := x.noHost, switching := x.switching }
    pathGone (if (fn w n).switching then w else refuseFn w n 4) h (0x100 + n)
  let s4 := dropHostCpls (pfInvalidate s3 (fun u => u.fn / 64 == m) 0) m
  let s5 := mbxReinit (mirrorReinit (evcReinit s4 m) m) m
  let mine := (hl s m).layout
  let lo := 8192 * halfIdx h + (mine.head?.map (·.msixBase)).getD 0
  let hi := lo + (mine.map (·.msix)).sum
  let s6 := { s5 with host := { s5.host with
    msix := Tab.keep (fun k _ => !(lo ≤ k && k < hi)) s5.host.msix
    pba := Tab.keep (fun k _ => !(lo ≤ k && k < hi)) s5.host.pba } }
  vc0Moves (updHl s6 m fun x => { x with
    flit := false, rate := 0, width := 0, reversed := false, pwr := 0, vc1 := false, turnOff := false, intx := false,
    narrow := 0, waitTlp := [], layout := if hlPresent s6 m then layoutOf s6 m else [] }) m

/-- PERST_N_ASSERT (R116, R82): every host link of the port re-initialises, and a pending division takes
force. -/
def execPerstNAssert (p : HP) (s0 : State) : Out :=
  let s := onlyIf (s0.pwr.sleep == 1) (fun t => wakeSrc t 2 p.val) s0
  .next (if s.sys.perst.getD p.val true || !portsOn s (halfOfHl (4 * p.val)) then
      updSys s fun y => { y with perst := y.perst.set p.val true }
    else
      let s1 := updSys s fun y => { y with perst := y.perst.set p.val true }
      let was := (span (4 * p.val) 4).filter (hlPresent s)
      let cfgNew := if starterServed s (halfOfHl (4 * p.val)) then 0
        else cfg s (halfOfHl (4 * p.val)) (0x2000 + 0x100 * p.val) 1
      let s2 := updSys s1 fun y => { y with cfgActive := y.cfgActive.set p.val cfgNew }
      forAll s2 ((span (4 * p.val) 4).filter fun m => was.contains m || hlPresent s2 m) fun u m => hlReinit u m 1)

/-- PERST_N_DEASSERT (R118, R393, R394): the port begins receiver detection; its links can reach DL_Active. It
wakes the device, and ends the device's own drive of WAKE_N. -/
def execPerstNDeassert (p : HP) (s : State) : Out :=
  .next (if !s.sys.perst.getD p.val true then s
    else
      let s1 := updSys s fun y => { y with perst := y.perst.set p.val false }
      updPwr (wakeSrc s1 2 p.val) fun x => { x with wakeLow := false })

/-- HOT_RESET (R116). -/
def execHotReset (m : HL) (s : State) : Out := .next (onlyIf (hlUp s m.val) (fun t => hlReinit t m.val 2) s)

/-- DL_ACTIVE_EXIT (R116). -/
def execDlActiveExit (m : HL) (s : State) : Out := .next (onlyIf (hlUp s m.val) (fun t => hlReinit t m.val 0) s)

/-- DL_ACTIVE_ENTER (R84, R96, R118): what the link negotiated, within its width and its maximum rate (R85),
and Device Readiness Status the first time after start-up. -/
def execDlActiveEnter (m : HL) (flit : Bool) (rate : BitVec 3) (width : BitVec 5) (reversed vc1 : Bool) (s : State) : Out :=
  let k := m.val
  let r := rate.toNat
  let w := width.toNat
  let can := hlPresent s k && !(hl s k).dlActive && portsOn s (halfOfHl k) && !s.sys.perst.getD (k / 4) true &&
    s.sys.hrefOk.getD (k / 4) true &&
    decide (1 ≤ r) && decide (r ≤ hlObj s k 1) && [1, 2, 4, 8, 16].contains w &&
    decide (w ≤ subWidth (cfgActive s (k / 4)) (k % 4)) && (flit || decide (r ≤ 5)) && (!flit || hlObj s k 2 == 1 || r == 6)
  .next (onlyIf can (fun t =>
    let t0 := updPwr t fun x => { x with wakeLow := false }
    let t1 := updHl t0 k fun x => { x with dlActive := true, flit := flit, rate := r, width := w, reversed := reversed,
                                           vc1 := vc1, pwr := 0, narrow := 0, turnOff := false }
    if startedUp t1 (halfOfHl k) && !(hl t1 k).drsSent then
      tlpOut (updHl t1 k fun x => { x with drsSent := true }) k .drs
    else t1) s)

/-- HOST_LINK_RATE_CHANGE (R84): rate or width after a retraining. -/
def execHostLinkRateChange (m : HL) (rate : BitVec 3) (width : BitVec 5) (s : State) : Out :=
  let k := m.val
  let r := rate.toNat
  let w := width.toNat
  .next (onlyIf (hlUp s k && decide (1 ≤ r) && decide (r ≤ hlObj s k 1) && [1, 2, 4, 8, 16].contains w &&
      decide (w ≤ subWidth (cfgActive s (k / 4)) (k % 4)) && ((hl s k).flit || decide (r ≤ 5))) (fun t =>
    updHl t k fun x => { x with
      evt := x.evt ||| BitVec.ofNat 32 (flag (x.rate != r) 3 + flag (x.width != w) 4), rate := r, width := w }) s)

/-! ## Link power states (R109 to R111) -/

/-- An admitted C0 flow has the link as an end: no low-power entry by the device (R111). -/
def c0OnLink (s : State) (m : Nat) : Bool :=
  s.fab.c0.any fun r =>
    (match flowSrc s (flowHome s r.flow) r.flow with | .fn n => n / 64 == m | _ => false) ||
    (match flowSink s (flowHome s r.flow) r.flow with | .fn n => activeFn s n / 64 == m | _ => false)

/-- A request or completion of the link is outstanding or queued in either direction. -/
def hlBusy (s : State) (m : Nat) : Bool :=
  (s.fab.txns.any fun t => (match t.sink with | .fn n => n / 64 == m | _ => false) ||
    (match t.src with | .fn n => n / 64 == m | _ => false)) ||
  (s.fab.tags.any fun t => t.side == hostSide m) ||
  (s.fab.reqs.any fun r => match r.who with | .host k _ _ _ _ => k == m | _ => false)

/-- Transactions wait to leave on the link. -/
def hlSending (s : State) (m : Nat) : Bool :=
  s.fab.txns.any fun t => match t.sink with | .fn n => n / 64 == m | _ => false

/-- ASPM control of the link, from PF0's Link Control. -/
def aspm (s : State) (m : Nat) : Nat := fld (cs s (64 * m) 0x80) 0 2

/-- L0S_IDLE_TIMER (R109): non-flit, enabled, nothing to send. -/
def execL0sIdleTimer (m : HL) (s : State) : Out :=
  let k := m.val
  .next (onlyIf (hlUp s k && !(hl s k).flit && (hl s k).rate != 6 && (aspm s k).testBit 0 && (hl s k).pwr == 0 &&
      !hlSending s k && !c0OnLink s k) (fun t => updHl t k fun x => { x with pwr := 1 }) s)

/-- L1.2, L1.1 or L1, as the enables allow on a x16 port (R110). -/
def l1State (s : State) (m : Nat) : Nat :=
  let c := cs s (64 * m) 0x2A0
  if cfgActive s (m / 4) != 0 then 2 else if bit c 2 then 4 else if bit c 3 then 3 else 2

/-- ASPM_L1_IDLE_TIMER (R109, R110): enabled, nothing outstanding or queued in either direction. -/
def execAspmL1IdleTimer (m : HL) (s : State) : Out :=
  let k := m.val
  .next (onlyIf (hlUp s k && (aspm s k).testBit 1 && [0, 1, 5].contains (hl s k).pwr && !hlBusy s k && !c0OnLink s k)
    (fun t => updHl t k fun x => { x with pwr := l1State t k }) s)

/-- Bytes in 100 µs at a rate and width: GT/s per lane, 8 bits a byte (raw). -/
def rawPer100us (rate width : Nat) : Nat :=
  width * (match rate with | 1 => 31250 | 2 => 62500 | 3 => 100000 | 4 => 200000 | 5 => 400000 | _ => 800000)

/-- The next narrower width, and the next wider one up to `top`. -/
def narrower (w : Nat) : Nat := if w ≤ 2 then 2 else w / 2
def wider (w top : Nat) : Nat := min top (2 * w)

/-- L0P_EVALUATION (R109): below half of a narrower width the link narrows, above three quarters it widens;
the host must have enabled L0p and the object permit narrowing. -/
def execL0pEvaluation (m : HL) (bytesPer100us : Nat) (s : State) : Out :=
  let k := m.val
  let x := hl s k
  let w := if x.narrow = 0 then x.width else x.narrow
  let en := bit (cs s (64 * k) 0x2F8) 3
  .next (if !(hlUp s k && x.flit && en && (x.pwr == 0 || x.pwr == 5)) then s
    else if x.narrow != 0 && decide (4 * bytesPer100us > 3 * rawPer100us x.rate w) then
      let v := wider w x.width
      updHl s k fun y => { y with narrow := if v = y.width then 0 else v, pwr := if v = y.width then 0 else 5 }
    else if hlObj s k 6 == 1 && !c0OnLink s k && decide (2 < w) &&
        decide (2 * bytesPer100us < rawPer100us x.rate (narrower w)) then
      updHl s k fun y => { y with narrow := narrower w, pwr := 5 }
    else s)

/-- HOST_INITIATED_EXIT (R111, R393): the host brings the link out of L0s or L1; in S1 that is a wake. -/
def execHostInitiatedExit (m : HL) (s : State) : Out :=
  .next (onlyIf (hlUp s m.val && decide (1 ≤ (hl s m.val).pwr) && decide ((hl s m.val).pwr ≤ 4)) (fun t =>
    wakeArrival (updHl t m.val fun x => { x with pwr := 0 }) 5 m.val) s)

/-! ## Protection pairs (R119 to R122) -/

/-- R120: the member can take the pair's traffic. -/
def eligible (s : State) (n : Nat) : Bool := (hl s (n / 64)).dlActive && fnExists s n && mse s n && bme s n && !inD3 s n

/-- HP_LINK_EVT.PROT_SWITCH of a member's link. -/
def protEvt (s : State) (n : Nat) : State := updHl s (n / 64) fun x => { x with evt := x.evt ||| 0x20#32 }

/-- DMA queues and mirror groups of the pair stay paused until restarted (R121, R203, R237). -/
def pausePair (s : State) (a o : Nat) : State :=
  let qs := (s.brdg.dqs.map (·.1)).filter fun q => dqEn s q && (dqOwner s q == a || dqOwner s q == o)
  let s1 := forAll s qs fun u q => updDq u q fun d => { d with pSwitch := true }
  forAll s1 ((span 0 512).filter fun g => mgEn s g && (mgFn s g == some a || mgFn s g == some o)) fun u g =>
    updMg u g fun x => { x with reason := 3, running := false }

/-- Steps 1 and 2 of R121: what was sent to, or translated for, the lost host. -/
def endOfHost (s : State) (a : Nat) : State :=
  let s1 := endSent s (fun t => t.fn == a) (a / 64)
  endAll s1 (fun t => t.kind != .cpl && t.sink == .fn a && (match t.op with | .message _ => false | _ => true)) 8
    fun u t => if t.kind == .p then bumpFn u a 13 else u

/-- Steps 3 and 4 of R121: `o` becomes active. -/
def becomeActive (s : State) (a o : Nat) : State :=
  let s1 := updFn s a fun x => { x with active := false, noHost := false, switching := false }
  let s2 := updFn s1 o fun x => { x with active := true, noHost := false, switching := false }
  let moves (t : Txn) : Bool := t.kind != .cpl && (t.sink == .fn a)
  let s3 := updFab s2 fun x => { x with txns := x.txns.map fun t => if moves t then { t with sink := .fn o } else t }
  let s4 := protEvt (protEvt (bumpFn (pausePair s3 a o) o 12) a) o
  settle (fnEvent (raiseEv s4 (halfOfHl (o / 64)) 12 o 0 0) o 2)

/-- The pair is left without a host (R122). -/
def pairNoHost (s : State) (a o : Nat) : State :=
  let s1 := updFn s a fun x => { x with noHost := true, switching := false }
  let s2 := pausePair (updFn s1 o fun x => { x with noHost := true, switching := false }) a o
  let s3 := fnEvent (fnEvent s2 a 3) o 3
  raiseEv s3 (halfOfHl (a / 64)) 13 (primaryOf s a) 0 0

/-- SWITCH_REQUEST (R120, R122): 1 written to the switch request object of a member that is not active. -/
def switchTo (s : State) (n : Nat) : State :=
  match partnerFn s n with
  | some p =>
    if eligible s n && activeFn s n == p && !(fn s p).noHost then updFn s p fun x => { x with switching := true } else s
  | none => s

def execSwitchRequest (p : Path) (m : HL) (f : Fn) (v : Bool) (s : State) : Out :=
  .next (objAct s p (fnIdx m.val 11) (f.val + 1) (halfOfHl m.val) fun t =>
    onlyIf v (fun u => switchTo u (64 * m.val + f.val)) t)

/-- PROTECTION_SWITCH_OVER (R121, R122): of the pair of function f on link m, once it has started. -/
def execProtectionSwitchOver (m : HL) (f : Fn) (s : State) : Out :=
  let n := 64 * m.val + f.val
  .next (match partnerFn s n with
    | some p =>
      let a := activeFn s n
      let o := if a = n then p else n
      if (fn s a).switching then
        let s1 := endOfHost s a
        if eligible s1 o then becomeActive s1 a o else pairNoHost s1 a o
      else s
    | none => s)

/-- PAIR_MEMBER_ELIGIBLE (R122): the first eligible member of a pair without a host becomes active. -/
def execPairMemberEligible (m : HL) (f : Fn) (s : State) : Out :=
  let n := 64 * m.val + f.val
  .next (match partnerFn s n with
    | some p => if (fn s n).noHost && eligible s n then becomeActive s p n else s
    | none => s)

/-! ## Commands of a function -/

/-- BUS_MASTER_ENABLE_CLEAR (R114). -/
def execBusMasterEnableClear (m : HL) (f : Fn) (s0 : State) : Out :=
  let s := tlpWake s0 m.val
  let n := 64 * m.val + f.val
  .next (onlyIf (cfgServed s n) (fun t => setBme t n false) s)

/-- BUS_MASTER_ENABLE_SET (R114). -/
def execBusMasterEnableSet (m : HL) (f : Fn) (s0 : State) : Out :=
  let s := tlpWake s0 m.val
  let n := 64 * m.val + f.val
  .next (onlyIf (cfgServed s n) (fun t => setBme t n true) s)

/-- MEMORY_SPACE_ENABLE_CLEAR (R115): later requests to its BARs find no function. -/
def execMemorySpaceEnableClear (m : HL) (f : Fn) (s0 : State) : Out :=
  let s := tlpWake s0 m.val
  let n := 64 * m.val + f.val
  .next (onlyIf (cfgServed s n) (fun t => csBit t n 0x04 1 false) s)

/-- MSIX_DISABLE (R114). -/
def execMsixDisable (m : HL) (f : Fn) (s0 : State) : Out :=
  let s := tlpWake s0 m.val
  let n := 64 * m.val + f.val
  .next (onlyIf (cfgServed s n && msixEn s n) (fun t => msixOff t n) s)

/-- Clear the mask of a vector: an MSI-X entry, an MSI mask bit, or the Function Mask. -/
def clearMask (s : State) (n : Nat) (v : Option Nat) : State :=
  match v with
  | none => csBit s n 0xB0 30 false
  | some i =>
    if msixEn s n then
      let e := msixEnt s n i
      let v := BitVec.ofNat 128 (e.toNat - (e.toNat &&& 2 ^ 96))
      { s with host := { s.host with msix := Tab.set msixReset s.host.msix (msixKey s n i) v } }
    else csBit s n 0x60 i false

/-- MSIX_VECTOR_UNMASK (R294): `none` is the Function Mask. -/
def execMsixVectorUnmask (m : HL) (f : Fn) (v : Option (Fin 2048)) (s0 : State) : Out :=
  let s := tlpWake s0 m.val
  let n := 64 * m.val + f.val
  let ok := match v with
    | none => msixEn s n
    | some i => if msixEn s n then decide (i.val < (fnLay s n).msix) else msiEn s n && decide (i.val < 32)
  .next (onlyIf (cfgServed s n && ok) (fun t => sweepPending (clearMask t n (v.map (·.val))) n) s)

/-- D3HOT_ENTRY (R113). -/
def execD3hotEntry (m : HL) (f : Fn) (s0 : State) : Out :=
  let s := tlpWake s0 m.val
  let n := 64 * m.val + f.val
  .next (onlyIf (cfgServed s n) (fun t => setD3 t n true) s)

/-- D3HOT_EXIT (R113): configuration space is kept, No_Soft_Reset is 1. -/
def execD3hotExit (m : HL) (f : Fn) (s0 : State) : Out :=
  let s := tlpWake s0 m.val
  let n := 64 * m.val + f.val
  .next (onlyIf (cfgServed s n && inD3 s n) (fun t => setD3 t n false) s)

/-- LTR_MECHANISM_ENABLE (R112): PF0 sends an LTR message when the bit becomes set. -/
def execLtrMechanismEnable (m : HL) (s0 : State) : Out :=
  let s := tlpWake s0 m.val
  let n := 64 * m.val
  .next (onlyIf (cfgServed s n && !ltrEn s n) (fun t => sendLtr (csBit t n 0x98 10 true) m.val) s)

/-- PME_TURN_OFF (R385): PME_TO_Ack, and the link may rest in L2/L3 Ready. -/
def execPmeTurnOff (m : HL) (s0 : State) : Out :=
  let s := tlpWake s0 m.val
  .next (onlyIf (hlUp s m.val) (fun t => tlpOut (updHl t m.val fun x => { x with turnOff := true }) m.val .pmeToAck) s)

/-! ## Configuration requests (R90, R118, R425) -/

/-- What a write of a word does besides storing it. -/
def csEffect (s : State) (n off : Nat) (new : W32) : State :=
  let m := n / 64
  let old := cs s n off
  match off with
  | 0x04 => intxUpdate (setBme (setCs s n off ((new &&& 0xFFFFFFFB#32) ||| (old &&& 4#32))) n (bit new 2)) m
  | 0x44 =>
    let keep := setCs s n off ((new &&& 0xFFFFFFFC#32) ||| (old &&& 3#32))
    if fld new 0 2 == fld old 0 2 then keep else setD3 keep n (fld new 0 2 == 3)
  | 0x50 => intxUpdate (sweepPending (setCs s n off new) n) m
  | 0x60 => sweepPending (setCs s n off new) n
  | 0x98 =>
    let s1 := setCs s n off new
    onlyIf (bit new 10 && !bit old 10) (fun t => sendLtr t m) s1
  | 0xB0 =>
    if bit old 31 && !bit new 31 then setCs (msixOff s n) n off new
    else intxUpdate (sweepPending (setCs s n off new) n) m
  | _ => setCs s n off new

/-- CONFIG_REQUEST: Request Retry Status until start-up completes, Unsupported Request for a Type 1 request
or an absent function, and a successful completion otherwise. -/
def execConfigRequest (m : HL) (c : CfgReq) (s0 : State) : Out :=
  let s := tlpWake s0 m.val
  let k := m.val
  let tag := c.tag.toNat
  let n := 64 * k + c.fn.toNat
  let off := c.off.toNat / 4 * 4
  .next (if !hlUp s k then s
    else if !startedUp s (halfOfHl k) then tlpOut s k (.cpl tag .other 4)
    else if c.type1 || decide (63 < c.fn.toNat) || !fnExists s n then hostRefuse s k (64 * k) tag .ur 4
    else match c.wr with
      | none => tlpOut s k (.cplData tag (bytesLE 4 (csRead s n off).toNat) 0 false false false)
      | some (v, be) => tlpOut (csEffect s n off (csMerge s n off v be)) k (.cpl tag .sc 0))

end Sys2Proof.Machine
end

