-- ==== Sys2Proof/Machine/HostMsg.lean ====
section
/-! DEFINITION. What else arrives on a host link: completions (R205, R210, R211, R442), requests that are
neither configuration nor memory requests (R100), the expansion ROM (R99) and the mailbox of PF0 (R101,
R102). -/

namespace Sys2Proof.Machine

/-! ## Completions -/

/-- CPL status of a host completion (Table 07.5). -/
def hostStatus (c : HostCpl) : Nat :=
  match c.status with
  | .sc => if c.ep then 7 else 0
  | .ur => 1
  | _ => 2

/-- A completion of an open request: its data, in order, or the error that ends it. -/
def hostCplMatch (s : State) (m : Nat) (c : HostCpl) (u : TagUse) : State :=
  let h := halfOfHl m
  let st := hostStatus c
  if u.req = 0 then   -- ended when the die link went down (R334): `part` is what is still to come
    let t := bump s 0x9007 (5 + halfIdx h)
    if st != 0 || decide (u.part ≤ c.data.length) then freeTag t u.side u.tag
    else updFab t fun x => { x with tags := x.tags.map fun y =>
      if y.side == u.side && y.tag == u.tag then { y with part := u.part - c.data.length } else y }
  else
  let s0 := onlyIf c.ep (fun t => aerPoison t u.fn) s
  let last := st != 0 || decide (partLack s u.req u.part ≤ c.data.length)
  let s1 := onlyIf last (fun t => freeTag t u.side u.tag) s0
  if st != 0 then failPart s1 u.req u.part st h
  else gotPart s1 u.req u.part (c.data.take (partLack s u.req u.part)) false h

/-- The function a Requester ID names, or PF0: its function number in the low byte (ARI). -/
def ridFn (s : State) (m : Nat) (c : HostCpl) : Nat :=
  let n := 64 * m + c.rid.toNat % 256
  if c.rid.toNat % 256 < 64 && fnExists s n then n else 64 * m

/-- Match a completion by its tag: open, late or unexpected (R210, R211). -/
def hostCplNow (s : State) (m : Nat) (c : HostCpl) : State :=
  let h := halfOfHl m
  let tag := c.tag.toNat
  match s.fab.tags.find? fun u => (u.side == hostSide m) && u.tag == tag with
  | some u => hostCplMatch s m c u
  | none =>
    if s.fab.quars.any fun q => (q.side == hostSide m) && q.tag == tag then
      bump (logC s h 0x09 (unitHl m) (tag := tag)) 0x5E13 (hsub h)
    else bump (aerUnexp (logC s h 0x0A (unitHl m) (tag := tag)) (ridFn s m c)) 0x5E14 (hsub h)

/-- A completion of a host arrives: held by a kind 1 slot, or behind one held (R442), else matched. -/
def hostCplIn (s : State) (m : Nat) (c : HostCpl) : State :=
  let behind := s.test.delayed.any fun d => d.host.any fun x => x.1 == m
  let hold (i : Nat) (u : State) : State := updTest u fun t => { t with delayed := t.delayed ++ [⟨i, some (m, c), none⟩] }
  match delaySlot s (unitHl m) with
  | some i =>
    let d := everyNth s i
    if d.1 || behind then hold (if d.1 then i else 16) d.2 else hostCplNow d.2 m c
  | none => if behind then hold 16 s else hostCplNow s m c

/-- HOST_COMPLETION (R205). -/
def execHostCompletion (m : HL) (c : HostCpl) (s0 : State) : Out :=
  let s := tlpWake s0 m.val
  .next (onlyIf (hlUp s m.val) (fun t => hostCplIn t m.val c) s)

/-- Every beat of the group has been committed. -/
def splitDone (s : State) (g : Nat) : Bool :=
  !s.fab.txns.any fun t => match t.mark with | .splitBeat k _ _ => k == g | _ => false

/-- SPLIT_WRITE_COMMITTED (R166): the failure is logged and counted once the beats sent are committed. -/
def execSplitWriteCommitted (id : Nat) (s : State) : Out :=
  .next (match s.fab.splits.find? fun f => f.id == id with
    | some f =>
      if splitDone s id then
        let s1 := updFab s fun x => { x with splits := x.splits.filter fun g => g.id != id }
        bump (logC s1 f.half 0x02 f.win (addr := f.addr)) 0x480B (hsub f.half)
      else s
    | none => s)

/-! ## Other requests (R100) -/

/-- IO_REQUEST: Unsupported Request. -/
def execIoRequest (m : HL) (tag : BitVec 14) (s0 : State) : Out :=
  let s := tlpWake s0 m.val
  .next (onlyIf (hlUp s m.val) (fun t => hostRefuse t m.val (64 * m.val) tag.toNat .ur 4) s)

/-- MRDLK: Unsupported Request. -/
def execMrdlk (m : HL) (tag : BitVec 14) (s0 : State) : Out :=
  let s := tlpWake s0 m.val
  .next (onlyIf (hlUp s m.val) (fun t => hostRefuse t m.val (64 * m.val) tag.toNat .ur 4) s)

/-- VENDOR_DEFINED_TYPE0: treated as Unsupported Request. -/
def execVendorDefinedType0 (m : HL) (s0 : State) : Out :=
  let s := tlpWake s0 m.val
  .next (onlyIf (hlUp s m.val) (fun t => aerUR t (64 * m.val)) s)

/-- VENDOR_DEFINED_TYPE1: discarded silently. -/
def execVendorDefinedType1 (m : HL) (s0 : State) : Out :=
  let s := tlpWake s0 m.val
  .next s

/-! ## Expansion ROM (R99) -/

/-- The ROM window decodes the address: Memory Space Enable and the ROM BAR enable, PF0 in D0. -/
def romHit (s : State) (m a : Nat) : Option Nat :=
  let n := 64 * m
  let k := (fnLay s n).bar2
  let bar := cs s n 0x30
  let base := (bar.toNat / 2 ^ k) * 2 ^ k
  if hlUp s m && startedUp s (halfOfHl m) && k != 0 && mse s n && !inD3 s n && bit bar 0 &&
      decide (base ≤ a) && decide (a < base + 2 ^ k) then some (a - base)
  else none

/-- Bytes of a half's ROM shadow; zero beyond the stored image. -/
def romBytesAt (s : State) (h : Half) (off n : Nat) : List Byte :=
  (List.range n).map fun i =>
    if off + i < (half s h).romLen then Tab.get 0 s.sys.romBytes (halfIdx h * 2 ^ 20 + off + i) else 0

/-- EXPANSION_ROM_READ. -/
def execExpansionRomRead (m : HL) (addr : W32) (len : Nat) (tag : BitVec 14) (s0 : State) : Out :=
  let s := tlpWake s0 m.val
  .next (if !hlUp s m.val then s
    else match romHit s m.val addr.toNat with
      | some off => tlpOut s m.val (.cplData tag.toNat (romBytesAt s (halfOfHl m.val) off len) 0 false false false)
      | none => hostRefuse s m.val (64 * m.val) tag.toNat .ur len)

/-- A write that HP_BAD_ACCESS counts (R98, R99). -/
def badAccess (s : State) (m : Nat) : State := bumpR s (hpReg m 0x1C)

/-- EXPANSION_ROM_WRITE: dropped and counted. -/
def execExpansionRomWrite (m : HL) (addr : W32) (s0 : State) : Out :=
  let s := tlpWake s0 m.val
  .next (if !hlUp s m.val then s
    else match romHit s m.val addr.toNat with
      | some _ => badAccess s m.val
      | none => aerUR s (64 * m.val))

/-! ## The mailbox (R101, R102) -/

/-- BAR2 of PF0 answers. -/
def mbxReach (s : State) (m : Nat) : Bool := hlUp s m && startedUp s (halfOfHl m) && mse s (64 * m) && !inD3 s (64 * m)

/-- A submit names a length of 0 or above 2,048. -/
def badLen (n : Nat) : Bool := n == 0 || decide (2048 < n)

/-- A write of MBX_SUBMIT. -/
def mbxSubmit (s : State) (m len : Nat) : State :=
  let x := mbx s m
  if x.down then s
  else
    let full := x.busy || x.ready
    let bad := badLen len
    updMbx s m fun y => { y with
      overrun := y.overrun || full, lenErr := y.lenErr || bad,
      busy := y.busy || (!full && !bad), reqLen := if full || bad then y.reqLen else len,
      taken := if full || bad then y.taken else false, answer := if full || bad then y.answer else none }

/-- A write of MBX_REQ: ignored while BUSY is 1. -/
def mbxReqPut (s : State) (m off : Nat) (bs : List Byte) : State :=
  onlyIf (!(mbx s m).busy) (fun t => updMbx t m fun x => { x with req := writeBytes 0 x.req off (bs.take (2048 - off)) }) s

/-- MBX_ACK. -/
def mbxAckNow (s : State) (m : Nat) : State :=
  updMbx s m fun x => { x with ready := false, overrun := false, lenErr := false }

/-- MBX_SUBMIT. -/
def execMbxSubmit (m : HL) (len : BitVec 12) (s0 : State) : Out :=
  let s := tlpWake s0 m.val
  .next (onlyIf (mbxReach s m.val) (fun t => mbxSubmit t m.val len.toNat) s)

/-- MBX_REQ_WRITE: one or two whole DW; any other write is ignored and counted (R98). -/
def execMbxReqWrite (m : HL) (off : BitVec 11) (data : List Byte) (s0 : State) : Out :=
  let s := tlpWake s0 m.val
  let whole := off.toNat % 4 == 0 && (data.length == 4 || data.length == 8)
  .next (onlyIf (mbxReach s m.val) (fun t => if whole then mbxReqPut t m.val off.toNat data else badAccess t m.val) s)

/-- MBX_ACK: 1 clears. -/
def execMbxAck (m : HL) (v : Bool) (s0 : State) : Out :=
  let s := tlpWake s0 m.val
  .next (onlyIf (mbxReach s m.val && v) (fun t => mbxAckNow t m.val) s)

/-- MBX_RESPONSE: the steward's answer enters MBX_RSP, BUSY clears and RSP_READY sets. -/
def execMbxResponse (m : HL) (s : State) : Out :=
  .next (match (mbx s m.val).answer with
    | some bs =>
      if (mbx s m.val).busy then
        mbxDone (updMbx s m.val fun x => { x with
          rsp := writeBytes 0 [] 0 bs, rspLen := bs.length, busy := false, ready := true, answer := none, taken := false }) m.val
      else s
    | none => s)

/-- MBX_STAT. -/
def mbxStat (s : State) (m : Nat) : Nat :=
  let x := mbx s m
  flag x.busy 0 + flag x.ready 1 + flag x.overrun 2 + flag x.lenErr 3 + flag x.down 4 + place x.rspLen 16 12

end Sys2Proof.Machine
end

