-- ==== Sys2Proof/Machine/Power.lean ====
section
/-! DEFINITION. Performance levels (R377 to R380), the AVSBus exchange (R381), sleep requests, their check and
entry (R384 to R391), and wakes (R393, R394). -/

namespace Sys2Proof.Machine

/-- Power and time events are raised in the lead half, in SPLIT in half A (R409). -/
def rindHalf (s : State) : Half := if isSplit s then .a else leadHalf s

/-- Put an object's stored figure. -/
def putCount (s : State) (idx sub v : Nat) : State := { s with cnt := Tab.set 0 s.cnt (okey 0 idx sub) v }

/-! ## Levels -/

/-- Level that the configuration asks for. -/
def levelAsked (s : State) : Nat := cfg s (rindHalf s) 0x7000 1 % 4

/-- A half is above 105 °C on a grade that holds P0 back (units of 0.25 °C). -/
def tooHot (s : State) : Bool := s.nv.fuses.gradeE && (decide (420 < s.pwr.tjA) || decide (420 < s.pwr.tjB))
/-- Both halves are at or below 100 °C. -/
def coolAgain (s : State) : Bool := decide (s.pwr.tjA ≤ 400) && decide (s.pwr.tjB ≤ 400)

/-- LEVEL_HELD sets and clears as the temperature and the request have it (R380). -/
def levelHold (s : State) : State :=
  if levelAsked s != 0 then updPwr s fun p => { p with held := false }
  else if s.pwr.held then
    if coolAgain s then raiseEv (updPwr s fun p => { p with held := false }) (rindHalf s) 33 0 0 0 else s
  else if tooHot s then raiseEv (updPwr s fun p => { p with held := true }) (rindHalf s) 33 0 1 0
  else s

/-- The level the device is to run at. -/
def levelWant (s : State) : Nat := if s.pwr.held then 1 else levelAsked s

/-- Begin a level change where one is due and none is under way: raising starts with the voltages,
lowering with the switch (R379). -/
def levelGo (s : State) : State :=
  let s1 := levelHold s
  let v := levelWant s1
  if s1.pwr.target.isSome || v == s1.pwr.level || s1.pwr.sleep != 0 then s1
  else
    let s2 := updPwr s1 fun p => { p with target := some v }
    if v < s1.pwr.level then avsBoth s2 (levelMv v) .level else s2

/-- A change has completed: LEVEL_DONE; a hold that arose meanwhile is acted on. -/
def levelDone (s : State) : State :=
  levelGo (raiseEv (updPwr s fun p => { p with target := none }) (rindHalf s) 32 0 s.pwr.level 0)

/-- LEVEL_SWITCH_POINT (R379, R53): the dividers change and the C0 reservations are judged at the new level. -/
def execLevelSwitchPoint (s : State) : Out :=
  .next (match s.pwr.target with
    | none => s
    | some v =>
      if s.pwr.sleep != 0 || s.pwr.avs.isSome || v == s.pwr.level then s
      else
        let up := decide (v < s.pwr.level)
        let s1 := c0Judge (updPwr s fun p => { p with level := v }) v
        if up then levelDone s1 else avsBoth s1 (levelMv v) .level)

/-- TEMP_THRESHOLD_CROSS (R380): the sensor's reading, and what it holds or releases. -/
def execTempThresholdCross (h : Half) (tj : Int) (s : State) : Out :=
  .next (levelGo (updPwr s fun p => match h with
    | .a => { p with tjA := tj }
    | .b => { p with tjB := tj }))

/-! ## AVSBus -/

/-- A rail request is acknowledged: the next one, or the end of the exchange. -/
def avsAcked (s : State) (r : AvsReq) : State :=
  let s1 := updPwr s fun p => { p with
    vcore := if r.rail then p.vcore else r.mv, veng := if r.rail then r.mv else p.veng,
    avs := none, avsFail := false }
  let s2 := onlyIf s.pwr.avsFail (fun t => alertOff t 3) s1
  match r.next with
  | x :: rest => avsStart s2 x.1 x.2 r.use rest
  | [] =>
    match r.use, s2.pwr.target with
    | .level, some v => if v == s2.pwr.level then levelDone s2 else s2
    | _, _ => s2

/-- AVS_STATUS_POLL: Read Status, every 50 µs while a request awaits VDone. -/
def execAvsStatusPoll (s : State) : Out :=
  .next (match s.pwr.avs with | some r => emit s (.avs r.rail false 0) | none => s)

/-- Send the request once more. -/
def avsAgain (s : State) (r : AvsReq) (tries : Nat) : State :=
  emit (updPwr s fun p => { p with avs := some { r with acked := false, tries := tries } }) (.avs r.rail true r.mv)

/-- The second sending timed out: AVS_FAIL, ALERT_N low. `k`: 1 level change, 2 entry, 3 exit. -/
def avsFailed (s : State) (r : AvsReq) (k : Nat) : State :=
  raiseEv (alertOn (updPwr s fun p => { p with avsFail := true }) 3) (rindHalf s) 34 (flag r.rail 0) k 0

/-- A rail request of a level change failed: raising keeps the divider and returns to the old voltage,
lowering keeps the new divider. -/
def avsLevelFail (s : State) (r : AvsReq) : State :=
  let s1 := avsFailed s r 1
  let up := match s.pwr.target with | some v => decide (v < s.pwr.level) | none => false
  let s2 := updPwr s1 fun p => { p with target := none, avs := none }
  if up then avsBoth s2 (levelMv s2.pwr.level) .restore else s2

/-- AVS_REQUEST_TIMEOUT (R381, R389): the request is sent once more; after the second, AVS_FAIL. During an exit
it is repeated until acknowledged; an entry is left to be aborted (three tries mark the failure). -/
def execAvsRequestTimeout (rail : Bool) (s : State) : Out :=
  .next (match s.pwr.avs with
    | none => s
    | some r =>
      if r.rail != rail || 3 ≤ r.tries then s
      else if r.tries = 1 then avsAgain s r 2
      else match r.use with
        | .level => avsLevelFail s r
        | .restore => updPwr (avsFailed s r 1) fun p => { p with avs := none }
        | .entry => updPwr (avsFailed s r 2) fun p => { p with avs := some { r with tries := 3 } }
        | .exit => avsAgain (if s.pwr.avsFail then s else avsFailed s r 3) r 2)

/-! ## Sleep requests -/

/-- The request is refused (R385). -/
def sleepRefuse (s : State) (code inst v : Nat) : State :=
  let s1 := updPwr s fun p => { p with
    refuser := BitVec.ofNat 32 (code + place inst 8 16 + place v 24 2), refTime := timeNow s,
    request := none, reqHalf := [0, 0], early := false }
  raiseEv (bump s1 0x7005 v) (rindHalf s) 35 inst code v

/-- A write of the state 1 to 3 requests entry (R384). In S1 it wakes the device and is judged in S0; while
another request, entry or exit is under way it is refused. -/
def sleepRequest (s : State) (h : Half) (v : Nat) : State :=
  if v = 0 then s
  else
    let s1 := onlyIf (s.pwr.sleep == 1) (fun t => wakeBy t 7 0) s
    let mine := s1.pwr.reqHalf.set (halfIdx h) v
    let both := mine.getD 0 0 != 0 && mine.getD 1 0 != 0
    let least := if both then min (mine.getD 0 0) (mine.getD 1 0) else v
    if s1.pwr.commit || (s1.pwr.request.isSome && !isSplit s1) then
      let t := updPwr s1 fun p => { p with refuser := BitVec.ofNat 32 (1 + place v 24 2), refTime := timeNow s1 }
      raiseEv (bump t 0x7005 v) (rindHalf s1) 35 0 1 v
    else updPwr s1 fun p => { p with request := some least, reqHalf := mine }

/-- PWR_SLEEP (R384): the register, or OD 0x7001:01. -/
def execPwrSleep (p : Path) (v : BitVec 2) (s : State) : Out :=
  .next (regOrObj s p 0x01C00004 0x7001 1 (pathHalf s p) fun t => sleepRequest t (pathHalf s p) v.toNat)

/-! ## The entry check (Table 14.4) -/

/-- 0x01: a level change, an apply check, another entry or exit, a self-test. -/
def rowSequencing (s : State) : Option Nat :=
  if s.pwr.target.isSome || s.pwr.exiting || s.pwr.commit || s.dict.apply.isSome || s.dict.cutWait ||
      s.dictB.apply.isSome || s.test.bistA.running || s.test.bistB.running then some 0 else none

/-- 0x02: the die link is down, or a half is in LEAD_UNRESOLVED or orphaned. -/
def rowHalf (s : State) : Option Nat :=
  if isSplit s then none
  else if s.sys.a.role == .unresolved || s.sys.a.role == .orphaned then some 0
  else if s.sys.b.role == .unresolved || s.sys.b.role == .orphaned then some 1
  else if !s.sys.a.dlUp then some 0
  else if !s.sys.b.dlUp then some 1
  else none

/-- 0x03: in SPLIT, the half that has not requested. -/
def rowOther (s : State) : Option Nat :=
  if !isSplit s then none
  else if s.pwr.reqHalf.getD 0 0 = 0 then some 0
  else if s.pwr.reqHalf.getD 1 0 = 0 then some 1
  else none

/-- 0x04: a host link in DL_Active and not in L2/L3 Ready. -/
def rowHostLink (s : State) : Option Nat :=
  (s.host.hls.find? fun (_, x) => x.dlActive && !x.turnOff).map (·.1)

/-- 0x05: a local link with an unacknowledged packet. -/
def rowLocalLink (s : State) : Option Nat :=
  (s.links.find? fun (_, x) => x.st == .active && (!x.replay.isEmpty || x.rxAcked != 0)).map (·.1)

/-- The least of a list. -/
def leastOf : List Nat → Option Nat
  | [] => none
  | x :: t => match leastOf t with | none => some x | some y => some (min x y)

/-- 0x06: a flow that has cells anywhere in the device. -/
def rowFlow (s : State) : Option Nat := leastOf (s.fab.txns.map (·.flow) ++ s.fab.cells.map (·.flow))

/-- 0x07: a half with an outstanding request or move. -/
def rowRequests (s : State) : Option Nat :=
  let hs := s.fab.reqs.map (fun r => halfIdx r.half) ++
    (s.eng.engs.filter fun (_, g) => g.slots.any fun x => match x with | .busy .. => true | _ => false).map
      fun (e, _) => halfIdx (halfOfEng e)
  leastOf hs

/-- An engine other than a steward that is not at rest. -/
def engRestless (e : Nat) (g : EngSt) : Bool :=
  !isSteward e &&
  (g.loading || g.st == .running || (g.st == .waiting && g.waitFor != .wait) || !g.stack.isEmpty ||
   (g.slots.any fun x => match x with | .busy .. => true | _ => false) || !g.inbox.isEmpty)

/-- 0x08. -/
def rowEngine (s : State) : Option Nat := (s.eng.engs.find? fun (e, g) => engRestless e g).map (·.1)
/-- 0x09: a running queue with descriptors to read. -/
def rowQueue (s : State) : Option Nat := (s.brdg.dqs.find? fun (q, x) => dqRunning s q && x.prod != x.cons).map (·.1)

/-- 0x0A: an enabled group with words, neither dormant nor paused. -/
def rowMirror (s : State) : Option Nat :=
  let gs := (listed s .a 0x5C00 0x5CFF 256 1 ++ listed s .b 0x5D00 0x5DFF 256 1).map fun x => x.1 - 0x5C00
  gs.find? fun g => mgEn s g && mgCount s g != 0 && mgDormant s g == 0 && mgPaused s g == 0

/-- 0x0B: a semaphore held or waited for. -/
def rowSemaphore (s : State) : Option Nat :=
  (s.brdg.sems.find? fun (_, x) => !(x.holders.isEmpty && x.freeing.isEmpty && x.waiters.isEmpty)).map (·.1)

/-- First failing row of Table 14.4 for entry into state `v`: code and instance. `auto`: the S1 idle timer
asks, and no half's request is needed. -/
def sleepBlocked (s : State) (v : Nat) (auto : Bool) : Option (Nat × Nat) :=
  let deep := decide (2 ≤ v)
  let rows : List (Nat × Bool × Option Nat) :=
    [(1, true, rowSequencing s), (2, true, rowHalf s), (3, !auto, rowOther s), (4, deep, rowHostLink s),
     (5, v == 1, rowLocalLink s), (6, true, rowFlow s), (7, true, rowRequests s), (8, true, rowEngine s),
     (9, true, rowQueue s), (10, true, rowMirror s), (11, deep, rowSemaphore s)]
  (rows.find? fun r => r.2.1 && r.2.2.isSome).map fun r => (r.1, r.2.2.getD 0)

/-! ## Entry (R386, R387) -/

/-- The cave's header and parts as written at entry (R390, R391). -/
def caveWrite (s : State) (v : Nat) : CaveSt :=
  let keep (n : Nat) : Nat × Nat × Nat :=
    let e := ofBytesLE ((s.dict.keepRun.drop (4 * n)).take 4)
    (e % 65536, e / 65536 % 256, cfg s (rindHalf s) (e % 65536) (e / 65536 % 256))
  { valid := true, state := v, sec := s.time.sec, ns := s.time.ns, frac := s.time.frac / 65536, tick := s.time.tick,
    ratio := s.time.ratio, uncert := s.time.unc, tol := cfg s (rindHalf s) 0x7400 7, tvalid := s.time.valid,
    level := levelAsked s, dict := if v = 2 then s.dict.run else [],
    sealRef := cfg s (rindHalf s) 0xF000 3, seq := s.dict.seq,
    contain := if v = 2 then s.links.map fun (l, x) => (l, x.contain, x.cause) else [],
    nominated := if v = 3 then (List.range (s.dict.keepRun.length / 4)).map keep else [] }

/-- Word k of comparator n: CTRL, PER, VAL. -/
def tcw (s : State) (n k : Nat) : Nat := cfg s (rindHalf s) (0x7430 + n) (k + 1)
def tcMode1 (s : State) (n : Nat) : Bool := (tcw s n 0).testBit 1
/-- A periodic tick comparator. -/
def tcPeriodic (s : State) (n : Nat) : Bool := (tcw s n 0).testBit 2 && !tcMode1 s n
def tcArmed (s : State) (n : Nat) : Bool :=
  (tcw s n 0).testBit 0 && (tcPeriodic s n || !s.time.fired.getD n false)

/-- A comparator fires (R395): FIRED, TIME_ALARM, the periodic advance, and a wake where enabled. -/
def tcFire (s : State) (n : Nat) : State :=
  let s1 := updTime s fun t => { t with
    fired := t.fired.set n true,
    tcAdv := if tcPeriodic s n then t.tcAdv.set n (t.tcAdv.getD n 0 + tcw s n 1) else t.tcAdv }
  wakeSrc (raiseEv s1 (rindHalf s) 38 n 0 0) 3 n

/-- Device time as a comparator in MODE 1 compares it. -/
def tcTime (t : TimeSt) : Nat := (t.sec % 2 ^ 32) * 2 ^ 32 + t.ns

/-- Comparators of device time whose VAL has passed when an entry converts them to ticks fire at once (R395). -/
def tcConvert (s : State) : State :=
  forAll s ((List.range 4).filter fun n => tcArmed s n && tcMode1 s n && decide (tcw s n 2 ≤ tcTime s.time)) tcFire

/-- The steps of an entry into S2 or S3 up to its rail requests: capture, local links down with reason 8, brine, the
cave (in which its links are held already), 550 mV or 0 mV. -/
def deepEntry (s : State) (v : Nat) : State :=
  let s1 := tcConvert (updTime s fun t => { t with rindLost := false })
  let s2 := forAll s1 ((s1.links.filter fun (_, x) => x.st == .active).map (·.1)) fun u l => leaveActive u l 8
  let s3 := updPwr s2 fun p => { p with cave := caveWrite s2 v }
  let s4 := updBrine (updBrine s3 .a fun b => { b with trained := false }) .b fun b => { b with trained := false }
  avsBoth s4 (if v = 2 then 550 else 0) .entry

/-- The check passes: the commit. -/
def sleepCommit (s : State) (v : Nat) : State :=
  let s1 := updPwr s fun p => { p with commit := true, request := some v }
  if v = 1 then s1 else deepEntry s1 v

/-- SLEEP_ENTRY_CHECK (R385). -/
def execSleepEntryCheck (s : State) : Out :=
  .next (match s.pwr.request with
    | none => s
    | some v =>
      if s.pwr.sleep != 0 || s.pwr.commit then s
      else match sleepBlocked s v false with
        | some (c, i) => sleepRefuse s c i v
        | none => sleepCommit s v)

/-- S1_IDLE_TIMER (R384): attempted only when its conditions hold, never refused. -/
def execS1IdleTimer (s : State) : Out :=
  .next (if s.pwr.sleep = 0 && s.pwr.request.isNone && !s.pwr.commit && cfg s (rindHalf s) 0x7002 1 != 0 &&
      !s.sys.resetLow && (sleepBlocked s 1 true).isNone then sleepCommit s 1
    else s)

/-- An entry into S2 or S3 is aborted (R389). -/
def sleepAbort (s : State) (rail : Bool) (v : Nat) : State :=
  let s1 := updPwr s fun p => { p with
    commit := false, request := none, reqHalf := [0, 0], early := false, avs := none,
    refuser := BitVec.ofNat 32 (0x0C + place (flag rail 0) 8 16 + place v 24 2 + 2 ^ 31), refTime := timeNow s }
  let s2 := updBrine (updBrine s1 .a fun b => { b with trained := !b.down && cfg s1 .a 0x5602 1 % 4 != 0 }) .b
    fun b => { b with trained := !b.down && cfg s1 .b 0x5602 2 % 4 != 0 }
  avsBoth (raiseEv (bump s2 0x7006 1) (rindHalf s) 36 (flag rail 0) 0x0C v) (levelMv s.pwr.level) .restore

/-- Residence in the present state is accumulated, in cycles of the time domain (OD 0x7007). -/
def residence (s : State) : State :=
  updPwr (bumpN s 0x7007 (s.pwr.sleep + 1) (s.clk - s.pwr.resStart)) fun p => { p with resStart := s.clk }

/-- The state is entered; a wake that has come begins exit at once (R388). -/
def sleepEnter (s : State) (v : Nat) : State :=
  let s1 := updPwr (bump (residence s) 0x7004 v) fun p => { p with
    sleep := v, commit := false, request := none, reqHalf := [0, 0], early := false }
  if s.pwr.early then bump (wakeBy s1 s.pwr.cause s.pwr.inst) 0x7006 2 else s1

/-- SLEEP_ENTRY_COMPLETE (R387, R389). -/
def execSleepEntryComplete (s : State) : Out :=
  .next (if !s.pwr.commit then s
    else match s.pwr.request, s.pwr.avs with
      | some v, none => sleepEnter s v
      | some v, some r => if v != 1 && r.use == .entry && r.tries == 3 then sleepAbort s r.rail v else s
      | none, _ => s)

/-! ## Wakes -/

/-- Cause and instance of Table 14.6. -/
def wakeCode : WakeCause → Nat × Nat
  | .wakeN => (1, 0)
  | .perst p => (2, p.val)
  | .timer n => (3, n.val)
  | .source n => (4, n.val)
  | .hostTlp m => (5, m.val)
  | .localPacket l => (6, l.val)
  | .management => (7, 0)

/-- WAKE (R393): a source at an event controller wakes only with its WAKE bit. -/
def execWake (c : WakeCause) (s : State) : Out :=
  .next (match c with
    | .source n => onlyIf (srcEn s n.val && srcWake s n.val) (fun t => wakeSrc t 4 n.val) s
    | c => wakeSrc s (wakeCode c).1 (wakeCode c).2)

/-- WAKE_N_DRIVE_END (R394). -/
def execWakeNDriveEnd (s : State) : Out := .next (updPwr s fun p => { p with wakeLow := false })

end Sys2Proof.Machine
end

