-- ==== Sys2Proof/Machine/TimeCmd.lean ====
section
/-! DEFINITION. Time-keeping: loads and steps (R399), comparators (R395), PPS (R401, R402), PTM (R403), the
servo (R404), timestamps (R405), calibration (R406), RIND_LOST (R408) and the alignment pulse (R27). -/

namespace Sys2Proof.Machine

/-! ## The counter -/

/-- The alignment pulse reaches the other half. -/
def pulseCrosses (s : State) : Bool :=
  s.sys.a.dlUp && s.sys.b.dlUp && s.sys.a.role != .unresolved && s.sys.b.role != .unresolved

/-- The counter takes a new value (R399): the other half's copy follows by the alignment pulse, or keeps its
own; comparators that it passes over fire at once. -/
def timeSet (s : State) (sec ns frac : Nat) : State :=
  let old := timeNs s
  let new := sec * 1000000000 + ns
  let s1 := updTime s fun t => { t with
    sec := sec % 2 ^ 48, ns := ns, frac := frac,
    folOff := if pulseCrosses s then 0 else t.folOff + (Int.ofNat old - Int.ofNat new),
    capNs := none }
  forAll s1 ((List.range 4).filter fun n => tcArmed s n && tcMode1 s n &&
    decide (tcTime s.time < tcw s n 2) && decide (tcw s n 2 ≤ tcTime s1.time)) tcFire

/-- Add a signed number of 2^-16 ns. -/
def timeAdd (s : State) (d : Int) : State :=
  let now := Int.ofNat (timeNs s * 2 ^ 32 + s.time.frac)
  let new := now + d * 65536
  let day : Int := 2 ^ 48 * 1000000000 * 2 ^ 32
  let v := (new % day).toNat
  timeSet s (v / 2 ^ 32 / 1000000000) (v / 2 ^ 32 % 1000000000) (v % 2 ^ 32)

/-- TIME_STEPPED: 1 load, 2 step, 3 servo step, 4 sleep correction. -/
def timeStepped (s : State) (k : Nat) : State := raiseEv s (rindHalf s) 42 0 k 0

/-- LOAD of TIME_CMD. A TIME_LOAD_NS above 999,999,999 loads nanoseconds that the spec does not state (log
entry 22). -/
def timeLoad (s : State) : State :=
  let n := fld s.time.loadNs 0 30
  let ns := if n < 1000000000 then n else Config.unstated 22 n % 1000000000
  let s1 := timeSet s (fld s.time.loadH 0 16 * 2 ^ 32 + s.time.loadL.toNat) ns 0
  timeStepped (updTime s1 fun t => { t with valid := true }) 1

/-- STEP of TIME_CMD. -/
def timeStep (s : State) : State := timeStepped (timeAdd s (s.time.stepNs.toInt * 65536)) 2

/-- TIME_LOAD (R399). -/
def execTimeLoad (p : Path) (s : State) : Out := .next (regAct s p 0x01C00120 (pathHalf s p) timeLoad)

/-- TIME_STEP (R399). -/
def execTimeStep (p : Path) (s : State) : Out := .next (regAct s p 0x01C00120 (pathHalf s p) timeStep)

/-- TC_MATCH (R395). -/
def execTcMatch (n : Fin 4) (s : State) : Out := .next (if tcArmed s n.val then tcFire s n.val else s)

/-- TIME_ALIGN_CHECK (R27): a follower's copy that differs by more than one cycle is reloaded. -/
def execTimeAlignCheck (s : State) : Out :=
  .next (if pulseCrosses s && s.time.folOff != 0 then
      bump (updTime s fun t => { t with folOff := 0 }) 0x7400 0x1F
    else s)

/-! ## PPS -/

/-- PPS_OUT may be driven high (OD 0x7401:01). -/
def ppsDriven (s : State) : Bool :=
  s.sys.lrefOk.getD 0 true &&
  match cfg s (rindHalf s) 0x7401 1 with
  | 1 => true
  | 2 => s.time.valid
  | 3 => s.time.locked
  | _ => false

/-- SECONDS_ROLLOVER (R401): PPS_OUT rises. -/
def execSecondsRollover (s : State) : Out :=
  .next (if s.time.running && s.pwr.sleep ≤ 1 && ppsDriven s then
      emit (updTime s fun t => { t with ppsOut := true }) (.pulse 0 1)
    else s)

/-- PPS_OUT_HIGH_TIME_END (R401): PPS_OUT falls. -/
def execPpsOutHighTimeEnd (s : State) : Out :=
  .next (if s.time.ppsOut then emit (updTime s fun t => { t with ppsOut := false }) (.pulse 0 0) else s)

/-- The time service, where one is named and has a cluster: the cluster of its servo page. -/
def servoCluster (s : State) : Option Nat :=
  let v := cfg s (rindHalf s) 0x7420 1
  if v < 32 && svcEn s v then (svcClusterList s v).head? else none

/-- Offset of a servo page field in cluster memory. -/
def servoOff (k : Nat) : Nat := 0xFFF00 + k

/-- A measurement (R404): the M_ fields, M_SEQ last, and TIME_MEASURE. Offset and delay in 2^-16 ns. -/
def measure (s : State) (kind : Nat) (time : W64) (off : Int) (delay : Nat) : State :=
  match servoCluster s with
  | none => s
  | some c =>
    let n := s.time.mSeq + 1
    let words := [(0x08, kind), (0x10, time.toNat), (0x18, (BitVec.ofInt 64 off).toNat), (0x20, delay),
      (0x28, s.time.incr), (0x00, n)]
    let s1 := updClus s c fun x => { x with
      mem := words.foldl (fun m w => writeBytes 0 m (servoOff w.1) (bytesLE 8 w.2)) x.mem }
    raiseEv (updTime s1 fun t => { t with mSeq := n, mClk := some s.clk }) (rindHalf s) 39 0 kind 0

/-- A time in nanoseconds in the format of TIME. -/
def timeFmt (ns : Nat) : W64 := BitVec.ofNat 64 ((ns / 1000000000 % 2 ^ 32) * 2 ^ 32 + ns % 1000000000)

/-- Nearest whole second less the capture, ns; half a second away, either (log entry 23). -/
def ppsOffset (cap : Nat) : Int :=
  let r := cap % 1000000000
  if r < 500000000 || (r == 500000000 && Config.unstated 23 cap % 2 == 0) then -(Int.ofNat r)
  else Int.ofNat (1000000000 - r)

/-- PPS_IN_EDGE (R402): captured, or ignored where it follows too soon or the pulse is too short. -/
def execPpsInEdge (highNs : Nat) (s : State) : Out :=
  let soon := match s.time.ppsLast with | some c => decide (clkToNs (s.clk - c) < 500000000) | none => false
  .next (if !s.time.running || 2 ≤ s.pwr.sleep then s
    else if highNs < 100 || soon then bump s 0x7401 5
    else
      let cap := timeNs s - cfg s (rindHalf s) 0x7401 4
      let s1 := updTime s fun t => { t with ppsLast := some s.clk, ppsLost := false }
      measure s1 1 (timeFmt cap) (ppsOffset cap * 65536) 0)

/-- PPS_IN_LOST (R402): once per gap. -/
def execPpsInLost (s : State) : Out :=
  .next (if s.time.ppsLost || !s.time.running then s
    else raiseEv (updTime s fun t => { t with ppsLost := true }) (rindHalf s) 43 0 0 0)

/-! ## PTM -/

/-- Host link of PTM dialogues: named, up, and PTM Enable of its PF0 set. -/
def ptmLink (s : State) : Option Nat :=
  let m := cfg s (rindHalf s) 0x7410 1
  if m < 16 && hlUp s m && bit (cs s (64 * m) 0x2B0) 0 then some m else none

/-- PTM_DIALOGUE (R403): a PTM request; the device time at which it leaves is kept. -/
def execPtmDialogue (s : State) : Out :=
  .next (match ptmLink s with
    | some m =>
      if s.time.running && s.pwr.sleep = 0 then
        tlpOut (updTime s fun t => { t with ptm := some (timeNs s * 65536 + t.frac / 65536) }) m .ptmRequest
      else s
    | none => s)

/-- PTM_RESPONSE (R403): the master time at the request's arrival and the propagation delay, both ns, give the
link delay and the offset, as the Base Specification has them (log entry 11); or the dialogue fails. -/
def execPtmResponse (answer : Option (BitVec 64 × BitVec 32)) (s : State) : Out :=
  .next (match s.time.ptm with
    | none => s
    | some t1 =>
      let s1 := updTime s fun t => { t with ptm := none }
      match answer with
      | none => bump s1 0x7410 3
      | some (master, prop) =>
        let t4 := timeNs s * 65536 + s.time.frac / 65536
        let delay := (t4 - t1 - prop.toNat * 65536) / 2
        measure s1 2 (timeFmt (t1 / 65536)) (Int.ofNat (master.toNat * 65536) - Int.ofNat delay - Int.ofNat t1) delay)

/-! ## The servo -/

/-- A field of the servo page. -/
def servoWord (s : State) (c k n : Nat) : Nat := ofBytesLE (readBytes 0 (clus s c).mem (servoOff k) n)

/-- INCR lies within ±1,000 ppm of its nominal value (R398). -/
def incrOk (v : Nat) : Bool :=
  let d := if v < 0xCCCCCCCD then 0xCCCCCCCD - v else v - 0xCCCCCCCD
  decide (d * 1000 ≤ 0xCCCCCCCD)

/-- LOCKED of a correction: lock is taken where a measurement was written within the last 2 s. -/
def servoLock (s : State) : State :=
  let recent := match s.time.mClk with | some c => decide (clkToNs (s.clk - c) ≤ 2000000000) | none => false
  if recent then
    raiseEv (updTime s fun t => { t with uncertain := false, valid := true, locked := true, bound := 0 })
      (rindHalf s) 40 0 0 0
  else s

/-- UNLOCK of a correction: holdover, the bound grows again from here. -/
def servoUnlock (s : State) : State :=
  raiseEv (updTime s fun t => { t with
      uncertain := true, locked := false,
      boundClk := if t.uncertain && !t.locked then t.boundClk else s.clk })
    (rindHalf s) 41 0 0 0

/-- A correction record (R404). -/
def servoAct (s : State) (c : Nat) : State :=
  let incr := servoWord s c 0x88 8
  let step := (BitVec.ofNat 64 (servoWord s c 0x90 8)).toInt
  let flags := servoWord s c 0x98 4
  if incr != 0 && !incrOk incr then raiseEv (bump s 0x7420 2) (rindHalf s) 44 0 0 0
  else
    let s1 := if incr = 0 then s else updTime s fun t => { t with incr := incr }
    let s2 := if step = 0 then s1
      else timeStepped (updTime (timeAdd s1 step) fun t => { t with valid := true }) 3
    let s3 := if flags.testBit 0 then servoLock s2 else s2
    if flags.testBit 1 then servoUnlock s3 else s3

/-- SERVO_POLL (R404): a change of C_SEQ to any value other than 0 is acted on. -/
def execServoPoll (s : State) : Out :=
  .next (match servoCluster s with
    | none => s
    | some c =>
      let n := servoWord s c 0x80 8
      if n == s.time.cSeen || 2 ≤ s.pwr.sleep then s
      else if n = 0 then updTime s fun t => { t with cSeen := 0 }
      else servoAct (updTime s fun t => { t with cSeen := n }) c)

/-! ## Calibration, timestamps, the rind -/

/-- Average of a list of ratios, and the uncertainty: the largest deviation of the last eight from it in
ppb, at least 100. -/
def ratioOf (rs : List Nat) : Nat × Nat :=
  let avg := rs.sum / rs.length
  let dev := (rs.drop (rs.length - 8)).map fun r => ((max r avg - min r avg) * 1000000000) / max avg 1
  (avg, max 100 (dev.foldl max 0))

/-- CALIBRATION_CAPTURE (R406): every second in S0, by the lead steward. -/
def execCalibrationCapture (s : State) : Out :=
  .next (if s.pwr.sleep != 0 || !stewardUp s (rindHalf s) || !s.time.running then s
    else
      let now := timeNs s
      let rs := match s.time.capNs with
        | some (n0, t0) =>
          if t0 < s.time.tick && n0 ≤ now then
            let all := s.time.ratios ++ [(now - n0) * 2 ^ 32 / (s.time.tick - t0)]
            all.drop (all.length - 64)
          else s.time.ratios
        | none => s.time.ratios
      let r := if rs.isEmpty then (s.time.ratio, s.time.unc) else ratioOf rs
      updTime s fun t => { t with capNs := some (now, t.tick), ratios := rs, ratio := r.1, unc := r.2 })

/-- POP of TIME_TSR_POP. -/
def tsrPop (s : State) (h : Half) : State :=
  updTime s fun t => match h with
    | .a => { t with ringA := t.ringA.drop 1, fullA := t.fullA && t.ringA.isEmpty }
    | .b => { t with ringB := t.ringB.drop 1, fullB := t.fullB && t.ringB.isEmpty }

/-- TIME_TSR_POP (R405). -/
def execTimeTsrPop (p : Path) (h : Half) (s : State) : Out :=
  .next (regAct s p (0x01C00210 + 0x40 * halfIdx h) h fun t => tsrPop t h)

/-- RIND_LOST (R408): the flag; with rind power the cave and the tick count are lost too. -/
def execRindLost (powerLost : Bool) (s : State) : Out :=
  let s1 := updTime s fun t => { t with rindLost := true, tick := if powerLost then 0 else t.tick }
  .next (if powerLost then updPwr s1 fun p => { p with cave := CaveSt.reset } else s1)

end Sys2Proof.Machine
end

