-- ==== Sys2Proof/Machine/Upgrade.lean ====
section
/-! DEFINITION. Field upgrade (R428 to R431, R434, R436, R469) and the device key (R358, R416): what a write of
an object of 0x1021 to 0x1023 or of OD 0x1100:01 does and answers, and how erase and verify end. -/

namespace Sys2Proof.Machine

/-- MDP operation statuses (Table 13.5). -/
def stOk : Nat := 0
def stNoObject : Nat := 1
def stNoSub : Nat := 2
def stAccess : Nat := 3
def stNotPriv : Nat := 4
def stType : Nat := 5
def stRange : Nat := 6
def stUnreachable : Nat := 7
def stBusy : Nat := 8
def stLocked : Nat := 9
def stAuth : Nat := 10
def stReject : Nat := 11
def stEpoch : Nat := 12
def stTooLong : Nat := 13
def stUnconfirmed : Nat := 14

/-- An object write: its status, and the state after it. -/
abbrev Wr := Nat × State

/-- The half whose instance serves the device-wide objects for requests entering through half `e` (R17, R19, R329,
R332). -/
def servHalf (s : State) (e : Half) : Half :=
  if isSplit s || (half s e).role == .unresolved || (half s e).role == .orphaned then e else leadHalf s

/-- Upgrade progress as an instance keeps it. -/
def upSt (s : State) (h : Half) : UpSt := if isSplit s && h == .b then s.nv.upB else s.nv.up
def updUp (s : State) (h : Half) (f : UpSt → UpSt) : State :=
  updNv s fun n => if isSplit s && h == .b then { n with upB := f n.upB } else { n with up := f n.up }

/-- An operation runs. -/
def upBusy (s : State) (h : Half) : Bool := (upSt s h).op != .none

/-- R469: refused in LEAD_UNRESOLVED, and outside SPLIT and RECOVERY while the die link is down. -/
def flashShut (s : State) (h : Half) : Bool :=
  (half s h).role == .unresolved ||
  (!isSplit s && !isRecovery s && !(s.sys.a.dlUp && s.sys.b.dlUp))

/-- The slot the half's image runs from; 2 and above: none. -/
def runSlot (s : State) (h : Half) : Nat := (half s h).slot
/-- The running slot is CONFIRMED. -/
def runConfirmed (s : State) (h : Half) : Bool :=
  decide (runSlot s h < 2) && slotState s h (runSlot s h) == .confirmed

/-- A slot-numbered operation of OD 0x1021 or 0x1022: 0 A, 1 B; not on the running slot, not while another
runs (R428). -/
def slotOp (s : State) (h : Half) (v : Nat) (f : State → Wr) : Wr :=
  if 1 < v then (stRange, s)
  else if flashShut s h || upBusy s h || runSlot s h == v then (stAccess, s)
  else f s

/-- Erase: starts in the background. -/
def eraseWr (s : State) (h : Half) (v : Nat) : Wr :=
  slotOp s h v fun t => (stOk, updUp t h fun u => { u with op := .erase v, prog := 1 })

/-- Write base: a multiple of 65,536 below 31 MiB. -/
def baseWr (s : State) (h : Half) (v : Nat) : Wr :=
  if flashShut s h || upBusy s h then (stAccess, s)
  else if v % 65536 != 0 || 31 * 1048576 ≤ v then (stRange, s)
  else (stOk, updUp s h fun u => { u with base := v })

/-- Bytes into a slot of every device a write reaches; the slot becomes WRITTEN. -/
def programSlot (s : State) (h : Half) (sl off : Nat) (bs : List Byte) : State :=
  let s1 := forAll s (flashTargets s h) fun u k => updFlash u k fun f =>
    { f with bytes := writeBytes 0xFF f.bytes (slotBase sl + off) bs }
  setSlotState s1 h sl .written

/-- A segment of the image window, of the slot last erased. -/
def windowWr (s : State) (h : Half) (off : Nat) (bs : List Byte) : Wr :=
  if 65536 < off + bs.length then (stType, s)
  else if flashShut s h || upBusy s h then (stAccess, s)
  else match (upSt s h).last with
    | none => (stAccess, s)
    | some sl =>
      if runSlot s h == sl then (stAccess, s)
      else (stOk, programSlot s h sl ((upSt s h).base + off) bs)

/-- Verify: starts in the background. -/
def verifyWr (s : State) (h : Half) (v : Nat) : Wr :=
  slotOp s h v fun t => (stOk, updUp t h fun u => { u with op := .verify v, prog := 1 })

/-- Activate: a VALID slot becomes TRIAL with 3 attempts, and preferred. -/
def activateWr (s : State) (h : Half) (v : Nat) : Wr :=
  slotOp s h v fun t =>
    if slotState t h v != .valid then (stAccess, t)
    else
      let t1 := forAll t (flashTargets t h) fun u k => updFlash u k fun f =>
        putBootRec f fun r => { r.put v .trial 3 with pref := v }
      (stOk, updUp t1 h fun u => { u with prog := 2 })

/-- Confirm: the running TRIAL slot becomes CONFIRMED (R430). Writing 0 asks for nothing. -/
def confirmWr (s : State) (h : Half) (v : Nat) : Wr :=
  if 1 < v then (stType, s)
  else if flashShut s h then (stAccess, s)
  else if v = 0 then (stOk, s)
  else if runSlot s h < 2 && slotState s h (runSlot s h) == .trial then
    (stOk, setSlotState s h (runSlot s h) .confirmed)
  else (stAccess, s)

/-- Slots whose security version lies below the counter are recorded BAD. -/
def outdated (s : State) (h : Half) : State :=
  forAll s (flashTargets s h) fun u k => forAll u [0, 1] fun w sl =>
    let f := flash w k
    if (bootRec f).state sl != .empty && imgSvn f sl < w.nv.fuses.counter then
      updFlash w k fun g => putBootRec g fun r => r.put sl .bad 0
    else w

/-- Commit: the counter becomes the running image's security version (R431). -/
def commitWr (s : State) (h : Half) (v : Nat) : Wr :=
  if 1 < v then (stType, s)
  else if flashShut s h then (stAccess, s)
  else if v = 0 then (stOk, s)
  else if runConfirmed s h then
    let svn := min 63 (imgSvn (flash s h) (runSlot s h))
    (stOk, outdated (updNv s fun n => { n with fuses := { n.fuses with counter := max n.fuses.counter svn } }) h)
  else (stAccess, s)

/-- Fuse a key slot, 1 to 3, once, with the whole hash. -/
def fuseWr (s : State) (h : Half) (k off : Nat) (hash : List Byte) : Wr :=
  if off != 0 || hash.length != 48 then (stType, s)
  else if flashShut s h || !runConfirmed s h || k = 0 || 3 < k || !(s.nv.fuses.keys.getD k []).isEmpty then
    (stAccess, s)
  else (stOk, updNv s fun n => { n with fuses := { n.fuses with keys := n.fuses.keys.set k hash } })

/-- Revoke a key slot, not the running image's. -/
def revokeWr (s : State) (h : Half) (k : Nat) : Wr :=
  if 3 < k then (stRange, s)
  else if flashShut s h || !runConfirmed s h || imgKey (flash s h) (runSlot s h) == k then (stAccess, s)
  else (stOk, updNv s fun n => { n with fuses := { n.fuses with revoked := n.fuses.revoked.set k true } })

/-- The device key of an instance, where its flash holds one (R416); all zero counts as none (R358). -/
def keyOf (s : State) (h : Half) : Option (List Byte) :=
  let k := (flash s h).key
  if k.length == 32 && k.any (· != 0) then some k else none

/-- A segment of the device key. -/
def keyWr (s : State) (h : Half) (off : Nat) (bs : List Byte) : Wr :=
  if 32 < off + bs.length then (stType, s)
  else if flashShut s h then (stAccess, s)
  else
    let put (old : List Byte) : List Byte :=
      let k := exactly 32 old
      k.take off ++ bs ++ k.drop (off + bs.length)
    (stOk, forAll s (flashTargets s h) fun u k => updFlash u k fun f => { f with key := put f.key })

/-! ## Commands -/

/-- A write of a device-wide object through a path: the privilege check, then the serving instance. -/
def wideAct (s : State) (p : Path) (idx sub : Nat) (f : State → Half → Wr) : State :=
  let h := servHalf s (pathHalf s p)
  objAct s p idx sub h fun t =>
    if (half t h).stewardHalted || (half t (pathHalf t p)).role == .orphaned then t else (f t h).2

/-- ERASE (R429): OD 0x1021:01. -/
def execErase (p : Path) (v : Byte) (s : State) : Out :=
  .next (wideAct s p 0x1021 1 fun t h => eraseWr t h v.toNat)

/-- ERASE_COMPLETE (R429): the slot reads erased and becomes EMPTY. In SPLIT the erase of half A's instance, or
else half B's, ends. -/
def eraseDone (s : State) (h : Half) : Option State :=
  match (upSt s h).op with
  | .erase sl =>
    let s1 := forAll s (flashTargets s h) fun u k => updFlash u k fun f =>
      { f with bytes := clearBytes f.bytes (slotBase sl) (slotBase sl + 31 * 1048576) }
    some (updUp (setSlotState s1 h sl .empty) h fun u => { u with op := .none, prog := 2, last := some sl })
  | _ => none

def execEraseComplete (s : State) : Out :=
  .next (((eraseDone s (leadHalf s)).orElse fun _ => eraseDone s .b).getD s)

/-- IMAGE_WINDOW_WRITE (R429): OD 0x1021:03. -/
def execImageWindowWrite (p : Path) (off : BitVec 16) (data : List Byte) (s : State) : Out :=
  .next (wideAct s p 0x1021 3 fun t h => windowWr t h off.toNat data)

/-- VERIFY (R429): OD 0x1021:04. -/
def execVerify (p : Path) (v : Byte) (s : State) : Out :=
  .next (wideAct s p 0x1021 4 fun t h => verifyWr t h v.toNat)

/-- VERIFY_COMPLETE (R429): VALID or BAD. -/
def verifyDone (s : State) (h : Half) : Option State :=
  match (upSt s h).op with
  | .verify sl =>
    let ok := imageOk s (flash s h) sl
    some (updUp (setSlotState s h sl (if ok then .valid else .bad)) h fun u =>
      { u with op := .none, prog := if ok then 2 else 3 })
  | _ => none

def execVerifyComplete (s : State) : Out :=
  .next (((verifyDone s (leadHalf s)).orElse fun _ => verifyDone s .b).getD s)

/-- ACTIVATE (R429): OD 0x1022:03. -/
def execActivate (p : Path) (v : Byte) (s : State) : Out :=
  .next (wideAct s p 0x1022 3 fun t h => activateWr t h v.toNat)

/-- CONFIRM (R430): OD 0x1022:04. -/
def execConfirm (p : Path) (v : Byte) (s : State) : Out :=
  .next (wideAct s p 0x1022 4 fun t h => confirmWr t h v.toNat)

/-- COMMIT (R431): OD 0x1022:05. -/
def execCommit (p : Path) (v : Byte) (s : State) : Out :=
  .next (wideAct s p 0x1022 5 fun t h => commitWr t h v.toNat)

/-- FUSE_KEY_SLOT (R431): OD 0x1023:01 to :03; key slot 0 has no object and a write of :00 is refused. -/
def execFuseKeySlot (p : Path) (k : Fin 4) (off : BitVec 16) (hash : List Byte) (s : State) : Out :=
  .next (wideAct s p 0x1023 k.val fun t h => fuseWr t h k.val off.toNat hash)

/-- REVOKE_KEY_SLOT (R431): OD 0x1023:04. -/
def execRevokeKeySlot (p : Path) (v : Byte) (s : State) : Out :=
  .next (wideAct s p 0x1023 4 fun t h => revokeWr t h v.toNat)

/-- DEVICE_KEY_WRITE (R358): OD 0x1100:01 through a privileged mailbox or register file; refused over the field
port. -/
def execDeviceKeyWrite (p : Path) (off : BitVec 16) (data : List Byte) (s : State) : Out :=
  .next (match p with
    | .field _ => if pathPriv s p then s else deny s p (denyObj p 0x1100 1)
    | .reg _ _ => regAct s p 0 (servHalf s (pathHalf s p)) fun t => (keyWr t (servHalf t (pathHalf t p)) off.toNat data).2
    | _ => wideAct s p 0x1100 1 fun t h => keyWr t h off.toNat data)

end Sys2Proof.Machine
end

