-- ==== Sys2Proof/Machine/TestCmd.lean ====
section
/-! DEFINITION. Memory self-test (R438, R439), perturbation slots that end (R442, R444), the boundary-scan TAPs
(R445, R446), and the clock and temperature checks of the rind (R460, R463, R466). -/

namespace Sys2Proof.Machine

/-! ## Memory self-test -/

def bist (s : State) : Half → BistSt
  | .a => s.test.bistA
  | .b => s.test.bistB
def updBist (s : State) (h : Half) (f : BistSt → BistSt) : State :=
  updTest s fun t => match h with
    | .a => { t with bistA := f t.bistA }
    | .b => { t with bistB := f t.bistB }

/-- Enabled flows that half `h` acts on. -/
def flowsOn (s : State) (h : Half) : List Nat :=
  ((listed s h 0x5000 0x53FF 8 1).map fun (i, k) => (i - 0x5000) * 16 + (k - 1) / 8).filter (flowEn s h)

/-- An enabled flow is homed in the half (R20). -/
def homesFlow (s : State) (h : Half) : Bool :=
  (flowsOn s h).any fun f => halfOfEnd (sinkNow s (flowSink s h f)) == h

/-- START of TST_BIST_CTRL (R438). While a test runs, a further START changes nothing. -/
def bistGo (s : State) (h : Half) (blocks : Nat) : State :=
  if (bist s h).running then s
  else if isTest s && s.pwr.sleep == 0 && !s.pwr.commit && !homesFlow s h && (enabledSvcs s h).isEmpty then
    updBist s h fun _ => ⟨true, blocks % 32, 0, 0, 0⟩
  else updBist s h fun b => { b with blocks := blocks % 32, result := 3 }

/-- A write of TST_BIST_CTRL: BLOCKS, and START. -/
def bistWrite (s : State) (h : Half) (v : Nat) : State :=
  if v % 2 = 1 then bistGo s h (v / 256)
  else if (bist s h).running then s
  else updBist s h fun b => { b with blocks := v / 256 % 32 }

/-- BIST_START (R438): the register, or OD 0xA010. -/
def execBistStart (p : Path) (h : Half) (blocks : BitVec 5) (s : State) : Out :=
  .next (regOrObj s p (0x01F00010 + 0x40 * halfIdx h) 0xA010 (hsub h) h fun t => bistGo t h blocks.toNat)

/-- The running values after the flow context store of a half reads 0: every configuration word of a flow homed
there. -/
def zeroFlows (s : State) (h : Half) : State :=
  let r := (dictOf s h).run
  let mid := (List.range 131072).filterMap fun i =>
    let idx := 0x5000 + i / 128
    let sub := i % 128 + 1
    let key := okey 0 idx sub
    let v := if halfOfEnd (flowSink s h (i / 8)) == h then 0 else Tab.get (odDefault idx sub) r key
    if v = odDefault idx sub then none else some (key, v)
  updDict s h fun d => { d with
    run := r.filter (fun x => x.1 < okey 0 0x5000 0) ++ mid ++ r.filter (fun x => okey 0 0x5400 0 ≤ x.1) }

/-- What a block's memory held reads 0 (R438, Table 16.2). -/
def bistZero (s : State) (h : Half) (b : Nat) : State :=
  match b with
  | 0 =>
    let gone := s.fab.cells.filter fun c => c.half == h && !inBrine c
    let s1 := forAll s gone fun u c => forAll u c.parts fun w p => dropTxn w p.1
    updFab s1 fun x => { x with cells := x.cells.filter fun c => !(c.half == h && !inBrine c) }
  | 1 =>
    zeroFlows (updFab s fun x => { x with flows := Tab.mapAll FlowSt.reset (fun f v =>
      if halfOfEnd (flowSink s h f) == h then FlowSt.reset else v) x.flows }) h
  | 2 => forAll s (s.fab.txns.filter fun t => t.ihalf == h && t.left != 0) fun u t => dropTxn u t.id
  | 3 =>
    { s with eng := { s.eng with
        engs := Tab.mapAll EngSt.reset (fun e g =>
          if halfOfEng e == h && !isSteward e then { g with mem := [] } else g) s.eng.engs
        cls := Tab.mapAll ClSt.reset (fun c x => if (if c < 12 then Half.a else .b) == h then
          { x with mem := Tab.keep (fun k _ => c % 12 == 0 && 0xC0000 ≤ k && k < 0xFFF00) x.mem } else x) s.eng.cls } }
  | _ =>
    let st := Tab.keep (fun k _ => k / 32768 != halfIdx h) s.brdg.store
    let lo := 8192 * halfIdx h
    let mx := s.host.msix.filter (fun x => x.1 < lo) ++ (span lo 8192).map (fun k => (k, (0 : BitVec 128))) ++
      s.host.msix.filter fun x => lo + 8192 ≤ x.1
    { s with brdg := { s.brdg with store := st }, host := { s.host with msix := mx } }

/-- BIST_COMPLETE (R438, R439): the memories read 0; the failing blocks and the first failing address. -/
def execBistComplete (h : Half) (failed : BitVec 5) (addr : W64) (s : State) : Out :=
  .next (
    let b := bist s h
    if !b.running then s
    else
      let bad := failed.toNat &&& b.blocks
      let s1 := forAll s ((List.range 5).filter fun i => b.blocks.testBit i) fun u i => bistZero u h i
      updBist s1 h fun x => { x with running := false, result := if bad = 0 then 1 else 2, failed := bad,
                                     addr := if bad = 0 then 0 else addr })

/-! ## Perturbation slots -/

/-- A starvation of a LIMIT ends: the withheld advance is sent at once, as far as the units still in the ingress
buffer allow. On a host link the UpdateFC is part of VC0's own flow control. -/
def starveRelease (s : State) (tgt : Nat) (np : Bool) (c : Nat) : State :=
  if tgt < 0x1000 then
    let x := link s tgt
    let held := ((s.fab.txns.filter fun t => srcLink t == some tgt && t.via == tgt && t.left != 0 && t.crCls == c &&
      t.kind == (if np then Kind.np else .p)).map txnCost).sum
    let adv := (if np then x.advNp else x.advP).getD c 0
    let rx := (if np then x.rxNp else x.rxP).getD c 0
    advance s tgt np c ((rx + grant s tgt np c + 4096 - held % 4096 + 4096 - adv) % 4096)
  else s

/-- A kind 6 slot stops acting. -/
def starveEnd (s : State) (i : Nat) : State :=
  starveRelease (updTest s fun t => { t with starved := t.starved.set i false })
    (tpw s i 1) ((tpw s i 2).testBit 0) (tpw s i 2 / 2 % 4)

/-- CREDIT_STARVATION_END (R442): a kind 6 slot's duration ends; 0 lasts until it is disabled. -/
def execCreditStarvationEnd (i : Fin 16) (s : State) : Out :=
  .next (if s.test.starved.getD i.val false && tpOn s i.val 6 && tpw s i.val 3 != 0 then starveEnd s i.val else s)

/-- The link a held completion came on. -/
def delayKey (d : Delayed) : Nat :=
  match d.host, d.link with
  | some x, _ => 0x1000 + x.1
  | none, some x => x.1
  | none, none => 0x2000

/-- Match a held completion now. -/
def delayMatch (s : State) (d : Delayed) : State :=
  match d.host, d.link with
  | some x, _ => hostCplNow s x.1 x.2
  | none, some x => cplNow s x.1 x.2
  | none, none => s

/-- Match what waits only behind the completion just released, up to the next one held by a slot. -/
def delayFollow : Nat → State → Nat → State
  | 0, s, _ => s
  | n + 1, s, k =>
    match s.test.delayed.find? fun d => delayKey d == k with
    | some d =>
      if d.slot = 16 then
        delayFollow n (delayMatch (updTest s fun t => { t with delayed := t.delayed.erase d }) d) k
      else s
    | none => s

/-- Release the first completion a slot holds; arrival order on its link is kept. -/
def delayRelease (s : State) (i : Nat) : State :=
  match s.test.delayed.find? fun d => d.slot == i with
  | none => s
  | some d =>
    match s.test.delayed.find? fun x => delayKey x == delayKey d with
    | some x =>
      if x == d then
        delayFollow s.test.delayed.length
          (delayMatch (updTest s fun t => { t with delayed := t.delayed.erase d }) d) (delayKey d)
      else s
    | none => s

/-- DELAYED_COMPLETION_RELEASE (R442). -/
def execDelayedCompletionRelease (i : Fin 16) (s : State) : Out := .next (delayRelease s i.val)

/-- AG22 of an instance at its defaults, nothing pending (R444). -/
def stopDict (d : DictSt) : DictSt :=
  let own (k : Nat) : Bool := decide (okey 0 0xA000 0 ≤ k) && decide (k < okey 0 0xA010 0)
  { d with run := Tab.keep (fun k _ => !own k) d.run, shadow := Tab.keep (fun k _ => !own k) d.shadow,
           folPrev := Tab.keep (fun k _ => !own k) d.folPrev,
           apply := d.apply.map fun q => { q with gone := q.gone ||| 2 ^ 22 },
           dirty := d.dirty - (d.dirty &&& 2 ^ 22), sealDirty := d.sealDirty || d.sealRun }

/-- 1 written to TST_STOP: every slot of both halves stops; what a starvation withheld is sent. -/
def testStop (s : State) : State :=
  let s1 := forAll s ((List.range 16).filter fun i => s.test.starved.getD i false) starveEnd
  { s1 with dict := stopDict s1.dict, dictB := stopDict s1.dictB }

/-- TST_STOP (R444): the register, or OD 0xA020:01. -/
def execTstStop (p : Path) (s : State) : Out :=
  .next (regOrObj s p 0x01F00000 0xA020 1 (pathHalf s p) testStop)

/-! ## Boundary scan -/

/-- Instructions of Table 16.4 that take the die out of mission use (R446). -/
def tapLeaves (code : Nat) : Bool := decide (3 ≤ code) && decide (code ≤ 7)

/-- TAP_INSTRUCTION_LOAD (R445, R446): codes outside the table act as BYPASS. -/
def execTapInstructionLoad (h : Half) (code : Byte) (s : State) : Out :=
  .next (
    let c : Byte := if 1 ≤ code.toNat && code.toNat ≤ 7 then code else 0xFF
    let off := tapLeaves code.toNat
    updTest s fun t => match h with
      | .a => { t with tapA := c, offA := t.offA || off }
      | .b => { t with tapB := c, offB := t.offB || off })

/-- TRST_N_LOW (R445): both TAPs are in Test-Logic-Reset, which selects IDCODE (log entry 24). Mission use does
not return. -/
def execTrstNLow (s : State) : Out := .next (updTest s fun t => { t with tapA := 0x01, tapB := 0x01 })

/-! ## Clocks and temperature -/

/-- THERMTRIP (R463): latched, THERMTRIP_N and ALERT_N low. -/
def execThermtrip (h : Half) (s : State) : Out :=
  .next (alertOn (updSys s fun y => { y with thermtrip := y.thermtrip.set (halfIdx h) true }) 5)

/-- SYSCLK_ABSENT (R460): 1 ms after RESET_N rose; start-up waits. -/
def execSysclkAbsent (s : State) : Out :=
  .next (if !s.sys.resetLow && s.sys.a.boot == .starter && s.sys.b.boot == .starter then
      alertOn (updSys s fun y => { y with sysclkOk := false, clkStat := y.clkStat - (y.clkStat &&& 1) }) 4
    else s)

/-- CLOCK_CHECK (R460, R466): the presence bits; SYSCLK back releases ALERT_N; without LREFCLK[0] PPS_OUT is
driven low. -/
def execClockCheck (present : BitVec 10) (s : State) : Out :=
  .next (if s.sys.resetLow then s
    else
      let b := present.getLsbD
      let s1 := updSys s fun y => { y with
        clkStat := present.toNat, sysclkOk := b 0, hrefOk := [b 2, b 3, b 4, b 5], lrefOk := [b 6, b 7, b 8, b 9] }
      let s2 := onlyIf (b 0) (fun t => alertOff t 4) s1
      onlyIf (s2.time.ppsOut && !b 6) (fun t => emit (updTime t fun x => { x with ppsOut := false }) (.pulse 0 0)) s2)

/-- ID_CLK_STAT (R466). -/
def clkStatWord (s : State) : Nat :=
  s.sys.clkStat % 1024 + flag (s.sys.thermtrip.getD 0 false) 16 + flag (s.sys.thermtrip.getD 1 false) 17

end Sys2Proof.Machine
end

