-- ==== Sys2Proof/Machine/Check.lean ====
section
/-! DEFINITION. The apply check (R366, R367): every consistency rule of each apply group, judged on the values an
apply would put in force. A failing rule names an object: its group, index and subindex, and the result. -/

namespace Sys2Proof.Machine

/-- A failing rule: group, index, subindex, result (2 APPLY_REJECT, 3 EPOCH_BUSY). -/
structure Bad where
  grp : Nat
  idx : Nat
  sub : Nat
  res : Nat
deriving DecidableEq, Repr

/-- The rule fails when `c` holds. -/
def badIf (c : Bool) (g idx sub : Nat) : List Bad := if c then [⟨g, idx, sub, 2⟩] else []

/-- A value outside `lo` to `hi`. -/
def outside (v lo hi : Nat) : Bool := decide (v < lo) || decide (hi < v)

/-- An object of group `g` outside its range. -/
def rng (t : State) (h : Half) (g idx sub lo hi : Nat) : List Bad := badIf (outside (cfg t h idx sub) lo hi) g idx sub

/-- Elements after the first `n`. -/
def beyond {α : Type} (n : Nat) (l : List α) : List α := l.drop n

/-- Elements that repeat an earlier one by `k`. -/
def repeats {α : Type} (k : α → Nat) (l : List α) : List α :=
  (l.zipIdx.filter fun x => (l.take x.2).any fun y => k y == k x.1).map (·.1)

/-- Running sums of `k` with each element's own included: the elements whose sum exceeds `n`. -/
def overSum {α : Type} (k : α → Nat) (n : Nat) (l : List α) : List α :=
  (l.foldl (fun (a : Nat × List α) x => (a.1 + k x, if n < a.1 + k x then a.2 ++ [x] else a.2)) (0, [])).2

/-- The ranges share a point. -/
def overlap (a n b m : Nat) : Bool := decide (a < b + m) && decide (b < a + n)

/-- Elements that overlap an earlier one, by base and size, within the same `k`. -/
def clashes {α : Type} (k base size : α → Nat) (l : List α) : List α :=
  (l.zipIdx.filter fun x => (l.take x.2).any fun y =>
    k y == k x.1 && overlap (base y) (size y) (base x.1) (size x.1)).map (·.1)

/-! ## AG00, AG01 (R376) -/

def chk00 (t : State) (h : Half) : List Bad :=
  badIf (decide (cfg t h 0x1010 2 < 0x600)) 0 0x1010 2 ++ rng t h 0 0x1010 3 0 1 ++
  badIf (decide (cfg t h 0x1010 5 ≤ cfg t h 0x1010 4)) 0 0x1010 4 ++ rng t h 0 0x1010 5 1 16

def chk01 (t : State) (h : Half) : List Bad := rng t h 1 0x1100 2 1 3600

/-! ## AG02 (R81, R85, R88, R99, R103, R119, R124) -/

def portsOf (h : Half) : List Nat := span (2 * halfIdx h) 2

/-- Division that the check works with. -/
def chkCfg (t : State) (n : Nat) : Nat := cfg t (halfOfHl (4 * n)) (0x2000 + 0x100 * n) 1

/-- Host links present under the division checked against (R81). -/
def chkLinks (t : State) (h : Half) : List Nat :=
  (span (8 * halfIdx h) 8).filter fun m => subPresent (chkCfg t (m / 4)) (m % 4)

/-- Functions of a host link as configured. -/
def chkFns (t : State) (m : Nat) : List Nat := (List.range (min 64 (hlObj t m 3))).map (64 * m + ·)

/-- Functions of present host links, in order. -/
def allFns (t : State) (h : Half) : List Nat := (chkLinks t h).flatMap (chkFns t)

/-- A failing function object. -/
def badFn (c : Bool) (n k : Nat) : List Bad := badIf c 2 (fnIdx (n / 64) k) (n % 64 + 1)

def isWorkerFn (t : State) (n : Nat) : Bool := n % 64 != 0 && fnObj t n 0 == 2

/-- The partner object of a function fails (R119). -/
def partnerBad (t : State) (n : Nat) : Bool :=
  match partnerFn t n with
  | none => false
  | some p =>
    let v := fnObj t n 6
    outside (v / 256) 0 15 || outside (v % 256) 1 63 || p / 64 == n / 64 ||
    fnObj t p 6 != n / 64 * 256 + n % 64 || isWorkerFn t n || isWorkerFn t p

/-- Rules of one function by itself. -/
def chkFn (t : State) (n : Nat) : List Bad :=
  if n % 64 = 0 then badFn (outside (fnObj t n 3) 1 64) n 3
  else
    badFn (outside (fnObj t n 0) 1 2 || (isWorkerFn t n && (!isManager t || outside (fnObj t n 7) 1 15))) n 0 ++
    badFn (outside (fnObj t n 3) 1 2048) n 3 ++ badFn (outside (fnObj t n 4) 20 39) n 4 ++
    badFn (partnerBad t n) n 6

/-- Objects of one host port and its sub-links. -/
def chkPort (t : State) (n : Nat) : List Bad :=
  let h := halfOfHl (4 * n)
  let b := 0x100 * n
  badIf (decide (4 < chkCfg t n)) 2 (0x2000 + b) 1 ++
  (List.range 4).flatMap (fun k =>
    rng t h 2 (0x2001 + b) (k + 1) 1 6 ++ rng t h 2 (0x2004 + b) (k + 1) 500 7000 ++ rng t h 2 (0x2005 + b) (k + 1) 8 4000 ++
    badIf (cfg t h (0x2001 + b) (k + 1) == 6 && cfg t h (0x2002 + b) (k + 1) == 0) 2 (0x2002 + b) (k + 1) ++
    badIf (subPresent (chkCfg t n) k && outside (cfg t h (0x2003 + b) (k + 1)) 1 64) 2 (0x2003 + b) (k + 1)) ++
  badIf (cfg t h (0x200A + b) 1 != 0 && outside (cfg t h (0x200A + b) 1) 16 20) 2 (0x200A + b) 1

def chk02 (t : State) (h : Half) : List Bad :=
  (portsOf h).flatMap (chkPort t) ++ (allFns t h).flatMap (chkFn t) ++
  (overSum (fun n => fnObj t n 3) 8192 (allFns t h)).flatMap fun n => badFn true n 3

/-- Workers of the whole device: at most 15, distinct DEVIDs (R88). -/
def chkWorkers (t : State) (hs : List Half) : List Bad :=
  let ws := (hs.flatMap (allFns t)).filter (isWorkerFn t)
  (beyond 15 ws ++ repeats (fun n => fnObj t n 7) ws).flatMap fun n => badFn true n 0

/-! ## AG06, AG07 (R66, R80, R125, R150, R153) -/

def chk06 (t : State) (h : Half) : List Bad :=
  (portsOf h).flatMap (fun n => rng t h 6 (0x20F0 + 0x100 * n) 1 0 1) ++
  (span (24 * halfIdx h) 24).flatMap fun p => (List.range 4).flatMap fun k =>
    let v := cfg t h (0x3018 + 0x20 * p) (k + 1)
    let pre := v % 32
    let main := v / 256 % 64
    let post := v / 65536 % 32
    badIf (decide (15 < pre) || decide (24 < post) || decide (main < 24) || decide (63 < pre + main + post))
      6 (0x3018 + 0x20 * p) (k + 1)

def chkLp (t : State) (h : Half) (p : Nat) : List Bad :=
  let c := portCfg t p
  let mx := fld c 2 3
  let mn := fld c 8 3
  badIf (portWidth t p == 3 || outside mx 1 4 || outside mn 1 4 || decide (mx < mn) ||
      (portTether t p && portWidth t p != 0) || (!portTether t p && portBond t p != 0) || portBond t p == 7)
    7 (0x3000 + 0x20 * p) 1 ++
  (List.range 16).flatMap fun k =>
    rng t h 7 (0x3005 + 0x20 * p) (k + 1) 9 2047 ++ rng t h 7 (0x3006 + 0x20 * p) (k + 1) 2 2047

def chk07 (t : State) (h : Half) : List Bad := (span (24 * halfIdx h) 24).flatMap (chkLp t h)

/-! ## AG08 (R157, R182) -/

/-- Sub-windows in use: EN = 1 and SIZE other than 0, as function * 8 + w. -/
def inUsed (t : State) (h : Half) : List Nat :=
  ((listed t h (0x4000 + 512 * halfIdx h) (0x41FF + 512 * halfIdx h) 4 1).map fun (i, k) => 8 * (i - 0x4000) + (k - 1) / 4).filter
    fun x => winOn (inw t (x / 8) (x % 8) 0)

/-- A failing word k of a sub-window. -/
def badIn (c : Bool) (x k : Nat) : List Bad := badIf c 8 (0x4000 + x / 8) (4 * (x % 8) + k + 1)

def inBase (t : State) (x : Nat) : Nat := fld (inw t (x / 8) (x % 8) 2) 0 27 * 4096

/-- SPLIT = 1 without its beat's access class. -/
def splitBad (c : W32) (sp bt : Nat) : Bool := bit c sp && !(if bit c bt then bit c 6 else bit c 5)

def chkIn (t : State) (x : Nat) : List Bad :=
  let c := inw t (x / 8) (x % 8) 0
  let tt := fld c 14 2
  let tgt := fld c 16 8
  let base := fld (inw t (x / 8) (x % 8) 3) 0 28 * 4096
  badIn (outside (fld c 8 6) 12 39 || tt == 3 || decide ((if tt = 1 then 23 else 191) < tgt) || fld c 4 4 == 0 ||
      (bit c 1 && (tt != 0 || bit c 2 || outside (fld c 24 5) 1 16)) || splitBad c 2 3) x 0 ++
  badIn (inBase t x % winSize c != 0) x 2 ++
  badIn (decide ((if tt = 1 then 2 ^ 20 else 2 ^ 40) < base + winSize c)) x 3

/-- Outbound entries in use. -/
def outUsed (t : State) (h : Half) : List Nat := (outListed t h).filter fun e => winOn (outw t h e 0)

/-- A failing word k of an entry. -/
def badOut (c : Bool) (e k : Nat) : List Bad := badIf c 8 (0x4400 + e / 16) (8 * (e % 16) + k + 1)

def outT (t : State) (h : Half) (e k : Nat) : Nat :=
  (outw t h e k).toNat / 4096 * 4096 + (outw t h e (k + 1)).toNat * 2 ^ 32

def chkOut (t : State) (h : Half) (e : Nat) : List Bad :=
  let c := outw t h e 0
  let tt := fld c 14 2
  let g := outw t h e 1
  badOut (outside (fld c 8 6) 12 40 || decide (1 < tt) || decide (191 < outSrc c) || fld c 4 4 == 0 || splitBad c 1 2) e 0 ++
  badOut (if tt = 0 then outside (fld g 0 8) 1 63 || decide (15 < fld g 8 8) else decide (191 < fld g 8 8)) e 1 ++
  badOut (outBase t h e % winSize c != 0) e 2 ++
  badOut (decide ((if tt = 0 then 2 ^ 64 else 2 ^ 40) < outT t h e 4 + winSize c)) e 4 ++
  badOut (tt == 0 && decide (2 ^ 64 < outT t h e 6 + winSize c)) e 6

/-- Sub-windows and entries with SPLIT = 1, in index order. -/
def splits (t : State) (hs : List Half) : List (Bool × Nat) :=
  ((hs.flatMap (inUsed t)).filter fun x => bit (inw t (x / 8) (x % 8) 0) 2).map (fun x => (false, x)) ++
  (((outUsed t (hs.headD .a)).filter fun e => bit (outw t (hs.headD .a) e 0) 1).map fun e => (true, e))

def chk08 (t : State) (hs : List Half) : List Bad :=
  let h := hs.headD .a
  let ins := hs.flatMap (inUsed t)
  let outs := outUsed t h
  rng t h 8 0x4800 1 1 10000 ++ rng t h 8 0x4800 2 10 1000000 ++
  ins.flatMap (chkIn t) ++ outs.flatMap (chkOut t h) ++
  (clashes (· / 8) (inBase t) (fun x => winSize (inw t (x / 8) (x % 8) 0)) ins).flatMap (fun x => badIn true x 2) ++
  (clashes (fun e => outSrc (outw t h e 0)) (outBase t h) (fun e => winSize (outw t h e 0)) outs).flatMap
    (fun e => badOut true e 2) ++
  (beyond 64 (splits t hs)).flatMap fun x => if x.1 then badOut true x.2 0 else badIn true x.2 0

/-! ## AG09, AG10 (R21, R51, R216, R242) -/

def chk09 (t : State) (h : Half) : List Bad :=
  let qs := (listed t h (0x5400 + 128 * halfIdx h) (0x547F + 128 * halfIdx h) 8 1).map
    fun (i, k) => (i - 0x5400) * 8 + (k - 1) / 8
  let badQ (q : Nat) : List Bad := badIf true 9 (0x5400 + q / 8) (8 * (q % 8) + 1)
  let on := qs.filter (dqEn t)
  (qs.filter fun q => outside (dqw t q 0 / 256 % 16) 4 15).flatMap badQ ++
  (on.zipIdx.filter fun x => 64 ≤ ((on.take x.2).filter fun p => dqOwner t p == dqOwner t x.1).length).flatMap
    fun x => badQ x.1

/-- A failing word k of a flow. -/
def badFlow (c : Bool) (f k : Nat) : List Bad := badIf c 10 (0x5000 + f / 16) (8 * (f % 16) + k + 1)

/-- A number within the range of its end type. -/
def endInRange (v : Nat) : Bool :=
  decide (v % 4096 < (match v / 4096 % 4 with | 0 => 1024 | 1 => 192 | 2 => 192 | _ => 2048))

def chkFlow (t : State) (h : Half) (f : Nat) : List Bad :=
  let a := fld (fw t h f 1) 0 14
  let b := fld (fw t h f 1) 16 14
  let pBad := match flowPartner t h f with
    | some p => !flowEn t h p || flowSrc t h p != flowSink t h f || flowSink t h p != flowSrc t h f
    | none => false
  badFlow (pBad || (flowCls t h f == 0 && flowBrine t h f)) f 0 ++
  badFlow (b / 4096 == 3 || a == b || !endInRange a || !endInRange b) f 1 ++
  badFlow (flowRate t h f != 0 && outside (flowBurst t h f) 1024 16777216) f 3 ++
  badFlow (decide (flowCeil t h f < flowGuar t h f) ||
    (flowRate t h f != 0 && decide (flowCeil t h f * 256 < flowBurst t h f))) f 5 ++
  badFlow (flowWeight t h f == 0) f 7

/-- Enabled flows homed in half `g`, as `h`'s instance has them. -/
def homedIn (t : State) (h g : Half) : List Nat := (flowsOn t h).filter fun f => halfOfEnd (flowSink t h f) == g

def chk10 (t : State) (hs : List Half) : List Bad :=
  let h := hs.headD .a
  (flowsOn t h).flatMap (chkFlow t h) ++
  ((c0Misfit t t.pwr.level (c0Flows t h)).map fun f => badFlow true f 4).getD [] ++
  hs.flatMap fun g =>
    let fs := homedIn t h g
    (beyond 8192 fs).flatMap (fun f => badFlow true f 0) ++
    (overSum (flowGuar t h) (262144 - 8192 - cfg t g 0x5600 (hsub g)) (fs.filter fun f => flowCls t h f != 0)).flatMap
      (fun f => badFlow true f 5) ++
    badIf ((bist t g).running && !fs.isEmpty) 10 0xA010 1

/-! ## AG11 to AG14 (R184, R195, R213, R225, R239) -/

/-- Key rules of one half (R225, R267): `live e` says whether something is still held under epoch e. -/
def keyRule (t o : State) (h : Half) (g keys cur : Nat) (live : Nat → Bool) : List Bad :=
  let e := cfg o h cur (hsub h) % 2
  let sub (k : Nat) : Nat := 2 * halfIdx h + k + 1
  let changed (k : Nat) : Bool := cfg t h keys (sub k) != cfg o h keys (sub k)
  badIf (changed e) g keys (sub e) ++
  (if changed (1 - e) && live (1 - e) then [⟨g, keys, sub (1 - e), 3⟩] else [])

/-- Brine segments of an epoch held in a half. -/
def segsOf (s : State) (h : Half) (e : Nat) : Nat :=
  (s.fab.cells.filter fun c => c.half == h && (match c.place with | .brine _ k _ => k == e | _ => false)).length

def chk11 (t o : State) (h : Half) : List Bad :=
  let b := hsub h
  let c := cfg t h 0x5602 b
  let m := cfg t h 0x5603 b
  let busy := (o.fab.cells.any fun x => x.half == h && inBrine x)
  rng t h 11 0x5600 b 2048 65536 ++
  (List.range 3).flatMap (fun k => rng t h 11 0x5601 (k + 1) 256 65536) ++
  badIf (c % 4 == 3 || c / 32 % 4 == 3 || (busy && c != cfg o h 0x5602 b)) 11 0x5602 b ++
  badIf (outside (m % 32) 4 12 || outside (m / 256 % 32) 6 18 || outside (m / 65536 % 32) 4 19 ||
    outside (m / 2 ^ 24) 4 125 || (busy && m != cfg o h 0x5603 b)) 11 0x5603 b ++
  keyRule t o h 11 0x5604 0x5605 (fun e => segsOf o h e != 0) ++ rng t h 11 0x5605 b 0 1

def chk12 (t : State) (h : Half) : List Bad :=
  (span (128 * halfIdx h) 128).flatMap fun n =>
    badIf (outside (semCount t n) 1 8) 12 (0x5A00 + n) 1 ++
    rng t h 12 (0x5A00 + n) 2 10 1000000 ++ rng t h 12 (0x5A00 + n) 3 10 10000000

/-- Enabled mirror groups of a half. -/
def mgUsed (t : State) (h : Half) : List Nat :=
  ((listed t h (0x5C00 + 256 * halfIdx h) (0x5CFF + 256 * halfIdx h) 256 1).map fun x => x.1 - 0x5C00).filter (mgEn t)

/-- Bytes of a group's host table (Tables 07.3, 07.4). -/
def mgTable (t : State) (g : Nat) : Nat := 64 + 8 * mgCount t g

def chkMg (t : State) (h : Half) (g : Nat) : List Bad :=
  let b := 0x5C00 + g
  let addr (k : Nat) : Bool :=
    let a := cfg t h b (k + 1)
    a % 64 != 0 || decide (2 ^ 64 < a + mgTable t g)
  badIf (decide (191 < mgLink t g) || halfOfLink (mgLink t g) != h || decide (7 < mgStretchMax t g)) 13 b 1 ++
  badIf (decide (4096 < mgCount t g) || decide (4096 < mgFirst t g + mgCount t g)) 13 b 2 ++
  badIf (decide (32768 < mgStore t g + mgCount t g)) 13 b 3 ++
  badIf (outside (mgPeriod t g) 2 1000000) 13 b 4 ++ badIf (addr 4) 13 b 5 ++ badIf (addr 5) 13 b 6

def chk13 (t : State) (h : Half) : List Bad :=
  let gs := mgUsed t h
  gs.flatMap (chkMg t h) ++
  (clashes (fun _ => 0) (mgStore t) (mgCount t) gs).flatMap (fun g => badIf true 13 (0x5C00 + g) 3) ++
  (clashes (mgLink t) (mgFirst t) (mgCount t) gs).flatMap (fun g => badIf true 13 (0x5C00 + g) 2) ++
  (span (8 * halfIdx h) 8).flatMap fun m => rng t h 13 0x5E20 (m + 1) 100 400000

def chk14 (t : State) (h : Half) : List Bad :=
  (span (96 * halfIdx h) 96).flatMap fun l => rng t h 14 0x5E10 (l + 1) 50 1000000

/-! ## AG16, AG17 (R267, R271, R276) -/

/-- An engine is one of the cluster's (stewards never belong to a service). -/
def engIn (c e : Nat) : Bool := !isSteward e && e / 8 == c

/-- A flow is assigned to an engine of the cluster. -/
def clusterAssigned (o : State) (c : Nat) : Bool :=
  o.fab.flows.any fun (_, x) => match x.assigned with | some e => engIn c e | none => false

/-- An enabled flow names an engine of the clusters. -/
def flowNames (t : State) (h : Half) (cs : List Nat) : Bool :=
  (flowsOn t h).any fun f => [flowSrc t h f, flowSink t h f].any fun e => match e with
    | .eng x => cs.any fun c => engIn c x
    | _ => false

/-- Clusters of the half that a mask names, by device number. -/
def clustersOf (h : Half) (mask : Nat) : List Nat := (span (12 * halfIdx h) 12).filter (inMask mask)

/-- Clusters that service v leaves: out of CLUSTERS, or the service disabled. -/
def leaving (t o : State) (h : Half) (v : Nat) : List Nat :=
  if svcEn o v then
    (clustersOf h (svcClusters o v)).filter fun c => !(svcEn t v && inMask (svcClusters t v) c)
  else []

def chkSvc (t o : State) (h : Half) (v : Nat) : List Bad :=
  let b := 0x6000 + v
  let shared := (svcsOf h).any fun u => decide (u < v) && svcEn t u && (svcClusters t u &&& svcClusters t v) != 0
  let lv := leaving t o h v
  let gone := !lv.isEmpty && (lv.any (clusterAssigned o) || flowNames t h (clustersOf h (svcClusters o v)))
  badIf ((svcEn t v && shared) || gone) 16 b 1 ++
  badIf (svcEn t v && (findProgram t h (svcProg t v) (svcTargetVer t v)).isNone) 16 b 2 ++
  badIf (svcEn t v && (svcRot t v &&& svcClusters t v) != svcRot t v) 16 b 3

/-- Flows of a half assigned under a dispatch epoch. -/
def assignedUnder (o : State) (h : Half) (e : Nat) : Bool :=
  o.fab.flows.any fun (_, x) => match x.assigned with
    | some g => halfOfEng g == h && x.asgEpoch == (e == 1)
    | none => false

def chk16 (t o : State) (hs : List Half) : List Bad :=
  let h0 := hs.headD .a
  rng t h0 16 0x6042 1 110 1000 ++ rng t h0 16 0x6042 2 1 1000 ++
  hs.flatMap fun h =>
    let q := cfg t h 0x6043 (hsub h)
    (svcsOf h).flatMap (chkSvc t o h) ++
    keyRule t o h 16 0x6040 0x6041 (assignedUnder o h) ++ rng t h 16 0x6041 (hsub h) 0 1 ++
    badIf (q != 0xFF && (q / 16 != halfIdx h || !svcEn t q)) 16 0x6043 (hsub h) ++
    badIf ((bist t h).running && (svcsOf h).any (svcEn t)) 16 0xA010 1

/-- Enabled sources of a half. -/
def srcsOn (t : State) (h : Half) : List Nat :=
  ((listed t h (0x6800 + 512 * halfIdx h) (0x69FF + 512 * halfIdx h) 8 1).map
    fun (i, k) => (i - 0x6800) * 16 + (k - 1) / 8).filter (srcEn t)

/-- A failing word k of a source. -/
def badSrc (c : Bool) (n k : Nat) : List Bad := badIf c 17 (0x6800 + n / 16) (8 * (n % 16) + k + 1)

def srcOrigin (t : State) (n : Nat) : Nat := fld (sw t n 0) 8 2
def srcOrigId (t : State) (n : Nat) : Nat := fld (sw t n 1) 0 10
def isInternal (n : Nat) : Bool := 8064 ≤ n % 8192

def chkSrc (t : State) (h : Half) (n : Nat) : List Bad :=
  badSrc (isInternal n && (srcLevel t n || srcOrigin t n != 0)) n 0 ++
  badSrc (srcOrigin t n == 1 && decide (191 < srcOrigId t n)) n 1 ++
  (if srcHost t n then
    badSrc (halfOfHl (srcFunc t n / 64) != h) n 4 ++ badSrc (srcVector t n == 0) n 5
  else
    badSrc ((sw t n 3).toNat % 4 != 0) n 3 ++ badSrc (sw t n 4 == 0 && sw t n 5 == 0 && sw t n 6 == 0) n 4)

def chk17 (t : State) (h : Half) : List Bad :=
  (srcsOn t h).flatMap (chkSrc t h) ++
  (span (96 * halfIdx h) 96).flatMap (fun e => rng t h 17 0x6C00 (e + 1) 0 1000000) ++
  (span (256 * halfIdx h) 256).flatMap fun g => rng t h 17 (0x6C10 + g / 128) (g % 128 + 1) 0 100000000

/-! ## AG18 to AG22 (R322, R336, R343, R391, R411, R441) -/

def chk18 (t : State) (h : Half) : List Bad := rng t h 18 0x8000 1 100 1000000 ++ rng t h 18 0x8000 2 1 65535

/-- Tether ports of a bond, or the port alone. -/
def sameTether (t : State) (p q : Nat) : Bool :=
  p == q || (portBond t p != 0 && portBond t p == portBond t q && halfOfLp p == halfOfLp q)

def chk19 (t : State) (h : Half) : List Bad :=
  (span 1 15).flatMap fun d =>
    let p := cfg t h 0x9005 d
    let twice := (span 1 (d - 1)).any fun e => decide (cfg t h 0x9005 e < 48) && sameTether t p (cfg t h 0x9005 e)
    badIf (p != 0xFF && (decide (47 < p) || !portTether t p || twice)) 19 0x9005 d

/-- Entries of the keep list. -/
def keepEntries (bs : List Byte) : List (Nat × Nat × Nat) :=
  (List.range (bs.length / 4)).map fun i =>
    let e := (bs.drop (4 * i)).take 4
    (ofBytesLE (e.take 2), ofBytesLE ((e.drop 2).take 1), ofBytesLE (e.drop 3))

/-- Saved bytes of an object: a 4-byte header and the value padded to 4 bytes. -/
def savedLen (idx sub : Nat) : Nat := match odFind idx sub with | some r => 4 + 4 * ceilDiv r.ty.bytes 4 | none => 0

/-- The keep list fails (R391). -/
def keepBad (bs : List Byte) : Bool :=
  let es := keepEntries bs
  bs.length % 4 != 0 || decide (1024 < es.length) ||
  (es.any fun e => e.2.2 != 0 || match odFind e.1 e.2.1 with
    | some r => r.acc != .rwa || r.grp == 20
    | none => true) ||
  decide (40960 < (es.map fun e => savedLen e.1 e.2.1).sum)

def chk20 (t : State) (h : Half) : List Bad :=
  rng t h 20 0x7000 1 0 3 ++
  badIf (cfg t h 0x7002 1 != 0 && outside (cfg t h 0x7002 1) 10 1000000) 20 0x7002 1 ++
  badIf (keepBad (dictOf t h).keepRun) 20 0x7080 1

/-- The half whose services may be the time service. -/
def timeHalf (t : State) : Half := if isSplit t then .a else leadHalf t

def chk21 (t : State) (h : Half) : List Bad :=
  let v := cfg t h 0x7420 1
  rng t h 21 0x7400 7 100 50000 ++ rng t h 21 0x7401 1 0 3 ++ rng t h 21 0x7401 2 1 500000 ++
  rng t h 21 0x7401 3 0 1000000 ++ rng t h 21 0x7401 4 0 1000000 ++
  badIf (cfg t h 0x7410 1 != 0xFF && decide (15 < cfg t h 0x7410 1)) 21 0x7410 1 ++
  rng t h 21 0x7410 2 100 1000000 ++
  badIf (v != 0xFF && (decide (31 < v) || halfOfSvc v != timeHalf t || !svcEn t v)) 21 0x7420 1 ++
  (List.range 4).flatMap fun n =>
    badIf ((cfg t h (0x7430 + n) 1).testBit 2 && cfg t h (0x7430 + n) 2 == 0) 21 (0x7430 + n) 2

/-- A link named as Table 16.3 codes it: in the half, and existing by number. -/
def tgtLink (h : Half) (v : Nat) : Bool := decide (v < 192) && halfOfLink v == h
def tgtHl (h : Half) (v : Nat) : Bool := decide (v < 16) && halfOfHl v == h
def tgtEither (h : Half) (v : Nat) : Bool := if v < 0x1000 then tgtLink h v else tgtHl h (v - 0x1000)

/-- TGT of a kind lies in range and in the slot's half. -/
def tgtOk (h : Half) (kind v : Nat) : Bool :=
  match kind with
  | 1 => tgtEither h v
  | 2 => decide (v < 32)
  | 3 => decide (v / 512 = 0) && tgtLink h (v % 256)
  | 4 => tgtLink h v
  | 5 => tgtHl h v
  | 6 => tgtEither h v
  | 7 => decide (v / 4096 = 0) && (match v / 256 with
    | 1 => decide (v % 256 < 4) && decide (v % 256 / 2 = halfIdx h)
    | 2 => decide (v % 256 < 48) && halfOfLp (v % 256) == h
    | 3 => decide (v % 256 < 24) && decide (v % 256 / 12 = halfIdx h)
    | 4 => decide (v % 256 < 16) && halfOfBc (v % 256) == h
    | _ => false)
  | _ => false

/-- Ranges of P1 and P2 of a kind. -/
def pertRange (kind : Nat) : (Nat × Nat) × (Nat × Nat) :=
  let any := (0, 0xFFFFFFFF)
  match kind with
  | 1 => ((1, 1000000), (1, 65535))
  | 2 => ((1, 65535), (0, 65535))
  | 3 => ((1, 16), (1, 65535))
  | 4 => ((0, 15), any)
  | 6 => ((0, 7), any)
  | 7 => ((1, 8), any)
  | _ => (any, any)

/-- The kind may be used in the mode. -/
def kindMode (t : State) (kind : Nat) : Bool :=
  match kind with
  | 1 | 3 => !isRecovery t
  | 2 | 4 | 5 | 6 | 7 => isTest t
  | _ => false

def chk22 (t : State) (h : Half) : List Bad :=
  let slots := (span (8 * halfIdx h) 8).filter fun i => (tpw t i 0).testBit 0
  let kind (i : Nat) : Nat := tpw t i 0 / 2 % 8
  slots.flatMap (fun i =>
    badIf (!kindMode t (kind i)) 22 (0xA000 + i) 1 ++
    badIf (!tgtOk h (kind i) (tpw t i 1)) 22 (0xA000 + i) 2 ++
    badIf (outside (tpw t i 2) (pertRange (kind i)).1.1 (pertRange (kind i)).1.2) 22 (0xA000 + i) 3 ++
    badIf (outside (tpw t i 3) (pertRange (kind i)).2.1 (pertRange (kind i)).2.2) 22 (0xA000 + i) 4) ++
  (repeats (fun i => kind i + 8 * tpw t i 1) slots).flatMap fun i => badIf true 22 (0xA000 + i) 1

/-! ## The check -/

/-- Groups that exist (Table 13.10). -/
def groups : List Nat := [0, 1, 2, 6, 7, 8, 9, 10, 11, 12, 13, 14, 16, 17, 18, 19, 20, 21, 22, 31]

/-- Every rule of one group, on the hypothetical state `t`; `o` is the state as it runs. -/
def chkGroup (t o : State) (hs : List Half) (g : Nat) : List Bad :=
  let h := hs.headD .a
  match g with
  | 0 => chk00 t h
  | 1 => chk01 t h
  | 2 => hs.flatMap (chk02 t) ++ chkWorkers t hs
  | 6 => hs.flatMap (chk06 t)
  | 7 => hs.flatMap (chk07 t)
  | 8 => chk08 t hs
  | 9 => hs.flatMap (chk09 t)
  | 10 => chk10 t hs
  | 11 => hs.flatMap (chk11 t o)
  | 12 => hs.flatMap (chk12 t)
  | 13 => hs.flatMap (chk13 t)
  | 14 => hs.flatMap (chk14 t)
  | 16 => chk16 t o hs
  | 17 => hs.flatMap (chk17 t)
  | 18 => chk18 t h
  | 19 => chk19 t h
  | 20 => chk20 t h
  | 21 => chk21 t h
  | 22 => hs.flatMap (chk22 t)
  | _ => []

/-- The lower of two failing objects: group, then index, then subindex (R368). -/
def badMin (a b : Bad) : Bad :=
  if a.grp < b.grp then a else if b.grp < a.grp then b
  else if a.idx < b.idx then a else if b.idx < a.idx then b
  else if b.sub < a.sub then b else a

/-- The object reported. -/
def firstBad : List Bad → Option Bad
  | [] => none
  | x :: l => some (l.foldl badMin x)

/-- Groups a mask names. -/
def maskGroups (mask : Nat) : List Nat := groups.filter fun g => mask.testBit g

/-- The objects of a key belong to a named group. -/
def keyNamed (mask key : Nat) : Bool :=
  match odFind (key / 256) (key % 256) with | some r => mask.testBit r.grp | none => false

/-- Running values with the snapshot of the named groups in place of them. -/
def overlay (run : Tab Nat) (snap : Tab (Option Nat)) (mask : Nat) : Tab Nat :=
  snap.foldl (fun r (k, v) => match v with
    | some x => if keyNamed mask k then Tab.set (odDefault (k / 256) (k % 256)) r k x else r
    | none => r) run

/-- A dictionary as an accepted request would leave it. -/
def applied (d : DictSt) (q : ApplyReq) : DictSt :=
  { d with run := overlay d.run q.snap q.mask,
           keepRun := if q.mask.testBit 20 then q.keep.getD d.keepRun else d.keepRun }

/-- Halves whose objects an instance serves. -/
def servedHalves (s : State) (h : Half) : List Half := if ownB s then [h] else [.a, .b]

/-- Does the request fail? The rules of every named group on the values it would put in force (R366, R367). -/
def applyBad (s : State) (h : Half) (q : ApplyReq) : Option Bad :=
  let o := updDict s h fun d => { d with folWait := false }
  let t := updDict s h fun d => { applied d q with folWait := false }
  firstBad ((maskGroups q.mask).flatMap (chkGroup t o (servedHalves s h)))

end Sys2Proof.Machine
end

