-- ==== Sys2Proof/Machine/Cut.lean ====
section
/-! DEFINITION. What happens at an apply cut (R18, R365, R368), half by half: the links that leave Active, the
windows, queues, flows, semaphores, groups, services and sources that change, and the judgements a new
configuration calls for. `o` is the state before the cut, `s` the state with the new values in force. -/

namespace Sys2Proof.Machine

/-! ## AG02 -/

/-- Every function number. -/
def fnNumbers : List Nat := List.range 1024

/-- Pairs that the cut forms or dissolves: the primary of a new pair is active (R119). -/
def cutPairs (o s : State) : State :=
  forAll s (fnNumbers.filter fun n => partnerFn o n != partnerFn s n) fun u n =>
    updFn u n fun x => { x with
      active := (partnerFn u n).isSome && primaryOf u n == n, noHost := false, switching := false }

/-- LTR messages whose value changed (R112). -/
def cutLtr (o s : State) (h : Half) : State :=
  forAll s ((span (8 * halfIdx h) 8).filter fun m =>
    hlObj o m 7 != hlObj s m 7 && hlUp s m && (hl s m).dlActive && ltrEn s (64 * m)) sendLtr

/-! ## AG07 -/

/-- WIDTH, MAX_GEN, MIN_GEN or PERSONALITY differ. -/
def portChanged (o n : State) (p : Nat) : Bool :=
  (portCfg o p &&& 0x171F#32) != (portCfg n p &&& 0x171F#32)

/-- Sub-links of a changed port leave Active with reason 9; an attempt under way is given up (R125). Judged and
done under the old values. -/
def cutPorts (s n : State) (h : Half) : State :=
  forAll s ((span (24 * halfIdx h) 24).filter (portChanged s n)) fun u p =>
    forAll u (span (4 * p) 4) fun v l =>
      if linkActive v l then leaveActive v l 9
      else if (link v l).st != .detect then updLink (toDetect v l) l fun x => { x with reason := 9, nextGen := 0 }
      else v

/-- A larger grant is advertised at once (R144). -/
def cutGrants (o s : State) (h : Half) : State :=
  forAll s ((span (96 * halfIdx h) 96).filter (linkActive s)) fun u l =>
    forAll u [(false, 0), (false, 1), (false, 2), (false, 3), (true, 0), (true, 1), (true, 2), (true, 3)] fun v k =>
      advance v l k.1 k.2 (grant s l k.1 k.2 - grant o l k.1 k.2)

/-! ## AG08 -/

/-- Configuration or dormancy of a sub-window differs. -/
def winChanged (o s : State) (n w : Nat) : Bool :=
  ((List.range 4).any fun k => inw o n w k != inw s n w k) || inDormant o n w != inDormant s n w

/-- An aperture offset lies in the sub-window. -/
def inWindow (o : State) (n w off : Nat) : Bool :=
  let base := fld (inw o n w 2) 0 27 * 4096
  winOn (inw o n w 0) && decide (base ≤ off) && decide (off < base + winSize (inw o n w 0))

/-- Units and slots of changed sub-windows are invalidated (R178). -/
def cutWindows (o s : State) (h : Half) : State :=
  let s1 := pfInvalidate s (fun u => pfHalf u == h && winChanged o s u.fn u.w) 1
  forAll s1 ((s1.host.fns.map (·.1)).filter fun n => halfOfHl (n / 64) == h && (fn s1 n).slotVal &&
    (List.range 8).any fun w => winChanged o s n w && inWindow o n w (fn s1 n).slotTag) fun u n => slotInvalidate u n 1

/-- The windows of an inserted link have been applied again (R313, R317). -/
def cutApplied (s : State) (h : Half) : State :=
  forAll s ((s.links.filter fun (l, x) => halfOfLink l == h && 2 ≤ x.contain && x.present).map (·.1)) fun u l =>
    updLink u l fun x => { x with applied := true }

/-- The same of workers. -/
def cutAppliedWorkers (s : State) : State :=
  forAll s ((span 1 15).filter fun d => (worker s d).1 == 4 && (worker s d).2.1) fun u d =>
    updWorker u d fun x => (x.1, x.2.1, true, x.2.2.2)

/-! ## AG09, AG10 -/

/-- Queues enabled by the cut begin a record pass with PHASE 1 (R234). -/
def cutQueues (o s : State) (h : Half) : State :=
  forAll s ((span (1024 * halfIdx h) 1024).filter fun q => dqEn s q && !dqEn o q) fun u q =>
    updDq u q fun d => { d with phase := true, passed := 0 }

/-- Every configuration word of the flow was written (R306). -/
def wholeFlow (snap : Tab (Option Nat)) (f : Nat) : Bool :=
  (List.range 8).all fun k => (Tab.get none snap (okey 0 (0x5000 + f / 16) (8 * (f % 16) + k + 1))).isSome

/-- A flow enabled by the cut: every state word returns to 0, but for what describes cells still held; TOKENS
starts at BURST (R215, R219). -/
def flowEnabled (s : State) (h : Half) (f : Nat) : State :=
  updFlow s f fun x => { FlowSt.reset with
    epoch := x.epoch, paused := x.paused, assigned := x.assigned, asgEpoch := x.asgEpoch, nextEv := x.nextEv,
    failed := x.failed, tokens := if flowRate s h f = 0 then 0 else (flowBurst s h f : Nat), tokClk := s.clk,
    bpSince := if x.paused then some s.clk else none }

/-- TOKENS of a flow that stays enabled: refilled under the old rate, clamped to the new BURST; a flow that
becomes shaped starts at BURST (R218, R219). -/
def flowRetuned (o s : State) (h : Half) (f : Nat) : State :=
  let x := refilled o h f
  if flowRate s h f = 0 then s
  else if flowRate o h f = 0 then
    updFlow s f fun y => { y with tokens := (flowBurst s h f : Nat), tokClk := s.clk, frac := 0 }
  else updFlow s f fun y => { y with
    tokens := min x.tokens (flowBurst s h f : Nat), tokClk := s.clk, frac := x.frac }

/-- Flows homed in the half after the cut (in SPLIT, those of its own instance). -/
def cutFlows (o s : State) (h : Half) (snap : Tab (Option Nat)) : State :=
  let fs := (flowsOn s h).filter fun f => halfOfEnd (flowSink s h f) == h
  forAll s fs fun u f =>
    let v := if flowEn o h f then flowRetuned o u h f else flowEnabled u h f
    if wholeFlow snap f then updFlow v f fun x => { x with failed := false } else v

/-! ## AG11 to AG13 -/

/-- A changed brine configuration or timing: the half's channels train again (R239). -/
def cutBrine (o s : State) (h : Half) : State :=
  let b := hsub h
  if cfg o h 0x5602 b != cfg s h 0x5602 b || cfg o h 0x5603 b != cfg s h 0x5603 b then
    updBrine s h fun x => { x with trained := false, down := false }
  else s

/-- Semaphores that the cut disables, or whose count changes (R190). -/
def cutSems (o s : State) (h : Half) : State :=
  forAll s ((span (128 * halfIdx h) 128).filter fun n => semEn o n || semEn s n) fun u n =>
    if semEn o n && !semEn s n then semDisable u n else semServe (sem u n).waiters.length u n

/-- Words and addresses of a group differ. -/
def mgChanged (o s : State) (g : Nat) : Bool := (List.range 6).any fun k => mgw o g k != mgw s g k

/-- Groups that the cut changes begin again at sequence 1; one that it enables also counts SUPERSEDED from 0 and
is not paused (R198, R200). -/
def cutGroups (o s : State) (h : Half) : State :=
  forAll s ((mgsOf h).filter (mgChanged o s)) fun u g =>
    let r := (mg u g).reason
    let v := mgRestart u g
    if mgEn s g && !mgEn o g then updMg v g fun x => { x with superseded := 0 }
    else updMg v g fun x => { x with reason := r }

/-! ## AG19 to AG22 -/

/-- Workers under a new expectation: found, lost, or miswired (R316, R336). -/
def cutWorkers (o s : State) : State :=
  if !isManager s then s
  else
    let s1 := forAll s (span 1 15) fun u d =>
      if reachable u d then insertWorker u d else if (worker u d).1 == 1 then loseWorker u d else u
    forAll s1 (((s1.links.map (·.1)).filter fun l => miswired s1 l && !miswired o l)) tetherCheck

/-- A comparator rewritten by the apply is armed afresh (R395). -/
def cutComparators (s : State) (snap : Tab (Option Nat)) : State :=
  forAll s ((List.range 4).filter fun n =>
      [1, 2, 3].any fun k => (Tab.get none snap (okey 0 (0x7430 + n) k)).isSome) fun u n =>
    updTime u fun t => { t with fired := t.fired.set n false, tcAdv := t.tcAdv.set n 0 }

/-- Another time service is named: its measurements count from 0, and what its page holds is not new (R404). -/
def cutServo (o s : State) : State :=
  if cfg o (rindHalf s) 0x7420 1 == cfg s (rindHalf s) 0x7420 1 then s
  else updTime s fun t => { t with
    mSeq := 0, cSeen := match servoCluster s with | some c => servoWord s c 0x80 8 | none => 0 }

/-- Slots that the cut enables, changes or disables (R440, R442). -/
def cutSlots (o s : State) (h : Half) : State :=
  forAll s ((span (8 * halfIdx h) 8).filter fun i => (List.range 4).any fun k => tpw o i k != tpw s i k) fun u i =>
    let u1 := updTest u fun t => { t with
      cnts := t.cnts.set i 0, seen := t.seen.set i 0, starved := t.starved.set i false }
    let u2 := if u.test.starved.getD i false
      then starveRelease u1 (tpw o i 1) ((tpw o i 2).testBit 0) (tpw o i 2 / 2 % 4) else u1
    if tpOn s i 6 then tpAct (updTest u2 fun t => { t with starved := t.starved.set i true }) i else u2

/-! ## The cut of one half -/

/-- What half `h` does when it acts on the cut. -/
def cutHalf (o s : State) (h : Half) (mask : Nat) (snap : Tab (Option Nat)) : State :=
  let on (g : Nat) (f : State → State) (t : State) : State := onlyIf (mask.testBit g) f t
  let s1 := on 2 (fun t => cutLtr o t h) s
  let s2 := on 7 (fun t => cutGrants o t h) s1
  let s3 := on 8 (fun t => cutApplied t h) (cutWindows o s2 h)
  let s4 := on 10 (fun t => cutFlows o t h snap) (on 9 (fun t => cutQueues o t h) s3)
  let s5 := on 12 (fun t => cutSems o t h) (on 11 (fun t => cutBrine o t h) s4)
  let s6 := on 13 (fun t => cutGroups o t h) s5
  let s7 := on 16 (fun t => svcCut t h (enabledSvcs o h)) s6
  let s8 := on 22 (fun t => cutSlots o t h) (if mask.testBit 17 then evcCut s7 h else forAll s7 (span (8 * halfIdx h) 8) intxUpdate)
  settle (forAll s8 ((s8.brdg.dqs.map (·.1)).filter fun q => halfOfDq q == h) dqAdvance)

/-- What the leading instance does once for the device. -/
def cutDevice (o s : State) (h : Half) (mask : Nat) (snap : Tab (Option Nat)) : State :=
  let on (g : Nat) (f : State → State) (t : State) : State := onlyIf (mask.testBit g) f t
  let s1 := on 8 cutAppliedWorkers (on 2 (cutPairs o) s)
  let s2 := on 19 (cutWorkers o) (on 10 (fun t => c0Judge t t.pwr.level) s1)
  if h == rindHalf s then
    on 20 levelGo (on 21 (fun t => cutServo o (cutComparators t snap)) s2)
  else s2

/-- A half acts on a cut: `put` brings the new values into force for it. `lead`: it is the instance that
generates the cut. -/
def actCut (s : State) (h : Half) (lead : Bool) (put : State → State) (mask : Nat) (snap : Tab (Option Nat)) : State :=
  let s1 := put (onlyIf (mask.testBit 7) (fun t => cutPorts t (put t) h) s)
  let s2 := if lead then cutDevice s s1 h mask snap else s1
  cutHalf s s2 h mask snap

end Sys2Proof.Machine
end

