-- ==== Sys2Proof/Machine/Lanes.lean ====
section
/-! DEFINITION. Serial lanes and the bring-up of local sub-links (R57 to R79, R126 to R140, R468, R470):
detection, training, the three locks, exchange, loss, lane controls, margins. -/

namespace Sys2Proof.Machine

/-! ## Lane numbering (R57) -/

def isHostLane (n : Nat) : Bool := decide (192 ≤ n)

/-- The host link whose width holds a host lane. -/
def hlOfLane (s : State) (n : Nat) : Nat :=
  let h := n - 192
  let p := h / 16
  let k := ((List.range 4).reverse.find? fun k => subPresent (cfgActive s p) k && decide (4 * k ≤ h % 16)).getD 0
  4 * p + k

def halfOfLane (s : State) (n : Nat) : Half :=
  if isHostLane n then halfOfHl (hlOfLane s n) else halfOfLink n

/-- Address of a lane register (R79). -/
def laneReg (n off : Nat) : Nat :=
  if isHostLane n then 0x300000 + 0x400 * (n - 192) + off else 0x600000 + 0x400 * n + off

/-- The Dalfel sub-link of a local lane, where one is configured and its half's links run. -/
def laneLink (s : State) (n : Nat) : Option Nat :=
  if isHostLane n then none
  else
    let l := linkOfLane s n
    if linkExists s l && linksOn s (halfOfLink l) then some l else none

/-! ## Generations (R129, R468) -/

def maxGen (s : State) (l : Nat) : Nat := fld (portCfg s (l / 4)) 2 3
def minGen (s : State) (l : Nat) : Nat := fld (portCfg s (l / 4)) 8 3

/-- The sub-link is in Lock, Exchange or Active. -/
def pastTrain (x : LlSt) : Bool := x.st == .lock || x.st == .exchange || x.st == .active

/-- Another sub-link of the port is past Train. -/
def siblingUp (s : State) (l : Nat) : Bool :=
  (List.range 4).any fun k => 4 * (l / 4) + k != l && pastTrain (link s (4 * (l / 4) + k))

/-- Generation of the sub-link's next attempt. -/
def attemptGen (s : State) (l : Nat) : Nat :=
  let pg := Tab.get 0 s.sys.portGen (l / 4)
  if siblingUp s l && pg != 0 then pg
  else if (link s l).nextGen = 0 then maxGen s l
  else (link s l).nextGen

/-- Next lower generation; below MIN_GEN the sequence starts again at MAX_GEN. -/
def stepDown (s : State) (l g : Nat) : Nat := if g ≤ minGen s l then maxGen s l else g - 1

/-- An attempt fails (R129): DOWN blocks where the failure calls for them, electrical idle, the next
generation, TRAIN_FAIL and the reason. Under the port's generation there is no step (R468). -/
def failAttempt (s : State) (l : Nat) (downs reason : Option Nat) : State :=
  let g := (link s l).gen
  let next := if siblingUp s l && Tab.get 0 s.sys.portGen (l / 4) != 0 then (link s l).nextGen else stepDown s l g
  let s1 := match downs with | some r => sendDown s l r | none => s
  let s2 := toDetect s1 l
  updLink s2 l fun x => { x with evt := x.evt ||| 4, nextGen := next, reason := reason.getD x.reason }

/-- A failure in Train by timeout, loss of signal or a GEN mismatch: reason 1 at MIN_GEN, else none. -/
def failTrain (s : State) (l : Nat) : State :=
  failAttempt s l none (if (link s l).gen = minGen s l then some 1 else none)

/-- Signal, block lock or alignment lock is lost on a lane (R129, R140). -/
def lockLost (s : State) (l : Nat) : State :=
  let x := link s l
  let any := (lanesOf s l).any fun n => (lane s n).cwLock || (lane s n).blkLock || (lane s n).aligned
  match x.st with
  | .train => s
  | .lock => if any then failAttempt s l (some 5) (some 5) else s
  | .exchange => failAttempt s l (some 5) (some 5)
  | .active => leaveActive s l 5
  | .detect => s

/-! ## Detect and Train (R64, R126 to R128) -/

/-- LANE_DETECT_STEP (R64, R126): PRESENT follows what the step finds; a sub-link with every lane present
enters Train. -/
def execLaneDetectStep (n : LaneNo) (found : Bool) (s : State) : Out :=
  .next (if isHostLane n.val then
      if portsOn s (halfOfLane s n.val) && !(hl s (hlOfLane s n.val)).dlActive then
        updLane s n.val fun x => { x with present := found }
      else s
    else match laneLink s n.val with
      | none => s
      | some l =>
        if (link s l).st != .detect || (link s l).idle || !s.sys.lrefOk.getD (l / 48) true then s
        else
          let s1 := updLane s n.val fun x => { x with present := found }
          if (lanesOf s1 l).all (fun k => (lane s1 k).present) && !(link s1 l).forceDown then
            updLink s1 l fun x => { x with st := .train, gen := attemptGen s1 l }
          else s1)

/-- CDR_LOCK (R67): the lane recovers its clock. -/
def execCdrLock (n : LaneNo) (s : State) : Out :=
  .next (updLane s n.val fun x => { x with cdr := true, sig := true })

/-- A margin readout stops before its end: INVALID and MRG_ABORT (R78). -/
def marginAbort (s : State) (n : Nat) : State :=
  if (lane s n).mrgBusy then
    updLane s n fun x => { x with mrgBusy := false, mrgCtrl := x.mrgCtrl &&& 6,
                                  mrgRes := x.mrgRes ||| 0xC0000000, evt := x.evt ||| 0x40 }
  else s

/-- CDR_LOCK_LOSS (R78): the clock is lost, and a readout in progress with it. -/
def execCdrLockLoss (n : LaneNo) (s : State) : Out :=
  .next (marginAbort (updLane s n.val fun x => { x with cdr := false }) n.val)

/-- ADAPTED (R67, R69): the equalisers have converged at the values given; DFE_FREEZE keeps the present
ones. -/
def execAdapted (n : LaneNo) (dfe0 dfe1 dfe2 : W32) (ctle : BitVec 5) (s : State) : Out :=
  .next (if !(lane s n.val).cdr then s
    else updLane s n.val fun x =>
      if bit x.ctrl 3 then { x with adapt := true }
      else { x with adapt := true, dfe0 := dfe0, dfe1 := dfe1, dfe2 := dfe2, ctle := ctle.toNat })

/-- PRBS_CHECK_DONE (R69): RX_READY where the errors in 2^24 bits are within the limit. -/
def execPrbsCheckDone (n : LaneNo) (errors : Nat) (s : State) : Out :=
  .next (match laneLink s n.val with
    | none => s
    | some l =>
      let limit := if (link s l).gen = 1 then 0 else 160
      if (link s l).st == .train && (lane s n.val).adapt && decide (errors ≤ limit) then
        updLane s n.val fun x => { x with rxReady := true }
      else s)

/-- The sub-link's own READY. -/
def ownReady (s : State) (l : Nat) : Bool := (lanesOf s l).all fun n => (lane s n).rxReady

/-- READY = 1 has been received on every lane: ACK. -/
def ownAck (s : State) (l : Nat) : Bool := (List.range (linkLanes s l)).all fun i => (link s l).rdySeen.getD i false

/-- The partner's part of R128: 4 consecutive words with READY and ACK on every lane. -/
def partnerReady (s : State) (l : Nat) : Bool :=
  (List.range (linkLanes s l)).all fun i => decide (4 ≤ (link s l).rdyCount.getD i 0)

/-- The first sub-link of a port to enter Lock sets its generation; a sibling in Train at another one
fails at once (R468). -/
def enterLock (s : State) (l : Nat) : State :=
  let g := (link s l).gen
  let alone := !siblingUp s l
  let s1 := updLink s l fun x => { x with st := .lock }
  if alone then
    let s2 := updSys s1 fun y => { y with portGen := Tab.set 0 y.portGen (l / 4) g }
    forAll s2 (List.range 4) fun u k =>
      let m := 4 * (l / 4) + k
      if m != l && (link u m).st == .train && (link u m).gen != g then failAttempt u m none none else u
  else s1

/-- A training status word: valid where CHECK is the complement of its low half. -/
def statusValid (w : W64) : Bool := fld w 16 16 == 65535 - fld w 0 16

/-- TRAINING_FRAME (R68, R127 to R129): an inverted pattern turns the lane's polarity; a valid status word
of another generation fails the attempt; READY and ACK are gathered. A frame without marker carries no
word. -/
def execTrainingFrame (l : LL) (lane_ : Fin 4) (word : W64) (marker inverted : Bool) (s : State) : Out :=
  let k := l.val
  let i := lane_.val
  let n := k + i
  .next (if laneLink s k != some k || (link s k).st != .train || linkLanes s k ≤ i then s
    else if inverted && !bit (lane s n).ctrl 8 then updLane s n fun x => { x with inv := !x.inv }
    else if !marker || !statusValid word then s
    else if fld word 2 3 != (link s k).gen then failTrain s k
    else
      let rdy := bit word 0
      let ack := bit word 1
      updLink s k fun x => { x with
        rdySeen := x.rdySeen.mapIdx fun j b => b || (j == i && rdy)
        rdyCount := x.rdyCount.mapIdx fun j c =>
          if j == i then (if 4 ≤ c then c else if rdy && ack then c + 1 else 0) else c })

/-- TRAINING_FRAME_SENT (R127, R128): the end sends its word on a lane; after 16 frames with ACK on every
lane since R128's other conditions held it enters Lock. -/
def execTrainingFrameSent (l : LL) (lane_ : Fin 4) (s : State) : Out :=
  let k := l.val
  let i := lane_.val
  .next (if laneLink s k != some k || (link s k).st != .train || linkLanes s k ≤ i then s
    else
      let low := flag (ownReady s k) 0 + flag (ownAck s k) 1 + (link s k).gen * 4
      let s1 := emit s (.training k i (BitVec.ofNat 64 (low + (65535 - low) * 65536)))
      if ownReady s1 k && ownAck s1 k && partnerReady s1 k then
        let s2 := updLink s1 k fun x => { x with sentAck := setAt x.sentAck i (x.sentAck.getD i 0 + 1) }
        if (List.range (linkLanes s2 k)).all fun j => decide (16 ≤ (link s2 k).sentAck.getD j 0) then enterLock s2 k
        else s2
      else s1)

/-- TRAIN_TIMEOUT (R129). -/
def execTrainTimeout (l : LL) (s : State) : Out :=
  .next (if (link s l.val).st == .train then failTrain s l.val else s)

/-- LOCK_TIMEOUT (R129). -/
def execLockTimeout (l : LL) (s : State) : Out :=
  .next (if (link s l.val).st == .lock then failAttempt s l.val (some 2) (some 2) else s)

/-- EXCHANGE_TIMEOUT (R129). -/
def execExchangeTimeout (l : LL) (s : State) : Out :=
  .next (if (link s l.val).st == .exchange then failAttempt s l.val (some 3) (some 3) else s)

/-- ELECTRICAL_IDLE_END (R129, R140): the sub-link is in Detect again. -/
def execElectricalIdleEnd (l : LL) (s : State) : Out :=
  .next (if (link s l.val).st == .detect then updLink s l.val fun x => { x with idle := false } else s)

/-- SIGNAL_LOSS (R129, R140): in Train the attempt fails; later the lock is lost. -/
def execSignalLoss (n : LaneNo) (s : State) : Out :=
  let s1 := updLane s n.val fun x => { x with sig := false }
  .next (match laneLink s1 n.val with
    | none => s1
    | some l => if (link s1 l).st == .train then failTrain s1 l else lockLost s1 l)

/-! ## Locks (R70 to R75) -/

/-- The lane's line code has FEC: local G1 with FEC, G2, G3; host flit mode at 64 GT/s. -/
def laneFec (s : State) (n : Nat) : Bool :=
  if isHostLane n then (hl s (hlOfLane s n)).flit && (hl s (hlOfLane s n)).rate == 6
  else decide (2 ≤ (link s (linkOfLane s n)).gen)

/-- Symbols a codeword of a local lane's code can correct (R61). -/
def fecT (s : State) (n : Nat) : Nat := if (link s (linkOfLane s n)).gen = 2 then 7 else 15

/-- A kind 3 slot that damages the codewords a local lane receives (R442). -/
def damageSlot (s : State) (n : Nat) : Option Nat := (List.range 16).find? fun i => tpOn s i 3 && tpw s i 1 == n

/-- A codeword as the decoder found it (R70): under lock symbols and words are counted and 4 uncorrectable
codewords in a row lose it; hunting, 3 good ones in a row gain it. -/
def codewordGot (s : State) (n : Nat) (uncorrectable : Bool) (corrected : Nat) : State :=
  updLane s n fun x =>
      if isHostLane n then
        if uncorrectable then { x with fecUnc := (x.fecUnc + 1) % 2 ^ 64 }
        else { x with fecCorr := (x.fecCorr + corrected) % 2 ^ 64 }
      else if x.cwLock then
        if uncorrectable then
          if 4 ≤ x.cwBad + 1 then
            { x with fecUnc := (x.fecUnc + 1) % 2 ^ 64, cwLock := false, cwGood := 0, cwBad := 0, evt := x.evt ||| 1 }
          else { x with fecUnc := (x.fecUnc + 1) % 2 ^ 64, cwBad := x.cwBad + 1 }
        else { x with fecCorr := (x.fecCorr + corrected) % 2 ^ 64, cwBad := 0 }
      else if uncorrectable then { x with cwGood := 0 }
      else if 3 ≤ x.cwGood + 1 then { x with cwLock := true, cwGood := 0, cwBad := 0 }
      else { x with cwGood := x.cwGood + 1 }

/-- CODEWORD_RECEIVE (R70): a codeword with so many symbols in error on the line. A kind 3 slot inverts P1
further symbols of every P2-th one before the decoder sees it (R442). -/
def execCodewordReceive (n : LaneNo) (uncorrectable : Bool) (corrected : Nat) (s : State) : Out :=
  let up := if isHostLane n.val then (hl s (hlOfLane s n.val)).dlActive
    else match laneLink s n.val with | some l => pastTrain (link s l) | none => false
  .next (if !up || !laneFec s n.val then s
    else match damageSlot s n.val with
      | none => codewordGot s n.val uncorrectable corrected
      | some i =>
        let d := everyNth s i
        let k := if d.1 then corrected + tpw s i 2 else corrected
        codewordGot d.2 n.val (uncorrectable || d.1 && decide (fecT s n.val < k)) k)

/-- XOR of the bytes of a block's contents. -/
def xorBytes (c : W64) : Nat := (bytesLE 8 c.toNat).foldl (fun a b => a ^^^ b.toNat) 0

/-- Bits set among the low 64. -/
def ones64 (n : Nat) : Nat := ((List.range 64).filter fun i => n.testBit i).length

/-- Control block types of Table 05.4. -/
def knownBlock (t : Nat) : Bool := [0x1E, 0xA5, 0x2D, 0x4B, 0x55, 0x66, 0x87, 0x99].contains t

/-- A header reaches a lane's block lock: 64 valid ones gain it, 16 invalid among the last 64 lose it.
Answers whether it was lost. -/
def blockHeader (x : LaneSt) (valid : Bool) : LaneSt × Bool :=
  let y := if valid then x else { x with hdrErr := sat32 (x.hdrErr + 1) }
  if y.blkLock then
    let w := (y.blkWin * 2 + (if valid then 0 else 1)) % 2 ^ 64
    if 16 ≤ ones64 w then ({ y with blkLock := false, blkGood := 0, blkWin := 0, evt := y.evt ||| 2 }, true)
    else ({ y with blkWin := w }, false)
  else if !valid then ({ y with blkGood := 0 }, false)
  else if 64 ≤ y.blkGood + 1 then ({ y with blkLock := true, blkGood := 0, blkWin := 0 }, false)
  else ({ y with blkGood := y.blkGood + 1 }, false)

/-- BLOCK_RECEIVE (R70, R71, R75, R131): a block that overlaps an uncorrectable codeword is not counted;
an elastic-buffer overflow is a slip; a control block of a reserved type is counted and ignored. -/
def execBlockReceive (l : LL) (lane_ : Fin 4) (sync : BitVec 2) (content : W64) (bufferError : Bool) (s : State) : Out :=
  let k := l.val
  let n := k + lane_.val
  .next (if laneLink s k != some k || !pastTrain (link s k) || linkLanes s k ≤ lane_.val then s
    else if laneFec s n && (!(lane s n).cwLock || (lane s n).cwBad != 0) then s
    else
      let valid := sync == 1 || sync == 2
      let r := blockHeader (lane s n) valid
      let s1 := updLane s n fun _ => { r.1 with bip := r.1.bip ^^^ xorBytes content }
      let s2 := onlyIf bufferError (fun t => updLane t n fun x =>
        { x with evt := x.evt ||| 0x10, slips := sat32 (x.slips + 1) }) s1
      let s3 := onlyIf (sync == 2 && (lane s2 n).aligned && !knownBlock (content.toNat % 256) &&
          ((link s2 k).st == .exchange || (link s2 k).st == .active)) (fun t => bumpR t (llReg k 0x028)) s2
      if r.2 then lockLost s3 k else s3)

/-- WIDTH code of a sub-link: 0 x1, 1 x2, 2 x4. -/
def widthCode (s : State) (l : Nat) : Nat := match linkLanes s l with | 4 => 2 | 2 => 1 | _ => 0

/-- The content of a valid ALIGN for a sub-link of this width (Table 03.4). -/
def alignValid (w : Nat) (c : W64) : Bool :=
  fld c 0 8 == 0xA5 && fld c 14 2 == w && fld c 8 4 == 0 && fld c 24 8 == 255 - fld c 16 8 &&
  fld c 40 24 == 0x69963C

/-- Every lane has alignment: the skew and the indices decide (R74). -/
def deskew (s : State) (l : Nat) : State :=
  let ls := lanesOf s l
  if !(ls.all fun n => (lane s n).aligned) || (link s l).st != .lock then s
  else
    let idxs := ls.map fun n => (lane s n).logical
    if (ls.any fun n => decide (128 < (lane s n).skew)) || idxs.eraseDups.length != ls.length then
      forAll s ls fun u n => updLane u n fun x =>
        { x with aligned := false, alnSeq := 0, evt := x.evt ||| 8 }
    else
      updLink (forAll s ls fun u n => updLane u n fun x => { x with deskew := true }) l
        fun x => { x with st := .exchange }

/-- ALIGN (R72 to R74): what stands at an expected position; two valid ones with one index gain alignment
lock, 4 misses lose it; BIP-8 is checked; all lanes aligned, the sub-link is deskewed. -/
def execAlign (l : LL) (lane_ : Fin 4) (content : W64) (skew : Nat) (s : State) : Out :=
  let k := l.val
  let n := k + lane_.val
  .next (if laneLink s k != some k || !pastTrain (link s k) || linkLanes s k ≤ lane_.val || !(lane s n).blkLock then s
    else
      let x := lane s n
      let idx := fld content 12 2
      let ok := alignValid (widthCode s k) content
      let bad := ok && fld content 16 8 != x.bip
      let y := { x with bip := 0, bipErr := if bad && x.aligned then sat32 (x.bipErr + 1) else x.bipErr, skew := skew }
      if x.aligned then
        if ok && idx == x.logical then updLane s n fun _ => { y with alnSeq := 0 }
        else if 4 ≤ x.alnSeq + 1 then
          lockLost (updLane s n fun _ => { y with aligned := false, alnSeq := 0, evt := y.evt ||| 4 }) k
        else updLane s n fun _ => { y with alnSeq := x.alnSeq + 1 }
      else if !ok then updLane s n fun _ => { y with alnSeq := 0 }
      else if x.alnSeq = 1 && idx == x.logical then
        deskew (updLane s n fun _ => { y with aligned := true, alnSeq := 0 }) k
      else updLane s n fun _ => { y with alnSeq := 1, logical := idx })

/-! ## Exchange and Active (R138, R139, R149) -/

/-- The capability frame the bridge sends (Table 05.9). -/
def ownFrame (s : State) (l : Nat) : List Byte :=
  let role := if isTether s l then 2 else 1
  let devid := s.sys.straps.devid.toNat
  let gens := ((List.range 4).filter fun g => decide (minGen s l ≤ g + 1) && decide (g + 1 ≤ maxGen s l)).map (2 ^ ·)
  let body : List Byte :=
    [1, BitVec.ofNat 8 (flag (link s l).frameOk 7 + role * 32 + devid), BitVec.ofNat 8 gens.sum,
     BitVec.ofNat 8 (widthCode s l + 4 * (l % 4)), 0x0F, 0, 0x1F, 0] ++
    (List.range 12).map Config.designByte ++ List.replicate 8 0
  body ++ bytesLE 4 (crc32c body).toNat

/-- A frame's CRC is good. -/
def frameValid (f : List Byte) : Bool :=
  f.length == 32 && ofBytesLE (f.drop 28) == (crc32c (f.take 28)).toNat

/-- Ordering lanes of a bond that are not at an idle point: packets unacknowledged on a member, or a
transaction part-sent. -/
def busyLanes (s : State) (l : Nat) : List Nat :=
  let h := halfOfLink l
  let ms := bondMembers s l
  let a := ms.flatMap fun m => ((link s m).replay.filter fun r => r.pkt.typ != 0).map fun r => laneKey s h r.pkt.flow.toNat
  let b := (s.fab.txns.filter fun t => t.sent != 0 && (match t.sink with | .link k => ms.contains k | _ => false)).map
    fun t => laneKey s h t.flow
  (a ++ b).eraseDups

/-- A member returns to Active: lanes that are not idle stay where they are until they are (R150). -/
def bondReturn (s : State) (l : Nat) : State :=
  if portBond s (l / 4) = 0 || !anyActive s l then s
  else
    let ks := busyLanes s l
    let ms := ks.map (laneMember s l)
    updFab s fun x => { x with bonds := Tab.set (([], []) : List Nat × List Nat) x.bonds (bondKey s l) (ks, ms) }

/-- Entry to Active (R139): sequence numbers and credit start afresh, the grants are advertised, LINK_UP;
then containment, the hierarchy and a tether's wiring take note. -/
def enterActive (s : State) (l : Nat) : State :=
  let s0 := bondReturn s l
  let f := (link s0 l).frame
  let g (np : Bool) := (List.range 4).map (grant s0 l np)
  let z : List Nat := [0, 0, 0, 0]
  let s1 := updLink s0 l fun x => { x with
    st := .active, evt := x.evt ||| 1, txSeq := 0, rxSeq := 0, rxAcked := 0, nakSent := false, replay := [], owed := [],
    ackedSeq := 0, limP := z, limNp := z, conP := z, conNp := z, maxP := z, maxNp := z, gotP := false,
    gotNp := false, rxP := z, rxNp := z, advP := g false, advNp := g true, annSeq := none, ping := none,
    role := (f.getD 1 0).toNat / 32 % 4, devid := (f.getD 1 0).toNat % 16, malCount := 0 }
  let s2 := creditBlock (creditBlock s1 l false) l true
  let s3 := if isTether s2 l && s2.sys.straps.devid == 0 && (link s2 l).devid == 0 && (link s2 l).role == 2 then
      managerConflict s2 l else s2
  insertLink (tetherCheck s3 l) l

/-- CAPF (R138): a frame with a good CRC is kept; one that does not list the generation or the width in
force fails the attempt with reason 4. -/
def execCapf (l : LL) (frame : List Byte) (s : State) : Out :=
  let k := l.val
  .next (if laneLink s k != some k || (link s k).st != .exchange || !frameValid frame then s
    else
      let s1 := updLink s k fun x => { x with frame := frame }
      let gens := (frame.getD 2 0).toNat
      if !gens.testBit ((link s1 k).gen - 1) || (frame.getD 3 0).toNat % 4 != widthCode s1 k then
        failAttempt s1 k (some 4) (some 4)
      else updLink s1 k fun x => { x with
        frameOk := true, ackFrame := x.ackFrame || (frame.getD 1 0).getLsbD 7 })

/-- CAPABILITY_FRAME_SENT (R138): two frames with ACK after the partner's ACK enter Active. -/
def execCapabilityFrameSent (l : LL) (s : State) : Out :=
  let k := l.val
  .next (if laneLink s k != some k || (link s k).st != .exchange then s
    else
      let s1 := emit s (.block k (.capf (ownFrame s k)))
      if (link s1 k).frameOk && (link s1 k).ackFrame then
        let s2 := updLink s1 k fun x => { x with capSent := x.capSent + 1 }
        if 2 ≤ (link s2 k).capSent then enterActive s2 k else s2
      else s1)

/-- DOWN (R129, R140): received in Active, the link goes down; in Lock or Exchange the attempt fails. -/
def execDown (l : LL) (reason : BitVec 8) (s : State) : Out :=
  let k := l.val
  let _ := reason
  .next (match (link s k).st with
    | .active => leaveActive s k 7
    | .lock | .exchange => failAttempt s k none (some 7)
    | _ => s)

/-- BOND_LANE_MOVE_BACK (R150): a lane at its idle point uses the members now in Active. -/
def execBondLaneMoveBack (h : Half) (group : Fin 7) (f : FlowNo) (s : State) : Out :=
  let key := halfIdx h * 8 + group.val
  let b := Tab.get (([], []) : List Nat × List Nat) s.fab.bonds key
  let k := laneKey s h f.val
  let l := (((List.range 48).filter fun p => halfOfLp p == h && portBond s p == group.val && portTether s p).headD 0) * 4
  .next (if group.val = 0 || (busyLanes s l).contains k then s
    else
      let keep := (b.1.zip b.2).filter fun p => p.1 != k
      updFab s fun x => { x with bonds := Tab.set (([], []) : List Nat × List Nat) x.bonds key (keep.map (·.1), keep.map (·.2)) })

/-! ## Lane controls (R67, R68, R77, R79, R437) -/

/-- Put a field of LANE_CTRL; all its fields are sealed (Table 13.11). -/
def setCtrl (s : State) (n lo len v : Nat) : State :=
  let s1 := updLane s n fun x =>
    { x with ctrl := BitVec.ofNat 32 (x.ctrl.toNat - place (fld x.ctrl lo len) lo len + place v lo len) }
  sealTouch s1 (halfOfLane s n) ((lane s n).ctrl != (lane s1 n).ctrl)

/-- Is a loop available on the lane (Tables 03.5, 16.1)? A host lane's near-end loops need its port
disabled: held in reset by PERST_N (DEDUCED, log entry 18). -/
def loopAllowed (s : State) (n v : Nat) : Bool :=
  if isHostLane n then
    v == 0 || ((v == 1 || v == 2) && s.sys.perst.getD ((n - 192) / 16) false)
  else v == 0 || ((v == 1 || v == 2) && isTest s) || (v == 3 && !isRecovery s)

/-- LOOP of a lane is written: refused, or selected; a loop on a lane of an active sub-link takes it down
with reason 8. -/
def setLoop (s : State) (n v : Nat) : State :=
  if 4 ≤ v || !loopAllowed s n v then
    let s1 := if v < 4 && !(isHostLane n && v == 3) then setCtrl s n 0 3 0 else s
    updLane s1 n fun x => { x with evt := x.evt ||| 0x20 }
  else
    let s1 := setCtrl s n 0 3 v
    if v != 0 then
      match laneLink s1 n with
      | some l => leaveActive s1 l 8
      | none => s1
    else s1

/-- LANE_LOOP_SET (R77, R437). -/
def execLaneLoopSet (p : Path) (n : LaneNo) (v : BitVec 3) (s : State) : Out :=
  .next (regAct s p (laneReg n.val 0) (halfOfLane s n.val) fun t => setLoop t n.val v.toNat)

/-- LANE_DFE_FREEZE (R67): holds or frees the equaliser values. -/
def execLaneDfeFreeze (p : Path) (n : LaneNo) (v : Bool) (s : State) : Out :=
  .next (regAct s p (laneReg n.val 0) (halfOfLane s n.val) fun t => setCtrl t n.val 3 1 (if v then 1 else 0))

/-- PRBS_GEN and PRBS_CHK are available outside RECOVERY; code 3 is reserved (R77, R437). -/
def setPrbs (s : State) (n lo v : Nat) : State := if isRecovery s || v = 3 then s else setCtrl s n lo 2 v

/-- LANE_PRBS_GEN_SET (R77): starts or stops the generator. -/
def execLanePrbsGenSet (p : Path) (n : LaneNo) (v : BitVec 2) (s : State) : Out :=
  .next (regAct s p (laneReg n.val 0) (halfOfLane s n.val) fun t => setPrbs t n.val 4 v.toNat)

/-- LANE_PRBS_CHK_SET (R77): starts or stops the checker. -/
def execLanePrbsChkSet (p : Path) (n : LaneNo) (v : BitVec 2) (s : State) : Out :=
  .next (regAct s p (laneReg n.val 0) (halfOfLane s n.val) fun t => setPrbs t n.val 6 v.toNat)

/-- LANE_POL_FORCE_SET (R68, Table 03.7): POL_FORCE with TX_INV and RX_INV. -/
def execLanePolForceSet (p : Path) (n : LaneNo) (force txInv rxInv : Bool) (s : State) : Out :=
  .next (regAct s p (laneReg n.val 0) (halfOfLane s n.val) fun t =>
    setCtrl t n.val 8 3 (flag force 0 + flag txInv 1 + flag rxInv 2))

/-- A lane's counters at 0. -/
def clearLaneCounts (s : State) (n : Nat) : State :=
  updLane s n fun x => { x with fecCorr := 0, fecUnc := 0, hdrErr := 0, bipErr := 0, slips := 0, prbsErr := 0 }

/-- LANE_CNT_CLR (R79). -/
def execLaneCntClr (p : Path) (n : LaneNo) (s : State) : Out :=
  .next (regAct s p (laneReg n.val 0) (halfOfLane s n.val) fun t => clearLaneCounts t n.val)

/-! ## Margins (R78) -/

/-- A readout starts; one under way ignores the write. -/
def marginGo (s : State) (n eye : Nat) : State :=
  if (lane s n).mrgBusy then s
  else updLane s n fun x => { x with mrgBusy := true, mrgCtrl := BitVec.ofNat 32 (1 + 2 * eye),
                                     mrgRes := x.mrgRes &&& 0x7FFFFFFF }

/-- MARGIN_START (R78). -/
def execMarginStart (p : Path) (n : LaneNo) (eye : BitVec 2) (s : State) : Out :=
  .next (regAct s p (laneReg n.val 0x40) (halfOfLane s n.val) fun t => marginGo t n.val eye.toNat)

/-- MARGIN_DONE (R78, Table 03.11). -/
def execMarginDone (n : LaneNo) (left right : BitVec 6) (top bottom : BitVec 7) (s : State) : Out :=
  .next (if (lane s n.val).mrgBusy then
      updLane s n.val fun x =>
        { x with
          mrgBusy := false, mrgCtrl := x.mrgCtrl &&& 6,
          mrgRes := BitVec.ofNat 32
            (left.toNat + right.toNat * 2 ^ 6 + top.toNat * 2 ^ 12 + bottom.toNat * 2 ^ 19 + 2 ^ 31) }
    else s)

/-- LANE_MARGINING_COMMAND (R78): a host's command is served and stops a readout on its lane. -/
def execLaneMarginingCommand (n : LaneNo) (s : State) : Out :=
  .next (if isHostLane n.val then marginAbort s n.val else s)

end Sys2Proof.Machine
end

