-- ==== Sys2Proof/Machine/LinkCmd.lean ====
section
/-! DEFINITION. The link layer's control blocks and timers (R140 to R146, R152), the link registers, and
the error registers that act (R309, R312, R313, R317, R318, R321). -/

namespace Sys2Proof.Machine

/-! ## Retry (R141, R142) -/

/-- The link layer of the sub-link runs. -/
def layerOn (s : State) (l : Nat) : Bool := linkActive s l && linksOn s (halfOfLink l)

/-- A STATE packet of a downward pass has been acknowledged (R201). -/
def stateAcked (s : State) (l : Nat) (p : Pkt) : State :=
  match mgOfWord s (tetherName s l) (p.addr.toNat % 4096) with
  | some g => if mgDown s g then updMg s g fun x => { x with acks := x.acks - 1 } else s
  | none => s

/-- Packets up to `seq` are acknowledged; none where `seq` has not been sent. -/
def ackTo (s : State) (l seq : Nat) : Option State :=
  let x := link s l
  let ahead := (seq + 1024 - (x.txSeq + 1023) % 1024) % 1024
  if 1 ≤ ahead && ahead ≤ 511 then none
  else
    let age := (1024 - ahead) % 1024
    let n := x.replay.length - age
    let done := if age < x.replay.length then x.replay.take n else []
    let s1 := updLink s l fun y => { y with
      replay := if done.isEmpty then y.replay else y.replay.drop n
      ackedSeq := if done.isEmpty then y.ackedSeq else (seq + 1) % 1024 }
    some (forAll s1 (done.filter fun r => r.pkt.typ == 5) fun u r => stateAcked u l r.pkt)

/-- An acknowledgement of a SEQ that was not sent: ignored, counted (R142). -/
def ackIgnored (s : State) (l : Nat) : State := bumpR s (llReg l 0x028)

/-- Send everything unacknowledged again behind one IDLE block; a packet already sent 8 times takes the
link down with reason 6. -/
def replayAll (s : State) (l : Nat) : State :=
  let x := link s l
  if x.replay.isEmpty then s
  else if x.replay.any fun r => decide (8 ≤ r.tries) then leaveActive s l 6
  else
    let s1 := bumpR (emit s (.block l .idle)) (llReg l 0x020)
    let s2 := updLink s1 l fun y => { y with replay := y.replay.map fun r => { r with tries := r.tries + 1 } }
    forAll s2 x.replay fun u r => emit u (.packet l r.pkt)

/-- ACK (R141): an ACK block with NAK = 0. -/
def execAck (l : LL) (seq : BitVec 10) (s : State) : Out :=
  .next (if !layerOn s l.val then s
    else match ackTo s l.val seq.toNat with
      | some t => drainOwed t l.val
      | none => ackIgnored s l.val)

/-- NAK (R142): an ACK block with NAK = 1; every packet after its SEQ is sent again. -/
def execNak (l : LL) (seq : BitVec 10) (s : State) : Out :=
  .next (if !layerOn s l.val then s
    else match ackTo s l.val seq.toNat with
      | some t => drainOwed (replayAll t l.val) l.val
      | none => ackIgnored s l.val)

/-- ACK_DUE (R141): packets received and not yet acknowledged are. -/
def execAckDue (l : LL) (s : State) : Out :=
  .next (if layerOn s l.val && (link s l.val).rxAcked != 0 then sendAck s l.val false else s)

/-- REPLAY_TIMER_EXPIRY (R142). -/
def execReplayTimerExpiry (l : LL) (s : State) : Out :=
  .next (if layerOn s l.val then replayAll s l.val else s)

/-! ## Credit and pause (R144, R146, R149) -/

/-- CREDIT (R144): the partner's LIMIT values of a kind; the largest LIMIT - CONSUMED is remembered
(R145). -/
def execCredit (l : LL) (np : Bool) (c0 c1 c2 c3 : BitVec 12) (s : State) : Out :=
  let lim := [c0.toNat, c1.toNat, c2.toNat, c3.toNat]
  .next (if !layerOn s l.val then s
    else updLink s l.val fun x =>
      let con := if np then x.conNp else x.conP
      let old := if np then x.maxNp else x.maxP
      let most := (List.range 4).map fun c => max (old.getD c 0) ((lim.getD c 0 + 4096 - con.getD c 0) % 4096)
      if np then { x with limNp := lim, maxNp := most, gotNp := true }
      else { x with limP := lim, maxP := most, gotP := true })

/-- CREDIT_REFRESH (R144): a CREDIT block of each kind. -/
def execCreditRefresh (l : LL) (s : State) : Out :=
  .next (if layerOn s l.val then creditBlock (creditBlock s l.val false) l.val true else s)

/-- PAUSE (R146, R149): a tether end honours it; on a local-personality port it is counted and ignored. -/
def execPause (l : LL) (xoff : Bool) (f : FlowNo) (s : State) : Out :=
  .next (if !layerOn s l.val then s
    else if !isTether s l.val then bumpR s (llReg l.val 0x028)
    else updLink s l.val fun x =>
      let rest := x.paused.filter fun p => p.1 != f.val
      { x with paused := if xoff then rest ++ [(f.val, s.clk)] else rest })

/-- PAUSE_REFRESH (R146): the XOFF is sent again while the pause lasts. -/
def execPauseRefresh (l : LL) (f : FlowNo) (s : State) : Out :=
  .next (if layerOn s l.val && (link s l.val).xoff.any (fun p => p.1 == f.val) then
      emit s (.block l.val (.pause true f.val))
    else s)

/-- XOFF_TIMEOUT (R146, R149): no XOFF has come for 100 µs, so the flow resumes. -/
def execXoffTimeout (l : LL) (f : FlowNo) (s : State) : Out :=
  .next (updLink s l.val fun x => { x with paused := x.paused.filter fun p => p.1 != f.val })

/-! ## Link registers (R152) -/

/-- FORCE_DOWN: Active is left with reason 8, and the sub-link stays in Detect while it is 1; an attempt
under way is given up. -/
def forceDown (s : State) (l : Nat) (v : Bool) : State :=
  let s1 := sealTouch (updLink s l fun x => { x with forceDown := v }) (halfOfLink l) ((link s l).forceDown != v)
  if !v then s1
  else match (link s1 l).st with
    | .active => leaveActive s1 l 8
    | .detect => s1
    | _ => toDetect s1 l

/-- LP_FORCE_DOWN (R140). -/
def execLpForceDown (p : Path) (l : LL) (v : Bool) (s : State) : Out :=
  .next (regAct s p (llReg l.val 0) (halfOfLink l.val) fun t => forceDown t l.val v)

/-- A PING leaves, once the replay buffer has room, with a tag that is free now; which one is a free value
(R136, R141). -/
def pingGo (s : State) (l : Nat) : State :=
  if !layerOn s l then s
  else
    let side := linkSide (tetherName s l)
    match pickTag s side (0, 4096, 4096) with
    | (none, _) => s
    | (some tag, s1) =>
      let s2 := updFab s1 fun x => { x with tags := x.tags ++ [⟨side, tag, 0, 0, l, s.clk, true, false⟩] }
      linkSend (updLink s2 l fun x => { x with ping := some (tag, s.clk) }) l (mkPkt 0 0 0 tag 0 0 []) 0 none

/-- PING_GO (R152). -/
def execPingGo (p : Path) (l : LL) (s : State) : Out :=
  .next (regAct s p (llReg l.val 0) (halfOfLink l.val) fun t => pingGo t l.val)

/-- Offsets of the counters of a link. -/
def llCounters : List Nat := [0x010, 0x018, 0x020, 0x024, 0x028, 0x02C, 0x030, 0x038]

/-- Clear the counters p chooses. -/
def clearCounts (s : State) (keys : List Nat) : State :=
  { s with cnt := keys.foldl (fun t k => Tab.set 0 t k 0) s.cnt }

/-- LP_CNT_CLR (R152). -/
def execLpCntClr (p : Path) (l : LL) (s : State) : Out :=
  .next (regAct s p (llReg l.val 0) (halfOfLink l.val) fun t =>
    clearCounts t (llCounters.map fun o => rkey (llReg l.val o)))

/-! ## Containment and the error log -/

/-- A release is served by the steward of the link's half. -/
def llRelease (s : State) (l : Nat) : State := if (half s (halfOfLink l)).stewardHalted then s else releaseLink s l
def llFreeze (s : State) (l : Nat) : State := if onesModel s l then s else freezeLink s l 5

/-- ERR_LL_RELEASE (R313, R317): register or OD 0x8002. -/
def execErrLlRelease (p : Path) (l : LL) (s : State) : Out :=
  .next (regOrObj s p (0x1E10004 + 0x10 * l.val) 0x8002 (l.val + 1) (halfOfLink l.val) fun t => llRelease t l.val)

/-- ERR_LL_FREEZE (R309): cause 5, on a link in RUN. -/
def execErrLlFreeze (p : Path) (l : LL) (s : State) : Out :=
  .next (regAct s p (0x1E10004 + 0x10 * l.val) (halfOfLink l.val) fun t => llFreeze t l.val)

/-- ERR_WK_RELEASE (R317): register or OD 0x8005. -/
def execErrWkRelease (p : Path) (d : Fin 16) (s : State) : Out :=
  .next (if d.val = 0 then s
    else regOrObj s p (0x1E20004 + 0x10 * d.val) 0x8005 d.val (leadHalf s) fun t =>
      onlyIf (isManager t) (fun u => releaseWorker u d.val) t)

/-- FREEZE_TIMEOUT (R312); the timers stand still in S2 and S3 (R387). -/
def execFreezeTimeout (l : LL) (s : State) : Out := .next (if s.pwr.sleep ≤ 1 then freezeExpires s l.val else s)

/-- The oldest record of a half's log goes; an empty log stays. -/
def logPop (s : State) (h : Half) : State :=
  match h with
  | .a => { s with err := { s.err with logA := s.err.logA.drop 1 } }
  | .b => { s with err := { s.err with logB := s.err.logB.drop 1 } }

/-- ERR_LOG_POP (R318). -/
def execErrLogPop (p : Path) (h : Half) (s : State) : Out :=
  .next (regAct s p (0x1E00120 + 0x40 * halfIdx h) h fun t => logPop t h)

/-- Objects of the counters of chapter 11, ERR_PRIV_DENIED excepted. -/
def errCounters : List Nat :=
  (span 1 192).map (okey 0 0x8003) ++ (span 1 2).map (okey 0 0x8006) ++ (span 1 6).map (okey 0 0x8007) ++
  (span 1 2).map (okey 0 0x8009) ++ (span 1 4).map (okey 0 0x800A) ++ (span 1 2).map (okey 0 0x800B) ++
  (span 1 6).map (okey 0 0x800C)

/-- ERR_CNT_CLR (R321). -/
def execErrCntClr (p : Path) (s : State) : Out :=
  .next (regAct s p 0x1E00000 (pathHalf s p) fun t => clearCounts t errCounters)

end Sys2Proof.Machine
end

