-- ==== Sys2Proof/Machine/Apply.lean ====
section
/-! DEFINITION. Apply groups (R365 to R371, R332, R333, R469): shadows, requests and their refusals, the cut in each
half, ownership, and the configuration seal (R372 to R374). -/

namespace Sys2Proof.Machine

/-! ## Shadows (R365) -/

/-- A mask without some of its groups. -/
def without (m gone : Nat) : Nat := m - (m &&& gone)

/-- The object of a key lies in a group of the mask. -/
def keyIn (mask key : Nat) : Bool := keyNamed mask key

/-- What a request under check holds of a shadow that reads still show. -/
def checking (d : DictSt) : Option ApplyReq := if d.cutWait then none else d.apply

/-- A pending value of an object, where there is one. -/
def pendVal (d : DictSt) (key : Nat) : Option Nat :=
  match Tab.get none d.shadow key, checking d with
  | some v, _ => some v
  | none, some q => if keyIn q.gone key then none else Tab.get none q.snap key
  | none, none => none

/-- Running and shadow value of an object. -/
def runVal (d : DictSt) (idx sub : Nat) : Nat := Tab.get (odDefault idx sub) d.run (okey 0 idx sub)
def shadowVal (d : DictSt) (idx sub : Nat) : Nat := (pendVal d (okey 0 idx sub)).getD (runVal d idx sub)

/-- The keep list's shadow. -/
def keepVal (d : DictSt) : List Byte :=
  match d.keepSh, checking d with
  | some v, _ => v
  | none, some q => if q.gone.testBit 20 then d.keepRun else q.keep.getD d.keepRun
  | none, none => d.keepRun

/-- AG_DIRTY. -/
def dirtyMask (d : DictSt) : Nat :=
  d.dirty ||| (match checking d with | some q => without q.dirty q.gone | none => 0)

/-- A value enters a shadow. -/
def shadowPut (d : DictSt) (idx sub grp v : Nat) : DictSt :=
  { d with shadow := Tab.set none d.shadow (okey 0 idx sub) (some v), dirty := d.dirty ||| 2 ^ grp }

/-- The path that owns a group is another one (R371). -/
def lockedFor (d : DictSt) (pid g : Nat) : Bool := Tab.get 0 d.owners g != 0 && Tab.get 0 d.owners g != pid

/-- AG_DISCARD of a mask: the shadows return to the running values. -/
def discard (d : DictSt) (mask : Nat) : DictSt :=
  { d with shadow := Tab.keep (fun k _ => !keyIn mask k) d.shadow,
           keepSh := if mask.testBit 20 then none else d.keepSh,
           dirty := without d.dirty mask,
           apply := d.apply.map fun q => { q with gone := q.gone ||| mask } }

/-- The snapshot of the named groups (R366). -/
def snapshot (d : DictSt) (mask : Nat) (from_ : ApplyFrom) : DictSt :=
  { d with
    shadow := Tab.keep (fun k _ => !keyIn mask k) d.shadow,
    keepSh := if mask.testBit 20 then none else d.keepSh,
    dirty := without d.dirty mask,
    apply := some { mask := mask, snap := Tab.keep (fun k _ => keyIn mask k) d.shadow,
                    keep := if mask.testBit 20 then d.keepSh else none, dirty := d.dirty &&& mask, gone := 0,
                    src := from_ } }

/-- A rejection: the shadow keeps every pending write (R368). -/
def giveBack (d : DictSt) (q : ApplyReq) : DictSt :=
  { d with
    shadow := q.snap.foldl (fun t (k, v) =>
      if keyIn q.gone k || (Tab.get none t k).isSome then t else Tab.set none t k v) d.shadow,
    keepSh := if d.keepSh.isSome || q.gone.testBit 20 then d.keepSh else q.keep,
    dirty := d.dirty ||| without q.dirty q.gone,
    apply := none }

/-! ## Requests (R366, R370) -/

/-- Counters of device-wide objects: half B's own instance counts apart in SPLIT (R19). -/
def wkey (s : State) (h : Half) (idx sub : Nat) : Nat := okey (if ownB s && h == .b then 1 else 0) idx sub
def bumpW (s : State) (h : Half) (idx sub : Nat) : State :=
  { s with cnt := Tab.upd 0 s.cnt (wkey s h idx sub) (· + 1) }

/-- Results of AG_STAT.RESULT. -/
def agAccepted : Nat := 1
def agReject : Nat := 2
def agEpoch : Nat := 3
def agBusy : Nat := 4
def agLocked : Nat := 5
def agUnconfirmed : Nat := 6

/-- The operation status that matches a result (R368). -/
def agStatus (res : Nat) : Nat :=
  match res with
  | 1 => stOk
  | 2 => stReject
  | 3 => stEpoch
  | 4 => stBusy
  | 5 => stLocked
  | _ => stUnconfirmed

/-- A half configures itself alone: SPLIT and RECOVERY, where the die link carries no cut (Table 12.1). -/
def oneHalf (s : State) : Bool := isSplit s || isRecovery s

/-- No apply is accepted: LEAD_UNRESOLVED, or outside SPLIT and RECOVERY the die link down or the follower still
orphaned (R329, R332, R335, R370). -/
def applyShut (s : State) (h : Half) : Bool :=
  (half s h).role == .unresolved ||
  (!oneHalf s && (!dieUp s || s.sys.a.role == .orphaned || s.sys.b.role == .orphaned))

/-- Write a result, with the failing object where there is one. -/
def agResult (d : DictSt) (res : Nat) (fail : Option (Nat × Nat)) : DictSt :=
  match fail with
  | some (i, k) => { d with res := res, failIdx := i, failSub := k }
  | none => { d with res := res }

/-- Groups that a mask names and another path owns. -/
def maskLocked (d : DictSt) (pid mask : Nat) : Bool := (List.range 32).any fun g => mask.testBit g && lockedFor d pid g

/-- A mask names a reserved group. -/
def maskReserved (mask : Nat) : Bool := (List.range 32).any fun g => mask.testBit g && !groups.contains g

/-- The instance takes the request: its steward runs, and the receiving half is no orphaned follower, which forwards
nothing (R262, R332). While the die link is down the request is made all the same, and rejected (R469). -/
def wideServed (s : State) (e : Half) : Bool := !(half s (servHalf s e)).stewardHalted && (half s e).role != .orphaned

/-- An apply request that enters through half `e`: the status of an immediate answer, or none while it is checked. -/
def applyRequest (s : State) (e : Half) (pid mask : Nat) (from_ : ApplyFrom) : Option Nat × State :=
  let h := servHalf s e
  let d := dictOf s h
  let fin (t : State) (res : Nat) (f : Option (Nat × Nat)) : Option Nat × State :=
    (some (agStatus res), updDict t h fun x => agResult x res f)
  if !wideServed s e then (some stUnreachable, s)
  else if d.apply.isSome || d.cutWait then fin (bumpW s h 0xF000 0x0B) agBusy none
  else if maskLocked d pid mask then fin s agLocked none
  else if applyShut s h then fin s agReject (some (0x9001, 0))
  else if maskReserved mask then fin s agReject (some (0xF000, 1))
  else if mask = 0 then fin (bumpW s h 0xF000 0x0A) agAccepted none
  else (none, updDict s h fun x => snapshot x mask from_)

/-! ## Seal passes -/

/-- A pass starts, or starts again (R373, R374). -/
def sealStart (s : State) (h : Half) : State := updDict s h fun d => { d with sealRun := true, sealDirty := false }

/-! ## The cut (R18, R333, R368) -/

/-- The snapshot becomes the running configuration. `lone`: no follower follows. -/
def putCut (h : Half) (q : ApplyReq) (lone : Bool) (t : State) : State :=
  updDict t h fun d =>
    if lone then applied d q else { applied d q with folPrev := d.run, folWait := true, cutWait := true }

/-- The instance of half `h` acts on an accepted request. -/
def leadCut (s : State) (h : Half) (q : ApplyReq) : State :=
  let s1 := actCut s h true (putCut h q (oneHalf s)) q.mask q.snap
  let s2 := updDict s1 h fun d => { d with seq := (d.seq + 1) % 65536, sealOn := d.sealOn || q.mask.testBit 31 }
  sealStart s2 h

/-- The result of the request under check is written: the state, and what waits for the answer. -/
def applyEnd (s : State) (h : Half) (res : Nat) (f : Option (Nat × Nat)) (g : DictSt → DictSt) :
    State × Option (ApplyFrom × Nat) :=
  let s1 := onlyIf (res == agAccepted) (fun t => bumpW t h 0xF000 0x0A) s
  (updDict s1 h fun d => agResult (g d) res f,
   (dictOf s h).apply.map fun q => (q.src, agStatus res))

/-- A check ends (R368). -/
def checkEnds (s : State) (h : Half) : State × Option (ApplyFrom × Nat) :=
  let d := dictOf s h
  match d.apply with
  | none => (s, none)
  | some q =>
    if d.cutWait || (half s h).stewardHalted then (s, none)
    else if applyShut s h then applyEnd s h agReject (some (0x9001, 0)) fun x => giveBack x q
    else match applyBad s h q with
      | some b => applyEnd s h (if b.res = agEpoch then agEpoch else agReject) (some (b.idx, b.sub)) fun x => giveBack x q
      | none =>
        let s1 := leadCut s h q
        if oneHalf s then applyEnd s1 h agAccepted none fun x => { x with apply := none } else (s1, none)

/-- The groups and the snapshot of the cut that the follower has still to act on: the request's, or every group
where it is brought up to date (R333). -/
def folCut (d : DictSt) : Nat × Tab (Option Nat) :=
  match d.apply with
  | some q => (q.mask, q.snap)
  | none => (2 ^ 32 - 1, [])

/-- The follower acts on a cut it has received; flows that a release left dormant are restored (R335). -/
def followerCut (s : State) : State :=
  if oneHalf s || !s.dict.folWait then s
  else
    let c := folCut s.dict
    let f := otherHalf (leadHalf s)
    let put (t : State) : State := { t with dict := { t.dict with folWait := false, folPrev := [] } }
    let s1 := actCut s f false (fun t => updHalf (put t) f fun x => { x with freed := false }) c.1 c.2
    { s1 with dict := { s1.dict with folSeq := s1.dict.seq } }

/-- The die link goes down before the follower's acknowledgement (R333). -/
def unconfirmed (s : State) : State × Option (ApplyFrom × Nat) :=
  let h := leadHalf s
  if s.dict.cutWait && s.dict.apply.isSome then
    applyEnd s h agUnconfirmed (some (0x9001, 0)) fun x => { x with apply := none, cutWait := false }
  else (s, none)

/-! ## A configuration record or a nominated restore (R391, R423): one request, decided at once -/

/-- An apply outside the request queue: `none` where its check fails, with the failing object. -/
def applyNow (s : State) (h : Half) (q : ApplyReq) : Except Bad State :=
  match applyBad s h q with
  | some b => .error b
  | none =>
    let put (t : State) : State := updDict t h fun d => applied d q
    let s1 := actCut s h true put q.mask q.snap
    let s2 := if oneHalf s || (half s h).role == .unresolved then s1
      else cutHalf s s1 (otherHalf h) q.mask q.snap
    .ok (updDict s2 h fun d => { d with seq := (d.seq + 1) % 65536, folSeq := (d.seq + 1) % 65536 })

/-! ## Seal (R372 to R374) -/

/-- An object is sealed: rwa, of AG00 to AG22. -/
def sealedObj (idx sub : Nat) : Bool :=
  match odFind idx sub with | some r => r.acc == .rwa && decide (r.grp ≤ 22) | none => false

/-- Bytes an object contributes: index, subindex, value; a DOMAIN its length and its bytes. -/
def sealBytes (d : DictSt) (idx sub : Nat) : List Byte :=
  let head := bytesLE 2 idx ++ bytesLE 1 sub
  match odFind idx sub with
  | some r =>
    match r.ty with
    | .domain _ => head ++ bytesLE 2 d.keepRun.length ++ d.keepRun
    | ty => head ++ bytesLE ty.bytes (runVal d idx sub)
  | none => []

/-- Sealed registers of a half in ascending address: host lanes, local links, local lanes (Table 13.11). -/
def sealRegs (s : State) (hs : List Half) : List (Nat × Nat) :=
  let mine (h : Half) : Bool := hs.contains h
  (((span 192 64).filter fun n => mine (halfOfLane s n)).map fun n => (laneReg n 0, (lane s n).ctrl.toNat % 2048)) ++
  (((span 0 192).filter fun l => mine (halfOfLink l)).map fun l => (llReg l 0, flag (link s l).forceDown 1)) ++
  (((span 0 192).filter fun l => mine (halfOfLink l)).map fun l => (laneReg l 0, (lane s l).ctrl.toNat % 2048))

/-- The sealed objects of an instance in ascending index and subindex; `own` says which objects it serves. -/
def sealObjs (own : Nat → Nat → Bool) : List (Nat × Nat) :=
  (List.range 0xB000).flatMap fun idx =>
    match odHighest idx with
    | none => []
    | some hi => ((span 1 hi).filter fun k => sealedObj idx k && own idx k).map fun k => (idx, k)

/-- The seal of an instance (R372). -/
def sealOf (s : State) (h : Half) (own : Nat → Nat → Bool) : Nat :=
  let d := dictOf s h
  (crc32c ((sealObjs own).flatMap (fun x => sealBytes d x.1 x.2) ++
    (sealRegs s (if ownB s then [h] else [.a, .b])).flatMap fun x => bytesLE 4 x.1 ++ bytesLE 4 x.2)).toNat

/-- Nothing is compared: a half in LEAD_UNRESOLVED, or outside SPLIT the die link down (R374). -/
def sealShut (s : State) (h : Half) : Bool :=
  (half s h).role == .unresolved || (!oneHalf s && !(s.sys.a.dlUp && s.sys.b.dlUp))

/-- AG_SEAL_STAT. -/
def sealCode (s : State) (h : Half) : Nat :=
  let d := dictOf s h
  if !d.sealOn then 0
  else if sealShut s h then 3
  else match d.sealSt with | .unsealed => 0 | .match_ => 1 | .mismatch => 2 | .suspended => 3
def sealStat (s : State) (h : Half) : Nat := sealCode s h + flag (dictOf s h).sealRun 2

/-- A pass completes (R373, R374). -/
def sealEnds (s : State) (h : Half) (own : Nat → Nat → Bool) : State :=
  let d := dictOf s h
  if !d.sealRun then s
  else if d.sealDirty then sealStart s h
  else if sealShut s h then updDict s h fun x => { x with sealRun := false }
  else
    let v := sealOf s h own
    let s1 := updDict s h fun x => { x with sealRun := false, sealNow := v }
    if !d.sealOn then s1
    else if v = runVal d 0xF000 3 then updDict s1 h fun x => { x with sealSt := .match_ }
    else
      let s2 := bumpW (updDict s1 h fun x => { x with sealSt := .mismatch }) h 0xF000 6
      if d.sealSt == .mismatch then s2 else raiseEv s2 h 15 0 0 0

/-! ## Status words (Table 13.13) -/

/-- AG_STAT: GROUP is the group of the failing object of a rejection (log entry 26). -/
def agStat (d : DictSt) : Nat :=
  let grp := match odFind d.failIdx d.failSub with | some r => if r.grp < 32 then r.grp else 0 | none => 0
  d.res + flag d.apply.isSome 3 + (if d.res = agReject || d.res = agEpoch then place grp 4 5 else 0) + place d.seq 16 16

/-- AG_FAIL. -/
def agFail (d : DictSt) : Nat := d.failSub + d.failIdx * 256

/-! ## Ownership (R371) -/

/-- AG_CLAIM: each named group without an owner. -/
def claim (d : DictSt) (pid mask : Nat) : DictSt :=
  { d with owners := (List.range 32).foldl (fun t g =>
      if mask.testBit g && Tab.get 0 t g == 0 then Tab.set 0 t g pid else t) d.owners }

/-- AG_RELEASE: the named groups that the path owns. -/
def release (d : DictSt) (pid mask : Nat) : DictSt :=
  { d with owners := Tab.keep (fun g v => !(mask.testBit g && v == pid)) d.owners }

end Sys2Proof.Machine
end

