-- ==== Sys2Proof/Machine/Status.lean ====
section
/-! DEFINITION. Status words computed from the machine's state, as the register tables lay them out: lanes, local and
host links, windows, bridging services, errors, topology, power and time, test, start-up. -/

namespace Sys2Proof.Machine

/-! ## Lanes and links (Tables 03.9, 04.15, 05.12) -/

/-- LANE_STAT.RATE of a lane. -/
def laneRate (s : State) (n : Nat) : Nat :=
  if isHostLane n then
    let x := hl s (hlOfLane s n)
    if x.dlActive && x.rate != 0 then 7 + x.rate else 0
  else (link s (linkOfLane s n)).gen

/-- LANE_STAT. SIG_DET is what CDR_LOCK and SIGNAL_LOSS last reported (log entry 27). -/
def laneStat (s : State) (n : Nat) : Nat :=
  let x := lane s n
  flag x.present 0 + flag x.sig 1 + flag x.cdr 2 + flag x.adapt 3 + flag x.rxReady 4 + flag x.cwLock 5 + flag x.blkLock 6 +
    flag x.aligned 7 + flag x.inv 8 + place (laneRate s n) 9 4 + (if isHostLane n then 0 else place x.logical 13 2)

/-- LP_LINK_STAT. GEN and WIDTH, coded as the capability frame codes it (Table 05.12), are of the attempt or
in force: 0 in Detect (log entry 72). -/
def lpLinkStat (s : State) (l : Nat) : Nat :=
  let x := link s l
  let st := match x.st with | .detect => 0 | .train => 1 | .lock => 2 | .exchange => 3 | .active => 4
  st + place x.gen 3 3 + place (if x.st == .detect then 0 else widthCode s l) 6 2 + place x.role 8 2 + place x.devid 10 4 + place x.reason 16 4

/-- LP_LINK_PCRED and LP_LINK_NPCRED. -/
def credWord (lim con : List Nat) : Nat :=
  ((List.range 4).map fun c => (lim.getD c 0 + 4096 - con.getD c 0) % 4096 * 2 ^ (12 * c)).sum

/-- HP_LINK_STAT. -/
def hpLinkStat (s : State) (m : Nat) : Nat :=
  let x := hl s m
  flag (hlPresent s m) 0 + flag x.dlActive 1 + flag x.flit 2 + place x.rate 3 3 + place x.width 6 5 +
    flag x.reversed 11 + place x.pwr 12 3 + flag x.vc1 15

/-- HP_BIFUR: CFG as shown, ACTIVE, PENDING. -/
def hpBifur (s : State) (n v : Nat) : Nat :=
  let run := cfg s (halfOfHl (4 * n)) (0x2000 + 0x100 * n) 1
  v % 8 + place (cfgActive s n) 4 3 + flag (run % 8 != cfgActive s n) 7

/-! ## Windows (Table 06.4, R171, R174) -/

/-- Units held of a sub-window. -/
def pfHeld (s : State) (n w : Nat) : Nat :=
  (s.brdg.units.filter fun u => u.fn == n && u.w == w && match u.st with | .got .. => true | _ => false).length

/-- WIN_IN_STAT. -/
def winInStat (s : State) (n w : Nat) : Nat :=
  let r := inDormant s n w
  flag (r != 0) 0 + place r 1 3 + flag (bit (inw s n w 0) 1 && (fnLay s n).pref) 4 + place (pfHeld s n w) 8 5

/-- WIN_OUT_STAT, in the copy of the source link's half. -/
def outHalf (s : State) (e : Nat) : Half := halfOfLink (outSrc (outw s .a e 0))
def winOutStat (s : State) (e : Nat) : Nat :=
  let h := outHalf s e
  let r := outDormant s h e
  flag (r != 0) 0 + place r 1 3 + flag (outPartner s h e) 4

/-- WIN_SLOT_STAT: VALID and the age in µs (R172). -/
def slotStat (s : State) (n : Nat) : Nat :=
  if (fn s n).slotVal then 1 + place ((s.clk - (fn s n).slotClk) / 1250) 8 24 else 0
/-- WIN_SLOT_ADDR shows the tag; what it shows of an empty slot is not stated (log entry 29). -/
def slotAddr (s : State) (n : Nat) : Nat :=
  if (fn s n).slotVal then (fn s n).slotTag else Config.unstated 29 (n * 2 ^ 64 + s.clk)
/-- WIN_SLOT_DATA: 64 bytes from the slot (likewise). -/
def slotDataWord (s : State) (n k : Nat) : Nat :=
  if (fn s n).slotVal then ofBytesLE ((exactly 64 (fn s n).slotData).drop (4 * k) |>.take 4)
  else Config.unstated 29 ((n * 16 + k) * 2 ^ 64 + s.clk)

/-- Inbound sub-windows whose CTRL word differs from its default. -/
def inListed (s : State) (h : Half) : List (Nat × Nat) :=
  (listed s h 0x4000 0x43FF 4 1).map fun (i, k) => (i - 0x4000, (k - 1) / 4)

/-- OD 0x480A: enabled windows that are dormant. -/
def dormantWindows (s : State) : Nat :=
  let ins := ((inListed s .a).filter fun x => halfOfHl (x.1 / 64) == .a) ++
    (inListed s .b).filter fun x => halfOfHl (x.1 / 64) == .b
  let es := ((outListed s .a).filter fun e => outHalf s e == .a) ++ (outListed s .b).filter fun e => outHalf s e == .b
  (ins.filter fun (n, w) => winOn (inw s n w 0) && inDormant s n w != 0).length +
    (es.filter fun e => winOn (outw s (outHalf s e) e 0) && outDormant s (outHalf s e) e != 0).length

/-- OD 0x4809: split windows configured. -/
def splitWindows (s : State) : Nat :=
  let on (x : Nat × Nat) : Bool := bit (inw s x.1 x.2 0) 0 && bit (inw s x.1 x.2 0) 2
  (((inListed s .a).filter fun x => halfOfHl (x.1 / 64) == .a && on x) ++
    (inListed s .b).filter fun x => halfOfHl (x.1 / 64) == .b && on x).length

/-! ## Semaphores and mirror groups (Table 07.7) -/

def semStat (s : State) (n : Nat) : Nat := place (sem s n).holders.length 0 4 + place (sem s n).waiters.length 8 8
def semHolders (s : State) (n : Nat) : Nat :=
  ((List.range 8).map fun k => (((sem s n).holders.map (·.1)).getD k 0xFF) % 256 * 2 ^ (8 * k)).sum

def mgStat (s : State) (g : Nat) : Nat :=
  if !mgEn s g then place (mg s g).stretch 8 4
  else
    let d := mgDormant s g
    let p := mgPaused s g
    flag (d != 0) 0 + place d 1 3 + flag (p != 0) 4 + place p 5 3 + place (mg s g).stretch 8 4

/-! ## Errors (Table 11.9) -/

def errLlStat (s : State) (l : Nat) : Nat :=
  let x := link s l
  place x.contain 0 3 + flag (linkActive s l) 3 + flag x.present 4 + flag x.applied 5 + place x.cause 8 3

def errWkStat (s : State) (d : Nat) : Nat :=
  let w := worker s d
  place w.1 0 3 + flag (reachable s d) 3 + flag w.2.1 4 + flag w.2.2.1 5

/-- The half's log, and its oldest record as ERR_LOG0 to ERR_LOG3 show it (Table 11.5). -/
def errLog (s : State) : Half → List LogRec
  | .a => s.err.logA
  | .b => s.err.logB
def errLogWord (s : State) (h : Half) (k : Nat) : Nat :=
  match errLog s h with
  | [] => 0
  | r :: _ =>
    match k with
    | 0 => place r.code 0 8 + place r.status 8 4 + 2 ^ 12 + flag (r.half == .b) 13 + place r.unit 16 16 +
        place r.flow 32 14 + place r.tag 48 14
    | 1 => r.addr % 2 ^ 64
    | 2 => place r.addr2 0 40 + place r.detail 40 8 + place r.lost 48 16
    | _ => r.time.toNat

/-! ## Topology (Table 12.5) -/

def strapsWord (x : Straps) : Nat :=
  x.mode.toNat + x.devid.toNat * 8 + flag x.halfLead 7 + x.privHost.toNat * 2 ^ 8 + flag x.bootSel 10
def roleCode : Role → Nat
  | .starting => 0 | .lead => 1 | .follower => 2 | .split => 3 | .unresolved => 4 | .orphaned => 5
def halfStat (s : State) (h : Half) : Nat :=
  let x := half s h
  let miss := if x.role == .starting then 0 else min 255 ((s.clk - x.hbClk) / 1250000)
  roleCode x.role + flag x.dlUp 3 + flag x.conflict 4 + miss * 2 ^ 8
def wkStat (s : State) (d : Nat) : Nat :=
  match workerTether s d with
  | none => 0
  | some l =>
    flag (reachable s d) 0 + place ((bondMembers s l).filter (linkActive s)).length 1 3 +
      flag ((bondMembers s l).any (miswired s)) 4 + place (l / 4) 8 8

/-! ## Power and time (Table 14.12) -/

def pwrLevelWord (s : State) (v : Nat) : Nat :=
  v % 4 + place s.pwr.level 4 2 + flag s.pwr.target.isSome 8 + flag s.pwr.held 9
def pwrStat (s : State) : Nat :=
  s.pwr.sleep % 4 + flag s.pwr.commit 2 + place s.pwr.cause 4 4 + place s.pwr.inst 8 16
def avsStat (s : State) : Nat := place s.pwr.vcore 0 16 + place s.pwr.veng 16 16
def signedField (v : Int) (w : Nat) : Nat := (v % (2 ^ w : Int)).toNat
def pwrTemp (s : State) : Nat := signedField s.pwr.tjA 10 + signedField s.pwr.tjB 10 * 2 ^ 16
/-- TIME_RIND_TICK: a copy from the rind, stale by at most one period, which of the two is free (R6, R26; log
entry 71). -/
def rindTickCopy (s : State) : Nat := (s.time.tick - Config.unstated 71 s.clk % 2) % 2 ^ 48
/-- An edge was accepted within 1.5 s. -/
def ppsOk (s : State) : Bool := match s.time.ppsLast with | some c => decide (s.clk - c < 1875000000) | none => false
def timeStat (s : State) : Nat :=
  flag s.time.valid 0 + flag s.time.uncertain 1 + flag s.time.locked 2 + flag s.time.rindLost 3 + flag (ppsOk s) 4
/-- TIME_BOUND: it grows by the declared tolerance while the time is uncertain and not locked (R400). -/
def timeBound (s : State) : Nat :=
  s.time.bound + (if s.time.uncertain && !s.time.locked then
    ceilDiv (cfg s (rindHalf s) 0x7400 7 * clkToNs (s.clk - s.time.boundClk)) 1000000000 else 0)
/-- Residence in state k, ms, the present stay included (OD 0x7007). -/
def residenceMs (s : State) (k : Nat) : Nat :=
  (count s 0x7007 (k + 1) + (if s.pwr.sleep = k then s.clk - s.pwr.resStart else 0)) / 1250000
/-- Bytes of the nominated part in use (OD 0x7081). -/
def keepBytes (d : DictSt) : Nat := ((keepEntries d.keepRun).map fun e => savedLen e.1 e.2.1).sum
/-- The timestamp ring of a half; the oldest record's bytes (Table 14.9). -/
def tsRing (s : State) : Half → List TsRec
  | .a => s.time.ringA
  | .b => s.time.ringB
def tsWord1 (r : TsRec) : Nat :=
  r.frac % 2 ^ 16 + place r.flow 16 14 + flag r.dalfel 30 + 2 ^ 31 + place r.seq 32 12

/-! ## Test (Table 16.6) -/

/-- A slot acts: enabled; a kind 6 slot while its starvation lasts, a kind 3 slot while its lane runs with FEC
(R441). -/
def slotActs (s : State) (i : Nat) : Bool :=
  (tpw s i 0).testBit 0 && (tpw s i 0 / 2 % 8 != 6 || s.test.starved.getD i false) &&
  (tpw s i 0 / 2 % 8 != 3 || laneFec s (tpw s i 1 % 256))
def tstStat (s : State) : Nat := ((List.range 16).map fun i => flag (slotActs s i) i).sum
def bistCtrl (s : State) (h : Half) : Nat := flag (bist s h).running 0 + place (bist s h).blocks 8 5
def bistStat (s : State) (h : Half) : Nat := place (bist s h).result 0 2 + place (bist s h).failed 8 5

/-! ## Start-up (Table 15.8) -/

/-- ID_BOOT_STAT and ID_BOOT_TIME read 0 until COMPLETE (R435). -/
def bootDone (s : State) (h : Half) : Bool := bit (half s h).bootStat 8
def bootStatWord (s : State) (h : Half) : Nat := if bootDone s h then (half s h).bootStat.toNat else 0
def bootTimeWord (s : State) (h : Half) : Nat := if bootDone s h then (half s h).bootTime % 2 ^ 32 else 0
/-- VERSION of a slot: a header that is there. -/
def slotVersion (s : State) (h : Half) (sl : Nat) : Nat :=
  if sl < 2 && slotState s h sl != .empty then imgVersion (flash s h) sl else 0

end Sys2Proof.Machine
end

