-- ==== Sys2Proof/Machine/Objects.lean ====
section
/-! DEFINITION. The dictionary as a store (R344 to R349, R17): which half an object belongs to, which instance serves
it, what its reading returns, and what its writing does. -/

namespace Sys2Proof.Machine

/-! ## Whose object it is (R17) -/

/-- Half of a row whose subindices 1 and 2 stand for the halves; every other subindex for neither. -/
def subHalf (sub : Nat) : Option Half := if sub = 1 then some .a else if sub = 2 then some .b else none

/-- Half of an odd (half A) or even (half B) subindex. -/
def parityHalf (sub : Nat) : Half := if sub % 2 = 1 then .a else .b

/-- First half of a table's range is half A's. -/
def firstHalf (n k : Nat) : Option Half := some (if n < k then .a else .b)

/-- The half to which an object of ports, lanes and windows belongs. -/
def odHalfPort (idx sub : Nat) : Option Half :=
  if idx < 0x2400 then firstHalf (idx - 0x2000) 0x200
  else if idx < 0x3600 then some (halfOfLp ((idx - 0x3000) / 0x20))
  else if idx < 0x4400 then firstHalf (idx - 0x4000) 0x200
  else if (0x4801 ≤ idx && idx ≤ 0x4806) || idx == 0x480B then subHalf sub
  else none

/-- ... of flows, queues, buffering and bridging services. -/
def odHalfFlow (idx sub : Nat) : Option Half :=
  if idx < 0x5400 then none
  else if idx < 0x5500 then firstHalf (idx - 0x5400) 0x80
  else if idx = 0x5600 ∨ idx = 0x5602 ∨ idx = 0x5603 ∨ idx = 0x5605 then subHalf sub
  else if idx = 0x5604 ∨ idx = 0x5701 ∨ idx = 0x5801 then firstHalf (sub - 1) 2
  else if idx = 0x5700 ∨ idx = 0x5703 ∨ idx = 0x5704 ∨ idx = 0x570A then firstHalf (sub - 1) 8
  else if idx = 0x5702 ∨ idx = 0x5705 ∨ idx = 0x5706 ∨ idx = 0x5707 ∨ idx = 0x5800 ∨ idx = 0x5803 then subHalf sub
  else if idx = 0x5708 then firstHalf (sub - 1) 32
  else if idx = 0x5804 then some .a
  else if idx = 0x5805 then some .b
  else if 0x5A00 ≤ idx ∧ idx < 0x5B00 then firstHalf (idx - 0x5A00) 128
  else if 0x5C00 ≤ idx ∧ idx < 0x5E00 then firstHalf (idx - 0x5C00) 256
  else if idx = 0x5E10 then firstHalf (sub - 1) 96
  else if idx = 0x5E20 then firstHalf (sub - 1) 8
  else if 0x5E00 ≤ idx ∧ idx ≤ 0x5E18 then subHalf sub
  else none

/-- ... of engines and event controllers. -/
def odHalfEng (idx sub : Nat) : Option Half :=
  if idx < 0x6020 then firstHalf (idx - 0x6000) 16
  else if idx = 0x6040 then firstHalf (sub - 1) 2
  else if idx = 0x6042 then none
  else if idx = 0x6100 ∨ idx = 0x6202 ∨ idx = 0x6208 ∨ idx = 0x6C00 then firstHalf (sub - 1) 96
  else if 0x6800 ≤ idx ∧ idx < 0x6C00 then firstHalf (idx - 0x6800) 0x200
  else if 0x6C10 ≤ idx ∧ idx < 0x6C14 then firstHalf (idx - 0x6C10) 2
  else if idx = 0x6C25 then firstHalf (sub - 1) 8
  else if 0x6D00 ≤ idx then firstHalf (idx - 0x6D00) 64
  else subHalf sub

/-- ... of power, time, errors and test. -/
def odHalfSys (idx sub : Nat) : Option Half :=
  if idx = 0x7010 ∨ idx = 0x7440 ∨ idx = 0x8006 ∨ idx = 0x8009 ∨ idx = 0x800B then subHalf sub
  else if 0x8001 ≤ idx ∧ idx ≤ 0x8003 then firstHalf (sub - 1) 96
  else if idx = 0x8007 ∨ idx = 0x800A ∨ idx = 0x800C then some (parityHalf sub)
  else if 0xA000 ≤ idx ∧ idx < 0xA010 then firstHalf (idx - 0xA000) 8
  else if idx = 0xA010 ∨ idx = 0xA011 then subHalf sub
  else none

/-- The half an object belongs to; none: it is served as a device-wide one. Subindex 0 belongs to neither. -/
def odHalf (idx sub : Nat) : Option Half :=
  if sub = 0 ∨ idx < 0x2000 ∨ (0x9000 ≤ idx ∧ idx < 0xA000) then none
  else if idx < 0x5000 then odHalfPort idx sub
  else if idx < 0x6000 then odHalfFlow idx sub
  else if idx < 0x7000 then odHalfEng idx sub
  else odHalfSys idx sub

/-- Areas that R17 names as device-wide. -/
def wideArea (idx : Nat) : Bool :=
  (0x1000 ≤ idx && idx < 0x1200) || (0x9000 ≤ idx && idx < 0xA000) || (0xF000 ≤ idx && idx < 0xF100)

/-- The instance that answers a request for an object entering through half `e`: none where it cannot be reached
(R17, R19, R262, R329, R332). The apply-group objects that act are judged at the receiving instance (R469). -/
def odServes (s : State) (e : Half) (idx sub : Nat) : Option Half :=
  let up (h : Half) : Option Half := if (half s h).stewardHalted then none else some h
  let orphan := (half s e).role == .orphaned
  match odHalf idx sub with
  | some h =>
    if h = e then up e
    else if dieUp s && !orphan && ((half s h).boot == .complete) then up h
    else none
  | none =>
    let h := servHalf s e
    let acts := idx == 0xF000 && (sub == 1 || sub == 9)
    if orphan then none
    else if h = e || dieUp s || acts then up h
    else none

/-! ## Reading -/

/-- A count in a word of `w` bits: it saturates or wraps where the spec says so, else the overflow is free (log
entry 6). `how`: 0 saturates, 1 wraps, 2 not stated. -/
def cntWord (key n w how : Nat) : Nat :=
  if n < 2 ^ w then n
  else match how with
    | 0 => 2 ^ w - 1
    | 1 => n % 2 ^ w
    | _ => Config.counterOverflow key n % 2 ^ w

/-- A counter object. -/
def odCount (s : State) (h : Half) (idx sub bytes : Nat) : Nat :=
  let key := if wideArea idx then wkey s h idx sub else okey 0 idx sub
  cntWord key (Tab.get 0 s.cnt key) (8 * bytes) (if idx < 0x4000 ∧ 0x2000 ≤ idx then 0 else 2)

/-- Identity, start-up, upgrade, sessions. `none`: a counter. -/
def idVal (s : State) (h : Half) (idx sub : Nat) : Option Nat :=
  match idx, sub with
  | 0x1000, 4 => some s.nv.fuses.dsn
  | 0x1010, 1 => some s.nv.fuses.mac
  | 0x1020, 1 => some (bootStatWord s h)
  | 0x1020, 2 => some (if runSlot s h < 2 then imgVersion (flash s h) (runSlot s h) else 0)
  | 0x1020, 3 => some s.nv.fuses.counter
  | 0x1021, 2 => some (upSt s h).base
  | 0x1021, 5 => some (upSt s h).prog
  | 0x1022, 1 => some (slotCode (slotState s h 0))
  | 0x1022, 2 => some (slotCode (slotState s h 1))
  | 0x1022, 6 => some (slotVersion s h 0)
  | 0x1022, 7 => some (slotVersion s h 1)
  | 0x1030, 1 => some (clkStatWord s)
  | 0x1100, 3 => some (if (keyOf s h).isSome then 1 else 0)
  | 0x1100, 4 => some ((dictOf s h).sessions.filter (·.opened)).length
  | _, _ => none

/-- Ports and lanes. -/
def portVal (s : State) (idx sub : Nat) : Option Nat :=
  if idx < 0x2400 then
    let n := (idx - 0x2000) / 0x100
    let o := idx % 0x100
    if o = 0x08 then some (sat32 (countR s (hpReg (4 * n + sub - 1) 0x18)))
    else if o = 0xF1 then some (laneStat s (192 + 16 * n + sub - 1))
    else if 0x20 ≤ o ∧ o < 0x60 then
      let fnum := 64 * (4 * n + (o - 0x20) / 0x10) + sub - 1
      if o % 0x10 = 8 then some (protState s fnum) else if o % 0x10 = 11 then some 0 else none
    else none
  else
    let p := (idx - 0x3000) / 0x20
    let l := 4 * p + sub - 1
    match (idx - 0x3000) % 0x20 with
    | 7 => some (lpLinkStat s l)
    | 9 => some (link s l).capacity
    | 10 => some (sat32 (countR s (llReg l 0x38)))
    | 25 => some (laneStat s l)
    | _ => none

/-- Windows, flows, buffering, bridging services. -/
def fabricVal (s : State) (h : Half) (idx sub : Nat) : Option Nat :=
  if idx = 0x4809 then some (splitWindows s)
  else if idx = 0x480A then some (dormantWindows s)
  else if idx = 0x5701 then some (segsOf s (if sub ≤ 2 then .a else .b) ((sub - 1) % 2))
  else if idx = 0x5705 then some (poolFree s (halfOfIdx (sub - 1)))
  else if idx = 0x570A then some ((brine s (if sub ≤ 8 then .a else .b)).share.getD ((sub - 1) % 8) 0)
  else if idx = 0x5801 then
    some ((count s 0x5801 sub + ((span (4 * (sub - 1)) 4).map fun m =>
      match (hl s m).vc0Since with | some c => clkToNs (s.clk - c) | none => 0).sum) % 2 ^ 64)
  else if idx = 0x5802 ∧ sub = 1 then some (s.fab.flows.filter fun x => x.2.refused).length
  else if idx = 0x5804 then some (resOn s.fab.c0 (sub - 1))
  else if idx = 0x5805 then some (resOn s.fab.c0 (32 + sub - 1))
  else if 0x5A00 ≤ idx ∧ idx < 0x5B00 then some (semStat s (idx - 0x5A00))
  else if 0x5C00 ≤ idx ∧ idx < 0x5E00 then
    some (match sub with | 7 => mgStat s (idx - 0x5C00) | 9 => (mg s (idx - 0x5C00)).doneSeq | _ => 0)
  else if idx = 0x5E16 then some (s.fab.quars.filter fun q => sideHalf q.side == h).length
  else none

/-- Engines and event controllers. -/
def engineVal (s : State) (idx sub : Nat) : Option Nat :=
  if idx < 0x6020 then some (if sub = 4 then svcStat s (idx - 0x6000) else svcVer s (idx - 0x6000))
  else if idx = 0x6100 then some 0
  else if idx = 0x6200 then some (oldAssigned s (halfOfIdx (sub - 1)))
  else if idx = 0x6208 then some (eng s (sub - 1)).share
  else if 0x6D00 ≤ idx ∧ idx < 0x6D80 then
    some ((List.range 32).map fun j => flag (src s (128 * (idx - 0x6D00) + 32 * (sub - 1) + j)).masked j).sum
  else none

/-- Power, time, errors, topology, test. -/
def systemVal (s : State) (h : Half) (idx sub : Nat) : Option Nat :=
  match idx, sub with
  | 0x7000, _ => some s.pwr.level
  | 0x7001, 1 => some 0
  | 0x7001, _ => some s.pwr.sleep
  | 0x7007, k => some (residenceMs s (k - 1))
  | 0x7009, 1 => some s.pwr.refuser.toNat
  | 0x7009, _ => some s.pwr.refTime.toNat
  | 0x7010, 1 => some (signedField s.pwr.tjA 32)
  | 0x7010, _ => some (signedField s.pwr.tjB 32)
  | 0x7081, _ => some (keepBytes (dictOf s h))
  | 0x7082, _ => some s.pwr.lastRestore
  | 0x7400, 1 => some (flag s.time.valid 0)
  | 0x7400, 2 => some (flag s.time.uncertain 0)
  | 0x7400, 3 => some (flag s.time.locked 0)
  | 0x7400, 4 => some (timeBound s)
  | 0x7400, 5 => some s.time.ratio
  | 0x7400, 6 => some s.time.unc
  | 0x7400, 8 => some s.time.elapsed
  | 0x8001, k => some (errLlStat s (k - 1))
  | 0x8002, _ => some 0
  | 0x8004, k => some (errWkStat s k)
  | 0x8005, _ => some 0
  | 0x8008, _ => some (dictOf s h).denied
  | 0x9000, 1 => some (mode s)
  | 0x9000, 2 => some s.sys.straps.devid.toNat
  | 0x9000, _ => some (flag s.sys.straps.halfLead 0)
  | 0x9001, k => some (halfStat s (halfOfIdx (k - 1)))
  | 0x9002, _ => some 0
  | 0x9004, k => some (wkStat s k)
  | 0xA010, k => some (bistCtrl s (halfOfIdx (k - 1)))
  | 0xA011, k => some (bistStat s (halfOfIdx (k - 1)))
  | 0xF000, 2 => some (agStat (dictOf s h))
  | 0xF000, 4 => some (dictOf s h).sealNow
  | 0xF000, 5 => some (sealCode s h)
  | 0xF000, 7 => some (agFail (dictOf s h))
  | 0xF000, 8 => some (dirtyMask (dictOf s h))
  | _, _ =>
    if 0xA000 ≤ idx ∧ idx < 0xA010 ∧ sub = 5 then some (s.test.cnts.getD (idx - 0xA000) 0) else none

/-- The value of an object that is no rwa object, as the instance of half `h` has it. -/
def odNow (s : State) (h : Half) (r : OdRow) (idx sub : Nat) : Nat :=
  let v :=
    if r.acc = .const ∧ idx ≠ 0x1000 then some (r.dflt idx sub)
    else if idx < 0x2000 then (if r.acc = .const ∧ sub ≠ 4 then some (r.dflt idx sub) else idVal s h idx sub)
    else if idx < 0x4000 then portVal s idx sub
    else if idx < 0x6000 then fabricVal s h idx sub
    else if idx < 0x7000 then engineVal s idx sub
    else systemVal s h idx sub
  (v.getD (odCount s h idx sub r.ty.bytes)) % 2 ^ (8 * r.ty.bytes)

/-- An rwa object: running value, or the shadow's. A queue's PROD and CONS are its counts (Table 08.6). -/
def odSet (s : State) (h : Half) (idx sub : Nat) (shadow : Bool) : Nat :=
  if 0x5400 ≤ idx ∧ idx < 0x5500 ∧ 6 < sub % 8 then (dq s ((idx - 0x5400) * 8 + (sub - 1) / 8)).prod
  else if 0x5400 ≤ idx ∧ idx < 0x5500 ∧ sub % 8 = 0 then (dq s ((idx - 0x5400) * 8 + (sub - 1) / 8)).cons
  else if shadow then shadowVal (dictOf s h) idx sub else runVal (dictOf s h) idx sub

/-- The bytes of a DOMAIN that can be read. -/
def odBytes (s : State) (h : Half) (idx sub : Nat) (shadow : Bool) : List Byte :=
  if idx = 0x7080 then (if shadow then keepVal (dictOf s h) else (dictOf s h).keepRun)
  else (link s (4 * ((idx - 0x3000) / 0x20) + sub - 1)).frame

/-- The product name in 32 bytes (R376). -/
def productName : List Byte :=
  exactly 32 [0x41, 0x64, 0x65, 0x74, 0x69, 0x6C, 0x20, 0x32, 0x35, 0x36, 0x30]

/-- The data a READ returns from the serving instance. -/
def odData (s : State) (h : Half) (r : OdRow) (idx sub : Nat) (shadow : Bool) (len off : Nat) : List Byte :=
  match r.ty with
  | .domain _ => ((odBytes s h idx sub shadow).drop off).take len
  | .str32 => productName
  | ty => bytesLE ty.bytes (if r.acc = .rwa then odSet s h idx sub shadow else odNow s h r idx sub)

/-- Bytes of an object's type as a READ's LEN must name them; none for a DOMAIN. -/
def tySize (ty : OdTy) : Option Nat := match ty with | .domain _ => none | t => some t.bytes

/-- One READ (R346, R347, R352): status and data. -/
def odRead (s : State) (p : Path) (shadow : Bool) (idx sub len off : Nat) : Nat × List Byte :=
  let e := pathHalf s p
  match odHighest idx with
  | none => (stNoObject, [])
  | some hi =>
    if !areaServed s e idx then (stNoObject, [])
    else if sub = 0 then
      if len ≤ 1 ∧ off = 0 then (stOk, [BitVec.ofNat 8 hi]) else (stType, [])
    else match odFind idx sub with
      | none => (stNoSub, [])
      | some r =>
        match odServes s e idx sub with
        | none => (stUnreachable, [])
        | some h =>
          let bad := match tySize r.ty with
            | some n => decide (off ≠ 0) || (decide (len ≠ 0) && decide (len ≠ n))
            | none => false
          if r.priv && !pathPriv s p then
            (stNotPriv, if bad then [] else List.replicate ((tySize r.ty).getD len) 0)
          else if r.acc = .wo then (stAccess, [])
          else if bad then (stType, [])
          else (stOk, odData s h r idx sub shadow len off)

/-! ## Writing -/

/-- Bits of a word that are not reserved (R8): flow, queue, window, service and source words, and the others that
leave bits reserved. -/
def odMask (idx sub : Nat) : Nat :=
  let k4 := (sub - 1) % 4
  let k8 := (sub - 1) % 8
  if 0x2020 ≤ idx ∧ idx < 0x2400 then
    (if idx % 0x100 < 0x60 ∧ 0x20 ≤ idx % 0x100 ∧ idx % 0x10 = 2 then 0xFFFFFF else 2 ^ 64 - 1)
  else if 0x3000 ≤ idx ∧ idx < 0x3600 then
    (match (idx - 0x3000) % 0x20 with | 0 => 0x7171F | 24 => 0x1F3F1F | _ => 2 ^ 64 - 1)
  else if 0x4000 ≤ idx ∧ idx < 0x4400 then
    [0x1FFFFFFF, 0x3FFF, 0x7FFFFFF, 0xFFFFFFF].getD k4 0
  else if 0x4400 ≤ idx ∧ idx < 0x4500 then
    [0x1FFFFFF, 0xFFFFFF, 0xFFFFFFF, 0, 0xFFFFF000, 0xFFFFFFFF, 0xFFFFF000, 0xFFFFFFFF].getD k8 0
  else if 0x5000 ≤ idx ∧ idx < 0x5400 then
    [0x7FFF003F, 0x3FFF3FFF, 0xFFFFFFFF, 0x1FFFFFF, 0xFFFFFFFF, 0xFFFFFFFF, 0xFFFFFFFF, 0xFF].getD k8 0
  else if 0x5400 ≤ idx ∧ idx < 0x5500 then
    [0x3FF0F01, 0x3FFF3FFF, 0xFFFFFFC0, 0xFFFFFFFF, 0xFFFFFFC0, 0xFFFFFFFF, 0, 0].getD k8 0
  else if idx = 0x5602 then 0x7F
  else if idx = 0x5603 then 0xFF1F1F1F
  else if 0x5A00 ≤ idx ∧ idx < 0x5B00 then [0xF01, 0xFFFFF, 0xFFFFFF].getD (sub - 1) 0
  else if 0x5C00 ≤ idx ∧ idx < 0x5E00 then [0xFFF03, 0x1FFF0FFF, 0x3FFF7FFF, 0xFFFFF].getD (sub - 1) (2 ^ 64 - 1)
  else if 0x6000 ≤ idx ∧ idx < 0x6020 then [0xFFF01, 0xFFFFFFFF, 0xFFF].getD (sub - 1) 0
  else if 0x6800 ≤ idx ∧ idx < 0x6C00 then
    [0xFF03FF, 0x3FF, 0x3F7FFF, 0xFFFFFFFF, 0xFFFFFFFF, 0xFFFFFFFF, 0xFFFFFFFF, 0].getD k8 0
  else if idx = 0x6C00 then 0xFFFFF
  else if 0x6C10 ≤ idx ∧ idx < 0x6C14 then 0x7FFFFFF
  else if idx = 0x7003 then 0xFF1
  else if 0x7430 ≤ idx ∧ idx < 0x7434 ∧ sub = 1 then 7
  else if 0xA000 ≤ idx ∧ idx < 0xA010 ∧ sub = 1 then 0xF
  else 2 ^ 64 - 1

/-- A write of a shadow, through any path (R365, R371): refused while another path owns the group. -/
def shadowWrite (s : State) (h : Half) (pid idx sub grp v : Nat) : Wr :=
  if lockedFor (dictOf s h) pid grp then (stLocked, bumpW s h 0xF000 0x0C)
  else (stOk, updDict s h fun d => shadowPut d idx sub grp (v &&& odMask idx sub))

/-- A segment of the keep list's shadow. -/
def keepWrite (s : State) (h : Half) (pid off : Nat) (bs : List Byte) : Wr :=
  if 65536 < off + bs.length then (stType, s)
  else if lockedFor (dictOf s h) pid 20 then (stLocked, bumpW s h 0xF000 0x0C)
  else
    let put (old : List Byte) : List Byte :=
      let k := exactly (max old.length (off + bs.length)) old
      k.take off ++ bs ++ k.drop (off + bs.length)
    (stOk, updDict s h fun d => { d with keepSh := some (put (keepVal d)), dirty := d.dirty ||| 2 ^ 20 })

/-- Release of an orphaned follower (R335), as the lead half's instance judges it. -/
def folRelease (s : State) (h : Half) : Wr :=
  let f := otherHalf h
  if isSplit s || (half s h).role != .lead then (stAccess, s)
  else if !dieUp s then (stAccess, bumpW s h 0x9003 3)
  else if (half s f).role == .orphaned then
    (stOk, raiseEv (updHalf s f fun x => { x with role := .follower, freed := true }) h 52 (halfIdx f) 0 0)
  else (stOk, s)

/-- A mask object: 32 sources' masks (R302). -/
def maskWrite (s : State) (lo v : Nat) : State :=
  forAll s (List.range 32) fun t j => if (src t (lo + j)).masked == v.testBit j then t else setMask t (lo + j) (v.testBit j)

/-- An rw object (R346): `v` is its value, BOOL already 0 or 1. -/
def rwWrite (s : State) (e h : Half) (idx sub v : Nat) : Wr :=
  let ok (t : State) : Wr := (stOk, t)
  if idx = 0x1021 then baseWr s h v
  else if idx = 0x9002 then (if v = 1 then folRelease s h else ok s)
  else if (half s h).role == .orphaned then (stAccess, s)
  else if (half s h).role == .unresolved && wideArea idx then (stAccess, s)
  else if 0x2000 ≤ idx ∧ idx < 0x2400 then
    if 1 < v then (stRange, s)
    else ok (if v = 1 then switchTo s (64 * (4 * ((idx - 0x2000) / 0x100) + (idx % 0x100 - 0x20) / 0x10) + sub - 1) else s)
  else if 0x5C00 ≤ idx ∧ idx < 0x5E00 then ok (if v = 1 then mgRestart s (idx - 0x5C00) else s)
  else if idx = 0x6100 then ok (if v = 1 then engRestart s (sub - 1) else s)
  else if 0x6D00 ≤ idx ∧ idx < 0x6D80 then ok (maskWrite s (128 * (idx - 0x6D00) + 32 * (sub - 1)) v)
  else if idx = 0x7001 then (if 3 < v then (stRange, s) else ok (sleepRequest s e v))
  else if idx = 0x8002 then ok (if v = 1 then releaseLink s (sub - 1) else s)
  else if idx = 0x8005 then ok (if v = 1 && isManager s then releaseWorker s sub else s)
  else if idx = 0xA010 then ok (bistWrite s (halfOfIdx (sub - 1)) v)
  else ok s

/-- A wo object, the apply request apart. -/
def woWrite (s : State) (p : Path) (h : Half) (idx sub off : Nat) (bs : List Byte) : Wr :=
  let v := ofBytesLE bs
  match idx, sub with
  | 0x1021, 1 => eraseWr s h v
  | 0x1021, 3 => windowWr s h off bs
  | 0x1021, 4 => verifyWr s h v
  | 0x1022, 3 => activateWr s h v
  | 0x1022, 4 => confirmWr s h v
  | 0x1022, 5 => commitWr s h v
  | 0x1023, 4 => revokeWr s h v
  | 0x1023, k => fuseWr s h k off bs
  | 0x1100, _ => match p with | .field _ => (stAccess, s) | _ => keyWr s h off bs
  | 0xA020, _ => (stOk, if v = 1 then testStop s else s)
  | 0xF000, 9 => (stOk, updDict s h fun d => discard d v)
  | _, _ => (stOk, s)

/-- The encoding of a WRITE's data is wrong (Table 13.1, R352). -/
def encBad (ty : OdTy) (off : Nat) (bs : List Byte) : Bool :=
  match ty with
  | .domain _ => false
  | .bool => decide (off ≠ 0) || decide (bs.length ≠ 1) || decide (1 < ofBytesLE bs)
  | t => decide (off ≠ 0) || decide (bs.length ≠ t.bytes)

/-- An rwa object. -/
def rwaWrite (s : State) (e h : Half) (pid : Nat) (r : OdRow) (idx sub off : Nat) (bs : List Byte) : Wr :=
  let queue := decide (0x5400 ≤ idx) && decide (idx < 0x5500)
  if (match odHalf idx sub with | some o => (half s o).role == .orphaned | none => false) ||
      ((half s e).role == .unresolved && wideArea idx) || (queue && sub % 8 == 0) then (stAccess, s)
  else if encBad r.ty off bs then (stType, s)
  else if queue && sub % 8 == 7 then
    (stOk, dqProd s ((idx - 0x5400) * 8 + (sub - 1) / 8) (ofBytesLE bs % 65536))
  else match r.ty with
    | .domain _ => keepWrite s h pid off bs
    | _ => shadowWrite s h pid idx sub r.grp (ofBytesLE bs)

/-- One WRITE: its status, or none while an apply request is checked; and the state after it. -/
def odWrite (s : State) (p : Path) (from_ : ApplyFrom) (idx sub off : Nat) (bs : List Byte) : Option Nat × State :=
  let e := pathHalf s p
  let ans (w : Wr) : Option Nat × State := (some w.1, w.2)
  let privObj := match odFind idx sub with | some r => r.priv | none => false
  if p = .field 0 then (some stAuth, if privObj then deny s p (denyObj p idx sub) else s)
  else match odHighest idx with
    | none => (some stNoObject, s)
    | some _ =>
      if !areaServed s e idx then (some stNoObject, s)
      else if sub = 0 then (some stAccess, s)
      else match odFind idx sub with
        | none => (some stNoSub, s)
        | some r =>
          match odServes s e idx sub with
          | none => (some stUnreachable, s)
          | some h =>
            if r.priv && !pathPriv s p then (some stNotPriv, deny s p (denyObj p idx sub))
            else match r.acc with
              | .const | .ro => (some stAccess, s)
              | .rwa => ans (rwaWrite s e h (pathId p) r idx sub off bs)
              | .rw => if encBad r.ty off bs then (some stType, s) else ans (rwWrite s e h idx sub (ofBytesLE bs))
              | .wo =>
                if encBad r.ty off bs then (some stType, s)
                else if idx = 0xF000 ∧ sub = 1 then applyRequest s e (pathId p) (ofBytesLE bs) from_
                else ans (woWrite s p h idx sub off bs)

end Sys2Proof.Machine
end

