-- ==== Sys2Proof/Machine/Mdp.lean ====
section
/-! DEFINITION. The Myotte dictionary protocol (R350 to R358): PDUs, requests and their answers, sessions; and the
commands of apply groups and the seal (R365 to R374). -/

namespace Sys2Proof.Machine

/-! ## PDUs (Table 13.3) -/

def tRequest : Nat := 0x01
def tResponse : Nat := 0x02
def tOpen : Nat := 0x10
def tChallenge : Nat := 0x11
def tProof : Nat := 0x12
def tAccept : Nat := 0x13
def tClose : Nat := 0x14
def tRefuse : Nat := 0x15
def tDiscover : Nat := 0x20
def tAnnounce : Nat := 0x21

/-- `n` bytes of a PDU from byte `i`, as a number; bytes that are not there read 0. -/
def pduN (pdu : List Byte) (i n : Nat) : Nat := ofBytesLE ((pdu.drop i).take n)

def pduTyp (pdu : List Byte) : Nat := pduN pdu 1 1
def pduSess (pdu : List Byte) : Nat := pduN pdu 2 2
def pduSeq (pdu : List Byte) : Nat := pduN pdu 4 4
def pduDevid (pdu : List Byte) : Nat := pduN pdu 10 1 % 16
def pduTagged (pdu : List Byte) : Bool := (pduN pdu 11 1).testBit 0
def pduShadow (pdu : List Byte) : Bool := (pduN pdu 11 1).testBit 1
def pduBody (pdu : List Byte) : List Byte := (pdu.drop 16).take (pduN pdu 8 2)

/-- Reason of a REFUSE for the frame's form (R351): 2 version, 1 malformed; 0 none. -/
def pduBad (pdu : List Byte) : Nat :=
  if pdu.length < 16 then 1
  else if pduN pdu 0 1 ≠ 1 then 2
  else if pduN pdu 10 1 / 16 ≠ 0 ∨ pduN pdu 11 1 / 4 ≠ 0 ∨ pduN pdu 12 4 ≠ 0 ∨
      pdu.length ≠ 16 + pduN pdu 8 2 + (if pduTagged pdu then 32 else 0) then 1
  else 0

/-- A PDU that the device sends; `key` tags it (R356). -/
def pduMake (s : State) (typ sess seq : Nat) (body : List Byte) (key : Option (List Byte)) : List Byte :=
  let hdr : List Byte := bytesLE 1 1 ++ bytesLE 1 typ ++ bytesLE 2 sess ++ bytesLE 4 seq ++ bytesLE 2 body.length ++
    bytesLE 1 s.sys.straps.devid.toNat ++ bytesLE 1 (if key.isSome then 1 else 0) ++ bytesLE 4 0
  match key with
  | some k => hdr ++ body ++ Config.hmacSha256 k (hdr ++ body)
  | none => hdr ++ body

/-! ## Operations (Table 13.4) -/

/-- An operation of a REQUEST. -/
structure MdpOp where
  wr   : Bool
  sub  : Nat
  idx  : Nat
  len  : Nat
  off  : Nat
  data : List Byte
deriving DecidableEq, Repr

/-- Bytes up to the next multiple of 4. -/
def pad4 (bs : List Byte) : List Byte := exactly (4 * ceilDiv bs.length 4) bs

/-- The first operation of a body, and the rest. -/
def parseOp (bs : List Byte) : Option (MdpOp × List Byte) :=
  let code := pduN bs 0 1
  let len := pduN bs 4 2
  let n := if code = 2 then len else 0
  if bs.length < 8 + n ∨ (code ≠ 1 ∧ code ≠ 2) then none
  else some (⟨code == 2, pduN bs 1 1, pduN bs 2 2, len, pduN bs 6 2, (bs.drop 8).take n⟩,
    bs.drop (8 + 4 * ceilDiv n 4))

/-- Every operation of a body, at most `n`: none where it does not parse. -/
def parseOps : Nat → List Byte → Option (List MdpOp)
  | 0, bs => if bs.isEmpty then some [] else none
  | n + 1, bs =>
    if bs.isEmpty then some []
    else match parseOp bs with
      | none => none
      | some (o, rest) => (parseOps n rest).map (o :: ·)

/-- The operations of a REQUEST: 1 to 64. -/
def bodyOps (body : List Byte) : Option (List MdpOp) := if body.isEmpty then none else parseOps 64 body

/-- One answer. -/
def answer (o : MdpOp) (st : Nat) (data : List Byte) : List Byte :=
  bytesLE 1 (if o.wr then 2 else 1) ++ bytesLE 1 o.sub ++ bytesLE 2 o.idx ++ bytesLE 1 st ++ bytesLE 1 0 ++
    bytesLE 2 data.length ++ pad4 data

/-- Bytes of the answer of an operation, at most (R352). -/
def answerRoom (o : MdpOp) : Nat :=
  let n := if o.wr then 0
    else match odFind o.idx o.sub with
      | some r => (match r.ty with | .domain d => min o.len (d - o.off) | ty => ty.bytes)
      | none => if o.sub = 0 && (odHighest o.idx).isSome then 1 else 0
  8 + 4 * ceilDiv n 4

/-- The operations in order (R352): the answers, or none once an apply request is checked, which holds what is
still to be done. `mk` builds its source from the answers so far and the remaining operations. -/
def runOps : Nat → State → Path → Bool → (List Byte → List Byte → ApplyFrom) → List Byte → List Byte →
    State × Option (List Byte)
  | 0, s, _, _, _, done, _ => (s, some done)
  | n + 1, s, p, sh, mk, done, rest =>
    match parseOp rest with
    | none => (s, some done)
    | some (o, more) =>
      if o.wr then
        match odWrite s p (mk done more) o.idx o.sub o.off o.data with
        | (some st, t) => runOps n t p sh mk (done ++ answer o st []) more
        | (none, t) => (t, none)
      else
        let a := odRead s p sh o.idx o.sub o.len o.off
        runOps n s p sh mk (done ++ answer o a.1 a.2) more

/-! ## Where answers go -/

/-- The way back: a field-port address with the EtherType in force when the frame arrived (R350, R376), or a
mailbox that still waits. -/
inductive Back where
  | field (dst : BitVec 48) (ether : Nat)
  | mbx (m : Nat) (live : Bool)
deriving DecidableEq, Repr

/-- A PDU leaves. -/
def sendBack (s : State) (b : Back) (pdu : List Byte) : State :=
  match b with
  | .field dst ether => emit s (.frame dst ether pdu)
  | .mbx m live => onlyIf (live && (mbx s m).busy) (fun t => updMbx t m fun x => { x with answer := some pdu }) s

/-- The instance that holds the sessions. -/
def sessHalf (s : State) : Half := leadHalf s

/-- An open session, an unanswered CHALLENGE. -/
def openSess (s : State) (n : Nat) : Option Sess :=
  if n = 0 then none else (dictOf s (sessHalf s)).sessions.find? fun x => x.num == n && x.opened
def challenge (s : State) (n : Nat) : Option Sess :=
  if n = 0 then none else (dictOf s (sessHalf s)).sessions.find? fun x => x.num == n && !x.opened
def updSess (s : State) (n : Nat) (f : Sess → Sess) : State :=
  updDict s (sessHalf s) fun d => { d with sessions := d.sessions.map fun x => if x.num == n then f x else x }

/-- A session's answer is tagged, and stored to be repeated (R356). -/
def sendSess (s : State) (b : Back) (x : Sess) (typ seq : Nat) (body : List Byte) : State :=
  let pdu := pduMake s typ x.num seq body (some x.ks)
  sendBack (updSess s x.num fun y => { y with resp := pdu }) b pdu

/-- An answer inside or outside a session. -/
def sendAny (s : State) (b : Back) (sess typ seq : Nat) (body : List Byte) : State :=
  match openSess s sess with
  | some x => sendSess s b x typ seq body
  | none => sendBack s b (pduMake s typ sess seq body none)

/-- REFUSE with a reason (R351), counted. -/
def refuse (s : State) (e : Half) (b : Back) (sess : Option Nat) (pdu : List Byte) (reason : Nat) : State :=
  let s1 := bumpW s (servHalf s e) 0x1010 6
  match sess with
  | some n => sendAny s1 b n tRefuse (pduSeq pdu) (bytesLE 4 reason)
  | none => sendBack s1 b (pduMake s tRefuse (pduSess pdu) (pduSeq pdu) (bytesLE 4 reason) none)

/-! ## Requests -/

/-- What waits for an apply result that a REQUEST asked for. -/
def fromOf (b : Back) (sess : Nat) (hdr done rest : List Byte) : ApplyFrom :=
  match b with
  | .field dst ether => .mdpField dst ether sess hdr done rest
  | .mbx m live => .mdpMbx m live hdr done rest

/-- Run the operations and answer, unless an apply request is checked. -/
def serveOps (s : State) (p : Path) (b : Back) (sess : Nat) (hdr done rest : List Byte) : State :=
  match runOps 64 s p (pduShadow hdr) (fromOf b sess hdr) done rest with
  | (t, some a) => sendAny t b sess tResponse (pduSeq hdr) a
  | (t, none) => t

/-- A REQUEST (R352): its body must parse, its response must fit. -/
def serveRequest (s : State) (p : Path) (b : Back) (sess : Option Nat) (limit : Nat) (pdu : List Byte) : State :=
  match bodyOps (pduBody pdu) with
  | none => refuse s (pathHalf s p) b sess pdu 1
  | some ops =>
    let n := sess.getD 0
    let room := 16 + (if sess.isSome then 32 else 0) + (ops.map answerRoom).sum
    if limit < room then
      sendAny s b n tResponse (pduSeq pdu) (ops.flatMap fun o => answer o stTooLong [])
    else serveOps s p b n (pdu.take 16) [] (pduBody pdu)

/-- The result of an apply request is known: its REQUEST goes on (R368). A session that has ended in the meantime
gets no answer, and what it still asked for is not done. -/
def applyResume (s : State) (from_ : ApplyFrom) (st : Nat) : State :=
  let mine := answer ⟨true, 1, 0xF000, 0, 0, []⟩ st []
  match from_ with
  | .reg => s
  | .mdpField dst ether sess hdr done rest =>
    if (openSess s sess).isSome then
      serveOps s (.field (BitVec.ofNat 16 sess)) (.field dst ether) sess hdr (done ++ mine) rest
    else s
  | .mdpMbx m live hdr done rest =>
    serveOps s (.mbx (Fin.ofNat 16 m)) (.mbx m live) 0 hdr (done ++ mine) rest

/-- Go on after what an ending brought. -/
def resumeWith (r : State × Option (ApplyFrom × Nat)) : State :=
  match r.2 with
  | some x => applyResume r.1 x.1 x.2
  | none => r.1

/-- ANNOUNCE (R351). -/
def announce (s : State) (b : Back) (pdu : List Byte) : State :=
  sendBack s b (pduMake s tAnnounce 0 (pduSeq pdu)
    (bytesLE 8 s.nv.fuses.mac ++ bytesLE 1 s.sys.straps.devid.toNat ++ bytesLE 1 (mode s) ++
      bytesLE 8 s.nv.fuses.dsn ++ bytesLE 2 0) none)

/-! ## Sessions (R354 to R357) -/

/-- A session frame is discarded and counted. -/
def sessDiscard (s : State) : State := bumpW s (sessHalf s) 0x1100 0x11

/-- Labels of Table 13.6 and R356. -/
def label (c : Nat) : List Byte := [0x4D, 0x44, 0x50] ++ bytesLE 1 c

/-- HMAC over a label, the two random values and the session number. -/
def sessMac (k : List Byte) (c : Nat) (x y : List Byte) (n : Nat) : List Byte :=
  Config.hmacSha256 k (label c ++ x ++ y ++ bytesLE 2 n)

/-- A session number from 1 to 65,535 that nothing holds, the first such from a free value on (R355). -/
def sessNumber (s : State) : Nat × State :=
  let held := (dictOf s (sessHalf s)).sessions.map (·.num)
  let f := takeFree s
  (((List.range 65535).map fun i => (f.1 + i) % 65535 + 1).find? (fun n => !held.contains n) |>.getD 1, f.2)

/-- OPEN (R355). -/
def sessOpenReq (s : State) (b : Back) (pdu : List Byte) : State :=
  let h := sessHalf s
  let d := dictOf s h
  let no (r : Nat) : State := refuse s h b none pdu r
  if (pduBody pdu).length ≠ 16 then no 1
  else if d.lockout then no 7
  else match keyOf s h with
    | none => no 6
    | some k =>
      if 4 ≤ (d.sessions.filter (·.opened)).length then no 4
      else
        let (n, s1) := sessNumber s
        let nd := exactly 16 (Config.freeBytes s1.freeCtr)
        let s2 := updDict { s1 with freeCtr := s1.freeCtr + 1 } h fun x => { x with
          sessions := x.sessions ++ [⟨n, false, pduBody pdu, nd, k, none, [], []⟩] }
        sendBack s2 b (pduMake s tChallenge n (pduSeq pdu) nd none)

/-- A failed proof (R355): counted; five within 60 s lock OPEN out. -/
def proofFailed (s : State) (n : Nat) : State :=
  let h := sessHalf s
  updDict (bumpW s h 0x1100 0x10) h fun d =>
    let ts := (d.failTimes.filter fun t => s.clk - t ≤ 75000000000) ++ [s.clk]
    { d with failTimes := ts, lockout := d.lockout || decide (5 ≤ ts.length),
             sessions := d.sessions.filter fun x => x.num != n }

/-- PROOF of an unanswered CHALLENGE (R355). -/
def sessProof (s : State) (b : Back) (x : Sess) (pdu : List Byte) : State :=
  let h := sessHalf s
  if pduBody pdu ≠ sessMac x.ks 0x31 x.nc x.nd x.num then refuse (proofFailed s x.num) h b none pdu 5
  else if 4 ≤ ((dictOf s h).sessions.filter (·.opened)).length then
    refuse (updDict s h fun d => { d with sessions := d.sessions.filter fun y => y.num != x.num }) h b none pdu 4
  else
    let ks := sessMac x.ks 0x53 x.nc x.nd x.num
    let s1 := updSess s x.num fun y => { y with opened := true, ks := ks, seq := some (pduSeq pdu), tag := [], resp := [] }
    sendBack s1 b (pduMake s tAccept x.num (pduSeq pdu) (sessMac x.ks 0x32 x.nd x.nc x.num) (some ks))

/-- A frame of an open session (R356). -/
def sessFrame (s : State) (b : Back) (x : Sess) (pdu : List Byte) : State :=
  let tag := pdu.drop (pdu.length - 32)
  let seq := pduSeq pdu
  if !pduTagged pdu || decide (pdu.length < 48) || Config.hmacSha256 x.ks (pdu.take (pdu.length - 32)) != tag then
    sessDiscard s
  else if x.seq == some seq && x.tag == tag then (if x.resp.isEmpty then s else sendBack s b x.resp)
  else if decide (seq ≤ x.seq.getD 0) && x.seq.isSome then sessDiscard s
  else
    let s1 := updSess s x.num fun y => { y with seq := some seq, tag := tag, resp := [] }
    let bad := pduBad pdu
    if bad ≠ 0 then refuse s1 (sessHalf s1) b (some x.num) pdu bad
    else if pduTyp pdu = tRequest then
      serveRequest s1 (.field (BitVec.ofNat 16 x.num)) b (some x.num) 1500 pdu
    else if pduTyp pdu = tClose then
      let s2 := sendSess s1 b x tClose seq []
      sessEnd s2 (sessHalf s2) x.num
    else refuse s1 (sessHalf s1) b (some x.num) pdu 1

/-! ## Frames -/

/-- The field port works: the lead half's steward or the starter serves it, in S0 and S1. -/
def fieldUp (s : State) : Bool :=
  let x := half s (leadHalf s)
  !s.sys.resetLow && s.sys.fieldOk && s.pwr.sleep ≤ 1 && !x.stewardHalted && (x.boot == .complete || x.boot == .serviceUp)

/-- The frame is not for the device (R350). -/
def notForUs (s : State) (fr : FieldFrame) : Bool :=
  let t := pduTyp fr.pdu
  fr.ether.toNat != runVal (dictOf s (sessHalf s)) 0x1010 2 || decide (1500 < fr.pdu.length) ||
  !(fr.dst.toNat == s.nv.fuses.mac || (fr.dst == 0xFFFFFFFFFFFF && t == tDiscover)) ||
  (t == tRequest && pduDevid fr.pdu != s.sys.straps.devid.toNat)

/-- A frame on the field port outside an open session. -/
def fieldPlain (s : State) (b : Back) (pdu : List Byte) : State :=
  let t := pduTyp pdu
  let bad := pduBad pdu
  if bad ≠ 0 then refuse s (sessHalf s) b none pdu bad
  else if t = tDiscover then announce s b pdu
  else if t = tOpen then sessOpenReq s b pdu
  else match (if t = tProof then challenge s (pduSess pdu) else none) with
    | some x => sessProof s b x pdu
    | none =>
      if pduSess pdu ≠ 0 ∨ t = tProof then sessDiscard s
      else if t = tRequest then serveRequest s (.field 0) b none 1500 pdu
      else refuse s (sessHalf s) b none pdu 1

/-- A frame arrives on the field port (R350, R354): a frame for the device is a management access. -/
def fieldFrame (s : State) (fr : FieldFrame) : State :=
  if !fieldUp s then s
  else if notForUs s fr then bumpW s (sessHalf s) 0x1010 6
  else
    let s1 := wakeBy s 7 0
    let b : Back := .field fr.src fr.ether.toNat
    match openSess s1 (pduSess fr.pdu) with
    | some x => sessFrame s1 b x fr.pdu
    | none => fieldPlain s1 b fr.pdu

/-- A frame submitted in a mailbox (R354): no session, no session frame. -/
def mbxFrame (s : State) (m : Nat) (live : Bool) (pdu : List Byte) : State :=
  let b : Back := .mbx m live
  let e := halfOfHl m
  let t := pduTyp pdu
  let bad := pduBad pdu
  if bad ≠ 0 then refuse s e b none pdu bad
  else if pduSess pdu ≠ 0 ∨ t = tOpen ∨ t = tProof ∨ t = tClose then refuse s e b none pdu 3
  else if t = tRequest then serveRequest s (.mbx (Fin.ofNat 16 m)) b none 2048 pdu
  else if t = tDiscover then announce s b pdu
  else refuse s e b none pdu 1

/-- The steward takes the oldest frame of a mailbox: one left by a re-initialisation, whose answer is discarded, or
the frame submitted (R102). -/
def mbxTake (s : State) (m : Nat) : State :=
  let x := mbx s m
  let h := half s (halfOfHl m)
  if s.sys.resetLow || h.stewardHalted || !(h.boot == .complete || h.boot == .serviceUp) then s
  else match x.orphan with
    | pdu :: more => mbxFrame (updMbx s m fun y => { y with orphan := more }) m false pdu
    | [] =>
      if x.busy && !x.taken then
        mbxFrame (updMbx s m fun y => { y with taken := true }) m true (readBytes 0 x.req 0 x.reqLen)
      else s

/-! ## Commands of the protocol -/

/-- The types that have a command of their own. -/
def ownType (t : Nat) : Bool := t == tOpen || t == tProof || t == tClose || t == tDiscover

/-- MDP_REQUEST (R350 to R354): a frame of the field port that no other command stands for, or the frame of a
mailbox. -/
def execMdpRequest (src : MdpSrc) (s : State) : Out :=
  .next (match src with
    | .field fr => if ownType (pduTyp fr.pdu) then s else fieldFrame s fr
    | .mailbox m => mbxTake s m.val)

/-- DISCOVER (R351), OPEN, PROOF (R355) and CLOSE (R357): a frame of that TYPE. -/
def frameOf (t : Nat) (fr : FieldFrame) (s : State) : State := if pduTyp fr.pdu = t then fieldFrame s fr else s
def execDiscover (fr : FieldFrame) (s : State) : Out := .next (frameOf tDiscover fr s)
def execOpen (fr : FieldFrame) (s : State) : Out := .next (frameOf tOpen fr s)
def execProof (fr : FieldFrame) (s : State) : Out := .next (frameOf tProof fr s)
def execClose (fr : FieldFrame) (s : State) : Out := .next (frameOf tClose fr s)

/-- CHALLENGE_TIMEOUT (R355): 1 s without a PROOF frees the number. -/
def execChallengeTimeout (n : BitVec 16) (s : State) : Out :=
  .next (match challenge s n.toNat with
    | some x => updDict s (sessHalf s) fun d => { d with sessions := d.sessions.filter fun y => y.num != x.num }
    | none => s)

/-- PROOF_LOCKOUT_END (R355): 10 s are over. -/
def execProofLockoutEnd (s : State) : Out := .next (updDict s (sessHalf s) fun d => { d with lockout := false })

/-- SESSION_IDLE_TIMEOUT (R357). -/
def execSessionIdleTimeout (n : BitVec 16) (s : State) : Out :=
  .next (match openSess s n.toNat with
    | some x => sessEnd s (sessHalf s) x.num
    | none => s)

/-! ## Apply groups -/

/-- What a write of an AG_ register does at the instance that serves half `e`. -/
def agServed (s : State) (e : Half) (f : State → Half → State) : State :=
  if wideServed s e then f s (servHalf s e) else s

/-- A write of an AG_ register through a register path, or of its object (none where `sub` is 0) through another:
it reaches the instance that serves the path, unless the receiving half is an orphaned follower. -/
def agAct (s : State) (p : Path) (off sub : Nat) (f : State → Half → State) : State :=
  let e := pathHalf s p
  let g (t : State) : State := agServed t e f
  match p with
  | .reg _ _ | .steward _ => regAct s p off e g
  | _ => if sub = 0 then (if pathLive s p && pathPriv s p && inService s e then g s else s) else objAct s p 0xF000 sub e g

/-- AG_APPLY (R366, R370): AG_APPLY or OD 0xF000:01; nothing of this command waits for the result. -/
def execAgApply (p : Path) (mask : W32) (s : State) : Out :=
  .next (agAct s p 0x00100000 1 fun t _ => (applyRequest t (pathHalf t p) (pathId p) mask.toNat .reg).2)

/-- APPLY_CHECK_COMPLETE (R368): of the instance of half `h`. -/
def execApplyCheckComplete (h : Half) (s : State) : Out :=
  .next (if servHalf s h == h then resumeWith (checkEnds s h) else s)

/-- FOLLOWER_CUT_ACT (R18, R333). -/
def execFollowerCutAct (s : State) : Out := .next (followerCut s)

/-- The follower's acknowledgement has arrived: the request is accepted; or, with no request, the follower is up to
date and the die link is up (R333). -/
def cutAcked (s : State) : State :=
  let h := leadHalf s
  if oneHalf s || !s.dict.cutWait || s.dict.folWait then s
  else if s.dict.apply.isSome then
    if dieUp s then resumeWith (applyEnd s h agAccepted none fun d => { d with apply := none, cutWait := false }) else s
  else
    let up (t : State) (k : Half) : State := raiseEv (updHalf t k fun x => { x with dlUp := true, downClk := none }) k 49 (halfIdx k) 0 0
    up (up { s with dict := { s.dict with cutWait := false } } .a) .b

/-- CUT_ACK (R333). -/
def execCutAck (s : State) : Out := .next (cutAcked s)

/-- AG_DISCARD (R365): AG_DISCARD or OD 0xF000:09. -/
def execAgDiscard (p : Path) (mask : W32) (s : State) : Out :=
  .next (agAct s p 0x00100010 9 fun t h => updDict t h fun d => discard d mask.toNat)

/-- AG_CLAIM (R371). -/
def execAgClaim (p : Path) (mask : W32) (s : State) : Out :=
  .next (agAct s p 0x00100018 0 fun t h => updDict t h fun d => claim d (pathId p) mask.toNat)

/-- AG_RELEASE (R371). -/
def execAgRelease (p : Path) (mask : W32) (s : State) : Out :=
  .next (agAct s p 0x0010001C 0 fun t h => updDict t h fun d => release d (pathId p) mask.toNat)

/-! ## Seal -/

/-- The instance of a half makes seal passes. -/
def sealer (s : State) (h : Half) : Bool := servHalf s h == h && stewardUp s h && s.pwr.sleep ≤ 1

/-- SEAL_PASS_START (R373): every 1 ms. -/
def execSealPassStart (h : Half) (s : State) : Out :=
  .next (if sealer s h && !(dictOf s h).sealRun then sealStart s h else s)

/-- The objects an instance seals (R372). -/
def sealOwn (s : State) (h : Half) (idx sub : Nat) : Bool :=
  !ownB s || match odHalf idx sub with | some k => k == h | none => true

/-- SEAL_PASS_COMPLETE (R373, R374). -/
def execSealPassComplete (h : Half) (s : State) : Out :=
  .next (if sealer s h then sealEnds s h (sealOwn s h) else s)

end Sys2Proof.Machine
end

