-- ==== Sys2Proof/Machine/DieLink.lean ====
section
/-! DEFINITION. The die link (R15, R330 to R335): heartbeats, failing and coming up again, the endings its loss
brings, an orphaned follower and its release. -/

namespace Sys2Proof.Machine

/-! ## Endings (R334) -/

/-- A transaction between the halves that has not crossed whole; a host message crosses when it is committed. -/
def waitsToCross (s : State) (t : Txn) : Bool :=
  t.ihalf != t.home &&
  (t.left != 0 || (match t.op with | .message _ => true | _ => false) ||
   s.fab.cells.any fun c => c.place == .die && c.parts.any fun p => p.1 == t.id)

/-- A posted write that waits to cross is dropped, and counted where it was accepted. -/
def dropCrossing (s : State) (t : Txn) : State :=
  let s1 := bump (endTxn s t 2) 0x9007 (3 + halfIdx t.ihalf)
  match t.op with
  | .message n => updSrc s1 n fun x => { x with pos := .idle }
  | _ => s1

/-- The error completion that takes the place of a completion discarded on its way across. -/
def crossError (t : Txn) : Txn :=
  match t.op with
  | .cpl _ remain off tag =>
    { t with op := .cpl 2 (match t.sink with | .fn _ => remain + t.data.length | _ => 0) off tag, data := [], len := 0,
             poison := false, ihalf := t.home, size := 16, left := 16, arrived := 0, sent := 0, released := false }
  | _ => t

/-- A completion that waits to cross is discarded, and counted; the request it answers ends with CA in its own half:
here, where nothing else of it is open. -/
def cplCrossing (s : State) (t : Txn) : State :=
  let s1 := bump (dropTxn s t.id) 0x9007 (5 + halfIdx t.ihalf)
  let off := match t.op with | .cpl _ _ o _ => o | _ => 0
  if (req? s1 t.req).isSome then updReq s1 t.req fun r => { r with sent := min r.sent off }
  else if s1.fab.txns.any fun u => u.req == t.req && u.kind == .cpl && u.ihalf == u.home &&
      (match u.op with | .cpl 2 .. => true | _ => false) then s1
  else addTxn (bump s1 0x9007 (1 + halfIdx t.home)) (crossError t)

/-- What an open request waits for lies in the other half, or on the way there. -/
def reqCrosses (s : State) (r : Req) : Bool :=
  s.fab.txns.any (fun t => t.req == r.id && t.kind == .np && t.home != r.half) ||
  s.fab.tags.any (fun u => u.req == r.id && sideHalf u.side != r.half) ||
  s.eng.engs.any (fun (e, g) => halfOfEng e != r.half && g.inbox.any fun x => x.req == r.id && !x.done) ||
  s.brdg.sems.any (fun (n, x) => halfOfSem n != r.half && x.waiters.any fun w => w.2 == r.id)

/-- ... or it waits for a prefetch unit that does. -/
def unitCrosses (s : State) (r : Req) : Bool :=
  r.parts.any fun p => match p.st with
    | .unit n => s.fab.reqs.any fun q => (match q.who with | .prefetch _ _ _ k => k == n | _ => false) && reqCrosses s q
    | _ => false

/-- The far half keeps the request's tags, for completions that will be discarded; its engines and semaphores
forget whom they answer. -/
def reqDetach (s : State) (r : Req) : State :=
  let lack (i : Nat) : Nat := match r.parts[i]? with | some p => p.len - p.buf.length | none => 0
  let s1 := updFab s fun x => { x with tags := x.tags.map fun u =>
    if u.req == r.id && (sideHalf u.side != r.half) then { u with req := 0, part := lack u.part } else u }
  { s1 with
    eng := { s1.eng with engs := Tab.mapAll EngSt.reset (fun e g => if halfOfEng e == r.half then g
      else { g with inbox := g.inbox.map fun x => if x.req == r.id then { x with req := 0 } else x }) s1.eng.engs }
    brdg := { s1.brdg with sems := Tab.mapAll SemSt.reset (fun n x => if halfOfSem n == r.half then x
      else { x with waiters := x.waiters.filter fun w => w.2 != r.id }) s1.brdg.sems } }

/-- An open request ends with CA in its requester's half. -/
def reqCrossEnds (s : State) (r : Req) : State :=
  let s1 := bump (reqDetach s r) 0x9007 (1 + halfIdx r.half)
  forAll s1 (List.range r.parts.length) fun u i =>
    match req? u r.id with
    | some q => (match q.parts[i]? with | some p => if partOpen p then failPart u r.id i 2 r.half else u | none => u)
    | none => u

/-- Everything that was waiting to cross, or had crossed and was awaiting a completion, ends (R334); ingress space
is free again. -/
def dieEnds (s : State) : State :=
  let s1 := forAll s (s.fab.txns.filter fun t => t.kind == .p && waitsToCross s t) fun u t =>
    if (txn? u t.id).isSome then dropCrossing u t else u
  let s2 := forAll s1 (s1.fab.txns.filter fun t => t.kind == .cpl && waitsToCross s1 t) cplCrossing
  let isUnit (r : Req) : Bool := match r.who with | .prefetch .. => true | _ => false
  let rs := s2.fab.reqs.filter fun r => reqCrosses s2 r || unitCrosses s2 r
  let s3 := forAll s2 (rs.filter (fun r => !isUnit r) ++ rs.filter isUnit) fun u r =>
    if (req? u r.id).isSome then reqCrossEnds u r else u
  retryHalf (retryHalf (settle s3) .a) .b

/-! ## Up and down (R15, R328, R330, R333) -/

/-- The die link has an up or down state: the exchange is over and no half is in LEAD_UNRESOLVED (R328). -/
def dieStates (s : State) : Bool :=
  s.sys.a.exch && s.sys.b.exch && s.sys.a.role != .unresolved && s.sys.b.role != .unresolved &&
  s.sys.a.role != .starting && s.sys.b.role != .starting && decide (s.pwr.sleep ≤ 1)

/-- Both halves' view. -/
def bothHalves (s : State) (f : HalfSt → HalfSt) : State := updHalf (updHalf s .a f) .b f

/-- The die link goes down. `why`: 1 CRC, 2 heartbeat. In SPLIT only the alignment pulse stops. While it is already
down, an attempt to come up fails and an update of the follower in progress is given up. -/
def dieDown (s : State) (why : Nat) : State :=
  let cut (t : State) : State := bothHalves t fun x => { x with trained := false, hbCount := 0, crcFails := 0 }
  if !dieStates s then cut s
  else if isSplit s then cut (bothHalves s fun x => { x with dlUp := false })
  else if !(s.sys.a.dlUp && s.sys.b.dlUp) then
    cut { s with dict := { s.dict with cutWait := s.dict.cutWait && s.dict.apply.isSome } }
  else
    let s1 := bothHalves (cut s) fun x => { x with dlUp := false, downClk := some s.clk }
    let ev (t : State) (h : Half) : State := raiseEv t h 48 (halfIdx h) why 0
    let s2 := ev (ev (bumpW s1 (leadHalf s) 0x9003 1) .a) .b
    resumeWith (unconfirmed (dieEnds s2))

/-- Both ends are trained and each half has received 10 heartbeats: the die link is up; where the halves have acted
on different cuts, the follower is brought up to date first (R333). -/
def dieTryUp (s : State) : State :=
  let good (x : HalfSt) : Bool := x.trained && decide (10 ≤ x.hbCount)
  if !(good s.sys.a && good s.sys.b) || (s.sys.a.dlUp && s.sys.b.dlUp) || s.dict.cutWait then s
  else
    let up (t : State) : State := bothHalves t fun x => { x with dlUp := true, downClk := none }
    if isSplit s then up s
    else if s.dict.folWait || s.dict.folSeq ≠ s.dict.seq then
      let d := s.dict
      { s with dict := { d with cutWait := true, folPrev := if d.folWait then d.folPrev else d.run, folWait := true } }
    else
      let ev (t : State) (h : Half) : State := raiseEv t h 49 (halfIdx h) 0 0
      ev (ev (up s) .a) .b

/-- HEARTBEAT_SEND (R326, R330): from the exchange on, over a trained die link. Code 1 on the die link. -/
def execHeartbeatSend (h : Half) (s : State) : Out :=
  .next (if (half s h).exch && (half s h).trained && s.pwr.sleep ≤ 1 then emit s (.dieLink (otherHalf h) 1 0) else s)

/-- HEARTBEAT_RECEIVE (R330). -/
def execHeartbeatReceive (h : Half) (s : State) : Out :=
  .next (
    if !dieStates s || !(half s h).trained then s
    else dieTryUp (updHalf s h fun x => { x with hbClk := s.clk, hbCount := if x.dlUp then x.hbCount else x.hbCount + 1 }))

/-- HEARTBEAT_TIMEOUT (R330): half `h` has received none for 1 ms. -/
def execHeartbeatTimeout (h : Half) (s : State) : Out :=
  .next (if dieStates s && (half s h).trained then dieDown s 2 else s)

/-- DIE_LINK_CRC_FAIL (R15): the transfer is sent again; a second failure of it takes the die link down. -/
def execDieLinkCrcFail (h : Half) (xfer : Nat) (s : State) : Out :=
  .next (
    let x := half s h
    if !x.trained then s
    else if x.crcFails = 1 ∧ x.crcXfer = xfer then dieDown s 1
    else updHalf s h fun y => { y with crcFails := 1, crcXfer := xfer })

/-- DIE_LINK_RETRAIN (R330): an attempt of half `h`, once every 1 ms while the die link is down. -/
def execDieLinkRetrain (h : Half) (ok : Bool) (s : State) : Out :=
  .next (
    if (half s h).boot == .reset || (half s h).trained && (half s h).dlUp then s
    else updHalf s h fun x => { x with trained := ok, hbCount := 0, crcFails := 0, hbClk := if ok then s.clk else x.hbClk })

/-! ## Orphaned (R331, R335) -/

/-- The follower becomes orphaned: its links in RUN are frozen with CAUSE 5. -/
def orphan (s : State) (f : Half) : State :=
  let ls := (span (96 * halfIdx f) 96).filter fun l => (link s l).contain == 1
  let s1 := forAll (updHalf s f fun x => { x with role := .orphaned }) ls fun u l => freezeLink u l 5
  raiseEv (bumpW s1 (leadHalf s) 0x9003 2) f 50 (halfIdx f) ls.length 0

/-- ORPHAN_TIMEOUT (R331): the die link has been down for 10 ms. -/
def execOrphanTimeout (s : State) : Out :=
  .next (
    let h := leadHalf s
    let f := otherHalf h
    if isSplit s || !dieStates s || s.sys.a.dlUp || s.sys.b.dlUp || s.sys.a.downClk.isNone then s
    else
      let s1 := raiseEv (bothHalves s fun x => { x with downClk := none }) h 51 (halfIdx f) 0 0
      if (half s f).role == .follower then orphan (updHalf s1 f fun x => { x with freed := false }) f else s1)

/-- FOLLOWER_RELEASE (R335): OD 0x9002:01; a write of 0 asks for nothing. -/
def execFollowerRelease (p : Path) (v : Bool) (s : State) : Out :=
  .next (objAct s p 0x9002 1 (servHalf s (pathHalf s p)) fun t =>
    let h := servHalf t (pathHalf t p)
    if v && !(half t h).stewardHalted then (folRelease t h).2 else t)

end Sys2Proof.Machine
end

