-- ==== Sys2Proof/Machine/Boot.lean ====
section
/-! DEFINITION. Reset and start-up (R2, R324, R326 to R329, R412 to R427, R430, R433 to R435, R460, R463, R470): the
pin, the starter's choice of a slot, the token exchange, the firmware, the configuration record, completion. -/

namespace Sys2Proof.Machine

/-! ## RESET_N (R412, R413) -/

/-- Every block returns to its reset state; the rind's tick counter, fuses, flash and what the board drives stay.
A flash operation is remembered, for the next start-up to record its slot WRITTEN (R434). -/
def resetAll (s : State) : State :=
  let y := s.sys
  { State.reset with
    pending := s.pending, out := s.out, clk := s.clk, freeCtr := s.freeCtr, nextId := s.nextId,
    sys := { SysSt.reset with
      perst := y.perst, thermtrip := y.thermtrip, alert := y.alert &&& 32, hrefOk := y.hrefOk, lrefOk := y.lrefOk,
      sysclkOk := y.sysclkOk, fieldOk := y.fieldOk, tickPhase := y.tickPhase },
    nv := if isSplit s then s.nv else { s.nv with upB := s.nv.up },
    pwr := { PwrSt.reset with tjA := s.pwr.tjA, tjB := s.pwr.tjB },
    time := { TimeSt.reset with tick := s.time.tick },
    test := { TestSt.reset with tapA := s.test.tapA, tapB := s.test.tapB } }

/-- RESET_N_ASSERT (R412): low for `durNs`. Below 200 ns nothing; from 1 µs on a reset; between, either. -/
def execResetNAssert (durNs : Nat) (s : State) : Out :=
  .next (
    if durNs < 200 then s
    else if 1000 ≤ durNs then resetAll s
    else
      let f := takeFree s
      if f.1 % 2 = 0 then f.2 else resetAll f.2)

/-! ## The record (R418, R423) -/

/-- A half's straps. -/
def strapsOf (s : State) : Half → Straps
  | .a => s.sys.straps
  | .b => s.sys.strapsB

/-- The flash whose sections a half runs: its own, or the lead's (R424). -/
def imgFlash (s : State) (h : Half) : FlashSt := if (half s h).differ then flash s (leadHalf s) else flash s h

/-- An entry names an rwa object, in a form it can hold; a queue's PROD and CONS have no shadow. -/
def recEntryOk (e : RecEntry) : Bool :=
  match odFind e.1 e.2.1 with
  | some r => r.acc == .rwa && !encBad r.ty 0 e.2.2 && !(0x5400 ≤ e.1 && e.1 < 0x5500 && (e.2.1 % 8 == 7 || e.2.1 % 8 == 0))
  | none => false

/-- Group of an entry. -/
def recGroup (e : RecEntry) : Nat := match odFind e.1 e.2.1 with | some r => r.grp | none => noGrp

/-- The request that entries make: entries which name nothing writable write nothing. -/
def recordReq (es : List RecEntry) : ApplyReq :=
  let ok := es.filter recEntryOk
  { mask := ok.foldl (fun m e => m ||| 2 ^ recGroup e) 0
    snap := ok.foldl (fun t e => if e.1 = 0x7080 then t
      else Tab.set none t (okey 0 e.1 e.2.1) (some (ofBytesLE e.2.2 &&& odMask e.1 e.2.1))) []
    keep := ((ok.filter fun e => e.1 == 0x7080).getLast?).map (·.2.2)
    dirty := 0, gone := 0, src := .reg }

/-- Entries of the record in the slot that a half runs; none where the image has no record. -/
def recordOf (s : State) (h : Half) : Option (List RecEntry) :=
  if (half s h).slot < 2 then imgRecord (imgFlash s h) (half s h).slot else none

/-! ## The starter (R421, R422 steps 3 to 5) -/

/-- The starter writes its own half's boot record. -/
def setOwnSlot (s : State) (h : Half) (sl : Nat) (st : SlotState) (att : Nat) : State :=
  updFlash s h fun f => putBootRec f fun r => r.put sl st att

/-- Try slots in order: the first whose header and configuration record pass. Also: has a slot failed or been
passed over as spent? -/
def trySlots (h : Half) : List Nat → State → Bool → Option Nat × Bool × State
  | [], s, fb => (none, fb, s)
  | sl :: rest, s, fb =>
    let st := slotState s h sl
    let att := (bootRec (flash s h)).attempts sl
    if st == .empty || st == .written || st == .bad then trySlots h rest s fb
    else if st == .trial && att == 0 then trySlots h rest (setOwnSlot s h sl .bad 0) true
    else
      let s1 := if st == .trial then setOwnSlot s h sl .trial (att - 1) else s
      if headerOk s1 (flash s1 h) sl && typeOk (flash s1 h) sl 3 then (some sl, fb, s1)
      else trySlots h rest (setOwnSlot s1 h sl .bad 0) true

/-- Order of the slots: the preferred first, or with BOOT_SEL the other. -/
def slotOrder (s : State) (h : Half) : List Nat :=
  let p := (bootRec (flash s h)).pref % 2
  let a := if (strapsOf s h).bootSel then 1 - p else p
  [a, 1 - a]

/-- The AG02 entries of the half's record: checked whole, applied to the half's own objects; a failing check leaves
the defaults. -/
def applyAg02 (s : State) (h : Half) : State :=
  let es := ((recordOf s h).getD []).filter fun e => recGroup e == 2
  let own := es.filter fun e => odHalf e.1 e.2.1 == some h
  let bad := (applyBad s h (recordReq es)).isSome
  let s1 := if bad then s else updDict s h fun d => applied d (recordReq own)
  updHalf s1 h fun x => { x with recBad := bad }

/-- Host ports of the half are released: division, layout of each link, pairs. A link that is up keeps its state. -/
def releasePorts (s : State) (h : Half) : State :=
  let svc := starterServed s h
  let s1 := forAll s (span (2 * halfIdx h) 2) fun u n => updSys u fun y => { y with
    cfgActive := y.cfgActive.set n (if svc then 0 else cfg u h (0x2000 + 0x100 * n) 1 % 8) }
  let s2 := forAll s1 (span (8 * halfIdx h) 8) fun u m => updHl u m fun x =>
    if hlPresent u m then { x with layout := layoutOf u m } else HlSt.reset
  forAll s2 (fnNumbers.filter fun n => halfOfHl (n / 64) == h && (partnerFn s2 n).isSome) fun u n =>
    updFn u n fun x => { x with active := primaryOf u n == n }

/-- The half goes on from the outcome of its slots: an image to load, or the starter service (R427). -/
def slotChosen (s : State) (h : Half) (r : Option Nat × Bool) : State :=
  let s1 := updHalf s h fun x => { x with
    slot := r.1.getD 3, fallback := x.fallback || r.2, boot := if r.1.isSome then .starter else .service }
  releasePorts (if r.1.isSome then applyAg02 s1 h else s1) h

/-- The starter of one half begins: in RECOVERY always the starter service. -/
def starterGo (s : State) (h : Half) : State :=
  let s1 := updHalf s h fun _ => { HalfSt.reset with bootClk := s.clk, hbClk := s.clk }
  let s2 := updDict s1 h fun d => { d with
    run := Tab.set (odDefault 0x1010 4) d.run (okey 0 0x1010 4) (strapsOf s h).devid.toNat }
  if isRecovery s then slotChosen s2 h (none, false)
  else
    let r := trySlots h (slotOrder s2 h) s2 false
    slotChosen r.2.2 h (r.1, r.2.1)

/-- Presence bits of ID_CLK_STAT from the clocks that are there. -/
def clkBits (s : State) : Nat :=
  let y := s.sys
  flag y.sysclkOk 0 + flag (!s.time.rindLost) 1 + ((List.range 4).map fun i =>
    flag (y.hrefOk.getD i true) (2 + i) + flag (y.lrefOk.getD i true) (6 + i)).sum

/-- Both starters begin, with the straps in force. -/
def startersGo (s : State) : State :=
  let s1 := updTime (updSys s fun y => { y with clkStat := clkBits s }) fun t => { t with running := true }
  starterGo (starterGo s1 .a) .b

/-- The straps a half may start with (R2, R324). -/
def strapsOk (x : Straps) : Bool :=
  decide (x.mode.toNat < 6) && !(x.mode.toNat == 2 && x.devid != 0) && !(x.mode.toNat == 3 && x.devid == 0)

/-- A slot whose erase, write or verify RESET_N interrupted is recorded WRITTEN (R434). -/
def upInterrupted (s : State) (h : Half) : State :=
  match (match h with | .a => s.nv.up.op | .b => s.nv.upB.op) with
  | .none => s
  | .erase sl | .verify sl => setOwnSlot s h sl .written 0

/-- RESET_N_RISE (R414, R421, R422, R463): the straps are sampled in both halves; a latched trip with a hot sensor, a
reserved mode or a wrong DEVID holds the device in reset; else both starters begin. -/
def execResetNRise (sa sb : Straps) (s : State) : Out :=
  .next (
    if !s.sys.resetLow then s
    else
      let trip := s.sys.thermtrip.contains true
      let hot := trip && (decide (460 ≤ s.pwr.tjA) || decide (460 ≤ s.pwr.tjB))
      let s1 := updSys s fun y => { y with resetLow := false, straps := sa, strapsB := sb }
      if hot then updSys s1 fun y => { y with heldBad := true }
      else
        let s2 := alertOff (updSys s1 fun y => { y with thermtrip := [false, false] }) 5
        if !(strapsOk sa && strapsOk sb) then alertOn (updSys s2 fun y => { y with heldBad := true }) 0
        else
          let s3 := upInterrupted (upInterrupted s2 .a) .b
          startersGo (updNv s3 fun n => { n with up := UpSt.reset, upB := UpSt.reset }))

/-! ## The token exchange (R326 to R329, R424) -/

/-- The half is starting up and its exchange is open. -/
def exchOpen (s : State) (h : Half) : Bool :=
  !s.sys.resetLow && s.sys.sysclkOk && !(half s h).exch && (half s h).boot != .reset

/-- A half enters LEAD_UNRESOLVED: half B then keeps an instance of its own (R329). -/
def unresolve (s : State) (h : Half) : State :=
  let s1 := updHalf s h fun x => { x with role := .unresolved, exch := true, dlUp := false, trained := false }
  let s2 := if h == .b && !isSplit s && s.sys.b.role != .unresolved then { s1 with dictB := s1.dict } else s1
  raiseEv s2 h 16 0 0 0

/-- Hash of a slot's header. -/
def headerHash (f : FlashSt) (sl : Nat) : List Byte := Config.sha384 (slotBytes f sl 0 0x2000)

/-- The lead half's choice governs the follower (R424): its slot, or the starter service. -/
def followChoice (s : State) (l f : Half) : State :=
  let a := half s l
  let b := half s f
  if a.slot < 2 then
    let differ := a.slot != b.slot || headerHash (flash s l) a.slot != headerHash (flash s f) a.slot
    updHalf s f fun x => { x with slot := a.slot, differ := x.differ || differ, boot := .starter }
  else updHalf s f fun x => { x with slot := 3, boot := .service }

/-- TOKEN_EXCHANGE (R326): the halves compare what they sampled. -/
def execTokenExchange (s : State) : Out :=
  .next (
    if !(exchOpen s .a && exchOpen s .b) then s
    else
      let a := s.sys.straps
      let b := s.sys.strapsB
      let roles (x y : Role) : State :=
        let up (t : State) (h : Half) (r : Role) : State := updHalf t h fun z => { z with
          role := r, exch := true, dlUp := true, trained := true, hbCount := 0, hbClk := s.clk }
        up (up s .a x) .b y
      if a.mode != b.mode then unresolve (unresolve s .a) .b
      else if isSplit s then roles .split .split
      else if isRecovery s then roles .lead .follower
      else if a.halfLead != b.halfLead then unresolve (unresolve s .a) .b
      else if a.halfLead then followChoice (roles .follower .lead) .b .a
      else followChoice (roles .lead .follower) .a .b)

/-- LEAD_EXCHANGE_TIMEOUT (R328, R329): half `h` has had no answer within 50 ms. In SPLIT it starts alone and raises
DIE_LINK_DOWN; in RECOVERY half A serves alone and half B waits. -/
def execLeadExchangeTimeout (h : Half) (s : State) : Out :=
  .next (
    if !exchOpen s h then s
    else if isSplit s then
      raiseEv (updHalf s h fun x => { x with role := .split, exch := true, dlUp := false, trained := false }) h 48
        (halfIdx h) 3 0
    else if isRecovery s then updHalf s h fun x => { x with exch := true }
    else unresolve s h)

/-! ## Firmware (R421, R422 step 7) -/

/-- The half follows the lead's image. -/
def follows (s : State) (h : Half) : Bool := (half s h).role == .follower

/-- A half that decides for itself checks the firmware of its slot; a slot that fails is recorded BAD and the next
is tried. -/
def firmwareOwn (s : State) (h : Half) : State :=
  let sl := (half s h).slot
  if typeOk (flash s h) sl 1 then updHalf s h fun x => { x with boot := .firmware }
  else
    let rest := (slotOrder s h).dropWhile (· != sl) |>.drop 1
    let r := trySlots h rest (setOwnSlot s h sl .bad 0) true
    let s1 := slotChosen r.2.2 h (r.1, true)
    if (half s h).role == .lead then followChoice s1 h (otherHalf h) else s1

/-- FIRMWARE_LOADED (R421, R422, R424): after the exchange; a follower loads what the lead has loaded, its own copy
where that verifies too. -/
def execFirmwareLoaded (h : Half) (s : State) : Out :=
  .next (
    let x := half s h
    if s.sys.resetLow || !s.sys.sysclkOk || x.boot != .starter || !x.exch || 2 ≤ x.slot then s
    else if follows s h then
      let b := (half s (otherHalf h)).boot
      if b == .firmware || b == .complete then
        updHalf s h fun y => { y with boot := .firmware, differ := y.differ || !typeOk (flash s h) y.slot 1 }
      else s
    else firmwareOwn s h)

/-! ## Completion (R422 step 8, R423, R425, R433, R435) -/

/-- Entries for a half's steward to apply: all but AG02; of its own objects alone in LEAD_UNRESOLVED, of its instance
in SPLIT. -/
def recordOthers (s : State) (h : Half) (es : List RecEntry) : List RecEntry :=
  es.filter fun e => recGroup e != 2 && (match odHalf e.1 e.2.1 with
    | some k => k == h || !ownHalfOnly s h
    | none => (half s h).role != .unresolved)
where
  /-- The half serves its own objects only. -/
  ownHalfOnly (s : State) (h : Half) : Bool := isSplit s || (half s h).role == .unresolved

/-- The other groups of the record in one request: the result in AG_STAT, and RECORD (R423). -/
def applyRecord (s : State) (h : Half) : State × Nat :=
  let code (n : Nat) : Nat := if (half s h).recBad then 3 else n
  match recordOf s h with
  | none => (s, code 1)
  | some es =>
    let q := recordReq (recordOthers s h es)
    if q.mask = 0 then (s, code 0)
    else match applyNow s h q with
      | .ok t =>
        (sealStart (bumpW (updDict t h fun d => { agResult d agAccepted none with
          sealOn := d.sealOn || q.mask.testBit 31 }) h 0xF000 0x0A) h, code 0)
      | .error b => (updDict s h fun d => agResult d (if b.res = agEpoch then agEpoch else agReject) (some (b.idx, b.sub)), code 2)

/-- The level of the record is reached (R379): the rails and dividers of the device. -/
def levelStart (s : State) : State :=
  let s1 := levelHold s
  let v := levelWant s1
  let mv := levelMv v
  let s2 := updPwr s1 fun p => { p with level := v, target := none, avs := none, vcore := mv, veng := mv }
  c0Judge (if v = 3 then s2 else emit (emit s2 (.avs false true mv)) (.avs true true mv)) v

/-- The half's ROM shadow is filled from the option-ROM section of its image, whole (R433). -/
def romFill (s : State) (h : Half) : State :=
  let f := imgFlash s h
  let base := 2 ^ 20 * halfIdx h
  let s1 := updSys s fun y => { y with romBytes := clearBytes y.romBytes base (base + 2 ^ 20) }
  match (if (half s h).slot < 2 then sectionOf f (half s h).slot 4 else none) with
  | none => updHalf s1 h fun x => { x with romLen := 0 }
  | some x =>
    updHalf (updSys s1 fun y => { y with
      romBytes := writeBytes 0 y.romBytes base (slotBytes f (half s h).slot x.off x.len) }) h fun z => { z with romLen := x.len }

/-- ROM_CUT: the section exceeds the ROM BAR of a host port of the half whose ROM BAR is present. -/
def romCut (s : State) (h : Half) : Bool :=
  (span (2 * halfIdx h) 2).any fun n =>
    let k := cfg s h (0x200A + 0x100 * n) 1
    k != 0 && decide (2 ^ k < (half s h).romLen)

/-- The half's brine, trained under the configuration in force (R240). -/
def brineStart (s : State) (h : Half) (failed : Bool) : State :=
  updBrine s h fun b => { b with trained := !failed && cfg s h 0x5602 (hsub h) % 4 != 0, down := failed }

/-- Device Readiness Status on each active host link of the half (R96). -/
def sendDrs (s : State) (h : Half) : State :=
  forAll s ((span (8 * halfIdx h) 8).filter fun m => hlUp s m && (hl s m).dlActive && !(hl s m).drsSent) fun u m =>
    tlpOut (updHl u m fun x => { x with drsSent := true }) m .drs

/-- Start-up completes: the boot registers are written (R435). -/
def bootDoneNow (s : State) (h : Half) (boot : Boot) (record : Nat) : State :=
  sendDrs (updHalf s h fun x => { x with
    boot := boot,
    bootStat := BitVec.ofNat 32 (x.slot % 4 + flag x.fallback 2 + flag x.differ 3 + record * 16 + flag (romCut s h) 6 + 256),
    bootTime := (s.clk - x.bootClk) / 1250 }) h

/-- The half that leads, or stands alone: its record, its level, its own brine and ROM shadow. -/
def completeOwn (s : State) (h : Half) : State :=
  let down := (brine s h).down
  let r := applyRecord (updHalf s h fun x => { x with boot := .complete }) h
  let s1 := if h == rindHalf s then levelStart r.1 else r.1
  bootDoneNow (romFill (brineStart s1 h down) h) h .complete r.2

/-- STARTUP_COMPLETE (R422, R423, R427): of half `h`. A follower completes after the lead, with the lead's record;
the starter service applies none. -/
def execStartupComplete (h : Half) (s : State) : Out :=
  .next (
    let x := half s h
    if s.sys.resetLow || !s.sys.sysclkOk || !x.exch then s
    else match x.boot with
      | .service =>
        if isRecovery s && h == .b && x.role == .starting then s
        else
          let s1 := bootDoneNow s h .serviceUp 1
          if isRecovery s then s1 else alertOn s1 6
      | .firmware =>
        if follows s h then
          let l := half s (otherHalf h)
          if l.boot != .complete then s
          else
            bootDoneNow (romFill (brineStart s h (brine s h).down) h) h .complete (l.bootStat.toNat / 16 % 4)
        else completeOwn s h
      | _ => s)

end Sys2Proof.Machine
end

