-- ==== Sys2Proof/Machine/SleepExit.lean ====
section
/-! DEFINITION. Exit from sleep (R388, R391 to R397, R407, R408): what S2 and S3 lose, the start-up of an exit from S3,
the restored configuration, the corrected time. -/

namespace Sys2Proof.Machine

/-! ## What is lost -/

/-- Figures of the rind that outlast every sleep state: the objects 0x7004 to 0x700A. -/
def sleepCounts (s : State) : Tab Nat := Tab.keep (fun k _ => okey 0 0x7004 0 ≤ k && k < okey 0 0x700B 0) s.cnt

/-- A dictionary instance after S2: running values, the seal reference among them, and the cut count (Table 14.5). -/
def dictKept (d : DictSt) (seq : Nat) : DictSt :=
  { DictSt.reset with run := d.run, keepRun := d.keepRun, seq := seq, folSeq := seq, sealOn := d.sealOn }

/-- A local link after S2: down, its containment as the cave kept it. -/
def linkKept (c : CaveSt) (l : Nat) (x : LlSt) : LlSt :=
  match c.contain.find? fun e => e.1 == l with
  | some (_, st, cause) => { LlSt.reset with contain := st, cause := cause, applied := false }
  | none => { LlSt.reset with contain := x.contain, cause := x.cause }

/-- An engine restarts at its service's entry address with its memory kept; g4 = 1 marks it (R396). -/
def engResume (s : State) (e : Nat) : State :=
  let g := eng s e
  let cold : EngSt := { EngSt.reset with mem := g.mem, version := g.version }
  match (if g.st == .notLoaded then none else svcOfEng s e) with
  | none => updEng s e fun _ => if isSteward e then g else { cold with version := 0 }
  | some v =>
    match findProgram s (halfOfEng e) (svcProg s v) g.version with
    | none => updEng s e fun _ => { cold with version := 0 }
    | some p =>
      let regs := ((((List.replicate 32 (0 : W64)).set 1 (BitVec.ofNat 64 (e % 8))).set 2 (BitVec.ofNat 64 v)).set 3
        (BitVec.ofNat 64 p.ver)).set 4 1
      updEng s e fun _ => { cold with regs := regs, pc := BitVec.ofNat 64 p.entry, st := .running, loadClk := s.eng.cyc }

/-- A DMA queue after S2: the words of its configuration, PROD and CONS among them, and where its ring of records
stands. -/
def dqKept (x : DqSt) : DqSt := { DqSt.reset with prod := x.prod, cons := x.cons, phase := x.phase, passed := x.passed }

/-- The time-keeping of the rind and its comparators outlast the sleep; the rest restarts. -/
def timeKept (t : TimeSt) : TimeSt :=
  { TimeSt.reset with tick := t.tick, fired := t.fired, tcAdv := t.tcAdv, rindLost := t.rindLost, elapsed := t.elapsed,
                      running := true, boundClk := t.boundClk }

/-- Test units after a sleep: what the TAPs hold stays. -/
def testKept (t : TestSt) : TestSt := { TestSt.reset with tapA := t.tapA, tapB := t.tapB }

/-- State held in flip-flops is lost in S2; memories in retention and the cave's device part are there (Table 14.2,
Table 14.5). -/
def flopsGone (s : State) : State :=
  { s with
    dict := dictKept s.dict s.pwr.cave.seq, dictB := dictKept s.dictB s.dictB.seq, cnt := sleepCounts s, lanes := [],
    links := Tab.mapAll LlSt.reset (linkKept s.pwr.cave) s.links,
    fab := { s.fab with outs := [], bonds := [],
                        brineA := { BrineSt.reset with trained := cfg s .a 0x5602 1 % 4 != 0 && !s.fab.brineA.down, down := s.fab.brineA.down },
                        brineB := { BrineSt.reset with trained := cfg s .b 0x5602 2 % 4 != 0 && !s.fab.brineB.down, down := s.fab.brineB.down } },
    brdg := { s.brdg with units := [], sems := [], mgs := [], dqs := Tab.mapAll DqSt.reset (fun _ x => dqKept x) s.brdg.dqs,
                          sel := 0, selB := 0, bucket := [] },
    evc := { State.reset.evc with srcs := Tab.mapAll SrcSt.reset (fun _ x => { SrcSt.reset with level := x.level }) s.evc.srcs },
    err := State.reset.err, time := timeKept s.time, test := testKept s.test,
    sys := { s.sys with portGen := [] } }

/-- ... host links re-initialise, engines restart in their memory, services deal anew, the seal is judged again. -/
def flopsLost (s : State) : State :=
  let s1 := flopsGone s
  let s2 := forAll s1 ((span 0 16).filter (hlPresent s1)) fun u m => hlReinit u m 0
  let s3 := forAll s2 (s2.eng.engs.map (·.1)) engResume
  let s4 := forAll s3 (enabledSvcs s3 .a ++ enabledSvcs s3 .b) svDeal
  sealStart (if isSplit s4 then sealStart s4 .b else s4) (leadHalf s4)

/-- What is left where a sleep is followed by a start-up from the starter: the rind's own state and the straps it
kept (R392, R396). It is no reset. -/
def rindLeft (s : State) : State :=
  let r := resetAll s
  let y := s.sys
  { r with
    sys := { r.sys with resetLow := false, straps := y.straps, strapsB := y.strapsB, alert := y.alert,
                        heldBad := y.heldBad }
    nv := s.nv, cnt := sleepCounts s, pwr := { s.pwr with level := 3, target := none, held := false },
    time := timeKept s.time }

/-- Start-up from the starter, on exit from S3 and where the cave fails at exit from S2. -/
def exitStarter (s : State) : State := startersGo (rindLeft s)

/-- The exit needs a full start-up. -/
def exitFull (s : State) : Bool := s.pwr.sleep == 3 || (s.pwr.sleep == 2 && !s.pwr.cave.valid)

/-- AVS_RESPONSE (R381): Slave Ack 0b00 of the write, then VDone, acknowledge the request. The last rail of an exit
lets the starter begin where a full start-up is needed. -/
def execAvsResponse (fr : AvsFrame) (s : State) : Out :=
  .next (match s.pwr.avs with
    | none => s
    | some r =>
      match fr with
      | .writeAck rail a =>
        if rail == r.rail && a == 0 then updPwr s fun p => { p with avs := some { r with acked := true } } else s
      | .status rail vd =>
        if rail == r.rail && vd && r.acked && decide (r.tries < 3) then
          let t := avsAcked s r
          if r.use == .exit && r.next.isEmpty && s.pwr.exiting && exitFull t then exitStarter t else t
        else s)

/-! ## What is restored -/

/-- The time is corrected across the sleep (R407); without a trusted cave or rind it starts anew and is not valid
(R392, R408). -/
def timeRestore (s : State) : State :=
  let c := s.pwr.cave
  let t0 := s.time
  let un (t : TimeSt) : TimeSt := { t with running := true, uncertain := true, locked := false, bound := 0, boundClk := s.clk }
  if !c.valid || t0.rindLost then
    updTime s fun t => { un t with valid := false, sec := 0, ns := 0, frac := 0 }
  else
    let n := (t0.tick + 2 ^ 48 - c.tick) % 2 ^ 48
    let total := (c.ns + c.sec * 1000000000) * 2 ^ 32 + c.frac * 65536 + n * c.ratio
    let nsAll := total / 2 ^ 32
    let s1 := updTime s fun t => { un t with
      sec := nsAll / 1000000000 % 2 ^ 48, ns := nsAll % 1000000000, frac := total % 2 ^ 32, elapsed := n, folOff := 0,
      valid := c.tvalid, ratio := c.ratio, unc := c.uncert,
      bound := n * c.ratio * (c.uncert + c.tol) / 2 ^ 32 / 1000000000 }
    timeStepped s1 4

/-- The nominated part is written to its shadows and applied in one request (R391): result 1 accepted, 2 rejected,
3 where the cave's CRC failed. -/
def keepRestore (s : State) : State :=
  let h := rindHalf s
  let c := s.pwr.cave
  let put (t : State) (n : Nat) : State := updPwr t fun p => { p with lastRestore := n }
  if !c.valid then put s 3
  else
    let es := (if stewardUp s h then c.nominated else []).filter fun e => recEntryOk (e.1, e.2.1, bytesLE (match odFind e.1 e.2.1 with | some r => r.ty.bytes | none => 0) e.2.2)
    if es.isEmpty then put s 0
    else
      let q := recordReq (es.map fun e => (e.1, e.2.1, bytesLE (match odFind e.1 e.2.1 with | some r => r.ty.bytes | none => 0) e.2.2))
      match applyNow s h q with
      | .ok t => put (sealStart (updDict t h fun d => agResult d agAccepted none) h) 1
      | .error b =>
        raiseEv (put (updDict s h fun d => agResult d (if b.res = agEpoch then agEpoch else agReject) (some (b.idx, b.sub))) 2)
          h 46 0 2 0

/-- The exit is over: S0, its time and cause recorded, WOKEN. -/
def exitDone (s : State) : State :=
  let v := s.pwr.sleep
  let s1 := updPwr (residence s) fun p => { p with sleep := 0, exiting := false, early := false }
  let s2 := putCount (bump s1 0x700A s.pwr.cause) 0x7008 v ((s.clk - s.pwr.exitStart) / 1250)
  raiseEv s2 (rindHalf s2) 37 s.pwr.inst s.pwr.cause v

/-- SLEEP_EXIT_COMPLETE (R392, R396, R407): the engines are released. From S1 at once; from S2 with what the cave
kept; else once start-up is complete. -/
def execSleepExitComplete (s : State) : Out :=
  .next (
    if !s.pwr.exiting || s.pwr.avs.isSome then s
    else if s.pwr.sleep = 1 then exitDone s
    else if !exitFull s then exitDone (timeRestore (flopsLost s))
    else if s.sys.a.bootClk < s.pwr.exitStart then exitStarter s
    else if !(startedUp s .a && startedUp s .b) then s
    else exitDone (timeRestore (keepRestore s)))

end Sys2Proof.Machine
end

