-- ==== Sys2Proof/Machine/Regs.lean ====
section
/-! DEFINITION. The register file (R6 to R8, R98, R359 to R362): which register lies at an offset of a path's BAR0, what
its reading returns, and what its writing does. -/

namespace Sys2Proof.Machine

/-- A register: its width, its privilege, whether it is write-only, the half it belongs to (none: the register file
itself), the objects that hold its RWA value (one, or those of its low and its high word), and what it reads: of an RWA
register a function of that value. -/
structure Reg where
  wide : Bool
  priv : Bool
  wo   : Bool
  home : Option Half
  objs : List (Nat × Nat)
  val  : Nat → Nat

def Reg.ro (home : Option Half) (v : Nat) : Option Reg := some ⟨false, true, false, home, [], fun _ => v⟩
def Reg.ro64 (home : Option Half) (v : Nat) : Option Reg := some ⟨true, true, false, home, [], fun _ => v⟩
def Reg.open_ (home : Option Half) (v : Nat) : Option Reg := some ⟨false, false, false, home, [], fun _ => v⟩
def Reg.wo_ (home : Option Half) : Option Reg := some ⟨false, true, true, home, [], fun _ => 0⟩
def Reg.rwa (home : Option Half) (i k : Nat) : Option Reg := some ⟨false, true, false, home, [(i, k)], id⟩
/-- A 64-bit RWA register of one 64-bit object, or of two consecutive words. -/
def Reg.rwa64 (home : Option Half) (i k : Nat) : Option Reg := some ⟨true, true, false, home, [(i, k)], id⟩
def Reg.rwaPair (home : Option Half) (i k : Nat) : Option Reg := some ⟨true, true, false, home, [(i, k), (i, k + 1)], id⟩

/-- Counters of a register map: 32 bits saturating, 64 bits wrapping, or 64 bits with no rule (log entry 6). -/
def sat (s : State) (a : Nat) : Nat := cntWord 0 (countR s a) 32 0
def wrap (s : State) (a : Nat) : Nat := cntWord 0 (countR s a) 64 1
def unruled (a n : Nat) : Nat := cntWord (rkey a) n 64 2

/-! ## The blocks of Table 13.7 -/

/-- ID_ (Tables 12.4, 15.7, 17.14). -/
def regId (s : State) (e : Half) (off : Nat) : Option Reg :=
  if off = 0x100 then Reg.open_ none (strapsWord (strapsOf s e))
  else if off = 0x140 then Reg.open_ (some .a) (halfStat s .a)
  else if off = 0x180 then Reg.open_ (some .b) (halfStat s .b)
  else if off = 0x144 then Reg.ro (some (servHalf s e)) (odCount s (servHalf s e) 0x9003 1 4)
  else if 0x210 ≤ off ∧ off < 0x300 ∧ off % 0x10 = 0 then Reg.open_ (some (servHalf s e)) (wkStat s ((off - 0x200) / 0x10))
  else if off = 0x300 then Reg.open_ none (bootStatWord s e)
  else if off = 0x304 then Reg.open_ none (bootTimeWord s e)
  else if off = 0x310 then Reg.open_ none (clkStatWord s)
  else none

/-- AG_ (Table 13.12). -/
def regAg (s : State) (p : Path) (e : Half) (off : Nat) : Option Reg :=
  let h := servHalf s e
  let d := dictOf s h
  match off with
  | 0x100000 | 0x100010 | 0x100018 | 0x10001C => Reg.wo_ none
  | 0x100004 => Reg.ro (some h) (agStat d)
  | 0x100008 => Reg.ro (some h) (agFail d)
  | 0x10000C => Reg.ro (some h) (dirtyMask d)
  | 0x100014 => Reg.ro none (flag (Tab.get false (dictOf s e).views (pathId p)) 0)
  | 0x100020 => Reg.ro none (pathId p)
  | 0x100100 => Reg.rwa (some h) 0xF000 3
  | 0x100104 => Reg.ro (some h) d.sealNow
  | 0x100108 => Reg.ro (some h) (sealStat s h)
  | 0x10010C => Reg.ro (some h) (odCount s h 0xF000 6 4)
  | _ => if 0x100080 ≤ off ∧ off < 0x100100 ∧ off % 4 = 0 then Reg.ro (some h) (Tab.get 0 d.owners ((off - 0x100080) / 4)) else none

/-- The registers of lane n (Table 03.6). -/
def regLane (s : State) (n r : Nat) : Option Reg :=
  let h := some (halfOfLane s n)
  let x := lane s n
  let host := isHostLane n
  let k := n / 4
  match r with
  | 0x00 => Reg.ro h (x.ctrl.toNat &&& 0x7FF)
  | 0x04 => if host then Reg.ro h 0 else Reg.rwa h (0x3018 + 0x20 * k) (n % 4 + 1)
  | 0x08 => Reg.ro h (laneStat s n)
  | 0x0C => Reg.ro h x.evt.toNat
  | 0x10 => Reg.ro64 h (x.fecCorr % 2 ^ 64)
  | 0x18 => Reg.ro64 h (x.fecUnc % 2 ^ 64)
  | 0x20 => Reg.ro h (sat32 x.hdrErr)
  | 0x24 => Reg.ro h (if host then 0 else sat32 x.bipErr)
  | 0x28 => Reg.ro h (sat32 x.slips)
  | 0x2C => Reg.ro h (if host then 0 else x.skew % 256)
  | 0x30 => Reg.ro h x.dfe0.toNat
  | 0x34 => Reg.ro h x.dfe1.toNat
  | 0x38 => Reg.ro h x.dfe2.toNat
  | 0x3C => Reg.ro h (x.ctle % 32)
  | 0x40 => Reg.ro h x.mrgCtrl.toNat
  | 0x44 => Reg.ro h x.mrgRes.toNat
  | 0x48 => Reg.ro64 h (x.prbsErr % 2 ^ 64)
  | _ => none

/-- HP_ (Table 04.13). -/
def regHp (s : State) (off : Nat) : Option Reg :=
  let n := (off - 0x200000) / 0x10000
  let r := off % 0x10000
  let h := some (halfOfHl (4 * n))
  if r = 0 then some ⟨false, true, false, h, [(0x2000 + 0x100 * n, 1)], hpBifur s n⟩
  else if r = 4 then Reg.ro h 0
  else if 0x10 ≤ r ∧ r < 0x90 then
    let m := 4 * n + (r - 0x10) / 0x20
    match (r - 0x10) % 0x20 with
    | 0x00 => Reg.ro h (hpLinkStat s m)
    | 0x04 => Reg.ro h (hl s m).evt.toNat
    | 0x08 => Reg.ro h (sat s (hpReg m 0x18))
    | 0x0C => Reg.ro h (sat s (hpReg m 0x1C))
    | 0x10 => Reg.ro h (sat s (hpReg m 0x20))
    | 0x14 => Reg.ro h (sat s (hpReg m 0x24))
    | _ => none
  else none

/-- LP_ of local link l (Table 05.11). -/
def regLl (s : State) (l r : Nat) : Option Reg :=
  let h := some (halfOfLink l)
  let x := link s l
  match r with
  | 0x00 => Reg.ro h (flag x.forceDown 1)
  | 0x04 => Reg.ro h (lpLinkStat s l)
  | 0x08 => Reg.ro h x.evt.toNat
  | 0x10 => Reg.ro64 h (wrap s (llReg l 0x10))
  | 0x18 => Reg.ro64 h (wrap s (llReg l 0x18))
  | 0x20 | 0x24 | 0x28 | 0x2C | 0x30 | 0x38 => Reg.ro h (sat s (llReg l r))
  | 0x34 => Reg.ro h (sat32 x.rtt)
  | 0x40 => Reg.ro64 h (credWord x.limP x.conP)
  | 0x48 => Reg.ro64 h (credWord x.limNp x.conNp)
  | _ => none

def regLp (s : State) (off : Nat) : Option Reg :=
  if off < 0x430000 then regLl s ((off - 0x400000) / 0x400) (off % 0x400)
  else if 0x440000 ≤ off ∧ off < 0x443000 ∧ off % 0x100 = 0 then
    let p := (off - 0x440000) / 0x100
    Reg.rwa (some (halfOfLp p)) (0x3000 + 0x20 * p) 1
  else if 0x600000 ≤ off ∧ off < 0x630000 then regLane s ((off - 0x600000) / 0x400) (off % 0x400)
  else none

/-- WIN_ (Table 06.1). -/
def regOut (s : State) (e e' r : Nat) (dev : Option Half) : Option Reg :=
  let i := 0x4400 + e / 16
  let k := 8 * (e % 16)
  match r with
  | 0x00 => Reg.rwa dev i (k + 1)
  | 0x04 => Reg.rwa dev i (k + 2)
  | 0x08 => Reg.rwa dev i (k + 3)
  | 0x10 => Reg.rwaPair dev i (k + 5)
  | 0x18 => Reg.rwaPair dev i (k + 7)
  | 0x20 => Reg.ro (some (outHalf s e)) (winOutStat s e)
  | 0x28 => Reg.ro64 (some (outHalf s e)) (unruled e' (countR s e'))
  | _ => none

def regIn (s : State) (n w r : Nat) : Option Reg :=
  let h := some (halfOfHl (n / 64))
  if n % 64 = 0 then none
  else match r with
    | 0x00 | 0x04 | 0x08 | 0x0C => Reg.rwa h (0x4000 + n) (4 * w + r / 4 + 1)
    | 0x10 => Reg.ro h (winInStat s n w)
    | 0x18 => Reg.ro64 h (unruled (inHits n w) (countR s (inHits n w)))
    | _ => none

def regSlot (s : State) (n r : Nat) : Option Reg :=
  let h := some (halfOfHl (n / 64))
  if n % 64 = 0 then none
  else if r = 0 then Reg.ro h (slotStat s n)
  else if r = 8 then Reg.ro64 h (slotAddr s n)
  else if r = 0x10 then Reg.wo_ h
  else if 0x40 ≤ r ∧ r % 4 = 0 then Reg.ro h (slotDataWord s n ((r - 0x40) / 4))
  else none

def regWin (s : State) (e : Half) (off : Nat) : Option Reg :=
  if off < 0x840000 then
    let i := (off - 0x800000) / 0x40
    regOut s i (outHits i) (off % 0x40) (some (servHalf s e))
  else if off < 0x880000 then regIn s ((off - 0x840000) / 0x100) (off % 0x100 / 0x20) (off % 0x20)
  else if off < 0x8A0000 then regSlot s ((off - 0x880000) / 0x80) (off % 0x80)
  else none

/-- FLOW_: the context window, queues, semaphores, mirror groups and stores (Tables 08.6, 07.6). -/
def regDq (s : State) (q r : Nat) : Option Reg :=
  let h := some (halfOfDq q)
  let i := 0x5400 + q / 8
  let k := 8 * (q % 8)
  match r with
  | 0x00 => Reg.rwa h i (k + 1)
  | 0x04 => Reg.rwa h i (k + 2)
  | 0x08 => Reg.rwaPair h i (k + 3)
  | 0x10 => Reg.rwaPair h i (k + 5)
  | 0x18 => Reg.ro h (dq s q).prod
  | 0x1C => Reg.ro h (dq s q).cons
  | 0x20 => Reg.ro h (dqStat s q)
  | 0x24 => Reg.wo_ h
  | _ => none

def regSem (s : State) (n r : Nat) : Option Reg :=
  let h := some (halfOfSem n)
  match r with
  | 0x00 | 0x04 | 0x08 => Reg.rwa h (0x5A00 + n) (r / 4 + 1)
  | 0x0C => Reg.ro h (semStat s n)
  | 0x10 => Reg.ro64 h (semHolders s n)
  | _ => none

def regMg (s : State) (g r : Nat) : Option Reg :=
  let h := some (halfOfMg g)
  match r with
  | 0x00 | 0x04 | 0x08 | 0x0C => Reg.rwa h (0x5C00 + g) (r / 4 + 1)
  | 0x10 => Reg.rwa64 h (0x5C00 + g) 5
  | 0x18 => Reg.rwa64 h (0x5C00 + g) 6
  | 0x20 => Reg.ro h (mgStat s g)
  | 0x24 => Reg.wo_ h
  | 0x28 => Reg.ro64 h (mg s g).seq
  | _ => none

def regStore (s : State) (h : Half) (off : Nat) : Option Reg :=
  if off % 8 = 0 then Reg.ro64 (some h) (Tab.get (0 : W64) s.brdg.store (halfIdx h * 32768 + off / 8)).toNat else none

def regFlow (s : State) (p : Path) (e : Half) (off : Nat) : Option Reg :=
  let f := flowSelOf s p
  if off = 0xC00000 then Reg.ro none f
  else if 0xC00100 ≤ off ∧ off < 0xC00120 then
    Reg.rwa (some (servHalf s e)) (0x5000 + f / 16) (8 * (f % 16) + (off - 0xC00100) / 4 + 1)
  else if 0xC00140 ≤ off ∧ off < 0xC00200 then
    Reg.ro (some (flowHome s f)) (flowWord s (flowHome s f) f ((off - 0xC00100) / 4)).toNat
  else if 0xC10000 ≤ off ∧ off < 0xC30000 then regDq s ((off - 0xC10000) / 0x40) (off % 0x40)
  else if 0xE00000 ≤ off ∧ off < 0xE02000 then regSem s ((off - 0xE00000) / 0x20) (off % 0x20)
  else if 0xE10000 ≤ off ∧ off < 0xE18000 then regMg s ((off - 0xE10000) / 0x40) (off % 0x40)
  else if 0xE40000 ≤ off ∧ off < 0xE80000 then regStore s .a (off - 0xE40000)
  else if 0xE80000 ≤ off ∧ off < 0xEC0000 then regStore s .b (off - 0xE80000)
  else none

/-- SE_ (Table 09.9), and the memory window of the selected engine. -/
def regEng (s : State) (e r : Nat) : Option Reg :=
  let h := some (halfOfEng e)
  let g := eng s e
  match r with
  | 0x00 => Reg.ro h 0
  | 0x04 => Reg.ro h (seStat s e)
  | 0x08 => Reg.ro h (g.pc.toNat % 2 ^ 32)
  | 0x0C => Reg.ro h (g.fstat % 512)
  | 0x10 => Reg.ro h (g.fpc.toNat % 2 ^ 32)
  | 0x18 => Reg.ro64 h g.finfo.toNat
  | 0x20 => Reg.ro64 h g.events
  | 0x28 => Reg.ro h (seFlows s e)
  | 0x2C => Reg.ro h (cntWord (rkey (0x100002C + 0x100 * e)) g.faults 32 2)
  | _ => none

def regSvc (s : State) (v r : Nat) : Option Reg :=
  let h := some (halfOfSvc v)
  match r with
  | 0x00 | 0x04 | 0x08 => Reg.rwa h (0x6000 + v) (r / 4 + 1)
  | 0x0C => Reg.ro h (svcStat s v)
  | 0x10 => Reg.ro h (svcVer s v)
  | 0x18 => Reg.ro64 h (unruled (0x1010018 + 0x40 * v) (svc s v).events)
  | _ => none

/-- A word of an engine's address space; an address with no memory reads zero. -/
def windowWord (s : State) (e a : Nat) : Nat :=
  if e < 192 ∧ (engRegion a 4).isSome then ofBytesLE (engBytes s e a 4) else 0

def regSe (s : State) (p : Path) (off : Nat) : Option Reg :=
  let e := memSelOf s p
  if off < 0x100C000 then regEng s ((off - 0x1000000) / 0x100) (off % 0x100)
  else if 0x1010000 ≤ off ∧ off < 0x1010800 then regSvc s ((off - 0x1010000) / 0x40) (off % 0x40)
  else if off = 0x1100000 then Reg.ro none e
  else if 0x1400000 ≤ off ∧ off < 0x1600000 then Reg.ro (some (halfOfEng e)) (windowWord s e (off - 0x1400000))
  else none

/-- EVC_ (Table 10.5). -/
def regErec (s : State) (h : Half) (r : Nat) : Option Reg :=
  match r with
  | 0x00 | 0x18 => Reg.wo_ (some h)
  | 0x08 => Reg.ro64 (some h) (erec0 s h)
  | 0x10 => Reg.ro64 (some h) (erec1 s h)
  | 0x1C => Reg.ro (some h) (erecs s h).length
  | _ => none

def regEvc (s : State) (off : Nat) : Option Reg :=
  if off < 0x1880000 then
    let n := (off - 0x1800000) / 0x20
    Reg.rwa (some (halfOfSrc n)) (0x6800 + n / 16) (8 * (n % 16) + off % 0x20 / 4 + 1)
  else if off < 0x18A0000 then
    let n := (off - 0x1880000) / 8
    Reg.ro (some (halfOfSrc n)) (if off % 8 = 0 then srcStat s n else flag (src s n).masked 0)
  else if off < 0x18A0C00 then
    let e := (off - 0x18A0000) / 0x10
    match off % 0x10 with
    | 0 => Reg.ro (some (halfOfEng e)) (evcEngStat s e)
    | 4 => Reg.rwa (some (halfOfEng e)) 0x6C00 (e + 1)
    | _ => none
  else if 0x18B0000 ≤ off ∧ off < 0x18B2000 then
    let g := (off - 0x18B0000) / 0x10
    let h : Half := if g < 256 then .a else .b
    match off % 0x10 with
    | 0 => Reg.rwa (some h) (0x6C10 + g / 128) (g % 128 + 1)
    | 4 => Reg.ro (some h) (sgStat s g)
    | _ => none
  else if 0x18C0000 ≤ off ∧ off < 0x18C0200 then regErec s (halfOfIdx ((off - 0x18C0000) / 0x100)) (off % 0x100)
  else none

/-- PWR_ and TIME_ (Table 14.11). -/
def regTc (s : State) (e : Half) (n r : Nat) : Option Reg :=
  let h := some (servHalf s e)
  match r with
  | 0 => some ⟨false, true, false, h, [(0x7430 + n, 1)], fun v => v % 8 + flag (s.time.fired.getD n false) 8⟩
  | 4 => Reg.rwa h (0x7430 + n) 2
  | 8 => Reg.rwa64 h (0x7430 + n) 3
  | _ => none

def regTsr (s : State) (h : Half) (r : Nat) : Option Reg :=
  let top := (tsRing s h).head?
  match r with
  | 0x00 => Reg.ro64 (some h) ((top.map (·.time.toNat)).getD 0)
  | 0x08 => Reg.ro64 (some h) ((top.map tsWord1).getD 0)
  | 0x10 => Reg.wo_ (some h)
  | 0x14 => Reg.ro (some h) (tsRing s h).length
  | _ => none

def regRind (s : State) (e : Half) (off : Nat) : Option Reg :=
  match off with
  | 0x1C00000 => some ⟨false, true, false, some (servHalf s e), [(0x7000, 1)], pwrLevelWord s⟩
  | 0x1C00004 | 0x1C00120 => Reg.wo_ none
  | 0x1C00008 => Reg.ro none (pwrStat s)
  | 0x1C0000C => Reg.ro none s.pwr.refuser.toNat
  | 0x1C00010 => Reg.rwa (some (servHalf s e)) 0x7003 1
  | 0x1C00018 => Reg.ro none (avsStat s)
  | 0x1C00020 => Reg.ro none (pwrTemp s)
  | 0x1C00100 => Reg.ro64 none (timeNow s).toNat
  | 0x1C00108 => Reg.ro none (s.time.sec / 2 ^ 32 % 2 ^ 16)
  | 0x1C0010C => Reg.ro none (timeStat s)
  | 0x1C00110 => Reg.ro none (s.time.loadH.toNat % 2 ^ 16)
  | 0x1C00114 => Reg.ro none s.time.loadL.toNat
  | 0x1C00118 => Reg.ro none (s.time.loadNs.toNat % 2 ^ 30)
  | 0x1C0011C => Reg.ro none s.time.stepNs.toNat
  | 0x1C00128 => Reg.ro64 none (s.time.incr % 2 ^ 40)
  | 0x1C00130 => Reg.ro64 none (timeBound s % 2 ^ 64)
  | 0x1C00138 => Reg.ro64 none (rindTickCopy s)
  | _ =>
    if 0x1C00180 ≤ off ∧ off < 0x1C001C0 then regTc s e ((off - 0x1C00180) / 0x10) (off % 0x10)
    else if 0x1C00200 ≤ off ∧ off < 0x1C00280 then regTsr s (halfOfIdx ((off - 0x1C00200) / 0x40)) (off % 0x40)
    else none

/-- ERR_ (Table 11.8). The denial registers are those of the path's dictionary instance (R320). -/
def regErrLog (s : State) (h : Half) (r : Nat) : Option Reg :=
  match r with
  | 0x00 | 0x08 | 0x10 | 0x18 => Reg.ro64 (some h) (errLogWord s h (r / 8))
  | 0x20 => Reg.wo_ (some h)
  | 0x24 => Reg.ro (some h) (errLog s h).length
  | _ => none

def regErr (s : State) (e : Half) (off : Nat) : Option Reg :=
  if off = 0x1E00000 then Reg.ro none 0
  else if 0x1E00100 ≤ off ∧ off < 0x1E00180 then regErrLog s (halfOfIdx ((off - 0x1E00100) / 0x40)) (off % 0x40)
  else if off = 0x1E00200 then Reg.ro none (dictOf s e).denied
  else if off = 0x1E00208 then Reg.ro64 none (dictOf s e).privLast
  else if 0x1E10000 ≤ off ∧ off < 0x1E10C00 then
    let l := (off - 0x1E10000) / 0x10
    let h := some (halfOfLink l)
    match off % 0x10 with
    | 0 => Reg.ro h (errLlStat s l)
    | 4 => Reg.wo_ h
    | 8 => Reg.ro h (odCount s (halfOfLink l) 0x8003 (l + 1) 4)
    | _ => none
  else if 0x1E20010 ≤ off ∧ off < 0x1E20100 then
    let d := (off - 0x1E20000) / 0x10
    match off % 0x10 with
    | 0 => Reg.ro (some (servHalf s e)) (errWkStat s d)
    | 4 => Reg.wo_ (some (servHalf s e))
    | _ => none
  else none

/-- TST_ (Table 16.5). -/
def regBist (s : State) (h : Half) (r : Nat) : Option Reg :=
  match r with
  | 0x10 => Reg.ro (some h) (bistCtrl s h)
  | 0x14 => Reg.ro (some h) (bistStat s h)
  | 0x18 => Reg.ro64 (some h) (bist s h).addr.toNat
  | _ => none

def regTst (s : State) (off : Nat) : Option Reg :=
  if off = 0x1F00000 then Reg.wo_ none
  else if off = 0x1F00004 then Reg.ro none (tstStat s)
  else if 0x1F00000 < off ∧ off < 0x1F00080 then regBist s (halfOfIdx ((off - 0x1F00000) / 0x40)) (off % 0x40)
  else if 0x1F00100 ≤ off ∧ off < 0x1F00300 then
    let i := (off - 0x1F00100) / 0x20
    let h : Option Half := some (if i < 8 then .a else .b)
    match off % 0x20 with
    | 0x00 | 0x04 | 0x08 | 0x0C => Reg.rwa h (0xA000 + i) (off % 0x20 / 4 + 1)
    | 0x10 => Reg.ro64 h (unruled (0x1F00110 + 0x20 * i) (s.test.cnts.getD i 0))
    | _ => none
  else none

/-- The register at an offset of PF0's BAR0 (Table 13.7). A half under the starter service has the ID_ block only (R427). -/
def regAt (s : State) (p : Path) (off : Nat) : Option Reg :=
  let e := pathHalf s p
  if off < 0x100000 then regId s e off
  else if !inService s e then none
  else if off < 0x200000 then regAg s p e off
  else if off < 0x300000 then (if off < 0x240000 then regHp s off else none)
  else if off < 0x400000 then (if off < 0x310000 then regLane s (192 + (off - 0x300000) / 0x400) (off % 0x400) else none)
  else if off < 0x800000 then regLp s off
  else if off < 0xC00000 then regWin s e off
  else if off < 0x1000000 then regFlow s p e off
  else if off < 0x1800000 then regSe s p off
  else if off < 0x1C00000 then regEvc s off
  else if off < 0x1E00000 then regRind s e off
  else if off < 0x1F00000 then regErr s e off
  else if off < 0x2000000 then regTst s off
  else none

/-! ## A function's own view (Table 13.8) -/

/-- Queues that a function owns, in ascending number (R235). -/
def ownedDqs (s : State) (n : Nat) : List Nat :=
  ((listed s (halfOfHl (n / 64)) 0x5400 0x54FF 8 1).map fun (i, k) => (i - 0x5400) * 8 + (k - 1) / 8).filter fun q =>
    dqEn s q && dqOwner s q == n

/-- The register at an offset of the BAR0 of a link or worker function; none of them is privileged. -/
def fnRegAt (s : State) (n off : Nat) : Option Reg :=
  if off = 0 then Reg.open_ none (csHigh s n 0x2D0)
  else if off = 8 then some ⟨true, false, false, none, [], fun _ => (timeNow s).toNat⟩
  else if 0x100 ≤ off ∧ off < 0x120 ∧ off % 4 = 0 then Reg.open_ none (winInStat s n ((off - 0x100) / 4))
  else if 0xE000 ≤ off ∧ off < 0xE200 then
    match (ownedDqs s n)[(off - 0xE000) / 8]? with
    | some q => if off % 8 = 0 then Reg.open_ none (dq s q).prod else if off % 8 = 4 then Reg.open_ none (dq s q).cons else none
    | none => none
  else none

/-! ## Reading -/

/-- The function whose event registers (Table 10.6) an offset of a path's BAR0 names, and the offset in them. -/
def fnEvtAt (p : Path) (off : Nat) : Option (Nat × Nat) :=
  match p with
  | .reg m f =>
    let b := if f.val = 0 then 0x1BFF000 else 0xF000
    if b ≤ off ∧ off < b + 0x14 then some (64 * m.val + f.val, off - b) else none
  | _ => none

/-- The register at an offset of the path's BAR0. -/
def pathReg (s : State) (p : Path) (off : Nat) : Option Reg :=
  match p with
  | .reg m f => if f.val = 0 then regAt s p off else fnRegAt s (64 * m.val + f.val) off
  | _ => regAt s p off

/-- The register that holds the DW at an offset, and its base (R7). -/
def regOf (s : State) (p : Path) (off : Nat) : Option (Nat × Reg) :=
  match pathReg s p off with
  | some r => some (off, r)
  | none =>
    if off % 8 = 4 then
      match pathReg s p (off - 4) with
      | some r => if r.wide then some (off - 4, r) else none
      | none => none
    else none

/-- The value of an RWA register's objects: running, or the shadow's (R365). -/
def objsVal (s : State) (h : Half) (shadow : Bool) (objs : List (Nat × Nat)) : Nat :=
  let one (x : Nat × Nat) : Nat := odSet s h x.1 x.2 shadow
  match objs with
  | [x, y] => one x + one y * 2 ^ 32
  | [x] => one x
  | _ => 0

/-- The path reads shadows (AG_VIEW). -/
def shadowView (s : State) (p : Path) : Bool := Tab.get false (dictOf s (pathHalf s p)).views (pathId p)

/-- A register's value as the path reads it: zero where it is privileged and the view is not, or write-only. One of a
half that cannot be reached has a free value (log entry 30). -/
def regVal (s : State) (p : Path) (r : Reg) : Nat × State :=
  let e := pathHalf s p
  if r.wo || (r.priv && !pathPriv s p) then (0, s)
  else if !pathReaches s p (r.home.getD e) then
    let x := takeFree s
    (x.1 % 2 ^ 64, x.2)
  else (r.val (objsVal s (r.home.getD e) (shadowView s p) r.objs) % 2 ^ 64, s)

/-- The path's latch (R361). -/
def latchOf (s : State) (p : Path) : Nat × Nat := Tab.get (0, 0) (dictOf s (pathHalf s p)).latches (pathId p)
def latchSet (s : State) (p : Path) (base word : Nat) : State :=
  updDict s (pathHalf s p) fun d => { d with latches := Tab.set (0, 0) d.latches (pathId p) (base + 1, word) }

/-- A 1-DW read (R7, R361). -/
def readDw (s : State) (p : Path) (off : Nat) : Nat × State :=
  match fnEvtAt p off with
  | some (n, 4) => claimRead s n
  | some (n, 0xC) => ((fn s n).evt.toNat, s)
  | some (n, 0x10) => ((fn s n).evtEn.toNat, s)
  | some _ => (0, s)
  | none =>
    match regOf s p off with
    | none => (0, s)
    | some (base, r) =>
      let v := regVal s p r
      if !r.wide then (v.1 % 2 ^ 32, v.2)
      else if off = base then (v.1 % 2 ^ 32, latchSet v.2 p base (v.1 / 2 ^ 32))
      else if (latchOf s p).1 = base + 1 then ((latchOf s p).2, s)
      else (v.1 / 2 ^ 32, v.2)

/-- A 2-DW read: both words of a 64-bit register from one instant (R98), or two registers in turn. -/
def readQw (s : State) (p : Path) (off : Nat) : Nat × State :=
  match regOf s p off with
  | some (base, r) =>
    if r.wide && base == off && off % 8 == 0 then
      let v := regVal s p r
      (v.1, latchSet v.2 p base (v.1 / 2 ^ 32))
    else
      let a := readDw s p off
      let b := readDw a.2 p (off + 4)
      (a.1 + b.1 * 2 ^ 32, b.2)
  | none =>
    let a := readDw s p off
    let b := readDw a.2 p (off + 4)
    (a.1 + b.1 * 2 ^ 32, b.2)

/-- A read of one or two DW: its bytes. -/
def regRead (s : State) (p : Path) (off dws : Nat) : List Byte × State :=
  let r := if dws = 2 then readQw s p off else readDw s p off
  (bytesLE (4 * dws) r.1, r.2)

/-! ## Writing -/

/-- All fields of LANE_CTRL at once (Table 03.7). -/
def laneCtrlWrite (s : State) (n v : Nat) : State :=
  let s1 := setLoop (setCtrl s n 3 1 (v / 8 % 2)) n (v % 8)
  let s2 := setPrbs (setPrbs s1 n 4 (v / 16 % 4)) n 6 (v / 64 % 4)
  let s3 := setCtrl s2 n 8 3 (v / 256 % 8)
  onlyIf (v.testBit 16) (fun t => clearLaneCounts t n) s3

/-- A lane register is written. -/
def laneWrite (s : State) (n r v : Nat) : State :=
  match r with
  | 0x00 => laneCtrlWrite s n v
  | 0x0C => updLane s n fun x => { x with evt := x.evt &&& ~~~(BitVec.ofNat 32 v) }
  | 0x40 =>
    if v % 2 = 1 then marginGo s n (v / 2 % 4)
    else if (lane s n).mrgBusy then s
    else updLane s n fun x => { x with mrgCtrl := BitVec.ofNat 32 (v &&& 6) }
  | _ => s

/-- HP_CTRL and HP_LINK_EVT. -/
def hpWrite (s : State) (off v : Nat) : State :=
  let n := (off - 0x200000) / 0x10000
  let r := off % 0x10000
  if r = 4 then
    onlyIf (v % 2 == 1) (fun t => clearCounts t ((span (4 * n) 4).flatMap fun m =>
      [0x18, 0x1C, 0x20, 0x24].map fun o => rkey (hpReg m o))) s
  else if (r - 0x10) % 0x20 = 4 then
    updHl s (4 * n + (r - 0x10) / 0x20) fun x => { x with evt := x.evt &&& ~~~(BitVec.ofNat 32 v) }
  else s

/-- LP_LINK_CTRL and LP_LINK_EVT. -/
def llWrite (s : State) (l r v : Nat) : State :=
  match r with
  | 0 =>
    let s1 := onlyIf (v.testBit 0) (fun t => clearCounts t (llCounters.map fun o => rkey (llReg l o))) s
    onlyIf (v.testBit 2) (fun t => pingGo t l) (forceDown s1 l (v.testBit 1))
  | 8 => updLink s l fun x => { x with evt := x.evt &&& ~~~(BitVec.ofNat 32 v) }
  | _ => s

/-- TIME_CMD, with LOAD before STEP. -/
def timeCmd (s : State) (v : Nat) : State := onlyIf (v.testBit 1) timeStep (onlyIf (v.testBit 0) timeLoad s)

/-- The AG_ registers that act. -/
def agWrite (s : State) (p : Path) (off v : Nat) : State :=
  let e := pathHalf s p
  match off with
  | 0x100000 => agServed s e fun t _ => (applyRequest t e (pathId p) v .reg).2
  | 0x100010 => agServed s e fun t h => updDict t h fun d => discard d v
  | 0x100014 => updDict s e fun d => { d with views := Tab.set false d.views (pathId p) (v % 2 == 1) }
  | 0x100018 => agServed s e fun t h => updDict t h fun d => claim d (pathId p) v
  | 0x10001C => agServed s e fun t h => updDict t h fun d => release d (pathId p) v
  | _ => s

/-- Registers of the fabric and its services. -/
def flowWrite (s : State) (p : Path) (off v : Nat) : State :=
  if off = 0xC00000 then flowSelSet s p (v % 2 ^ 14)
  else if 0xC10000 ≤ off ∧ off < 0xC30000 then
    let q := (off - 0xC10000) / 0x40
    match off % 0x40 with
    | 0x18 => dqProd s q (v % 2 ^ 16)
    | 0x24 => onlyIf (v % 2 == 1) (fun t => dqRestart t q) s
    | _ => s
  else if 0xE10000 ≤ off ∧ off < 0xE18000 ∧ off % 0x40 = 0x24 then
    onlyIf (v % 2 == 1) (fun t => mgRestart t ((off - 0xE10000) / 0x40)) s
  else s

/-- Registers of engines and event controllers. -/
def engineWrite (s : State) (p : Path) (off v : Nat) : State :=
  if off < 0x100C000 then
    (if off % 0x100 = 0 then onlyIf (v % 2 == 1) (fun t => seClear t ((off - 0x1000000) / 0x100)) s else s)
  else if off = 0x1100000 then memSelSet s p (v % 256)
  else if 0x1400000 ≤ off ∧ off < 0x1600000 then windowPut s (memSelOf s p) (off - 0x1400000) (BitVec.ofNat 32 v)
  else if 0x1880000 ≤ off ∧ off < 0x18A0000 ∧ off % 8 = 4 then
    let n := (off - 0x1880000) / 8
    if (src s n).masked == (v % 2 == 1) then s else setMask s n (v % 2 == 1)
  else if 0x18C0000 ≤ off ∧ off < 0x18C0200 then
    let h := halfOfIdx ((off - 0x18C0000) / 0x100)
    match off % 0x100 with
    | 0x00 => doorbellAt s h (v % 2 ^ 14) true
    | 0x18 => onlyIf (v % 2 == 1) (fun t => erecPop t h) s
    | _ => s
  else s

/-- Registers of errors, test, power and time. -/
def systemWrite (s : State) (p : Path) (off v : Nat) : State :=
  let one := v % 2 == 1
  let w := BitVec.ofNat 32 v
  match off with
  | 0x1C00004 => onlyIf (v % 4 != 0) (fun t => sleepRequest t (pathHalf t p) (v % 4)) s
  | 0x1C00110 => updTime s fun t => { t with loadH := w &&& 0xFFFF }
  | 0x1C00114 => updTime s fun t => { t with loadL := w }
  | 0x1C00118 => updTime s fun t => { t with loadNs := w &&& 0x3FFFFFFF }
  | 0x1C0011C => updTime s fun t => { t with stepNs := w }
  | 0x1C00120 => timeCmd s v
  | 0x1C00210 => onlyIf one (fun t => tsrPop t .a) s
  | 0x1C00250 => onlyIf one (fun t => tsrPop t .b) s
  | 0x1E00000 => onlyIf one (fun t => clearCounts t errCounters) s
  | 0x1E00120 => onlyIf one (fun t => logPop t .a) s
  | 0x1E00160 => onlyIf one (fun t => logPop t .b) s
  | 0x1F00000 => onlyIf one testStop s
  | 0x1F00010 => bistWrite s .a v
  | 0x1F00050 => bistWrite s .b v
  | _ =>
    if 0x1E10000 ≤ off ∧ off < 0x1E10C00 ∧ off % 0x10 = 4 then
      let l := (off - 0x1E10000) / 0x10
      onlyIf (v.testBit 1) (fun t => llFreeze t l) (onlyIf one (fun t => llRelease t l) s)
    else if 0x1E20010 ≤ off ∧ off < 0x1E20100 ∧ off % 0x10 = 4 then
      onlyIf (one && isManager s) (fun t => releaseWorker t ((off - 0x1E20000) / 0x10)) s
    else s

/-- A register without an object is written. -/
def regEffect (s : State) (p : Path) (off v : Nat) : State :=
  if off < 0x200000 then agWrite s p off v
  else if off < 0x300000 then hpWrite s off v
  else if off < 0x400000 then laneWrite s (192 + (off - 0x300000) / 0x400) (off % 0x400) v
  else if off < 0x430000 then llWrite s ((off - 0x400000) / 0x400) (off % 0x400) v
  else if off < 0x800000 then laneWrite s ((off - 0x600000) / 0x400) (off % 0x400) v
  else if off < 0xC00000 then onlyIf (v % 2 == 1) (fun t => slotFree t ((off - 0x880000) / 0x80)) s
  else if off < 0x1000000 then flowWrite s p off v
  else if off < 0x1C00000 then engineWrite s p off v
  else systemWrite s p off v

/-- The bits of an RWA register that its object holds. -/
def rwaBits (idx : Nat) : Nat :=
  if 0x2000 ≤ idx ∧ idx < 0x2400 then 7 else if idx = 0x7000 then 3 else 2 ^ 64 - 1

/-- A write of one object through its register: as a write of the object, without an answer (R348, R371). -/
def objPut (s : State) (p : Path) (h : Half) (x : Nat × Nat) (v : Nat) : State :=
  match odFind x.1 x.2 with
  | some r => (rwaWrite s (pathHalf s p) h (pathId p) r x.1 x.2 0 (bytesLE r.ty.bytes (v &&& rwaBits x.1))).2
  | none => s

/-- A write of an RWA register (R361): `lo` and `hi` say which words it writes; of a 64-bit object the other word keeps
its shadow value. -/
def rwaPut (s : State) (p : Path) (h : Half) (objs : List (Nat × Nat)) (v : Nat) (lo hi : Bool) : State :=
  match objs with
  | [x, y] => onlyIf hi (fun t => objPut t p h y (v / 2 ^ 32)) (onlyIf lo (fun t => objPut t p h x (v % 2 ^ 32)) s)
  | [x] =>
    let old := odSet s h x.1 x.2 true
    let low := if lo then v % 2 ^ 32 else old % 2 ^ 32
    let high := if hi then v / 2 ^ 32 % 2 ^ 32 else old / 2 ^ 32
    objPut s p h x (low + high * 2 ^ 32)
  | _ => s

/-- A write of the register at `base` of PF0's map, of the words named, when the view permits and the half is reached. -/
def regPut (s : State) (p : Path) (base : Nat) (r : Reg) (v : Nat) (lo hi : Bool) : State :=
  if !r.priv then s
  else regAct s p base (r.home.getD (pathHalf s p)) fun t =>
    if r.objs.isEmpty then (if r.wide then t else regEffect t p base v) else rwaPut t p (r.home.getD (pathHalf t p)) r.objs v lo hi

/-- A function event register is written (R296 to R298). -/
def fnEvtPut (s : State) (n off v : Nat) : State :=
  let w := BitVec.ofNat 32 v
  match off with
  | 0x00 => fnDbell s n (v % 2 ^ 14)
  | 0x08 => fnDone s n (v % 2 ^ 14)
  | 0x0C => fnEvtClr s n w
  | 0x10 => fnEvtEn s n w
  | _ => s

/-- A register of a function's own view is written: only the producer counts can be. -/
def fnPut (s : State) (n off v : Nat) : State :=
  if 0xE000 ≤ off ∧ off < 0xE200 ∧ off % 8 = 0 then
    match (ownedDqs s n)[(off - 0xE000) / 8]? with
    | some q => dqProd s q (v % 2 ^ 16)
    | none => s
  else s

/-- A write of one DW. -/
def writeDw (s : State) (p : Path) (off v : Nat) : State :=
  match fnEvtAt p off with
  | some (n, k) => fnEvtPut s n k v
  | none =>
    match p with
    | .reg m f =>
      if f.val ≠ 0 then fnPut s (64 * m.val + f.val) off v
      else match regOf s p off with
        | some (base, r) => if off = base then regPut s p base r v true false else regPut s p base r (v * 2 ^ 32) false true
        | none => s
    | _ => match regOf s p off with
      | some (base, r) => if off = base then regPut s p base r v true false else regPut s p base r (v * 2 ^ 32) false true
      | none => s

/-- A write of two DW: a 64-bit register whole, or two registers in turn. -/
def writeQw (s : State) (p : Path) (off v : Nat) : State :=
  let turns := writeDw (writeDw s p off (v % 2 ^ 32)) p (off + 4) (v / 2 ^ 32)
  match fnEvtAt p off, pathReg s p off with
  | none, some r => if r.wide && r.priv && off % 8 == 0 then regPut s p off r v true true else turns
  | _, _ => turns

/-- A write of one or two words. -/
def regWrite (s : State) (p : Path) (off : Nat) : List W32 → State
  | [a] => writeDw s p off a.toNat
  | [a, b] => writeQw s p off (a.toNat + b.toNat * 2 ^ 32)
  | _ => s

end Sys2Proof.Machine
end

