-- ==== Sys2Proof/Machine/HostMem.lean ====
section
/-! DEFINITION. Memory requests of a host (R97 to R103, R115, R160, R169, R191): what a BAR answers, and the accesses to
the register file, the mailbox, and the MSI-X tables. -/

namespace Sys2Proof.Machine

/-! ## MSI-X table and pending bits (R98, R103, R104) -/

/-- A DW of the MSI-X table of function n; an entry it does not have reads zero. -/
def msixRead (s : State) (n off : Nat) : Nat :=
  if off / 16 < (fnLay s n).msix then ((msixEnt s n (off / 16)).toNat / 2 ^ (32 * (off / 4 % 4))) % 2 ^ 32 else 0

/-- A DW of the pending bits. -/
def pbaRead (s : State) (n off : Nat) : Nat :=
  ((List.range 32).map fun i =>
    let v := off / 4 * 32 + i
    flag (decide (v < (fnLay s n).msix) && Tab.get false s.host.pba (msixKey s n v)) i).sum

/-- Bits of a DW of an entry that can be written: address, data, and the mask bit. -/
def msixBits (k : Nat) : Nat := match k with | 0 => 0xFFFFFFFC | 3 => 1 | _ => 0xFFFFFFFF

/-- A DW of an entry is written; a mask that clears sends what is pending (R294). -/
def msixWrite (s : State) (n off v : Nat) : State :=
  let e := off / 16
  let k := off / 4 % 4
  if (fnLay s n).msix ≤ e then s
  else
    let old := (msixEnt s n e).toNat
    let new := old - (old / 2 ^ (32 * k) % 2 ^ 32) * 2 ^ (32 * k) + (v &&& msixBits k) * 2 ^ (32 * k)
    let s1 := { s with host := { s.host with msix := Tab.set msixReset s.host.msix (msixKey s n e) (BitVec.ofNat 128 new) } }
    onlyIf (k == 3 && v % 2 == 0 && old.testBit 96 && msixEn s n) (fun t => sweepPending t n) s1

/-! ## BAR2 of PF0, BAR4 of the others (Tables 04.7, 04.8) -/

/-- A DW of PF0's BAR2. -/
def bar2Dw (s : State) (m off : Nat) : Nat :=
  let x := mbx s m
  if off < 0x800 then ofBytesLE (readBytes 0 x.req off 4)
  else if off < 0x1000 then ofBytesLE (readBytes 0 x.rsp (off - 0x800) 4)
  else if off = 0x1004 then mbxStat s m
  else if off = 0x100C then flag x.ien 0
  else if 0x8000 ≤ off ∧ off < 0xC000 then msixRead s (64 * m) (off - 0x8000)
  else if 0xC000 ≤ off then pbaRead s (64 * m) (off - 0xC000)
  else 0

/-- A DW of PF0's BAR2 is written. -/
def bar2Put (s : State) (m off v : Nat) : State :=
  if off < 0x800 then mbxReqPut s m off (bytesLE 4 v)
  else if off = 0x1000 then mbxSubmit s m (v % 2 ^ 12)
  else if off = 0x1008 then onlyIf (v % 2 == 1) (fun t => mbxAckNow t m) s
  else if off = 0x100C then updMbx s m fun x => { x with ien := v % 2 == 1 }
  else if 0x8000 ≤ off ∧ off < 0xC000 then msixWrite s (64 * m) (off - 0x8000) v
  else s

/-- A DW of BAR4 of a link or worker function. -/
def bar4Dw (s : State) (n off : Nat) : Nat := if off < 0x8000 then msixRead s n off else pbaRead s n (off - 0x8000)
def bar4Put (s : State) (n off v : Nat) : State := if off < 0x8000 then msixWrite s n off v else s

/-! ## A BAR that is no aperture -/

/-- The register path of function n. -/
def fnPath (n : Nat) : Path := .reg (Fin.ofNat 16 (n / 64)) (Fin.ofNat 64 n)

/-- A read of one or two DW at a DW offset of such a BAR. -/
def barRead (s : State) (b : HostHit) (off dws : Nat) : List Byte × State :=
  let two (f : Nat → Nat) : List Byte := bytesLE 4 (f off) ++ (if dws = 2 then bytesLE 4 (f (off + 4)) else [])
  match b with
  | .bar0 n _ => regRead s (fnPath n) off dws
  | .bar2 m _ => (two (bar2Dw s m), s)
  | .bar4 n _ => (two (bar4Dw s n), s)
  | _ => ([], s)

/-- A write of one or two whole DW. -/
def barWrite (s : State) (b : HostHit) (off : Nat) (ws : List W32) : State :=
  let inTurn (f : State → Nat → Nat → State) : State := forAll s ws.zipIdx fun t x => f t (off + 4 * x.2) x.1.toNat
  match b with
  | .bar0 n _ => regWrite s (fnPath n) off ws
  | .bar2 m _ => inTurn fun t o v => bar2Put t m o v
  | .bar4 n _ => inTurn fun t o v => bar4Put t n o v
  | _ => s

/-- The function and the offset that a hit names. -/
def hitFn : HostHit → Nat × Nat
  | .aperture n o | .bar0 n o | .bar4 n o => (n, o)
  | .bar2 m o => (64 * m, o)
  | .miss => (0, 0)

/-- DW that a request of `len` bytes at `off` covers; one without bytes is a request of one DW. -/
def dwSpan (off len : Nat) : Nat := max 1 ((off % 4 + len + 3) / 4)

/-- A read of such a BAR (R98): above 2 DW it completes with Completer Abort. -/
def barReadTlp (s : State) (m : Nat) (b : HostHit) (r : HostReq) : State :=
  let (n, off) := hitFn b
  let dws := dwSpan off r.len
  if 2 < dws then hostRefuse s m n r.tag.toNat .ca r.len
  else
    let x := barRead s b (off / 4 * 4) dws
    let bs := if r.len = 0 then x.1 else (x.1.drop (off % 4)).take r.len
    tlpOut x.2 m (.cplData r.tag.toNat bs 0 false r.ro (idoCpl s n))

/-- The words of a write whose byte enables are all set; none otherwise. -/
def wordsOf : List (Option Byte) → Option (List W32)
  | [] => some []
  | some a :: some b :: some c :: some d :: t =>
    match wordsOf t with
    | some ws => some (BitVec.ofNat 32 (ofBytesLE [a, b, c, d]) :: ws)
    | none => none
  | _ => none

/-- A write to such a BAR (R98): of one or two whole DW, or it is ignored and counted. A poisoned one is not used
(R307). -/
def barWriteTlp (s : State) (m : Nat) (b : HostHit) (r : HostReq) : State :=
  let (n, off) := hitFn b
  if r.ep then aerPoison s n
  else match wordsOf r.data with
    | some ws => if off % 4 = 0 ∧ (ws.length = 1 ∨ ws.length = 2) then barWrite s b off ws else badAccess s m
    | none => badAccess s m

/-- A memory request that hit a BAR which is no aperture. An AtomicOp finds no completer there. -/
def barTlp (s : State) (m : Nat) (b : HostHit) : Instr → State
  | .hostMemoryWrite _ r => barWriteTlp s m b r
  | .hostMemoryRead _ r => barReadTlp s m b r
  | .hostAtomicop _ r op => hostRefuse s m (hitFn b).1 r.tag.toNat .ur (atomicLen op r.data.length)
  | _ => s

/-- A memory request of host link m at address `a` (R100): its BAR, and what the BAR does with it. A transaction that
arrives after the commit of S3 is discarded (R386); before start-up is complete the answer is Unsupported Request
(R425). -/
def memTlp (s0 : State) (m a : Nat) (i : Instr) : State :=
  let hit0 := hostDecode s0 m a
  let s := tlpWake s0 m
  if !hlUp s m then s
  else if s3Commit s0 && (match hit0 with | .aperture .. => true | _ => false) then bump s0 0x7006 3
  else if !startedUp s (halfOfHl m) then unclaimed s m i
  else match hostDecode s m a with
    | .aperture n off =>
      match tlpReq i with
      | some (r, k, len) => if tlpRoom s n off k len r.vc1 then serveTlp s n off i else waitVc0 s m i
      | none => s
    | .miss => unclaimed s m i
    | b => barTlp s m b i

/-- HOST_MEMORY_WRITE (R160). -/
def execHostMemoryWrite (m : HL) (r : HostReq) (s : State) : Out :=
  .next (memTlp s m.val r.addr.toNat (.hostMemoryWrite m r))

/-- HOST_MEMORY_READ (R169). -/
def execHostMemoryRead (m : HL) (r : HostReq) (s : State) : Out :=
  .next (memTlp s m.val r.addr.toNat (.hostMemoryRead m r))

/-- HOST_ATOMICOP (R191): a size that Table 04.6 does not list is no AtomicOp of the device's completer. -/
def execHostAtomicop (m : HL) (r : HostReq) (op : AtomicOp) (s : State) : Out :=
  .next (
    if atomicLenOk op r.data.length then memTlp s m.val r.addr.toNat (.hostAtomicop m r op)
    else
      let t := tlpWake s m.val
      onlyIf (hlUp t m.val) (fun u => unclaimed u m.val (.hostAtomicop m r op)) t)

/-- The BAR that a command names by its function answers: the function exists, in D0, with Memory Space Enable, after
start-up. -/
def barAnswers (s : State) (m f : Nat) : Bool :=
  let n := 64 * m + f
  startedUp s (halfOfHl m) && fnExists s n && mse s n && !inD3 s n

/-- The hit a BAR0 or PF0 BAR2 command names; BAR2 of another function is its aperture. -/
def namedBar (m f : Nat) (bar2 : Bool) (off : Nat) : Option HostHit :=
  let n := 64 * m + f
  if bar2 then (if f = 0 ∧ off < 2 ^ 16 then some (.bar2 m off) else none)
  else if off < (if f = 0 then 2 ^ 26 else 2 ^ 16) then some (.bar0 n off)
  else none

/-- BAR0_READ (R98): by DW offset, of one or two DW. -/
def execBar0Read (m : HL) (f : Fn) (bar2 : Bool) (off dws : Nat) (tag : BitVec 14) (s0 : State) : Out :=
  let s := tlpWake s0 m.val
  let k := m.val
  .next (if !hlUp s k then s
    else match namedBar k f.val bar2 (off / 4 * 4) with
      | none => s
      | some b =>
        if !barAnswers s k f.val then hostRefuse s k (64 * k) tag.toNat .ur (4 * dws)
        else if dws = 1 ∨ dws = 2 then
          let x := barRead s b (off / 4 * 4) dws
          tlpOut x.2 k (.cplData tag.toNat x.1 0 false false (idoCpl s (64 * k + f.val)))
        else hostRefuse s k (64 * k + f.val) tag.toNat .ca (4 * dws))

/-- REGISTER_WRITE (R98): a host's write of one or two DW, or the steward's own; no other path carries one. -/
def execRegisterWrite (p : Path) (bar2 : Bool) (off : Nat) (words : List W32) (allEnabled : Bool) (s0 : State) : Out :=
  .next (match p with
    | .reg m f =>
      let s := tlpWake s0 m.val
      let k := m.val
      if !hlUp s k then s
      else match namedBar k f.val bar2 (off / 4 * 4) with
        | none => s
        | some b =>
          if !barAnswers s k f.val then aerUR s (64 * k)
          else if allEnabled && (words.length == 1 || words.length == 2) then barWrite s b (off / 4 * 4) words
          else badAccess s k
    | .steward h => if !bar2 && pathLive s0 (.steward h) && decide (off < 2 ^ 26) then regWrite s0 p (off / 4 * 4) words else s0
    | _ => s0)

end Sys2Proof.Machine
end

