-- ==== Sys2Proof/Machine/Dispatch.lean ====
section
/-! DEFINITION. One arm per command of the table: each calls its meaning. -/

namespace Sys2Proof.Machine

/-- The effect of a command on everything but the queue. -/
def exec (i : Instr) (s : State) : Host.Outcome State Fault Refusal :=
  match i with
  | .resetNAssert durNs => Sys2Proof.Machine.execResetNAssert durNs s
  | .resetNRise sa sb => Sys2Proof.Machine.execResetNRise sa sb s
  | .firmwareLoaded h => Sys2Proof.Machine.execFirmwareLoaded h s
  | .startupComplete h => Sys2Proof.Machine.execStartupComplete h s
  | .tokenExchange => Sys2Proof.Machine.execTokenExchange s
  | .leadExchangeTimeout h => Sys2Proof.Machine.execLeadExchangeTimeout h s
  | .heartbeatSend h => Sys2Proof.Machine.execHeartbeatSend h s
  | .heartbeatReceive h => Sys2Proof.Machine.execHeartbeatReceive h s
  | .heartbeatTimeout h => Sys2Proof.Machine.execHeartbeatTimeout h s
  | .dieLinkCrcFail h xfer => Sys2Proof.Machine.execDieLinkCrcFail h xfer s
  | .dieLinkRetrain h ok => Sys2Proof.Machine.execDieLinkRetrain h ok s
  | .orphanTimeout => Sys2Proof.Machine.execOrphanTimeout s
  | .followerRelease p v => Sys2Proof.Machine.execFollowerRelease p v s
  | .dieLinkCellArrive h cell => Sys2Proof.Machine.execDieLinkCellArrive h cell s
  | .timeAlignCheck => Sys2Proof.Machine.execTimeAlignCheck s
  | .pressCellCross h id outFree ecc => Sys2Proof.Machine.execPressCellCross h id outFree ecc s
  | .calendarSlot h port owner => Sys2Proof.Machine.execCalendarSlot h port owner s
  | .cplSpaceReserved id => Sys2Proof.Machine.execCplSpaceReserved id s
  | .fenceRelease id => Sys2Proof.Machine.execFenceRelease id s
  | .flowDoorbellRaise id => Sys2Proof.Machine.execFlowDoorbellRaise id s
  | .zeroLenReadFlush id => Sys2Proof.Machine.execZeroLenReadFlush id s
  | .shaperRelease f => Sys2Proof.Machine.execShaperRelease f s
  | .linkShaperPacketStart l id => Sys2Proof.Machine.execLinkShaperPacketStart l id s
  | .brineSegmentWrite f => Sys2Proof.Machine.execBrineSegmentWrite f s
  | .brineSegmentRead f ecc => Sys2Proof.Machine.execBrineSegmentRead f ecc s
  | .brineMonitorWindow h => Sys2Proof.Machine.execBrineMonitorWindow h s
  | .brineTrainingDone h failed => Sys2Proof.Machine.execBrineTrainingDone h failed s
  | .brineTrackingPass c => Sys2Proof.Machine.execBrineTrackingPass c s
  | .laneDetectStep n found => Sys2Proof.Machine.execLaneDetectStep n found s
  | .cdrLock n => Sys2Proof.Machine.execCdrLock n s
  | .cdrLockLoss n => Sys2Proof.Machine.execCdrLockLoss n s
  | .adapted n dfe0 dfe1 dfe2 ctle => Sys2Proof.Machine.execAdapted n dfe0 dfe1 dfe2 ctle s
  | .prbsCheckDone n errors => Sys2Proof.Machine.execPrbsCheckDone n errors s
  | .trainingFrame l lane word marker inverted => Sys2Proof.Machine.execTrainingFrame l lane word marker inverted s
  | .trainTimeout l => Sys2Proof.Machine.execTrainTimeout l s
  | .lockTimeout l => Sys2Proof.Machine.execLockTimeout l s
  | .exchangeTimeout l => Sys2Proof.Machine.execExchangeTimeout l s
  | .electricalIdleEnd l => Sys2Proof.Machine.execElectricalIdleEnd l s
  | .codewordReceive n uncorrectable corrected => Sys2Proof.Machine.execCodewordReceive n uncorrectable corrected s
  | .blockReceive l lane sync content bufferError => Sys2Proof.Machine.execBlockReceive l lane sync content bufferError s
  | .align l lane content skew => Sys2Proof.Machine.execAlign l lane content skew s
  | .capf l frame => Sys2Proof.Machine.execCapf l frame s
  | .down l reason => Sys2Proof.Machine.execDown l reason s
  | .bondLaneMoveBack h group f => Sys2Proof.Machine.execBondLaneMoveBack h group f s
  | .dalfelWrite l p => Sys2Proof.Machine.execDalfelWrite l p s
  | .dalfelRead l p => Sys2Proof.Machine.execDalfelRead l p s
  | .dalfelCpl l p => Sys2Proof.Machine.execDalfelCpl l p s
  | .doorbell l p => Sys2Proof.Machine.execDoorbell l p s
  | .state l p => Sys2Proof.Machine.execState l p s
  | .stateValueCommit id => Sys2Proof.Machine.execStateValueCommit id s
  | .atomic l p => Sys2Proof.Machine.execAtomic l p s
  | .lockAcq l p => Sys2Proof.Machine.execLockAcq l p s
  | .lockRel l p => Sys2Proof.Machine.execLockRel l p s
  | .semaphoreUnitFree n l => Sys2Proof.Machine.execSemaphoreUnitFree n l s
  | .acquireTimeout n l => Sys2Proof.Machine.execAcquireTimeout n l s
  | .holdLimitExpiry n l => Sys2Proof.Machine.execHoldLimitExpiry n l s
  | .capAnn l p => Sys2Proof.Machine.execCapAnn l p s
  | .ping l p => Sys2Proof.Machine.execPing l p s
  | .ack l seq => Sys2Proof.Machine.execAck l seq s
  | .nak l seq => Sys2Proof.Machine.execNak l seq s
  | .ackDue l => Sys2Proof.Machine.execAckDue l s
  | .replayTimerExpiry l => Sys2Proof.Machine.execReplayTimerExpiry l s
  | .credit l np c0 c1 c2 c3 => Sys2Proof.Machine.execCredit l np c0 c1 c2 c3 s
  | .creditRefresh l => Sys2Proof.Machine.execCreditRefresh l s
  | .creditWaitTimeout l id => Sys2Proof.Machine.execCreditWaitTimeout l id s
  | .egressPacketStart l id => Sys2Proof.Machine.execEgressPacketStart l id s
  | .pause l xoff f => Sys2Proof.Machine.execPause l xoff f s
  | .pauseRefresh l f => Sys2Proof.Machine.execPauseRefresh l f s
  | .lpForceDown p l v => Sys2Proof.Machine.execLpForceDown p l v s
  | .pingGo p l => Sys2Proof.Machine.execPingGo p l s
  | .lpCntClr p l => Sys2Proof.Machine.execLpCntClr p l s
  | .laneLoopSet p n v => Sys2Proof.Machine.execLaneLoopSet p n v s
  | .laneDfeFreeze p n v => Sys2Proof.Machine.execLaneDfeFreeze p n v s
  | .lanePrbsGenSet p n v => Sys2Proof.Machine.execLanePrbsGenSet p n v s
  | .lanePrbsChkSet p n v => Sys2Proof.Machine.execLanePrbsChkSet p n v s
  | .lanePolForceSet p n force txInv rxInv => Sys2Proof.Machine.execLanePolForceSet p n force txInv rxInv s
  | .laneCntClr p n => Sys2Proof.Machine.execLaneCntClr p n s
  | .marginStart p n eye => Sys2Proof.Machine.execMarginStart p n eye s
  | .marginDone n left right top bottom => Sys2Proof.Machine.execMarginDone n left right top bottom s
  | .laneMarginingCommand n => Sys2Proof.Machine.execLaneMarginingCommand n s
  | .hostMemoryWrite m r => Sys2Proof.Machine.execHostMemoryWrite m r s
  | .hostMemoryRead m r => Sys2Proof.Machine.execHostMemoryRead m r s
  | .hostAtomicop m r op => Sys2Proof.Machine.execHostAtomicop m r op s
  | .hostCompletion m c => Sys2Proof.Machine.execHostCompletion m c s
  | .splitWriteCommitted id => Sys2Proof.Machine.execSplitWriteCommitted id s
  | .configRequest m c => Sys2Proof.Machine.execConfigRequest m c s
  | .busMasterEnableClear m f => Sys2Proof.Machine.execBusMasterEnableClear m f s
  | .busMasterEnableSet m f => Sys2Proof.Machine.execBusMasterEnableSet m f s
  | .memorySpaceEnableClear m f => Sys2Proof.Machine.execMemorySpaceEnableClear m f s
  | .msixDisable m f => Sys2Proof.Machine.execMsixDisable m f s
  | .msixVectorUnmask m f v => Sys2Proof.Machine.execMsixVectorUnmask m f v s
  | .d3hotEntry m f => Sys2Proof.Machine.execD3hotEntry m f s
  | .ltrMechanismEnable m => Sys2Proof.Machine.execLtrMechanismEnable m s
  | .pmeTurnOff m => Sys2Proof.Machine.execPmeTurnOff m s
  | .ioRequest m tag => Sys2Proof.Machine.execIoRequest m tag s
  | .mrdlk m tag => Sys2Proof.Machine.execMrdlk m tag s
  | .vendorDefinedType0 m => Sys2Proof.Machine.execVendorDefinedType0 m s
  | .vendorDefinedType1 m => Sys2Proof.Machine.execVendorDefinedType1 m s
  | .bar0Read m f bar2 off dws tag => Sys2Proof.Machine.execBar0Read m f bar2 off dws tag s
  | .expansionRomRead m addr len tag => Sys2Proof.Machine.execExpansionRomRead m addr len tag s
  | .expansionRomWrite m addr => Sys2Proof.Machine.execExpansionRomWrite m addr s
  | .registerWrite p bar2 off words allEnabled => Sys2Proof.Machine.execRegisterWrite p bar2 off words allEnabled s
  | .perstNAssert p => Sys2Proof.Machine.execPerstNAssert p s
  | .perstNDeassert p => Sys2Proof.Machine.execPerstNDeassert p s
  | .hotReset m => Sys2Proof.Machine.execHotReset m s
  | .dlActiveExit m => Sys2Proof.Machine.execDlActiveExit m s
  | .dlActiveEnter m flit rate width reversed vc1 => Sys2Proof.Machine.execDlActiveEnter m flit rate width reversed vc1 s
  | .l0sIdleTimer m => Sys2Proof.Machine.execL0sIdleTimer m s
  | .aspmL1IdleTimer m => Sys2Proof.Machine.execAspmL1IdleTimer m s
  | .l0pEvaluation m bytesPer100us => Sys2Proof.Machine.execL0pEvaluation m bytesPer100us s
  | .mbxSubmit m len => Sys2Proof.Machine.execMbxSubmit m len s
  | .mbxReqWrite m off data => Sys2Proof.Machine.execMbxReqWrite m off data s
  | .mbxResponse m => Sys2Proof.Machine.execMbxResponse m s
  | .mbxAck m v => Sys2Proof.Machine.execMbxAck m v s
  | .switchRequest p m f v => Sys2Proof.Machine.execSwitchRequest p m f v s
  | .protectionSwitchOver m f => Sys2Proof.Machine.execProtectionSwitchOver m f s
  | .pairMemberEligible m f => Sys2Proof.Machine.execPairMemberEligible m f s
  | .prefetchLifetimeExpiry m f w unit => Sys2Proof.Machine.execPrefetchLifetimeExpiry m f w unit s
  | .slotHoldExpiry m f => Sys2Proof.Machine.execSlotHoldExpiry m f s
  | .winSlotFree p m f => Sys2Proof.Machine.execWinSlotFree p m f s
  | .completionTimeout side tag => Sys2Proof.Machine.execCompletionTimeout side tag s
  | .quarantineEnd side tag => Sys2Proof.Machine.execQuarantineEnd side tag s
  | .mirrorBoundaryUp g => Sys2Proof.Machine.execMirrorBoundaryUp g s
  | .mirrorPassEnd g => Sys2Proof.Machine.execMirrorPassEnd g s
  | .mirrorBoundaryDown g => Sys2Proof.Machine.execMirrorBoundaryDown g s
  | .downwardPassAcked g => Sys2Proof.Machine.execDownwardPassAcked g s
  | .flowMgRestart p g => Sys2Proof.Machine.execFlowMgRestart p g s
  | .flowDqProd p q v => Sys2Proof.Machine.execFlowDqProd p q v s
  | .flowDqRestart p q => Sys2Proof.Machine.execFlowDqRestart p q s
  | .flowSel p f => Sys2Proof.Machine.execFlowSel p f s
  | .serviceEventDeliver f => Sys2Proof.Machine.execServiceEventDeliver f s
  | .flowIdlePoint f => Sys2Proof.Machine.execFlowIdlePoint f s
  | .engineHotWindow h => Sys2Proof.Machine.execEngineHotWindow h s
  | .clusterDrained c => Sys2Proof.Machine.execClusterDrained c s
  | .clusterLoadComplete c => Sys2Proof.Machine.execClusterLoadComplete c s
  | .engineRestart p e => Sys2Proof.Machine.execEngineRestart p e s
  | .seCntClr p e => Sys2Proof.Machine.execSeCntClr p e s
  | .seMemSel p v => Sys2Proof.Machine.execSeMemSel p v s
  | .engineMemoryWindowWrite p off w => Sys2Proof.Machine.execEngineMemoryWindowWrite p off w s
  | .engAdd e x => Sys2Proof.Machine.execEngAdd e x s
  | .engSub e x => Sys2Proof.Machine.execEngSub e x s
  | .engAnd e x => Sys2Proof.Machine.execEngAnd e x s
  | .engOr e x => Sys2Proof.Machine.execEngOr e x s
  | .engXor e x => Sys2Proof.Machine.execEngXor e x s
  | .engSll e x => Sys2Proof.Machine.execEngSll e x s
  | .engSrl e x => Sys2Proof.Machine.execEngSrl e x s
  | .engSra e x => Sys2Proof.Machine.execEngSra e x s
  | .engMul e x => Sys2Proof.Machine.execEngMul e x s
  | .engSlt e x => Sys2Proof.Machine.execEngSlt e x s
  | .engSltu e x => Sys2Proof.Machine.execEngSltu e x s
  | .engHash e x => Sys2Proof.Machine.execEngHash e x s
  | .engCrc e x => Sys2Proof.Machine.execEngCrc e x s
  | .engAddi e x => Sys2Proof.Machine.execEngAddi e x s
  | .engAndi e x => Sys2Proof.Machine.execEngAndi e x s
  | .engOri e x => Sys2Proof.Machine.execEngOri e x s
  | .engXori e x => Sys2Proof.Machine.execEngXori e x s
  | .engSlli e x => Sys2Proof.Machine.execEngSlli e x s
  | .engSrli e x => Sys2Proof.Machine.execEngSrli e x s
  | .engSrai e x => Sys2Proof.Machine.execEngSrai e x s
  | .engLui e x => Sys2Proof.Machine.execEngLui e x s
  | .engCsrr e x => Sys2Proof.Machine.execEngCsrr e x s
  | .engCsrw e x => Sys2Proof.Machine.execEngCsrw e x s
  | .engWait e x => Sys2Proof.Machine.execEngWait e x s
  | .engEoi e x => Sys2Proof.Machine.execEngEoi e x s
  | .engReti e x => Sys2Proof.Machine.execEngReti e x s
  | .engFence e x => Sys2Proof.Machine.execEngFence e x s
  | .fenceComplete e => Sys2Proof.Machine.execFenceComplete e s
  | .engBreak e x => Sys2Proof.Machine.execEngBreak e x s
  | .engLd e x ecc => Sys2Proof.Machine.execEngLd e x ecc s
  | .engLw e x ecc => Sys2Proof.Machine.execEngLw e x ecc s
  | .engLh e x ecc => Sys2Proof.Machine.execEngLh e x ecc s
  | .engLb e x ecc => Sys2Proof.Machine.execEngLb e x ecc s
  | .engSd e x => Sys2Proof.Machine.execEngSd e x s
  | .engSw e x => Sys2Proof.Machine.execEngSw e x s
  | .engSh e x => Sys2Proof.Machine.execEngSh e x s
  | .engSb e x => Sys2Proof.Machine.execEngSb e x s
  | .engBeq e x => Sys2Proof.Machine.execEngBeq e x s
  | .engBne e x => Sys2Proof.Machine.execEngBne e x s
  | .engBlt e x => Sys2Proof.Machine.execEngBlt e x s
  | .engBge e x => Sys2Proof.Machine.execEngBge e x s
  | .engBltu e x => Sys2Proof.Machine.execEngBltu e x s
  | .engBgeu e x => Sys2Proof.Machine.execEngBgeu e x s
  | .engJal e x => Sys2Proof.Machine.execEngJal e x s
  | .engJalr e x => Sys2Proof.Machine.execEngJalr e x s
  | .engAadd e x => Sys2Proof.Machine.execEngAadd e x s
  | .engAswp e x => Sys2Proof.Machine.execEngAswp e x s
  | .engAcas e x => Sys2Proof.Machine.execEngAcas e x s
  | .engQpop e x => Sys2Proof.Machine.execEngQpop e x s
  | .engQdone e x => Sys2Proof.Machine.execEngQdone e x s
  | .engMvr e x => Sys2Proof.Machine.execEngMvr e x s
  | .engMvw e x => Sys2Proof.Machine.execEngMvw e x s
  | .engMva e x => Sys2Proof.Machine.execEngMva e x s
  | .moveComplete e slot => Sys2Proof.Machine.execMoveComplete e slot s
  | .engMwait e x => Sys2Proof.Machine.execEngMwait e x s
  | .engDbell e x => Sys2Proof.Machine.execEngDbell e x s
  | .engCtxr e x => Sys2Proof.Machine.execEngCtxr e x s
  | .engCtxw e x => Sys2Proof.Machine.execEngCtxw e x s
  | .engReply e x => Sys2Proof.Machine.execEngReply e x s
  | .reservedOpcode e w => Sys2Proof.Machine.execReservedOpcode e w s
  | .evcFnDbell m f n => Sys2Proof.Machine.execEvcFnDbell m f n s
  | .evcDbell p h n => Sys2Proof.Machine.execEvcDbell p h n s
  | .sourceOffer n => Sys2Proof.Machine.execSourceOffer n s
  | .coalescingHoldEnd n => Sys2Proof.Machine.execCoalescingHoldEnd n s
  | .offerAccept e => Sys2Proof.Machine.execOfferAccept e s
  | .evcSrcMask p n v => Sys2Proof.Machine.execEvcSrcMask p n v s
  | .hostMessageForm n => Sys2Proof.Machine.execHostMessageForm n s
  | .hostMessageCommit n => Sys2Proof.Machine.execHostMessageCommit n s
  | .holdoffEnd g => Sys2Proof.Machine.execHoldoffEnd g s
  | .evcFnClaim m f tag => Sys2Proof.Machine.execEvcFnClaim m f tag s
  | .evcFnDone m f n => Sys2Proof.Machine.execEvcFnDone m f n s
  | .evcFnEvt m f v => Sys2Proof.Machine.execEvcFnEvt m f v s
  | .evcFnEvtEn m f v => Sys2Proof.Machine.execEvcFnEvtEn m f v s
  | .evcErecPop p h => Sys2Proof.Machine.execEvcErecPop p h s
  | .errLlRelease p l => Sys2Proof.Machine.execErrLlRelease p l s
  | .errLlFreeze p l => Sys2Proof.Machine.execErrLlFreeze p l s
  | .errWkRelease p d => Sys2Proof.Machine.execErrWkRelease p d s
  | .freezeTimeout l => Sys2Proof.Machine.execFreezeTimeout l s
  | .errLogPop p h => Sys2Proof.Machine.execErrLogPop p h s
  | .errCntClr p => Sys2Proof.Machine.execErrCntClr p s
  | .mdpRequest src => Sys2Proof.Machine.execMdpRequest src s
  | .discover fr => Sys2Proof.Machine.execDiscover fr s
  | .open_ fr => Sys2Proof.Machine.execOpen fr s
  | .proof fr => Sys2Proof.Machine.execProof fr s
  | .close fr => Sys2Proof.Machine.execClose fr s
  | .challengeTimeout num => Sys2Proof.Machine.execChallengeTimeout num s
  | .proofLockoutEnd => Sys2Proof.Machine.execProofLockoutEnd s
  | .sessionIdleTimeout num => Sys2Proof.Machine.execSessionIdleTimeout num s
  | .deviceKeyWrite p off data => Sys2Proof.Machine.execDeviceKeyWrite p off data s
  | .agApply p mask => Sys2Proof.Machine.execAgApply p mask s
  | .applyCheckComplete h => Sys2Proof.Machine.execApplyCheckComplete h s
  | .followerCutAct => Sys2Proof.Machine.execFollowerCutAct s
  | .cutAck => Sys2Proof.Machine.execCutAck s
  | .agDiscard p mask => Sys2Proof.Machine.execAgDiscard p mask s
  | .agClaim p mask => Sys2Proof.Machine.execAgClaim p mask s
  | .agRelease p mask => Sys2Proof.Machine.execAgRelease p mask s
  | .sealPassStart h => Sys2Proof.Machine.execSealPassStart h s
  | .sealPassComplete h => Sys2Proof.Machine.execSealPassComplete h s
  | .levelSwitchPoint => Sys2Proof.Machine.execLevelSwitchPoint s
  | .avsResponse fr => Sys2Proof.Machine.execAvsResponse fr s
  | .avsStatusPoll => Sys2Proof.Machine.execAvsStatusPoll s
  | .avsRequestTimeout rail => Sys2Proof.Machine.execAvsRequestTimeout rail s
  | .tempThresholdCross h tj => Sys2Proof.Machine.execTempThresholdCross h tj s
  | .pwrSleep p v => Sys2Proof.Machine.execPwrSleep p v s
  | .s1IdleTimer => Sys2Proof.Machine.execS1IdleTimer s
  | .sleepEntryCheck => Sys2Proof.Machine.execSleepEntryCheck s
  | .sleepEntryComplete => Sys2Proof.Machine.execSleepEntryComplete s
  | .wake c => Sys2Proof.Machine.execWake c s
  | .sleepExitComplete => Sys2Proof.Machine.execSleepExitComplete s
  | .wakeNDriveEnd => Sys2Proof.Machine.execWakeNDriveEnd s
  | .tcMatch n => Sys2Proof.Machine.execTcMatch n s
  | .timeLoad p => Sys2Proof.Machine.execTimeLoad p s
  | .timeStep p => Sys2Proof.Machine.execTimeStep p s
  | .secondsRollover => Sys2Proof.Machine.execSecondsRollover s
  | .ppsInEdge highNs => Sys2Proof.Machine.execPpsInEdge highNs s
  | .ppsInLost => Sys2Proof.Machine.execPpsInLost s
  | .ptmDialogue => Sys2Proof.Machine.execPtmDialogue s
  | .servoPoll => Sys2Proof.Machine.execServoPoll s
  | .calibrationCapture => Sys2Proof.Machine.execCalibrationCapture s
  | .timeTsrPop p h => Sys2Proof.Machine.execTimeTsrPop p h s
  | .rindLost powerLost => Sys2Proof.Machine.execRindLost powerLost s
  | .erase p v => Sys2Proof.Machine.execErase p v s
  | .eraseComplete => Sys2Proof.Machine.execEraseComplete s
  | .imageWindowWrite p off data => Sys2Proof.Machine.execImageWindowWrite p off data s
  | .verify p v => Sys2Proof.Machine.execVerify p v s
  | .verifyComplete => Sys2Proof.Machine.execVerifyComplete s
  | .activate p v => Sys2Proof.Machine.execActivate p v s
  | .confirm p v => Sys2Proof.Machine.execConfirm p v s
  | .commit p v => Sys2Proof.Machine.execCommit p v s
  | .fuseKeySlot p k off hash => Sys2Proof.Machine.execFuseKeySlot p k off hash s
  | .revokeKeySlot p v => Sys2Proof.Machine.execRevokeKeySlot p v s
  | .bistStart p h blocks => Sys2Proof.Machine.execBistStart p h blocks s
  | .bistComplete h failed addr => Sys2Proof.Machine.execBistComplete h failed addr s
  | .tstStop p => Sys2Proof.Machine.execTstStop p s
  | .delayedCompletionRelease slot => Sys2Proof.Machine.execDelayedCompletionRelease slot s
  | .creditStarvationEnd slot => Sys2Proof.Machine.execCreditStarvationEnd slot s
  | .tapInstructionLoad h code => Sys2Proof.Machine.execTapInstructionLoad h code s
  | .trstNLow => Sys2Proof.Machine.execTrstNLow s
  | .thermtrip h => Sys2Proof.Machine.execThermtrip h s
  | .sysclkAbsent => Sys2Proof.Machine.execSysclkAbsent s
  | .clockCheck present => Sys2Proof.Machine.execClockCheck present s
  | .trainingFrameSent l lane => Sys2Proof.Machine.execTrainingFrameSent l lane s
  | .capabilityFrameSent l => Sys2Proof.Machine.execCapabilityFrameSent l s
  | .signalLoss n => Sys2Proof.Machine.execSignalLoss n s
  | .xoffTimeout l f => Sys2Proof.Machine.execXoffTimeout l f s
  | .ppsOutHighTimeEnd => Sys2Proof.Machine.execPpsOutHighTimeEnd s
  | .ptmResponse answer => Sys2Proof.Machine.execPtmResponse answer s
  | .hostLinkRateChange m rate width => Sys2Proof.Machine.execHostLinkRateChange m rate width s
  | .hostInitiatedExit m => Sys2Proof.Machine.execHostInitiatedExit m s
  | .d3hotExit m f => Sys2Proof.Machine.execD3hotExit m f s
  | .mirrorBudgetRefill m => Sys2Proof.Machine.execMirrorBudgetRefill m s

end Sys2Proof.Machine
end

