-- ==== Sys2Proof/Safety.lean ====
section
/-! DEFINITION. What the statements call a safe run and an enabled command: the block never stops, its
sparse tables keep their canonical form, and the conditions under which a register or object write
reaches its resource (R9, R92, R320, R358, R388). -/

namespace Sys2Proof.Machine

/-- A step that answers a next state: no fault, no refusal. -/
def answers (o : Out) : Prop := ∃ t, o = .next t

/-- S0, and no sleep entry asked for: an access wakes nothing (R388, R393). -/
def awake (s : State) : Prop := s.pwr.sleep = 0 ∧ s.pwr.request = none ∧ s.pwr.commit = false

/-- The path writes registers: a function's BAR0, or the steward (R9). -/
def regPath : Path → Bool
  | .reg _ _ | .steward _ => true
  | _ => false

/-- A privileged register of half `h` can be written over the path now (R92, R320, R427). -/
def regOpen (s : State) (p : Path) (h : Half) : Prop :=
  awake s ∧ regPath p = true ∧ pathLive s p = true ∧ inService s (pathHalf s p) = true ∧
  pathPriv s p = true ∧ pathReaches s p h = true

/-- The path writes objects: a mailbox, the field port or the steward (R9). -/
def objPath : Path → Bool
  | .reg _ _ => false
  | _ => true

/-- A privileged object of area `idx` that acts on half `h` can be written over the path now (R332, R358,
R427, R469). -/
def objOpen (s : State) (p : Path) (idx : Nat) (h : Half) : Prop :=
  awake s ∧ objPath p = true ∧ pathLive s p = true ∧ (half s (pathHalf s p)).stewardHalted = false ∧
  areaServed s (pathHalf s p) idx = true ∧ pathPriv s p = true ∧ pathReaches s p h = true ∧
  (half s h).role ≠ .orphaned

/-- A resource that has a register and an object can be written over the path now. -/
def wideOpen (s : State) (p : Path) (idx : Nat) (h : Half) : Prop :=
  match p with
  | .reg _ _ => regOpen s p h
  | _ => objOpen s p idx h

/-- Every table the state holds by resource number is in its canonical form. -/
def tablesWf (s : State) : Prop :=
  Tab.wf LaneSt.reset s.lanes = true ∧ Tab.wf LlSt.reset s.links = true ∧
  Tab.wf HlSt.reset s.host.hls = true ∧ Tab.wf FnSt.reset s.host.fns = true ∧
  Tab.wf MbxSt.reset s.host.mbx = true ∧ Tab.wf msixReset s.host.msix = true ∧
  Tab.wf false s.host.pba = true ∧ Tab.wf FlowSt.reset s.fab.flows = true ∧
  Tab.wf SemSt.reset s.brdg.sems = true ∧ Tab.wf MgSt.reset s.brdg.mgs = true ∧
  Tab.wf (0 : W64) s.brdg.store = true ∧ Tab.wf DqSt.reset s.brdg.dqs = true ∧
  Tab.wf SrcSt.reset s.evc.srcs = true ∧ Tab.wf EngSt.reset s.eng.engs = true ∧
  Tab.wf ClSt.reset s.eng.cls = true ∧ Tab.wf SvSt.reset s.eng.svs = true ∧
  Tab.wf 0 s.cnt = true

/-- Engine `e` can execute an instruction that may wait as `own` says: it runs in S0, no failed move's fault is
due, and the counter is aligned on memory it may read (R249, R255, R260). -/
def engReadyFor (s : State) (e : Nat) (own : EngWait → Bool) : Prop :=
  engCan s e own = true ∧ (if (eng s e).inFault then none else failedSlot (eng s e)) = none ∧
  (eng s e).pc.toNat % 4 = 0 ∧ (engRegion (eng s e).pc.toNat 4).isSome = true ∧
  engReserved e (eng s e).pc.toNat 4 = false

/-- Engine `e` can execute an instruction that waits for nothing. -/
def engReady (s : State) (e : Nat) : Prop := engReadyFor s e (· == .none)

/-- The instruction wrote register `rd` of engine `e` and went on: g0 discards the write and reads as zero,
every other register, every other field of the engine and everything else in the state stays (R244). -/
def wroteRd (s t : State) (e rd : Nat) (v : W64) : Prop :=
  (rd ≠ 0 → engReg t e rd = v) ∧ engReg t e 0 = 0 ∧ (∀ r, r ≠ rd → engReg t e r = engReg s e r) ∧
  eng t e = { eng s e with regs := (eng t e).regs, pc := (eng s e).pc + 4, waitFor := .none } ∧
  (∀ k, k ≠ e → eng t k = eng s k) ∧
  t = { s with eng := { s.eng with engs := t.eng.engs } }

/-- One byte of an engine's address space. -/
def engByte (s : State) (e a : Nat) : Byte := (engBytes s e a 1).headD 0

/-- Address `b` of engine `k` names the memory that address `a` of engine `e` names: the engine's own below
cluster memory, its cluster's above (Table 09.1). -/
def sameMem (e a k b : Nat) : Prop := if a < 0x10000 then k = e ∧ b < 0x10000 else k / 8 = e / 8 ∧ 0x10000 ≤ b

/-- `bs` stands at address `a` of engine `e`, and every other mapped byte of every engine reads as before. -/
def putBytes (s t : State) (e a : Nat) (bs : List Byte) : Prop :=
  (∀ i (h : i < bs.length), engByte t e (a + i) = bs[i]) ∧
  (∀ k b, (engRegion b 1).isSome = true → ¬ (sameMem e a k b ∧ a ≤ b ∧ b < a + bs.length) →
    engByte t k b = engByte s k b)

/-- The tables and the memories of engine `e` and its cluster are in canonical form, and the engine holds its
32 registers. -/
def engMemWf (s : State) (e : Nat) : Prop :=
  Tab.wf EngSt.reset s.eng.engs = true ∧ Tab.wf ClSt.reset s.eng.cls = true ∧ (eng s e).regs.length = 32 ∧
  Tab.wf (0 : Byte) (eng s e).mem = true ∧ Tab.wf (0 : Byte) (clus s (e / 8)).mem = true

/-- Nothing of the state but engines and clusters, and of engine `e` nothing but registers, counter, wait and
memory, differs; no other engine but for its cluster's memory. -/
def onlyEngine (s t : State) (e : Nat) : Prop :=
  t = { s with eng := { s.eng with engs := t.eng.engs, cls := t.eng.cls } } ∧
  eng t e = { eng s e with regs := (eng t e).regs, pc := (eng s e).pc + 4, waitFor := .none, mem := (eng t e).mem } ∧
  (∀ k, k ≠ e → eng t k = eng s k) ∧
  (∀ c, clus t c = { clus s c with mem := (clus t c).mem })

/-- The instruction went on at `pc` and changed nothing but the engine's counter. -/
def wentTo (s t : State) (e : Nat) (pc : W64) : Prop :=
  t = updEng s e fun g => { g with pc := pc, waitFor := .none }

/-- Every engine holds its 32 registers, and the memories of engines and clusters are in canonical form (R244,
R245). -/
def enginesWf (s : State) : Prop :=
  (∀ e, (eng s e).regs.length = 32 ∧ Tab.wf (0 : Byte) (eng s e).mem = true) ∧
  (∀ c, Tab.wf (0 : Byte) (clus s c).mem = true)

/-- What every step keeps: each table by resource number and each engine and cluster memory lists its entries in
rising order and none at its default, and an engine holds 32 registers. -/
def canonical (s : State) : Prop := tablesWf s ∧ enginesWf s

/-- The engine tables are in canonical form and engine `e` holds its 32 registers (R244). -/
def engWf (s : State) (e : Nat) : Prop := Tab.wf EngSt.reset s.eng.engs = true ∧ (eng s e).regs.length = 32

/-- One-time programmable fuses only ever gain: the security counter does not fall, a fused key slot keeps
its hash, a revoked slot stays revoked (R418 to R420, R431). -/
def fuseLe (a b : FuseSt) : Prop :=
  a.counter ≤ b.counter ∧ a.keys.length = b.keys.length ∧ a.revoked.length = b.revoked.length ∧
  (∀ k, a.keys.getD k [] ≠ [] → b.keys.getD k [] = a.keys.getD k []) ∧
  (∀ k, a.revoked.getD k false = true → b.revoked.getD k false = true)

/-! ## Packets of a local link -/

/-- The rows that receive a packet, each with its TYPE (R134). -/
def pktRows (l : LL) (p : Pkt) : List (Instr × Nat) :=
  [(.dalfelWrite l p, 1), (.dalfelRead l p, 2), (.dalfelCpl l p, 3), (.doorbell l p, 4), (.state l p, 5),
   (.atomic l p, 6), (.lockAcq l p, 7), (.lockRel l p, 8), (.capAnn l p, 9)]

/-- The link receives packets: Active, its half in service, nothing asleep or going to sleep (R386, R388). -/
def rxAble (s : State) (l : Nat) : Prop :=
  awake s ∧ linkActive s l = true ∧ ingressOn s (halfOfLink l) = true ∧ s3Commit s = false

/-- The packet's CRC is that of its header and payload, and nothing was received in error. -/
def rxGood (p : Pkt) : Prop := p.errored = false ∧ p.crc = pktCrc p

/-- How far ahead of the number expected next a packet is. -/
def rxAhead (s : State) (l : Nat) (p : Pkt) : Nat := (p.seq.toNat + 1024 - (link s l).rxSeq) % 1024

/-- The packet is the one expected next, and good. -/
def rxOpen (s : State) (l : Nat) (p : Pkt) : Prop := rxAble s l ∧ rxGood p ∧ rxAhead s l p = 0

/-- The state in which a packet has been received in order: the next number is expected, the packet is
counted, a NAK may be sent again; the 32nd unacknowledged packet is acknowledged (R141, R142). -/
def rxTook (s : State) (l : Nat) : State :=
  let s1 := bumpR (updLink s l fun x =>
    { x with rxSeq := (x.rxSeq + 1) % 1024, rxAcked := x.rxAcked + 1, nakSent := false }) (llReg l 0x018)
  if 32 ≤ (link s1 l).rxAcked then sendAck s1 l false else s1

/-- ... and has used its credit (R144). -/
def rxTaken (s : State) (l : Nat) (p : Pkt) : State := rxUnits (rxTook s l) l p

/-- A packet in order that no format rule, no miswiring and no containment turns away. -/
def rxClean (s : State) (l : Nat) (p : Pkt) : Prop :=
  rxOpen s l p ∧ isPing p = false ∧ malformed (isTether (rxTook s l) l) p = false ∧
  miswired (rxTaken s l p) l = false

/-- A request in order whose flow is enabled, runs from this link and is not dormant (R33). -/
def rxFlowed (s : State) (l : Nat) (p : Pkt) : Prop :=
  rxClean s l p ∧ p.typ ≠ 3 ∧ p.typ ≠ 9 ∧
  let u := rxTaken s l p
  isFrozen u (tetherName (rxTook s l) l) = false ∧ flowEn u (halfOfLink l) p.flow.toNat = true ∧
  (flowSrc u (halfOfLink l) p.flow.toNat == .link (tetherName u l)) = true ∧
  flowDormant u (halfOfLink l) p.flow.toNat = false

/-- The state in which such a request enters its flow: a class that is not the flow's is counted (R35), a
packet later than 500 ns after its XOFF is marked (R146), the flow's ingress is stamped. -/
def rxIn (s : State) (l : Nat) (p : Pkt) : State :=
  let u := rxTaken s l p
  stampIn (lateCheck (if p.cls.toNat ≠ flowCls u (halfOfLink l) p.flow.toNat then bumpR u (llReg l 0x030) else u) l p)
    (halfOfLink l) p.flow.toNat true p.seq.toNat

/-! ## Requests of a host -/

/-- The host link carries TLPs in S0. -/
def hostLive (s : State) (m : Nat) : Prop := awake s ∧ hlUp s m = true

/-- The function of a live host link exists and start-up is over: its configuration is served (R118, R425). -/
def hostServed (s : State) (n : Nat) : Prop := awake s ∧ cfgServed s n = true

/-- A memory request at `a` on link `m` hits the aperture of function `n` at `off`, and its partition has room
(R37, R100). -/
def hostAperture (s : State) (m a n off : Nat) (k : Kind) (len : Nat) (vc1 : Bool) : Prop :=
  hostLive s m ∧ startedUp s (halfOfHl m) = true ∧ hostDecode s m a = .aperture n off ∧
  tlpRoom s n off k len vc1 = true

/-- Sub-window `w` has translated a write: the hit and the class are counted, the flow's prefetched units are
dropped, the ingress is stamped (R40, R155, R171, R405). -/
def wrIn (s : State) (n w : Nat) (r : HostReq) : State :=
  let h := halfOfHl (n / 64)
  let s1 := countIn s n w
  let f := fld (inw s1 n w 1) 0 14
  stampIn (pfFlowWrite (vc1Count s1 r.vc1 (flowCls s1 h f)) f) h f false r.dlSeq.toNat

/-- ... a read, or an AtomicOp, whose flow's units stay until it passes. -/
def rdIn (s : State) (n w : Nat) (r : HostReq) : State :=
  let h := halfOfHl (n / 64)
  let s1 := countIn s n w
  let f := fld (inw s1 n w 1) 0 14
  stampIn (vc1Count s1 r.vc1 (flowCls s1 h f)) h f false r.dlSeq.toNat

/-! ## The dictionary's instances -/

/-- A device-wide object of area `idx` can be written over the path now, at the instance that serves it (R17,
R262, R332, R358). -/
def instOpen (s : State) (p : Path) (idx : Nat) : Prop :=
  let h := servHalf s (pathHalf s p)
  objOpen s p idx h ∧ (half s h).stewardHalted = false ∧ (half s (pathHalf s p)).role ≠ .orphaned

/-- An AG_ register of the path's half can be written now (R262, R320, R469). -/
def agOpen (s : State) (p : Path) : Prop := regOpen s p (pathHalf s p) ∧ wideServed s (pathHalf s p) = true

/-- A well-formed frame of `typ` for the device, outside a session, at a working field port (R350, R351). -/
def fieldOpen (s : State) (fr : FieldFrame) (typ : Nat) : Prop :=
  awake s ∧ fieldUp s = true ∧ notForUs s fr = false ∧ openSess s (pduSess fr.pdu) = none ∧ pduBad fr.pdu = 0 ∧
  pduTyp fr.pdu = typ

/-- A tagged frame of open session `x`, with the session's key and a sequence number not used before (R356). -/
def sessFresh (s : State) (fr : FieldFrame) (x : Sess) : Prop :=
  awake s ∧ fieldUp s = true ∧ notForUs s fr = false ∧ openSess s (pduSess fr.pdu) = some x ∧
  pduTagged fr.pdu = true ∧ 48 ≤ fr.pdu.length ∧
  Config.hmacSha256 x.ks (fr.pdu.take (fr.pdu.length - 32)) = fr.pdu.drop (fr.pdu.length - 32) ∧
  (x.seq = none ∨ x.seq.getD 0 < pduSeq fr.pdu) ∧ pduBad fr.pdu = 0

/-! ## Writes without privilege -/

/-- A register write over the path arrives, from a view that is not privileged (R92, R320). -/
def regShut (s : State) (p : Path) : Prop :=
  awake s ∧ regPath p = true ∧ pathLive s p = true ∧ inService s (pathHalf s p) = true ∧ pathPriv s p = false

/-- An object write over the path arrives, from a view that is not privileged (R347). -/
def objShut (s : State) (p : Path) (idx : Nat) : Prop :=
  awake s ∧ objPath p = true ∧ pathLive s p = true ∧ (half s (pathHalf s p)).stewardHalted = false ∧
  areaServed s (pathHalf s p) idx = true ∧ pathPriv s p = false

/-- `i` writes the privileged register at `off`; `v` and `c` are what is written. -/
def privRegRow (p : Path) (l : LL) (n : LaneNo) (m : HL) (f : Fn) (q : DQ) (e : SE) (h : Half) (v : Bool)
    (c : BitVec 14) (i : Instr) (off : Nat) : Prop :=
  (i = .lpForceDown p l v ∧ off = llReg l.val 0) ∨
  (i = .pingGo p l ∧ off = llReg l.val 0) ∨
  (i = .lpCntClr p l ∧ off = llReg l.val 0) ∨
  (i = .laneLoopSet p n (c.setWidth 3) ∧ off = laneReg n.val 0) ∨
  (i = .laneDfeFreeze p n v ∧ off = laneReg n.val 0) ∨
  (i = .lanePrbsGenSet p n (c.setWidth 2) ∧ off = laneReg n.val 0) ∨
  (i = .lanePrbsChkSet p n (c.setWidth 2) ∧ off = laneReg n.val 0) ∨
  (i = .lanePolForceSet p n v (c.getLsbD 0) (c.getLsbD 1) ∧ off = laneReg n.val 0) ∨
  (i = .laneCntClr p n ∧ off = laneReg n.val 0) ∨
  (i = .marginStart p n (c.setWidth 2) ∧ off = laneReg n.val 0x40) ∨
  (i = .winSlotFree p m f ∧ off = 0x880010 + 0x80 * (64 * m.val + f.val)) ∨
  (i = .flowDqRestart p q ∧ off = 0xC10024 + 0x40 * q.val) ∨
  (i = .flowSel p c ∧ off = 0xC00000) ∨
  (i = .seCntClr p e ∧ off = 0x1000000 + 0x100 * e.val) ∨
  (i = .seMemSel p (c.setWidth 8) ∧ off = 0x1100000) ∨
  (i = .evcDbell p h c ∧ off = 0x18C0000 + 0x100 * halfIdx h) ∨
  (i = .evcErecPop p h ∧ off = 0x18C0018 + 0x100 * halfIdx h) ∨
  (i = .errLlFreeze p l ∧ off = 0x1E10004 + 0x10 * l.val) ∨
  (i = .errLogPop p h ∧ off = 0x1E00120 + 0x40 * halfIdx h) ∨
  (i = .errCntClr p ∧ off = 0x1E00000) ∨
  (i = .timeLoad p ∧ off = 0x1C00120) ∨
  (i = .timeStep p ∧ off = 0x1C00120) ∨
  (i = .timeTsrPop p h ∧ off = 0x1C00210 + 0x40 * halfIdx h)

/-- `i` writes a resource that has the register at `off` and the object `idx`, `sub`. -/
def privBothRow (p : Path) (l : LL) (g : MG) (n : ES) (h : Half) (v : Bool) (c : BitVec 14) (i : Instr)
    (off idx sub : Nat) : Prop :=
  (i = .errLlRelease p l ∧ off = 0x1E10004 + 0x10 * l.val ∧ idx = 0x8002 ∧ sub = l.val + 1) ∨
  (i = .flowMgRestart p g ∧ off = 0xE10024 + 0x40 * g.val ∧ idx = 0x5C00 + g.val ∧ sub = 8) ∨
  (i = .evcSrcMask p n v ∧ off = 0x1880004 + 8 * n.val ∧ idx = 0x6D00 + n.val / 128 ∧ sub = n.val % 128 / 32 + 1) ∨
  (i = .pwrSleep p (c.setWidth 2) ∧ off = 0x1C00004 ∧ idx = 0x7001 ∧ sub = 1) ∨
  (i = .bistStart p h (c.setWidth 5) ∧ off = 0x1F00010 + 0x40 * halfIdx h ∧ idx = 0xA010 ∧ sub = hsub h) ∨
  (i = .tstStop p ∧ off = 0x1F00000 ∧ idx = 0xA020 ∧ sub = 1)

end Sys2Proof.Machine
end

