-- ==== Sys2Proof/Certificates/Slice0/Obligations.lean ====
section
/-! DEFINITION. The statements about the block, for the provers. -/

open Sys2Proof Sys2Proof.Machine

/-- CDR_LOCK: the lane recovers its clock (and a signal is found on it), nothing else changes. CDR_LOCK_LOSS
with no margin readout in progress: only the lane's clock is lost; with a readout in progress the readout
stops too: INVALID and DONE are set in the result and MRG_ABORT in the lane's events. ADAPTED on a lane with
its clock: the lane is adapted and, unless DFE_FREEZE holds the equalisers, takes the values given; with
DFE_FREEZE it keeps the present ones. In every clause no other lane and no other part of the state changes.
(R67, R69, R78, R129) -/
def Obligations.LaneClockRecoveryAndAdaptation : Prop :=
  (∀ (n : LaneNo) (s : State),
    exec (.cdrLock n) s = .next (updLane s n.val fun x => { x with cdr := true, sig := true })) ∧
  (∀ (n : LaneNo) (s : State), Tab.wf LaneSt.reset s.lanes = true → (lane s n.val).mrgBusy = false →
    exec (.cdrLockLoss n) s = .next (updLane s n.val fun x => { x with cdr := false })) ∧
  (∀ (n : LaneNo) (s : State), Tab.wf LaneSt.reset s.lanes = true → (lane s n.val).mrgBusy = true →
    exec (.cdrLockLoss n) s = .next (updLane (updLane s n.val fun x => { x with cdr := false }) n.val fun x =>
      { x with mrgBusy := false, mrgCtrl := x.mrgCtrl &&& 6, mrgRes := x.mrgRes ||| 0xC0000000#32,
               evt := x.evt ||| 0x40#32 })) ∧
  (∀ (n : LaneNo) (d0 d1 d2 : W32) (c : BitVec 5) (s : State), (lane s n.val).cdr = true →
    exec (.adapted n d0 d1 d2 c) s = .next (updLane s n.val fun x =>
      if bit x.ctrl 3 then { x with adapt := true }
      else { x with adapt := true, dfe0 := d0, dfe1 := d1, dfe2 := d2, ctle := c.toNat }))

/-- LANE_DETECT_STEP on a lane of a local sub-link in Detect, not holding electrical idle, with its reference
clock: PRESENT follows what the step finds; where every lane of the sub-link is then present and FORCE_DOWN
is 0, the sub-link enters Train at the generation of its next attempt, otherwise only the lane changes. On a
host lane whose link is not in service it sets PRESENT. PRBS_CHECK_DONE in Train on an adapted lane with no
more errors than the generation's limit (none at G1, 160 above) makes the lane RX_READY; with more it
changes nothing. SIGNAL_LOSS on a lane of a sub-link in Detect only loses the signal; in Train the attempt
fails; in Exchange it fails with DOWN reason 5. (R64, R69, R126, R129, R140) -/
def Obligations.LaneDetectionAndTrainingChecks : Prop :=
  (∀ (n : LaneNo) (found : Bool) (l : Nat) (s : State), n.val < 192 → laneLink s n.val = some l →
    (link s l).st = .detect → (link s l).idle = false → s.sys.lrefOk.getD (l / 48) true = true →
    let s1 := updLane s n.val fun x => { x with present := found }
    exec (.laneDetectStep n found) s =
      .next (if (lanesOf s1 l).all (fun k => (lane s1 k).present) && !(link s1 l).forceDown then
          updLink s1 l fun x => { x with st := .train, gen := attemptGen s1 l }
        else s1)) ∧
  (∀ (n : LaneNo) (found : Bool) (s : State), 192 ≤ n.val → portsOn s (halfOfLane s n.val) = true →
    (hl s (hlOfLane s n.val)).dlActive = false →
    exec (.laneDetectStep n found) s = .next (updLane s n.val fun x => { x with present := found })) ∧
  (∀ (n : LaneNo) (errors l : Nat) (s : State), laneLink s n.val = some l → (link s l).st = .train →
    (lane s n.val).adapt = true →
    exec (.prbsCheckDone n errors) s =
      .next (if errors ≤ (if (link s l).gen = 1 then 0 else 160) then
          updLane s n.val fun x => { x with rxReady := true }
        else s)) ∧
  (∀ (n : LaneNo) (l : Nat) (s : State), laneLink s n.val = some l →
    let s1 := updLane s n.val fun x => { x with sig := false }
    ((link s l).st = .detect → exec (.signalLoss n) s = .next s1) ∧
    ((link s l).st = .train → exec (.signalLoss n) s = .next (failTrain s1 l)) ∧
    ((link s l).st = .exchange → exec (.signalLoss n) s = .next (failAttempt s1 l (some 5) (some 5))))

/-- TRAIN_TIMEOUT in Train fails the attempt without DOWN blocks, with reason 1 at MIN_GEN and the present
reason above it; LOCK_TIMEOUT in Lock with reason 2 and EXCHANGE_TIMEOUT in Exchange with reason 3, both
after sending DOWN blocks. In a state whose link table is in canonical form, a failed attempt leaves the
sub-link in Detect holding electrical idle, with TRAIN_FAIL (bit 2) set among its events, the reason given
(or the one it had), and, when no sibling is past Train, the next lower generation as its next attempt's,
MAX_GEN below MIN_GEN. ELECTRICAL_IDLE_END in Detect ends the idle and nothing else. (R129, R140, R468) -/
def Obligations.FailedAttemptsStepTheGeneration : Prop :=
  (∀ (l : LL) (s : State), (link s l.val).st = .train → exec (.trainTimeout l) s =
    .next (failAttempt s l.val none (if (link s l.val).gen = minGen s l.val then some 1 else none))) ∧
  (∀ (l : LL) (s : State), (link s l.val).st = .lock →
    exec (.lockTimeout l) s = .next (failAttempt s l.val (some 2) (some 2))) ∧
  (∀ (l : LL) (s : State), (link s l.val).st = .exchange →
    exec (.exchangeTimeout l) s = .next (failAttempt s l.val (some 3) (some 3))) ∧
  (∀ (l : LL) (s : State) (downs reason : Option Nat), Tab.wf LlSt.reset s.links = true →
    let t := failAttempt s l.val downs reason
    (link t l.val).st = .detect ∧ (link t l.val).idle = true ∧ bit (link t l.val).evt 2 = true ∧
    (link t l.val).reason = reason.getD (link s l.val).reason ∧
    (siblingUp s l.val = false → (link t l.val).nextGen =
      if (link s l.val).gen ≤ minGen s l.val then maxGen s l.val else (link s l.val).gen - 1)) ∧
  (∀ (l : LL) (s : State), (link s l.val).st = .detect → exec (.electricalIdleEnd l) s =
    .next (updLink s l.val fun x => { x with idle := false }))

/-- TRAINING_FRAME on a lane of a sub-link in Train: an inverted pattern flips the lane's polarity unless
POL_FORCE holds it, and changes nothing else; a frame without marker, or whose status word's CHECK fails,
changes nothing; a valid status word of another generation fails the attempt; one of the attempt's
generation records READY for the lane and counts consecutive words with READY and ACK, a count that ends at
4. TRAINING_FRAME_SENT sends a word of READY, ACK and GEN over its complement; where the end is READY, has
ACK and its partner's part of the exit holds, it counts the frame, and with 16 such frames on every lane the
sub-link enters Lock; where they do not hold, sending is the whole effect. (R68, R127, R128, R129) -/
def Obligations.TrainingFramesExchangeReadyAndAck : Prop :=
  (∀ (l : LL) (i : Fin 4) (w : W64) (mk inverted : Bool) (s : State),
    laneLink s l.val = some l.val → (link s l.val).st = .train → i.val < linkLanes s l.val →
    (inverted = true → bit (lane s (l.val + i.val)).ctrl 8 = false →
      exec (.trainingFrame l i w mk inverted) s =
        .next (updLane s (l.val + i.val) fun x => { x with inv := !x.inv })) ∧
    (inverted = false → (mk = false ∨ statusValid w = false) →
      exec (.trainingFrame l i w mk inverted) s = .next s) ∧
    (inverted = false → mk = true → statusValid w = true → fld w 2 3 ≠ (link s l.val).gen →
      exec (.trainingFrame l i w mk inverted) s = .next (failTrain s l.val)) ∧
    (inverted = false → mk = true → statusValid w = true → fld w 2 3 = (link s l.val).gen →
      exec (.trainingFrame l i w mk inverted) s = .next (updLink s l.val fun x => { x with
        rdySeen := x.rdySeen.mapIdx fun j b => b || (j == i.val && bit w 0)
        rdyCount := x.rdyCount.mapIdx fun j c =>
          if j == i.val then (if 4 ≤ c then c else if bit w 0 && bit w 1 then c + 1 else 0) else c }))) ∧
  (∀ (l : LL) (i : Fin 4) (s : State),
    laneLink s l.val = some l.val → (link s l.val).st = .train → i.val < linkLanes s l.val →
    let low := flag (ownReady s l.val) 0 + flag (ownAck s l.val) 1 + (link s l.val).gen * 4
    let s1 := emit s (.training l.val i.val (BitVec.ofNat 64 (low + (65535 - low) * 65536)))
    ((ownReady s l.val && ownAck s l.val && partnerReady s l.val) = false →
      exec (.trainingFrameSent l i) s = .next s1) ∧
    ((ownReady s l.val && ownAck s l.val && partnerReady s l.val) = true →
      let s2 := updLink s1 l.val fun x =>
        { x with sentAck := setAt x.sentAck i.val (x.sentAck.getD i.val 0 + 1) }
      exec (.trainingFrameSent l i) s = .next
        (if (List.range (linkLanes s l.val)).all (fun j => decide (16 ≤ (link s2 l.val).sentAck.getD j 0)) then
          enterLock s2 l.val
        else s2)))

/-- CODEWORD_RECEIVE on a local lane whose sub-link is past Train under FEC: under lock a codeword without
uncorrectable symbols adds its corrected symbols and starts the run of bad ones again; an uncorrectable one
is counted, and the fourth in a row loses the lock with the FEC lock event (bit 0); hunting, the third good
codeword in a row gains the lock, an earlier one is counted, and an uncorrectable one starts the run again.
Nothing but the lane changes, unless a kind 3 slot damages the lane's codewords: it then counts the
codeword, and adds P1 symbols in error to every P2-th one, which is uncorrectable beyond what the code
corrects (7 symbols at G1, 15 above). (R61, R70, R79, R442) -/
def Obligations.CodewordLockCounts : Prop :=
  ∀ (n : LaneNo) (unc : Bool) (corr l : Nat) (s : State), n.val < 192 → laneLink s n.val = some l →
    pastTrain (link s l) = true → laneFec s n.val = true →
    let run (f : LaneSt → LaneSt) := codewordGot s n.val unc corr = updLane s n.val f
    let x := lane s n.val
    (damageSlot s n.val = none → exec (.codewordReceive n unc corr) s = .next (codewordGot s n.val unc corr)) ∧
    (∀ i, damageSlot s n.val = some i → let d := everyNth s i
      (d.1 = false → exec (.codewordReceive n unc corr) s = .next (codewordGot d.2 n.val unc corr)) ∧
      (d.1 = true → exec (.codewordReceive n unc corr) s = .next (codewordGot d.2 n.val
        (unc || decide ((if (link s (linkOfLane s n.val)).gen = 2 then 7 else 15) < corr + tpw s i 2))
        (corr + tpw s i 2)))) ∧
    (x.cwLock = true → unc = false → run fun _ =>
      { x with fecCorr := (x.fecCorr + corr) % 2 ^ 64, cwBad := 0 }) ∧
    (x.cwLock = true → unc = true → x.cwBad < 3 → run fun _ =>
      { x with fecUnc := (x.fecUnc + 1) % 2 ^ 64, cwBad := x.cwBad + 1 }) ∧
    (x.cwLock = true → unc = true → 3 ≤ x.cwBad → run fun _ =>
      { x with fecUnc := (x.fecUnc + 1) % 2 ^ 64, cwLock := false, cwGood := 0, cwBad := 0, evt := x.evt ||| 1 }) ∧
    (x.cwLock = false → unc = true → run fun _ => { x with cwGood := 0 }) ∧
    (x.cwLock = false → unc = false → 2 ≤ x.cwGood → run fun _ =>
      { x with cwLock := true, cwGood := 0, cwBad := 0 }) ∧
    (x.cwLock = false → unc = false → x.cwGood < 2 → run fun _ => { x with cwGood := x.cwGood + 1 })

/-- A block header: hunting, the 64th valid header in a row gains block lock, an earlier one is counted, an
invalid one starts the count again; under lock the 16th invalid header among the last 64 loses it with the
block lock event. BLOCK_RECEIVE of a data block on a lane whose codewords are good, with no buffer error,
and that does not lose the lock, applies the header to the lane and folds the content into BIP-8; nothing
else changes. ALIGN on a lane with block lock and alignment lock: the expected marker clears the misses; the
fourth miss in a row loses the lock with its event. Hunting, the second valid marker in a row with the same
index gains alignment lock, and deskew is tried; a first one is remembered with its index; an invalid one
starts again. BIP-8 starts afresh at each. (R70, R71, R72, R73, R74, R75) -/
def Obligations.BlockAndAlignmentLock : Prop :=
  (∀ x : LaneSt, x.blkLock = false →
    (x.blkGood < 63 → (blockHeader x true).1 = { x with blkGood := x.blkGood + 1 }) ∧
    (63 ≤ x.blkGood → (blockHeader x true).1 = { x with blkLock := true, blkGood := 0, blkWin := 0 }) ∧
    ((blockHeader x false).1 = { x with hdrErr := sat32 (x.hdrErr + 1), blkGood := 0 })) ∧
  (∀ x : LaneSt, x.blkLock = true → 16 ≤ ones64 ((x.blkWin * 2 + 1) % 2 ^ 64) →
    blockHeader x false = ({ x with hdrErr := sat32 (x.hdrErr + 1), blkLock := false, blkGood := 0, blkWin := 0,
                                    evt := x.evt ||| 2 }, true)) ∧
  (∀ (l : LL) (i : Fin 4) (c : W64) (s : State), laneLink s l.val = some l.val → pastTrain (link s l.val) = true →
    i.val < linkLanes s l.val →
    (laneFec s (l.val + i.val) = true → (lane s (l.val + i.val)).cwLock = true ∧ (lane s (l.val + i.val)).cwBad = 0) →
    (blockHeader (lane s (l.val + i.val)) true).2 = false →
    exec (.blockReceive l i 1 c false) s = .next (updLane s (l.val + i.val) fun _ =>
      let y := (blockHeader (lane s (l.val + i.val)) true).1
      { y with bip := y.bip ^^^ xorBytes c })) ∧
  (∀ (l : LL) (i : Fin 4) (c : W64) (skew : Nat) (s : State), laneLink s l.val = some l.val →
    pastTrain (link s l.val) = true → i.val < linkLanes s l.val → (lane s (l.val + i.val)).blkLock = true →
    let n := l.val + i.val
    let x := lane s n
    let ok := alignValid (widthCode s l.val) c
    let idx := fld c 12 2
    let y (e : Nat) : LaneSt := { x with bip := 0, bipErr := e, skew := skew }
    (x.aligned = true → ok = true → idx = x.logical → ∃ e, exec (.align l i c skew) s =
      .next (updLane s n fun _ => { y e with alnSeq := 0 })) ∧
    (x.aligned = true → ok = false → x.alnSeq < 3 → exec (.align l i c skew) s =
      .next (updLane s n fun _ => { y x.bipErr with alnSeq := x.alnSeq + 1 })) ∧
    (x.aligned = true → ok = false → 3 ≤ x.alnSeq → exec (.align l i c skew) s =
      .next (lockLost (updLane s n fun _ => { y x.bipErr with aligned := false, alnSeq := 0, evt := x.evt ||| 4 }) l.val)) ∧
    (x.aligned = false → ok = true → x.alnSeq = 1 → idx = x.logical → exec (.align l i c skew) s =
      .next (deskew (updLane s n fun _ => { y x.bipErr with aligned := true, alnSeq := 0 }) l.val)) ∧
    (x.aligned = false → ok = true → x.alnSeq = 0 → exec (.align l i c skew) s =
      .next (updLane s n fun _ => { y x.bipErr with alnSeq := 1, logical := idx })) ∧
    (x.aligned = false → ok = false → exec (.align l i c skew) s =
      .next (updLane s n fun _ => { y x.bipErr with alnSeq := 0 })))

/-- CAPF in Exchange: a frame whose CRC fails changes nothing; a good one that does not list the generation in
force, or names another width, fails the attempt with reason 4 and DOWN blocks; any other good one is kept
and its ACK noted. CAPABILITY_FRAME_SENT in Exchange sends the bridge's own frame; once a good frame and one
with ACK have come, each such sending is counted and the second enters Active. DOWN received in Active takes
the link out of Active with reason 7; in Lock or Exchange it fails the attempt with reason 7 and sends no
DOWN. BOND_LANE_MOVE_BACK of a flow at its idle point takes that flow's lane out of the lanes that still
hold their old member, and nothing else. (R129, R138, R139, R140, R150) -/
def Obligations.CapabilityExchangeEntersActive : Prop :=
  (∀ (l : LL) (f : List Byte) (s : State), laneLink s l.val = some l.val → (link s l.val).st = .exchange →
    (frameValid f = false → exec (.capf l f) s = .next s) ∧
    (frameValid f = true →
      let s1 := updLink s l.val fun x => { x with frame := f }
      let fits := (f.getD 2 0).toNat.testBit ((link s1 l.val).gen - 1) && (f.getD 3 0).toNat % 4 == widthCode s1 l.val
      (fits = true → exec (.capf l f) s = .next (updLink s1 l.val fun x =>
        { x with frameOk := true, ackFrame := x.ackFrame || (f.getD 1 0).getLsbD 7 })) ∧
      (fits = false → exec (.capf l f) s = .next (failAttempt s1 l.val (some 4) (some 4))))) ∧
  (∀ (l : LL) (s : State), laneLink s l.val = some l.val → (link s l.val).st = .exchange →
    let s1 := emit s (.block l.val (.capf (ownFrame s l.val)))
    let s2 := updLink s1 l.val fun x => { x with capSent := x.capSent + 1 }
    (((link s l.val).frameOk && (link s l.val).ackFrame) = false →
      exec (.capabilityFrameSent l) s = .next s1) ∧
    (((link s l.val).frameOk && (link s l.val).ackFrame) = true →
      exec (.capabilityFrameSent l) s = .next (if 2 ≤ (link s2 l.val).capSent then enterActive s2 l.val else s2))) ∧
  (∀ (l : LL) (r : BitVec 8) (s : State),
    ((link s l.val).st = .active → exec (.down l r) s = .next (leaveActive s l.val 7)) ∧
    ((link s l.val).st = .lock ∨ (link s l.val).st = .exchange →
      exec (.down l r) s = .next (failAttempt s l.val none (some 7)))) ∧
  (∀ (h : Half) (g : Fin 7) (f : FlowNo) (s : State), g.val ≠ 0 →
    let l := (((List.range 48).filter fun p => halfOfLp p == h && portBond s p == g.val && portTether s p).headD 0) * 4
    (busyLanes s l).contains (laneKey s h f.val) = false →
    let key := halfIdx h * 8 + g.val
    let b := Tab.get (([], []) : List Nat × List Nat) s.fab.bonds key
    let keep := (b.1.zip b.2).filter fun p => p.1 != laneKey s h f.val
    exec (.bondLaneMoveBack h g f) s = .next (updFab s fun x =>
      { x with bonds := Tab.set (([], []) : List Nat × List Nat) x.bonds key (keep.map (·.1), keep.map (·.2)) }))

/-- Over any open register path and in a state whose lane table is in canonical form: LANE_DFE_FREEZE writes bit
3, LANE_POL_FORCE_SET bits 10:8 (POL_FORCE, TX_INV, RX_INV), LANE_PRBS_GEN_SET bits 5:4 and
LANE_PRBS_CHK_SET bits 7:6 (outside RECOVERY, codes 0 to 2), and LANE_LOOP_SET an available loop code to
bits 2:0 on a lane without a sub-link in force. In each, every other bit of LANE_CTRL, every other field of
the lane, every other lane and every other part of the state stay, but for the dictionary, where a running
seal pass may have to start again. A loop other than none selected on a lane of a sub-link then takes that
sub-link out of Active with reason 8; a loop that is not available leaves LOOP_REFUSED (bit 5) among the
lane's events. LANE_CNT_CLR puts the lane's counters at 0 and changes nothing else. (R9, R67, R68, R77, R79,
R92, R374, R437) -/
def Obligations.LaneControlFieldsAreWrittenAlone : Prop :=
  (∀ (p : Path) (n : LaneNo) (s : State), regOpen s p (halfOfLane s n.val) → Tab.wf LaneSt.reset s.lanes = true →
    let wrote (i : Instr) (lo len v : Nat) : Prop := ∃ t, exec i s = .next t ∧
      (∀ k, bit (lane t n.val).ctrl k = if lo ≤ k ∧ k < lo + len then v.testBit (k - lo) else bit (lane s n.val).ctrl k) ∧
      lane t n.val = { lane s n.val with ctrl := (lane t n.val).ctrl } ∧
      (∀ k, k ≠ n.val → lane t k = lane s k) ∧
      t = { s with lanes := t.lanes, dict := t.dict, dictB := t.dictB }
    (∀ v, wrote (.laneDfeFreeze p n v) 3 1 (if v then 1 else 0)) ∧
    (∀ a b c, wrote (.lanePolForceSet p n a b c) 8 3 (flag a 0 + flag b 1 + flag c 2)) ∧
    (∀ v : BitVec 2, isRecovery s = false → v ≠ 3 → wrote (.lanePrbsGenSet p n v) 4 2 v.toNat) ∧
    (∀ v : BitVec 2, isRecovery s = false → v ≠ 3 → wrote (.lanePrbsChkSet p n v) 6 2 v.toNat) ∧
    (∀ v : BitVec 3, v.toNat < 4 → loopAllowed s n.val v.toNat = true → (v = 0 ∨ laneLink s n.val = none) →
      wrote (.laneLoopSet p n v) 0 3 v.toNat) ∧
    (∀ (v : BitVec 3) (l : Nat), v.toNat < 4 → loopAllowed s n.val v.toNat = true → v ≠ 0 → laneLink s n.val = some l →
      exec (.laneLoopSet p n v) s = .next (leaveActive (setCtrl s n.val 0 3 v.toNat) l 8)) ∧
    (∀ v : BitVec 3, 4 ≤ v.toNat → exec (.laneLoopSet p n v) s =
      .next (updLane s n.val fun x => { x with evt := x.evt ||| 0x20 })) ∧
    exec (.laneCntClr p n) s = .next (updLane s n.val fun x =>
      { x with fecCorr := 0, fecUnc := 0, hdrErr := 0, bipErr := 0, slips := 0, prbsErr := 0 }))

/-- MARGIN_START over an open register path on a lane without a readout starts one: BUSY with the eye in the
control register and DONE cleared; a write during a readout changes nothing. MARGIN_DONE ends the readout in
progress: BUSY and GO clear, the result holds LEFT in bits 5:0, RIGHT in 11:6, TOP in 18:12, BOTTOM in 25:19
and DONE in bit 31; without a readout it changes nothing. LANE_MARGINING_COMMAND of a host on a lane with a
readout stops it: INVALID and DONE set, MRG_ABORT (bit 6) among the events. Nothing but the lane changes.
(R78) -/
def Obligations.MarginReadoutRunsAndStops : Prop :=
  (∀ (p : Path) (n : LaneNo) (eye : BitVec 2) (s : State), regOpen s p (halfOfLane s n.val) →
    ((lane s n.val).mrgBusy = true → exec (.marginStart p n eye) s = .next s) ∧
    ((lane s n.val).mrgBusy = false → exec (.marginStart p n eye) s = .next (updLane s n.val fun x =>
      { x with mrgBusy := true, mrgCtrl := BitVec.ofNat 32 (1 + 2 * eye.toNat), mrgRes := x.mrgRes &&& 0x7FFFFFFF }))) ∧
  (∀ (n : LaneNo) (l r : BitVec 6) (a b : BitVec 7) (s : State),
    ((lane s n.val).mrgBusy = true → exec (.marginDone n l r a b) s = .next (updLane s n.val fun x =>
      { x with mrgBusy := false, mrgCtrl := x.mrgCtrl &&& 6,
               mrgRes := BitVec.ofNat 32 (l.toNat + r.toNat * 2 ^ 6 + a.toNat * 2 ^ 12 + b.toNat * 2 ^ 19 + 2 ^ 31) })) ∧
    ((lane s n.val).mrgBusy = false → exec (.marginDone n l r a b) s = .next s)) ∧
  (∀ (n : LaneNo) (s : State), 192 ≤ n.val → (lane s n.val).mrgBusy = true →
    exec (.laneMarginingCommand n) s = .next (updLane s n.val fun x =>
      { x with mrgBusy := false, mrgCtrl := x.mrgCtrl &&& 6, mrgRes := x.mrgRes ||| 0xC0000000,
               evt := x.evt ||| 0x40 }))

/-- In Active, an ACK whose SEQ names a packet sent and still in the replay buffer frees that packet and every
older one and keeps the rest in order; a NAK does the same and then everything left is sent again in order
behind one IDLE block, each packet counted as sent once more; after either, packets of the link layer that
waited for room leave (drainOwed). An ACK or NAK of a SEQ that has not been sent is ignored and counted as a
protocol error. ACK_DUE with packets received and not acknowledged sends an ACK block of the last SEQ
received and starts that count again. REPLAY_TIMER_EXPIRY with nothing to replay changes nothing; with a
packet already sent 8 times the link leaves Active with reason 6; otherwise everything unacknowledged is
sent again in order. (STATE packets acknowledged also count toward a downward pass, R201, so the clause on
freeing speaks of buffers that hold none among the freed.) (R141, R142) -/
def Obligations.AcknowledgementsFreeTheReplayBuffer : Prop :=
  (∀ (l : LL) (q : BitVec 10) (s : State) (a b : List Replay), layerOn s l.val = true → (link s l.val).replay = a ++ b →
    a ≠ [] → b.length ≤ 511 → (q.toNat + 1 + b.length) % 1024 = (link s l.val).txSeq % 1024 →
    (∀ r ∈ a, r.pkt.typ ≠ 5) →
    let t := updLink s l.val fun x => { x with replay := b, ackedSeq := (q.toNat + 1) % 1024 }
    exec (.ack l q) s = .next (drainOwed t l.val) ∧
    exec (.nak l q) s = .next (drainOwed (replayAll t l.val) l.val)) ∧
  (∀ (l : LL) (q : BitVec 10) (d : Nat) (s : State), layerOn s l.val = true → 1 ≤ d → d ≤ 511 →
    q.toNat = ((link s l.val).txSeq + 1023 + d) % 1024 →
    exec (.ack l q) s = .next (bumpR s (llReg l.val 0x028)) ∧
    exec (.nak l q) s = .next (bumpR s (llReg l.val 0x028))) ∧
  (∀ (l : LL) (s : State), layerOn s l.val = true → (link s l.val).rxAcked ≠ 0 →
    exec (.ackDue l) s = .next (emit (updLink s l.val fun x => { x with rxAcked := 0, nakSent := x.nakSent })
      (.block l.val (.ack false (((link s l.val).rxSeq + 1023) % 1024))))) ∧
  (∀ (l : LL) (s : State), layerOn s l.val = true →
    exec (.replayTimerExpiry l) s = .next (replayAll s l.val)) ∧
  (∀ (s : State) (l : Nat),
    ((link s l).replay = [] → replayAll s l = s) ∧
    ((link s l).replay ≠ [] → (link s l).replay.any (fun r => decide (8 ≤ r.tries)) = true →
      replayAll s l = leaveActive s l 6) ∧
    ((link s l).replay ≠ [] → (link s l).replay.any (fun r => decide (8 ≤ r.tries)) = false →
      (replayAll s l).out = s.out ++ .block l .idle :: (link s l).replay.map fun r => .packet l r.pkt))

/-- In Active: CREDIT takes the four LIMIT values of its kind and remembers the largest LIMIT minus CONSUMED;
CREDIT_REFRESH sends a CREDIT block of each kind; PAUSE on a tether puts the flow on hold (XOFF) or lets it
go (XON), and on a local-personality port is only counted; PAUSE_REFRESH sends XOFF again for a flow the
bridge holds; XOFF_TIMEOUT lets the flow go. Over an open register path: FORCE_DOWN = 1 on an Active link
takes it out of Active with reason 8 after setting the bit, on one in Detect only sets the bit; PING_GO with
room to send and nothing kept back takes a tag that is free now and sends a PING packet with it, remembering
tag and time; LP_CNT_CLR clears the link's counters and no other. (R136, R140, R144, R145, R146, R149, R152) -/
def Obligations.CreditPauseAndLinkControls : Prop :=
  (∀ (l : LL) (np : Bool) (c0 c1 c2 c3 : BitVec 12) (s : State), layerOn s l.val = true →
    let lim := [c0.toNat, c1.toNat, c2.toNat, c3.toNat]
    let most (old con : List Nat) := (List.range 4).map fun c =>
      max (old.getD c 0) ((lim.getD c 0 + 4096 - con.getD c 0) % 4096)
    exec (.credit l np c0 c1 c2 c3) s = .next (updLink s l.val fun x =>
      if np then { x with limNp := lim, maxNp := most x.maxNp x.conNp, gotNp := true }
      else { x with limP := lim, maxP := most x.maxP x.conP, gotP := true })) ∧
  (∀ (l : LL) (s : State), layerOn s l.val = true →
    exec (.creditRefresh l) s = .next (emit (emit s (.block l.val (.credit false (link s l.val).advP)))
      (.block l.val (.credit true (link s l.val).advNp)))) ∧
  (∀ (l : LL) (x : Bool) (f : FlowNo) (s : State), layerOn s l.val = true →
    (isTether s l.val = false → exec (.pause l x f) s = .next (bumpR s (llReg l.val 0x028))) ∧
    (isTether s l.val = true → exec (.pause l x f) s = .next (updLink s l.val fun y =>
      { y with paused := (y.paused.filter fun p => p.1 != f.val) ++ (if x then [(f.val, s.clk)] else []) })) ∧
    ((link s l.val).xoff.any (fun p => p.1 == f.val) = true →
      exec (.pauseRefresh l f) s = .next (emit s (.block l.val (.pause true f.val))))) ∧
  (∀ (l : LL) (f : FlowNo) (s : State), exec (.xoffTimeout l f) s = .next (updLink s l.val fun y =>
    { y with paused := y.paused.filter fun p => p.1 != f.val })) ∧
  (∀ (p : Path) (l : LL) (s : State), regOpen s p (halfOfLink l.val) → Tab.wf LlSt.reset s.links = true →
    let s1 := sealTouch (updLink s l.val fun x => { x with forceDown := true }) (halfOfLink l.val)
      ((link s l.val).forceDown != true)
    ((link s l.val).st = .active → exec (.lpForceDown p l true) s = .next (leaveActive s1 l.val 8)) ∧
    ((link s l.val).st = .detect → exec (.lpForceDown p l true) s = .next s1) ∧
    (layerOn s l.val = true → (link s l.val).replay.length < 256 → (link s l.val).owed = [] → ∀ tag s2,
      pickTag s (linkSide (tetherName s l.val)) (0, 4096, 4096) = (some tag, s2) →
      ∃ t, exec (.pingGo p l) s = .next t ∧ (link t l.val).ping = some (tag, s.clk) ∧
        ∃ pkt, t.out = s.out ++ [.packet l.val pkt] ∧ pkt.typ = 0 ∧ pkt.tag = BitVec.ofNat 12 tag) ∧
    exec (.lpCntClr p l) s = .next (clearCounts s (llCounters.map fun o => rkey (llReg l.val o))))

/-- Over an open path: ERR_LL_FREEZE on a link in RUN puts it in HELD with cause 5, raises LINK_FROZEN, sets
LINK_LOST in the functions that target it, logs the entry and counts it, and then drops what it can no
longer answer. FREEZE_TIMEOUT in HELD, in S0 or S1, puts the link in FROZEN, ends the held requests and
writes, and logs and raises FREEZE_TIMEOUT with how many; elsewhere it changes nothing. ERR_LL_RELEASE
(register or object) of a link held or frozen that is Active and, if PRESENT_SEEN, APPLIED: its old requests
end, it returns to RUN with PRESENT_SEEN, APPLIED and CAUSE cleared, the release is logged and raised, held
traffic proceeds; not Active it is refused with reason 1, present but not applied with reason 2.
ERR_WK_RELEASE on the manager of a lost worker that is reachable and applied returns it to RUN and logs it.
ERR_LOG_POP drops the oldest record of the half's log and nothing else. ERR_CNT_CLR clears the counters of
chapter 11 and nothing else. A write from an unprivileged view changes nothing but the count of denied
writes and the record of the last. (R309, R310, R312, R313, R317, R318, R320, R321) -/
def Obligations.ContainmentIsEnteredAndLeftByItsRules : Prop :=
  (∀ (p : Path) (l : LL) (s : State), regOpen s p (halfOfLink l.val) → onesModel s l.val = false →
    containOf s l.val = 1 →
    let h := halfOfLink l.val
    let s1 := updLink s l.val fun x => { x with contain := 2, cause := 5, present := false, applied := false }
    let s2 := raiseEv s1 h 19 l.val 5 0
    let s3 := forAll s2 (fnsTargeting s2 l.val) fun u n => fnEvent u n 5
    let s4 := bump (logC s3 h 0x10 l.val (detail := 5)) 0x8003 (l.val + 1)
    exec (.errLlFreeze p l) s = .next (semDropLink (dropLocked (dropAnswers (markOld s4 l.val) l.val) l.val) l.val)) ∧
  (∀ (l : LL) (s : State),
    ((containOf s l.val ≠ 2 ∨ 1 < s.pwr.sleep) → exec (.freezeTimeout l) s = .next s) ∧
    (containOf s l.val = 2 → s.pwr.sleep ≤ 1 →
      let h := halfOfLink l.val
      let np := (s.fab.txns.filter fun t => t.kind == .np && t.sink == .link l.val).length +
        (s.fab.tags.filter fun t => (t.side == linkSide l.val) && t.old && t.req != 0).length
      let ps := (s.fab.txns.filter fun t => t.kind == .p && t.sink == .link l.val).length
      let s1 := updLink s l.val fun x => { x with contain := 3 }
      let s2 := endAll s1 (fun t => t.kind != .cpl && t.sink == .link l.val) 2 fun u t => countFrozen u t.home t.kind
      exec (.freezeTimeout l) s = .next
        (raiseEv (logC (endOld s2 l.val) h 0x11 l.val (addr := np) (addr2 := ps)) h 20 l.val 0 (min np 65535)))) ∧
  (∀ (p : Path) (l : LL) (s : State),
    wideOpen s p 0x8002 (halfOfLink l.val) →
    (half s (halfOfLink l.val)).stewardHalted = false → isWorker s = false →
    ((link s l.val).contain = 2 ∨ (link s l.val).contain = 3) →
    let h := halfOfLink l.val
    (linkActive s l.val = false → exec (.errLlRelease p l) s = .next (releaseRefused s h l.val 1)) ∧
    (linkActive s l.val = true → (link s l.val).present = true → (link s l.val).applied = false →
      exec (.errLlRelease p l) s = .next (releaseRefused s h l.val 2)) ∧
    (linkActive s l.val = true → ((link s l.val).present = true → (link s l.val).applied = true) →
      exec (.errLlRelease p l) s = .next (settle (raiseEv (logC (updLink (endOld s l.val) l.val fun y =>
        { y with contain := 1, present := false, applied := false, cause := 0 }) h 0x12 l.val) h 21 l.val 0 0)))) ∧
  (∀ (p : Path) (d : Fin 16) (s : State), d.val ≠ 0 → isManager s = true →
    wideOpen s p 0x8005 (leadHalf s) → (worker s d.val).1 = 4 →
    reachable s d.val = true → (worker s d.val).2.2.1 = true →
    let s1 := updWorker s d.val fun _ => (1, false, false, false)
    exec (.errWkRelease p d) s = .next (logC
      (match workerTether s1 d.val with
        | some t => updLink s1 t fun x => { x with contain := 1, cause := 0 }
        | none => s1) (leadHalf s) 0x12 (0x100 + d.val))) ∧
  (∀ (p : Path) (s : State),
    (regOpen s p .a → exec (.errLogPop p .a) s = .next { s with err := { s.err with logA := s.err.logA.drop 1 } }) ∧
    (regOpen s p .b → exec (.errLogPop p .b) s = .next { s with err := { s.err with logB := s.err.logB.drop 1 } }) ∧
    (regOpen s p (pathHalf s p) → exec (.errCntClr p) s = .next (clearCounts s errCounters)) ∧
    (awake s → regPath p = true → pathLive s p = true → inService s (pathHalf s p) = true → pathPriv s p = false →
      exec (.errCntClr p) s = .next (updDict s (pathHalf s p) fun d =>
        { d with denied := min 0xFFFFFFFF (d.denied + 1), privLast := denyReg p 0x1E00000 })))

/-- On an engine that can execute, whose tables are in canonical form and which holds its 32 registers: ADD,
SUB, AND, OR, XOR, SLL, SRL, SRA, MUL, SLT, SLTU and HASH with fn 0, CRC with fn 1 to 8, ADDI, ANDI, ORI,
XORI, SLLI, SRLI, SRAI, LUI with rs1 0, and CSRR of a special register of the table with rs1 0, each write
to rd the value the instruction set gives (operands in rs1 and rs2, shift amounts the low 6 bits, immediates
sign-extended but in ANDI, ORI and XORI), and advance the counter by 4. A write of g0 is discarded. Every
other register of the engine, every other engine and everything else in the state stays. (R244, R247, R248,
R249, R259) -/
def Obligations.EngineRegisterInstructionsWriteTheirResult : Prop :=
  ∀ (e : SE) (x : BitVec 26) (s : State), engReady s e.val → engWf s e.val →
    let a := engReg s e.val (opB x)
    let b := engReg s e.val (opC x)
    let gives (i : Instr) (v : W64) : Prop := ∃ t, exec i s = .next t ∧ wroteRd s t e.val (opA x) v
    (opFn x = 0 →
      gives (.engAdd e x) (a + b) ∧ gives (.engSub e x) (a - b) ∧ gives (.engAnd e x) (a &&& b) ∧
      gives (.engOr e x) (a ||| b) ∧ gives (.engXor e x) (a ^^^ b) ∧
      gives (.engSll e x) (a <<< (b.toNat % 64)) ∧ gives (.engSrl e x) (a >>> (b.toNat % 64)) ∧
      gives (.engSra e x) (a.sshiftRight (b.toNat % 64)) ∧ gives (.engMul e x) (a * b) ∧
      gives (.engSlt e x) (if a.toInt < b.toInt then 1 else 0) ∧
      gives (.engSltu e x) (if a.toNat < b.toNat then 1 else 0) ∧
      gives (.engHash e x) (mix (a ^^^ b))) ∧
    (1 ≤ opFn x → opFn x ≤ 8 →
      gives (.engCrc e x) ((crcUpdate (a.setWidth 32) (bytesLE (opFn x) b.toNat)).setWidth 64)) ∧
    gives (.engAddi e x) (a + (x.setWidth 16).signExtend 64) ∧
    gives (.engAndi e x) (a &&& (x.setWidth 16).setWidth 64) ∧
    gives (.engOri e x) (a ||| (x.setWidth 16).setWidth 64) ∧
    gives (.engXori e x) (a ^^^ (x.setWidth 16).setWidth 64) ∧
    gives (.engSlli e x) (a <<< (x.toNat % 64)) ∧ gives (.engSrli e x) (a >>> (x.toNat % 64)) ∧
    gives (.engSrai e x) (a.sshiftRight (x.toNat % 64)) ∧
    (opB x = 0 → gives (.engLui e x) ((((x.setWidth 16).setWidth 32) <<< 16 : W32).signExtend 64)) ∧
    (∀ v, opB x = 0 → csrRead s e.val (opImm x) = some v → gives (.engCsrr e x) v)

/-- On an engine that can execute, whose tables are in canonical form and which holds its 32 registers: BEQ,
BNE, BLT and BGE (signed), BLTU and BGEU (unsigned) compare the registers their [25:21] and [20:16] fields
name and continue at the branch's own address plus 4 times the sign-extended off16 where the condition
holds, at the next instruction where it does not, changing nothing but the engine's counter. JAL puts the
address of the next instruction in rd and continues at its own address plus 4 times the sign-extended off21;
JALR puts it in rd and continues at rs1 plus the immediate with bits 1:0 cleared, rs1 read before rd is
written. (R244, R248, R249) -/
def Obligations.EngineBranchesAndJumps : Prop :=
  ∀ (e : SE) (x : BitVec 26) (s : State), engReady s e.val → engWf s e.val →
    let a := engReg s e.val (opA x)
    let b := engReg s e.val (opB x)
    let pc := (eng s e.val).pc
    let tgt := pc + ((x.setWidth 16).signExtend 64 : W64) * 4
    let goes (i : Instr) (c : Prop) [Decidable c] : Prop :=
      ∃ t, exec i s = .next t ∧ wentTo s t e.val (if c then tgt else pc + 4)
    let links (i : Instr) (target : W64) : Prop := ∃ t, exec i s = .next t ∧
      (eng t e.val).pc = target ∧ (opA x ≠ 0 → engReg t e.val (opA x) = pc + 4) ∧
      (∀ r, r ≠ opA x → engReg t e.val r = engReg s e.val r) ∧ (∀ k, k ≠ e.val → eng t k = eng s k) ∧
      t = { s with eng := { s.eng with engs := t.eng.engs } }
    goes (.engBeq e x) (a = b) ∧ goes (.engBne e x) (a ≠ b) ∧ goes (.engBlt e x) (a.toInt < b.toInt) ∧
    goes (.engBge e x) (b.toInt ≤ a.toInt) ∧ goes (.engBltu e x) (a.toNat < b.toNat) ∧
    goes (.engBgeu e x) (b.toNat ≤ a.toNat) ∧
    links (.engJal e x) (pc + ((x.setWidth 21).signExtend 64 : W64) * 4) ∧
    links (.engJalr e x) ((b + (x.setWidth 16).signExtend 64) &&& 0xFFFFFFFFFFFFFFFC#64)

/-- On an engine that can execute, with canonical tables and memories: the address of a load or store is rs1
plus the sign-extended immediate, of an atomic rs1. LD, LW, LH and LB of a clean access write the 8, 4, 2 or
1 little-endian bytes there, zero-extended, to rd and touch nothing else. SD, SW, SH and SB of an allowed
access put the low 8, 4, 2 or 1 bytes of the data register there; AADD, ASWP and ACAS with fn 0 (8 bytes) or
1 (4 bytes) put the sum, the operand, or, where the old value equals rd's, the operand there and the old
value in rd. Every other mapped byte of every engine's memory reads as before, every other register and
everything else in the state stays. A load, store or atomic whose address is not aligned to its size faults
ALIGN with the address, one outside the mapped regions faults ADDR. (R245, R246, R248, R249, R257, R260) -/
def Obligations.EngineLoadsStoresAndAtomicsReachTheirBytesOnly : Prop :=
  ∀ (e : SE) (x : BitVec 26) (s : State), engReady s e.val → engMemWf s e.val →
    let a := engReg s e.val (opB x) + (x.setWidth 16).signExtend 64
    let d := engReg s e.val (opA x)
    let bytes (n : Nat) (v : W64) := bytesLE n v.toNat
    let loads (i : MemEcc → Instr) (n : Nat) : Prop :=
      (accessFault e.val a.toNat n = none → ∃ t, exec (i .clean) s = .next t ∧
        wroteRd s t e.val (opA x) (BitVec.ofNat 64 (ofBytesLE (engBytes s e.val a.toNat n)))) ∧
      (a.toNat % n ≠ 0 → ∀ c, exec (i c) s = .next (engFault s e.val fAlign a)) ∧
      (a.toNat % n = 0 → engRegion a.toNat n = none → ∀ c, exec (i c) s = .next (engFault s e.val fAddr a))
    let stores (i : Instr) (n : Nat) : Prop :=
      (storeFault s e.val a.toNat n = none → ∃ t, exec i s = .next t ∧
        putBytes s t e.val a.toNat (bytes n d) ∧ onlyEngine s t e.val ∧ ∀ r, engReg t e.val r = engReg s e.val r) ∧
      (a.toNat % n ≠ 0 → exec i s = .next (engFault s e.val fAlign a)) ∧
      (a.toNat % n = 0 → engRegion a.toNat n = none → exec i s = .next (engFault s e.val fAddr a))
    let b := engReg s e.val (opB x)
    let atomics (i : Instr) (f : Nat → Nat → Nat → Nat) : Prop := ∀ n, (opFn x = 0 ∧ n = 8 ∨ opFn x = 1 ∧ n = 4) →
      let old := ofBytesLE (engBytes s e.val b.toNat n)
      let new := f old ((engReg s e.val (opC x)).toNat % 2 ^ (8 * n)) (d.toNat % 2 ^ (8 * n)) % 2 ^ (8 * n)
      (storeFault s e.val b.toNat n = none → ∃ t, exec i s = .next t ∧ putBytes s t e.val b.toNat (bytesLE n new) ∧
        onlyEngine s t e.val ∧ (opA x ≠ 0 → engReg t e.val (opA x) = BitVec.ofNat 64 old) ∧
        ∀ r, r ≠ opA x → engReg t e.val r = engReg s e.val r) ∧
      (b.toNat % n ≠ 0 → exec i s = .next (engFault s e.val fAlign b))
    loads (.engLd e x) 8 ∧ loads (.engLw e x) 4 ∧ loads (.engLh e x) 2 ∧ loads (.engLb e x) 1 ∧
    stores (.engSd e x) 8 ∧ stores (.engSw e x) 4 ∧ stores (.engSh e x) 2 ∧ stores (.engSb e x) 1 ∧
    atomics (.engAadd e x) (fun old v _ => old + v) ∧ atomics (.engAswp e x) (fun _ v _ => v) ∧
    atomics (.engAcas e x) (fun old v c => if old = c then v else old)

/-- On an engine that can execute: CSRW writes FVEC or FRET. WAIT goes on where a record waits and else idles
the engine. FENCE goes on when its condition is met and else waits for it; FENCE_COMPLETE ends that wait. A
reserved opcode faults ILLEGAL with its word, BREAK faults BREAK. A fault with a handler set and none in
progress writes FSTAT, FPC, FINFO, FRET (after the instruction for BREAK, else the instruction), sets
IN_FAULT and continues at FVEC. RETI in a fault clears IN_FAULT and continues at FRET; with a pending return
and no waiting offer it continues there. OFFER_ACCEPT of an engine with an offer and no pending return
pushes the source with its return address and continues at HANDLER; an edge source's count gives one. EOI of
the top of the stack pops it, keeps its return address as the pending return, and routes the source again;
EOI of another source is counted and faults STACK. (R247, R248, R249, R260, R285, R287, R288) -/
def Obligations.EngineFaultsInterruptsAndWaiting : Prop :=
  (∀ (e : SE) (x : BitVec 26) (s : State), engReady s e.val →
    let v := engReg s e.val (opB x)
    let r := half s (halfOfEng e.val)
    (opA x = 0 → opImm x = 3 → exec (.engCsrw e x) s =
      .next (engNext (updEng s e.val fun g => { g with fvec := v }) e.val)) ∧
    (opA x = 0 → opImm x = 7 → exec (.engCsrw e x) s =
      .next (engNext (updEng s e.val fun g => { g with fret := v }) e.val)) ∧
    (x = 0 → exec (.engWait e x) s = .next
      (if (eng s e.val).inbox.any (fun q => !q.popped) then engNext s e.val else enterWait s e.val)) ∧
    (opA x = 0 → opB x = 0 → opC x = 0 → opFn x < 4 → exec (.engFence e x) s = .next
      (if fenceMet s e.val ((opFn x).testBit 1) then engNext s e.val
       else updEng s e.val fun g => { g with waitFor := .fence ((opFn x).testBit 0) ((opFn x).testBit 1) })) ∧
    (x = 0 → exec (.engBreak e x) s = .next (engFault s e.val fBreak 0)) ∧
    (∀ w : W32, reservedOp (fld w 26 6) = true → exec (.reservedOpcode e w) s =
      .next (engFault s e.val fIllegal (w.setWidth 64))) ∧
    (x = 0 → (eng s e.val).inFault = true → exec (.engReti e x) s = .next
      (updEng s e.val fun g => { g with inFault := false, pc := g.fret })) ∧
    (∀ a, x = 0 → (eng s e.val).inFault = false → (eng s e.val).pendRet = some a → (eng s e.val).offer = none →
      exec (.engReti e x) s = .next (updEng s e.val fun g => { g with pendRet := none, pc := a })) ∧
    (∀ top rest, opA x = 0 → opC x = 0 → opFn x = 0 → (eng s e.val).stack = top :: rest →
      (eng s e.val).pendRet = none →
      (top.src = v.toNat % 16384 → exec (.engEoi e x) s = .next (srcRoute (srcLeave (engNext (updEng s e.val fun g =>
        { g with stack := rest, pendRet := some top.ret }) e.val) top.src) top.src (some e.val))) ∧
      (top.src ≠ v.toNat % 16384 → exec (.engEoi e x) s = .next (engFault (bump s 0x6C23 (hsub (halfOfEng e.val)))
        e.val fStack (BitVec.ofNat 64 (v.toNat % 16384)))))) ∧
  (∀ (e : SE) (m mv : Bool) (s : State), (eng s e.val).waitFor = .fence m mv → fenceMet s e.val mv = true →
    engUp s e.val = true → s.pwr.sleep = 0 → exec (.fenceComplete e) s = .next (engNext s e.val)) ∧
  (∀ (e : SE) (o : Offer) (s : State), (eng s e.val).offer = some o → (eng s e.val).pendRet = none →
    engUp s e.val = true → s.pwr.sleep = 0 → (engRegion o.handler.toNat 4).isSome = true →
    exec (.offerAccept e) s = .next (updEng (updSrc s o.src fun y =>
        { y with pos := .inService e.val, lastEng := e.val % 96 + 1,
                 count := if srcLevel s o.src then y.count else y.count - 1 }) e.val fun g =>
      { g with offer := none, pendRet := none, stack := ⟨o.src, o.pri, (eng s e.val).pc⟩ :: g.stack,
               pc := o.handler, st := .running, waitFor := .none })) ∧
  (∀ (e code : Nat) (info : W64) (s : State), Tab.wf EngSt.reset s.eng.engs = true → (eng s e).fvec ≠ 0 →
    (eng s e).inFault = false →
    let g := eng s e
    let t := engFault s e code info
    eng t e = { g with
      faults := (g.faults + 1) % 2 ^ 32, fstat := code, fpc := g.pc, finfo := info, waitFor := .none,
      st := if g.st = .waiting then .running else g.st,
      fret := if code = 10 then g.pc + 4 else g.pc, inFault := true, pc := g.fvec } ∧
    (∀ k, k ≠ e → eng t k = eng s k) ∧ t = { s with eng := { s.eng with engs := t.eng.engs } })

/-- On an engine that can execute: QPOP gives the address of the oldest record not popped and marks it popped,
or 0; QDONE of a popped record finishes it, of any other address faults QUEUE; REPLY with status OK of a
popped, unanswered READ answers it with the bytes the word names. MVR, MVW and MVA with a well-formed word,
a free slot and an allowed flow put the slot's number in rd and issue the move; without a free slot the
instruction waits. MOVE_COMPLETE of a move write ends its slot with OK; of a move read or atomic whose
completion has arrived with OK it writes the data at LADDR and frees the slot. MWAIT of a completed slot
without a kept status gives 0, with one it gives it and frees the slot. DBELL without the wait bit rings at
once. CTXR gives any word of a flow homed in the half; CTXW writes a service word, 48 to 63. (R251, R252,
R253, R254, R255, R256, R258) -/
def Obligations.EngineInboxMovesDoorbellsAndContexts : Prop :=
  (∀ (e : SE) (x : BitVec 26) (s : State), engReady s e.val →
    let a := engReg s e.val (opB x)
    let w := engReg s e.val (opC x)
    let g := eng s e.val
    (opB x = 0 → opC x = 0 → opFn x = 0 → exec (.engQpop e x) s = .next
      (match g.inbox.find? fun r => !r.popped with
       | none => engRd s e.val (opA x) 0
       | some r => engRd (updRec s e.val r.addr fun y => { y with popped := true }) e.val (opA x)
           (BitVec.ofNat 64 r.addr))) ∧
    (opA x = 0 → opC x = 0 → opFn x = 0 → exec (.engQdone e x) s = .next
      (match openRec g a with
       | none => engFault s e.val fQueue a
       | some r => engNext (finishRec s e.val r) e.val)) ∧
    (∀ r, opA x = 0 → opFn x = 0 → openRec g a = some r → (r.kind = 2 ∨ r.kind = 3) → r.replied = false →
      replyBad w r.want = false → engReserved e.val (rpLaddr w) (rpLen w) = false → r.req ≠ 0 → rpStatus w = 0 →
      let t := engNext (updRec s e.val r.addr fun y => { y with replied := true }) e.val
      exec (.engReply e x) s = .next
        (gotPart t r.req r.part (engBytes t e.val (rpLaddr w) (rpLen w)) false (halfOfEng e.val))) ∧
    (∀ i s1, opFn x = 0 → mvRsvd w = false → in4k a.toNat (mvLen w) = true → mvAop w = 0 → 1 ≤ mvLen w →
      mvLen w ≤ 4096 → engReserved e.val (mvLaddr w) (mvLen w) = false → pickSlot s e.val = (some i, s1) →
      let t := engRd s1 e.val (opA x) (BitVec.ofNat 64 i)
      moveAllowed t e.val (mvFlow w) = true →
      (destOk (mvLaddr w) (mvLen w) = true → exec (.engMvr e x) s =
        .next (moveReq t e.val i .read a.toNat (mvLen w) [] w)) ∧
      (rangeOk (mvLaddr w) (mvLen w) = true → exec (.engMvw e x) s = .next (moveWrite t e.val i a.toNat w)) ∧
      (mvLen w = 8 → destOk (mvLaddr w) 8 = true → a.toNat % 8 = 0 → exec (.engMva e x) s =
        .next (moveReq t e.val i (.atomic .fetchAdd) a.toNat 8 (engBytes t e.val (mvLaddr w) 8) w))) ∧
    (∀ s1, opFn x = 0 → mvRsvd w = false → in4k a.toNat (mvLen w) = true → mvAop w = 0 → mvLen w ≤ 4096 →
      destOk (mvLaddr w) (mvLen w) = true → engReserved e.val (mvLaddr w) (mvLen w) = false →
      pickSlot s e.val = (none, s1) → exec (.engMvr e x) s =
        .next (updEng s e.val fun y => { y with waitFor := .freeSlot })) ∧
    (opC x = 0 → opFn x = 0 → slotDone g (a.toNat % 16) = true → exec (.engMwait e x) s = .next
      (match g.slots.getD (a.toNat % 16) .free with
       | .kept st => engRd (setSlot s e.val (a.toNat % 16) .free) e.val (opA x) (BitVec.ofNat 64 st)
       | _ => engRd s e.val (opA x) 0)) ∧
    (opA x = 0 → opFn x = 0 → a.toNat ≤ 16383 → bit w 14 = false → exec (.engDbell e x) s =
      .next (doorbellAt (engNext s e.val) (halfOfEng e.val) a.toNat true)) ∧
    (let f := a.toNat % 16384
     let k := w.toNat % 64
     opFn x = 0 → flowHome s f = halfOfEng e.val →
     exec (.engCtxr e x) s = .next (engRd s e.val (opA x) ((flowWord s (halfOfEng e.val) f k).setWidth 64)) ∧
     (48 ≤ k → exec (.engCtxw e x) s = .next (engNext (updFlow s f fun y =>
       { y with words := Tab.set 0 y.words k ((engReg s e.val (opA x)).setWidth 32) }) e.val)))) ∧
  (∀ (e : SE) (i : Fin 16) (fl la : Nat) (nf : Bool) (s : State), engUp s e.val = true →
    ((eng s e.val).slots.getD i.val .free = .busy fl la nf true → exec (.moveComplete e i) s =
      .next (engWake (setSlot s e.val i.val .free) e.val)) ∧
    (∀ t m o k, (eng s e.val).slots.getD i.val .free = .busy fl la nf false → slotCpl s e.val i.val = some t →
      t.op = .cpl 0 m o k → exec (.moveComplete e i) s =
        .next (engWake (setSlot (engPut (dropTxn s t.id) e.val la t.data) e.val i.val .free) e.val)))

/-- At an idle point a flow that was never assigned takes its bucket's engine under the current epoch; one
assigned elsewhere moves there and the move is counted; a flow with work in flight, and one that already
stands right, stay. A waiting transaction of an assigned flow whose engine is in rotation is delivered as
one inbox record once the flow's ceiling allows it and the record fits; before that the deferral is counted
once in OD 0x6204, without room the stall in OD 0x6209. A waiting DQ_READY is delivered in the same way. A
drained cluster of a service whose target version differs from its own starts to load; at the same version
it stays. A load ends with every engine of the cluster running from the entry address with g1 to g3 as Table
09 has them and every other register 0, or, where the section's hash fails, with the cluster out and
SVC_HASH_FAIL. A halted engine's restart starts it in the same way, and anything but a halted engine is left
alone. (R251, R261, R263, R264, R265, R269, R270) -/
def Obligations.ServiceEventsFlowsAndClusters : Prop :=
  (∀ (f : FlowNo) (e : Nat) (s : State), let h := flowSvcHalf s f.val
    flowBucketEng s h f.val = some e →
    (flowBusy s f.val = true → exec (.flowIdlePoint f) s = .next s) ∧
    (flowBusy s f.val = false → (flowSt s f.val).assigned = none → exec (.flowIdlePoint f) s =
      .next (updFlow s f.val fun x => { x with assigned := some e, asgEpoch := curEpoch s h })) ∧
    (∀ a, flowBusy s f.val = false → (flowSt s f.val).assigned = some a → a ≠ e → exec (.flowIdlePoint f) s =
      .next (bump (updFlow s f.val fun x => { x with assigned := some e, asgEpoch := curEpoch s h }) 0x6203 (hsub h))) ∧
    ((flowSt s f.val).assigned = some e → (flowSt s f.val).asgEpoch = curEpoch s h →
      exec (.flowIdlePoint f) s = .next s)) ∧
  (∀ (f : FlowNo) (e v : Nat) (s : State), let h := flowSvcHalf s f.val
    carries s h = true → flowIdle s f.val = s → (flowSt s f.val).assigned = some e → flowSvc s h f.val = some v →
    engInRot s v e = true →
    (∀ t, nextEvent s f.val = some t →
      (s.eng.cyc < (flowSt s f.val).nextEv → exec (.serviceEventDeliver f) s = .next (seenOnce s f.val 1 0x6204 (hsub h))) ∧
      ((flowSt s f.val).nextEv ≤ s.eng.cyc → inboxPlace (eng s e) (recNeed t) = none →
        exec (.serviceEventDeliver f) s = .next (seenOnce s f.val 2 0x6209 (hsub h))) ∧
      (∀ off, (flowSt s f.val).nextEv ≤ s.eng.cyc → inboxPlace (eng s e) (recNeed t) = some off →
        exec (.serviceEventDeliver f) s = .next (
          let r := recOf s (halfOfEng e) t off
          let s1 := eventSent (recPut s e off r.1 r.2) t.flow e
          match t.op with
          | .write =>
            if t.data.length ≤ t.sent + pieceLen t then commitP s1 t
            else updTxn s1 t.id fun u => { u with sent := u.sent + pieceLen t }
          | _ => delivered (dropTxn s1 t.id) t))) ∧
    (∀ q off, nextEvent s f.val = none → readyDq s h f.val = some q → (flowSt s f.val).nextEv ≤ s.eng.cyc →
      inboxPlace (eng s e) 32 = some off → exec (.serviceEventDeliver f) s = .next (deliverDq s e off q f.val))) ∧
  (∀ (c : EC) (v : Nat) (p : Program) (s : State), drained s c.val = true →
    stewardUp s (if c.val < 12 then .a else .b) = true → s.pwr.sleep = 0 → svcOfCluster s c.val = some v →
    svcProgram s v = some p → exec (.clusterDrained c) s =
      .next (if p.ver = (clus s c.val).version then s else clusterLoad s c.val)) ∧
  (∀ (c : EC) (v : Nat) (p : Program) (s : State), (clus s c.val).loading = true →
    stewardUp s (if c.val < 12 then .a else .b) = true → s.pwr.sleep = 0 →
    let s1 := updClus s c.val fun x => { x with loading := false }
    svcOfCluster s1 c.val = some v → svcProgram s1 v = some p →
    exec (.clusterLoadComplete c) s = .next (
      if sectionOk (flash s1 (halfOfSvc v)) p.slot p.sec = true then
        svDeal (forAll (updClus s1 c.val fun x =>
            { x with mem := clusterMem s1 v c.val p, svc := v + 1, version := p.ver, loaded := true })
          (clusterEngs c.val) fun u e => engStart u v p e) v
      else svcHashFail (updClus (forAll s1 (clusterEngs c.val) fun u e =>
          updEng u e fun g => { g with loading := false, st := .notLoaded }) c.val fun x => { x with loaded := false })
        (halfOfSvc v))) ∧
  (∀ (v e : Nat) (p : Program) (s : State), Tab.wf EngSt.reset s.eng.engs = true →
    let g := eng (engStart s v p e) e
    g.st = .running ∧ g.pc = BitVec.ofNat 64 p.entry ∧ g.loading = false ∧ g.inbox = [] ∧ g.slots = List.replicate 16 .free ∧
    g.regs.length = 32 ∧
    (∀ i, g.regs.getD i 0 = if i = 1 then BitVec.ofNat 64 (e % 8) else if i = 2 then BitVec.ofNat 64 v
      else if i = 3 then BitVec.ofNat 64 p.ver else 0) ∧
    (∀ k, k ≠ e → eng (engStart s v p e) k = eng s k)) ∧
  (∀ (p : Path) (e : SE) (s : State), objOpen s p 0x6100 (halfOfEng e.val) →
    ((eng s e.val).st ≠ .halted → exec (.engineRestart p e) s = .next s) ∧
    (∀ v q, (eng s e.val).st = .halted → isSteward e.val = false → stewardUp s (halfOfEng e.val) = true →
      svcOfEng s e.val = some v → svcProgram s v = some q →
      exec (.engineRestart p e) s = .next (
        if sectionOk (flash s (halfOfSvc v)) q.slot q.sec = true then svDeal (engStart (engQuit s e.val) v q e.val) v
        else svcHashFail s (halfOfSvc v))))

/-- ENGINE_HOT_WINDOW judges each engine in rotation of every enabled service of the half against the service's
events, then starts a new window. An engine judged in a service with at least 10,000 events and more than
one engine gains a window when its share exceeds the threshold over the number of engines, raises ENGINE_HOT
once the dwell is reached and not before, and loses its episode in a window at or below. Over an open path
SE_CNT_CLR returns the engine's events and faults to 0 and changes nothing else; SE_MEM_SEL selects for the
path's half; a window write of an engine that is halted or whose cluster is drained stores its 4 bytes,
little-endian, at the word's address; of one that is neither, of a steward and of the steward's range it
stores nothing and is counted in OD 0x6201. (R266, R272, R320) -/
def Obligations.HotEnginesCountersAndTheMemoryWindow : Prop :=
  (∀ (h : Half) (s : State), carries s h = true → exec (.engineHotWindow h) s =
    .next (forAll s ((svcsOf h).filter (svcEn s)) fun u v =>
      updSvc (forAll u (svcEngines u v) fun t e => hotEngine t h (svcEngines u v).length (svc u v).winEv e) v
        fun x => { x with winEv := 0 })) ∧
  (∀ (h : Half) (n total e : Nat) (s : State), Tab.wf EngSt.reset s.eng.engs = true → 1 < n → 10000 ≤ total →
    let g := eng s e
    let t := hotEngine s h n total e
    (cfg s h 0x6042 1 * total < g.winEv * n * 100 →
      (eng t e).hotWin = g.hotWin + 1 ∧
      (eng t e).hot = (g.hot || decide (cfg s h 0x6042 2 ≤ g.hotWin + 1))) ∧
    (g.winEv * n * 100 ≤ cfg s h 0x6042 1 * total → eng t e = { g with
      hotWin := 0, hot := false, winEv := 0, share := g.winEv * n * 100 / total })) ∧
  (∀ (p : Path) (e : SE) (s : State), regOpen s p (halfOfEng e.val) →
    exec (.seCntClr p e) s = .next (updEng s e.val fun g => { g with events := 0, faults := 0 })) ∧
  (∀ (p : Path) (v : BitVec 8) (s : State), regOpen s p (pathHalf s p) →
    exec (.seMemSel p v) s = .next
      (if pathOwnB s p then { s with eng := { s.eng with memSelB := v.toNat } }
       else { s with eng := { s.eng with memSel := v.toNat } })) ∧
  (∀ (p : Path) (off : BitVec 21) (w : W32) (s : State), let e := memSelOf s p
    let a := off.toNat / 4 * 4
    regOpen s p (halfOfEng e) → e < 192 →
    ((isSteward e = true ∨ engReserved e a 4 = true ∨ ((eng s e).st ≠ .halted ∧ drained s (e / 8) = false)) →
      exec (.engineMemoryWindowWrite p off w) s = .next (bump s 0x6201 (hsub (halfOfEng e)))) ∧
    (isSteward e = false → engReserved e a 4 = false → ((eng s e).st = .halted ∨ drained s (e / 8) = true) →
      exec (.engineMemoryWindowWrite p off w) s =
        .next (if (engRegion a 4).isSome then engPut s e a (bytesLE 4 w.toNat) else s)))

/-- A doorbell of a function in its own half, admitted by the source's origin, and one with management origin
arrive at the source: an open, enabled edge source that is not dormant counts one more and stops at 255,
where OD 0x6C22 counts the loss; a disabled, dormant or level source, an internal one, and a crossing that
SPLIT or a dead die link forbids only count in OD 0x6C21. A pending source that goes first for the engine
chosen is offered at once where that engine is in WAIT or has no window, and is held otherwise; an engine
that holds no offer takes it with its priority and handler. At the end of a hold the source is chosen an
engine again and offered. Setting a mask bit withdraws an offer not yet accepted, counts the withdrawal and
keeps the counter; clearing it makes a source that calls for service pending from now. (R278, R279, R280,
R284, R285, R286, R302) -/
def Obligations.SourcesCountAreOfferedHeldAndMasked : Prop :=
  (∀ (p : Path) (h : Half) (n : BitVec 14) (s : State), regOpen s p h →
    exec (.evcDbell p h n) s = .next (doorbellAt s h n.toNat true)) ∧
  (∀ (m : HL) (f : Fn) (n : BitVec 14) (s : State), awake s → fnRegs s m.val f.val = true →
    exec (.evcFnDbell m f n) s = .next (doorbellAt s (halfOfHl ((64 * m.val + f.val) / 64)) n.toNat
      (if fld (sw s n.toNat 0) 8 2 = 2 then fld (sw s n.toNat 1) 0 10 == 64 * m.val + f.val
       else fld (sw s n.toNat 0) 8 2 == 3))) ∧
  (∀ (h : Half) (n : Nat) (adm : Bool) (s : State), Tab.wf SrcSt.reset s.evc.srcs = true →
    (halfOfSrc n ≠ h → dieUp s = false → doorbellAt s h n adm = bump s 0x6C21 (hsub h)) ∧
    (halfOfSrc n = h → (adm = false ∨ 8064 ≤ n % 8192 ∨ srcEn s n = false ∨ srcDormant s n = true ∨ srcLevel s n = true) →
      doorbellAt s h n adm = bump s 0x6C21 (hsub h)) ∧
    (halfOfSrc n = h → adm = true → n % 8192 < 8064 → srcEn s n = true → srcDormant s n = false →
      srcLevel s n = false → let t := doorbellAt s h n adm
      (src t n).count = (if (src s n).count = 255 then 255 else (src s n).count + 1) ∧
      (src t n).pos = (src s n).pos ∧ (src t n).masked = (src s n).masked ∧
      (∀ k, k ≠ n → src t k = src s k))) ∧
  (∀ (n : ES) (e : Nat) (s : State), (src s n.val).pos = .idle → srcPending s n.val = true →
    srcChoose s n.val = some e → srcFirst s n.val e = true →
    exec (.sourceOffer n) s = .next (if (eng s e).st = .waiting ∨ engWindow s e = 0 then offerTo s n.val e
      else updSrc s n.val fun x => { x with pos := .held e })) ∧
  (∀ (n e : Nat) (s : State), (eng s e).offer = none → offerTo s n e =
    updSrc (updEng s e fun g => { g with offer := some ⟨n, srcPri s n, (sw s n 3).setWidth 64⟩ }) n
      fun x => { x with pos := .offered e }) ∧
  (∀ (n : ES) (k : Nat) (s : State), (src s n.val).pos = .held k →
    let s1 := updSrc s n.val fun x => { x with pos := .idle }
    exec (.coalescingHoldEnd n) s = .next (match srcChoose s1 n.val with
      | some e => if srcPending s1 n.val then offerTo s1 n.val e else s1
      | none => s1)) ∧
  (∀ (p : Path) (n : ES) (s : State), wideOpen s p (0x6D00 + n.val / 128) (halfOfSrc n.val) →
    (∀ e, (src s n.val).pos = .offered e → exec (.evcSrcMask p n true) s = .next (bump (offerDrop
      (updSrc s n.val fun y => { y with masked := true }) e) 0x6C24 (hsub (halfOfSrc n.val)))) ∧
    ((src s n.val).pos = .idle → exec (.evcSrcMask p n true) s =
      .next (updSrc s n.val fun y => { y with masked := true })) ∧
    ((src s n.val).masked = true → srcWants s n.val = true → exec (.evcSrcMask p n false) s =
      .next (updSrc (updSrc s n.val fun y => { y with masked := false }) n.val fun y => { y with order := s.clk })))

/-- A host source that may form a message clears its counter, keeps the vector and the form chosen, and enters a
posted write of no payload in its flow; one that may not stays. At commit, where no earlier posted write
blocks it and the link is up: with the function's mastering off it is held in the function; with the form no
longer enabled it is discarded, the counter becomes 1 and the wire follows; under a masked vector the
pending bit sets and OD 0x6C26 counts; else it is sent and its group's hold-off starts. At the end of a
hold-off every source of the group that may forms its message; of a group not in hold-off nothing changes.
(R114, R293, R294, R295) -/
def Obligations.EventMessagesAreFormedAndCommitted : Prop :=
  (∀ (n : ES) (s : State),
    (mayForm s n.val = false → exec (.hostMessageForm n) s = .next s) ∧
    (mayForm s n.val = true →
      let v := 2 * srcVector s n.val + (if msixEn s (srcFnNow s n.val) then 1 else 0)
      let s1 := updSrc s n.val fun x => { x with count := 0, pos := .formed v }
      exec (.hostMessageForm n) s = .next (addTxn s1
        { flowTxn s1 (halfOfSrc n.val) (srcFlow s1 n.val) .p (.message n.val) 0 0 [] with size := 0, left := 0 }))) ∧
  (∀ (n : ES) (k : Nat) (t : Txn) (s : State), s.fab.txns.find? (fun t => t.op == .message n.val) = some t →
    (src s n.val).pos = .formed k → t.fenceOk = true → egressBlocked s t = false →
    (hl s (srcFnNow s n.val / 64)).dlActive = true →
    let s1 := dropTxn s t.id
    let f := srcFnNow s1 n.val
    let inForm := if k % 2 = 1 then msixEn s1 f else !msixEn s1 f && msiEn s1 f
    let idle (c : Nat) := updSrc s1 n.val fun x => { x with pos := .idle, count := c }
    let kept := updSrc s1 n.val fun x => { x with pos := .idle, count := x.count }
    (masterOn s1 f = false → exec (.hostMessageCommit n) s =
      .next (updFn s1 f fun x => { x with held := x.held ++ [(n.val + 1, k)] })) ∧
    (masterOn s1 f = true → inForm = false → exec (.hostMessageCommit n) s = .next (intxUpdate (idle 1) (f / 64))) ∧
    (masterOn s1 f = true → inForm = true → vecMasked s1 f (k / 2) = true → exec (.hostMessageCommit n) s =
      .next (bump (setPba kept f (k / 2) true) 0x6C26 (hsub (halfOfSrc n.val)))) ∧
    (masterOn s1 f = true → inForm = true → vecMasked s1 f (k / 2) = false → exec (.hostMessageCommit n) s =
      .next (startHoldoff (sendVec kept f (k / 2)) n.val))) ∧
  (∀ (g : SG) (s : State),
    (Tab.get false s.evc.hold g.val = false → exec (.holdoffEnd g) s = .next s) ∧
    (Tab.get false s.evc.hold g.val = true →
      let s1 := { s with evc := { s.evc with hold := Tab.set false s.evc.hold g.val false } }
      exec (.holdoffEnd g) s =
        .next (forAll s1 (groupSrcs s1 g.val) fun u n => if mayForm u n then formMessage u n else u)))

/-- Where a function's registers answer: a read of EVC_FN_CLAIM is completed with 4 bytes. They are 0 and claim
nothing while MSI or MSI-X is enabled and while no source holds a cause; an edge source's counter is
returned with the source and cleared, and the wire follows; a level source is marked claimed without a
change of the wire. EVC_FN_DONE ends the claim of a claimed source of that function and is ignored for any
other. A write of EVC_FN_EVT clears the bits written as 1 and the wire follows. A write of EVC_FN_EVT_EN
keeps bits 5:0 and signals the notify vector once where it enables a bit that is set. EVC_EREC_POP removes
the oldest event record of the half and nothing else. (R283, R296, R297, R298, R301) -/
def Obligations.FunctionEventRegistersClaimAndClear : Prop :=
  (∀ (m : HL) (f : Fn) (s : State), awake s → fnRegs s m.val f.val = true → (hl s m.val).dlActive = true →
    let n := 64 * m.val + f.val
    let answer (t : State) (v : Nat) (tag : BitVec 14) : State :=
      tlpOut t m.val (.cplData tag.toNat (bytesLE 4 v) 0 false false false)
    (∀ tag, (msixEn s n = true ∨ msiEn s n = true ∨ claimable s n = none) →
      exec (.evcFnClaim m f tag) s = .next (answer s 0 tag)) ∧
    (∀ tag k, msixEn s n = false → msiEn s n = false → claimable s n = some k →
      (srcLevel s k = false → exec (.evcFnClaim m f tag) s = .next (answer (intxUpdate (updSrc s k fun x =>
        { x with count := 0 }) (n / 64)) (k + 2 ^ 15 + (src s k).count * 2 ^ 16) tag)) ∧
      (srcLevel s k = true → exec (.evcFnClaim m f tag) s = .next (answer (updSrc s k fun x =>
        { x with pos := .claimed, vanished := false }) (k + 2 ^ 14 + 2 ^ 15) tag))) ∧
    (∀ k : BitVec 14, exec (.evcFnDone m f k) s = .next (
      if srcFnNow s k.toNat = n ∧ (src s k.toNat).pos = .claimed then
        intxUpdate (updSrc s k.toNat fun x => { x with pos := .idle, vanished := false }) (n / 64)
      else s)) ∧
    (∀ v : W32, exec (.evcFnEvt m f v) s =
      .next (intxUpdate (updFn s n fun x => { x with evt := x.evt &&& ~~~v }) (n / 64))) ∧
    (∀ v : W32, let s1 := updFn s n fun y => { y with evtEn := v &&& 0x3F#32 }
      exec (.evcFnEvtEn m f v) s = .next (intxUpdate
        (if v &&& 0x3F#32 &&& ~~~(fn s n).evtEn &&& (fn s n).evt = 0 then s1 else notify s1 n) (n / 64)))) ∧
  (∀ (p : Path) (s : State),
    (regOpen s p .a → exec (.evcErecPop p .a) s = .next { s with evc := { s.evc with recA := s.evc.recA.drop 1 } }) ∧
    (regOpen s p .b → exec (.evcErecPop p .b) s = .next { s with evc := { s.evc with recB := s.evc.recB.drop 1 } }))

/-- A low level shorter than 200 ns changes nothing. One of 1 us or more resets every block: lanes, links, host
side, fabric, engines, dictionary, counters, logs and the cave are as at reset and RESET_N reads low, while
the rind tick, the fuses and the flash keep their values. One between does either, which a free value
decides (log entry 1). At the rising edge both halves sample their straps; with a reserved mode or a DEVID
the mode forbids the device stays held and drives ALERT_N; with a latched trip and a sensor still hot it
stays held; else both starters begin. A rising edge without the low level changes nothing. (R2, R324, R412,
R413, R414, R463) -/
def Obligations.ResetPinAndTheStraps : Prop :=
  (∀ (n : Nat) (s : State),
    (n < 200 → exec (.resetNAssert n) s = .next s) ∧
    (1000 ≤ n → exec (.resetNAssert n) s = .next (resetAll s)) ∧
    (200 ≤ n → n < 1000 → let u := { s with freeCtr := s.freeCtr + 1 }
      exec (.resetNAssert n) s = .next (if Config.freeNat s.freeCtr % 2 = 0 then u else resetAll u))) ∧
  (∀ s : State, let t := resetAll s
    t.lanes = [] ∧ t.links = [] ∧ t.host = ⟨[], [], [], [], []⟩ ∧ t.fab = FabSt.reset ∧ t.eng = State.reset.eng ∧
    t.dict = DictSt.reset ∧ t.dictB = DictSt.reset ∧ t.cnt = [] ∧ t.err = State.reset.err ∧ t.evc = State.reset.evc ∧
    t.brdg = State.reset.brdg ∧ t.pwr.cave = CaveSt.reset ∧ t.sys.resetLow = true ∧ t.sys.a = HalfSt.reset ∧
    t.sys.b = HalfSt.reset ∧ t.time = { TimeSt.reset with tick := s.time.tick } ∧ t.nv.fuses = s.nv.fuses ∧
    t.nv.a = s.nv.a ∧ t.nv.b = s.nv.b ∧ t.pending = s.pending) ∧
  (∀ (sa sb : Straps) (s : State),
    (s.sys.resetLow = false → exec (.resetNRise sa sb) s = .next s) ∧
    (s.sys.resetLow = true →
      let s1 := updSys s fun y => { y with resetLow := false, straps := sa, strapsB := sb }
      let s2 := alertOff (updSys s1 fun y => { y with thermtrip := [false, false] }) 5
      let ok := s.sys.thermtrip.contains true = false ∨ (s.pwr.tjA < 460 ∧ s.pwr.tjB < 460)
      (¬ ok → exec (.resetNRise sa sb) s = .next (updSys s1 fun y => { y with heldBad := true })) ∧
      (ok → (strapsOk sa && strapsOk sb) = false →
        exec (.resetNRise sa sb) s = .next (alertOn (updSys s2 fun y => { y with heldBad := true }) 0)) ∧
      (ok → strapsOk sa = true → strapsOk sb = true → exec (.resetNRise sa sb) s = .next (startersGo (updNv
        (upInterrupted (upInterrupted s2 .a) .b) fun n => { n with up := UpSt.reset, upB := UpSt.reset })))))

/-- With both exchanges open: different MODE values, or outside SPLIT and RECOVERY different HALF_LEAD values,
leave both halves in LEAD_UNRESOLVED with the die link not up; in SPLIT both are split; in RECOVERY half A
leads; else the half that HALF_LEAD names leads, the other follows and takes the lead's slot, or with it the
starter service. A half alone at the 50 ms limit becomes LEAD_UNRESOLVED, in SPLIT starts alone with
DIE_LINK_DOWN, in RECOVERY goes on. A follower loads firmware once the lead has; a half of its own takes its
slot's firmware where it verifies. Start-up completes with the boot registers written: by the lead with its
record, brine, level and ROM shadow; by the follower after the lead, with the lead's RECORD; in the starter
service without one, with ALERT_N outside RECOVERY. (R326, R328, R329, R422, R423, R424, R427, R435) -/
def Obligations.RolesFirmwareAndCompletion : Prop :=
  (∀ s : State, exchOpen s .a = true → exchOpen s .b = true →
    let a := s.sys.straps
    let b := s.sys.strapsB
    (a.mode ≠ b.mode ∨ (isSplit s = false ∧ isRecovery s = false ∧ a.halfLead ≠ b.halfLead) →
      ∃ t, exec .tokenExchange s = .next t ∧ (half t .a).role = .unresolved ∧ (half t .b).role = .unresolved ∧
        (half t .a).exch = true ∧ (half t .b).exch = true ∧ (half t .a).dlUp = false ∧ (half t .b).dlUp = false) ∧
    (a.mode = b.mode → isSplit s = true → ∃ t, exec .tokenExchange s = .next t ∧
      (half t .a).role = .split ∧ (half t .b).role = .split ∧ (half t .a).dlUp = true ∧ (half t .b).dlUp = true) ∧
    (a.mode = b.mode → isSplit s = false → (isRecovery s = true ∨ a.halfLead = b.halfLead) →
      ∃ t, exec .tokenExchange s = .next t ∧ (half t .a).dlUp = true ∧ (half t .b).dlUp = true ∧
        (if isRecovery s = true ∨ a.halfLead = false then (half t .a).role = .lead ∧ (half t .b).role = .follower
         else (half t .b).role = .lead ∧ (half t .a).role = .follower) ∧
        (isRecovery s = false → a.halfLead = false → (half t .b).slot = if s.sys.a.slot < 2 then s.sys.a.slot else 3) ∧
        (isRecovery s = false → a.halfLead = true → (half t .a).slot = if s.sys.b.slot < 2 then s.sys.b.slot else 3))) ∧
  (∀ (h : Half) (s : State), exchOpen s h = true →
    (isSplit s = true → exec (.leadExchangeTimeout h) s = .next (raiseEv (updHalf s h fun x =>
      { x with role := .split, exch := true, dlUp := false, trained := false }) h 48 (halfIdx h) 3 0)) ∧
    (isSplit s = false → isRecovery s = true →
      exec (.leadExchangeTimeout h) s = .next (updHalf s h fun x => { x with exch := true })) ∧
    (isSplit s = false → isRecovery s = false → ∃ t, exec (.leadExchangeTimeout h) s = .next t ∧
      half t h = { half s h with role := .unresolved, exch := true, dlUp := false, trained := false } ∧
      half t (otherHalf h) = half s (otherHalf h))) ∧
  (∀ (h : Half) (s : State), s.sys.resetLow = false → s.sys.sysclkOk = true → (half s h).boot = .starter →
    (half s h).exch = true → (half s h).slot < 2 →
    ((half s h).role = .follower → ((half s (otherHalf h)).boot = .firmware ∨ (half s (otherHalf h)).boot = .complete) →
      exec (.firmwareLoaded h) s = .next (updHalf s h fun y =>
        { y with boot := .firmware, differ := y.differ || !typeOk (flash s h) y.slot 1 })) ∧
    ((half s h).role ≠ .follower → exec (.firmwareLoaded h) s = .next
      (if typeOk (flash s h) (half s h).slot 1 = true then updHalf s h fun x => { x with boot := .firmware }
       else firmwareOwn s h))) ∧
  (∀ (h : Half) (s : State), s.sys.resetLow = false → s.sys.sysclkOk = true → (half s h).exch = true →
    ((half s h).boot = .service → (half s h).role ≠ .starting → exec (.startupComplete h) s = .next
      (if isRecovery s then bootDoneNow s h .serviceUp 1 else alertOn (bootDoneNow s h .serviceUp 1) 6)) ∧
    ((half s h).boot = .firmware → (half s h).role = .follower → (half s (otherHalf h)).boot = .complete →
      exec (.startupComplete h) s = .next (bootDoneNow (romFill (brineStart s h (brine s h).down) h) h .complete
        ((half s (otherHalf h)).bootStat.toNat / 16 % 4))) ∧
    ((half s h).boot = .firmware → (half s h).role ≠ .follower →
      let r := applyRecord (updHalf s h fun x => { x with boot := .complete }) h
      let s1 := if h = rindHalf s then levelStart r.1 else r.1
      exec (.startupComplete h) s =
        .next (bootDoneNow (romFill (brineStart s1 h (brine s h).down) h) h .complete r.2))) ∧
  (∀ (h : Half) (boot : Boot) (r : Nat) (s : State), let x := half s h
    half (bootDoneNow s h boot r) h = { x with
      boot := boot, bootTime := (s.clk - x.bootClk) / 1250,
      bootStat := BitVec.ofNat 32 (x.slot % 4 + flag x.fallback 2 + flag x.differ 3 + r * 16 + flag (romCut s h) 6 + 256) })

/-- A half past its exchange with its die link trained sends a heartbeat in S0 and S1. Where the die link has an
up or down state, a heartbeat received is counted while it is down, and may bring it up; none for 1 ms takes
it down. A transfer's first CRC failure is remembered, a second of the same transfer takes the die link
down. A retraining attempt while the link is down starts the heartbeats anew. After 10 ms down the lead
raises FOLLOWER_LOST and a follower becomes orphaned with its links in RUN frozen; its release through the
lead, over a die link that is up, makes it a follower again and raises FOLLOWER_RELEASED, and a write of 0
or of a half that is not orphaned does nothing. A cell that waits on the die link arrives in its half. An
alignment pulse that finds the follower's time different corrects it and counts in OD 0x7400:1F. (R15, R27,
R326, R330, R331, R335) -/
def Obligations.DieLinkIsLostFoundAndTheFollowerOrphaned : Prop :=
  (∀ (h : Half) (s : State), (half s h).exch = true → (half s h).trained = true → s.pwr.sleep ≤ 1 →
    exec (.heartbeatSend h) s = .next (emit s (.dieLink (otherHalf h) 1 0))) ∧
  (∀ (h : Half) (s : State), dieStates s = true → (half s h).trained = true →
    ((half s h).dlUp = true → exec (.heartbeatReceive h) s =
      .next (dieTryUp (updHalf s h fun x => { x with hbClk := s.clk }))) ∧
    ((half s h).dlUp = false → exec (.heartbeatReceive h) s =
      .next (dieTryUp (updHalf s h fun x => { x with hbClk := s.clk, hbCount := x.hbCount + 1 }))) ∧
    exec (.heartbeatTimeout h) s = .next (dieDown s 2) ∧
    (∀ xfer, (half s h).crcFails = 0 → exec (.dieLinkCrcFail h xfer) s =
      .next (updHalf s h fun y => { y with crcFails := 1, crcXfer := xfer })) ∧
    (∀ xfer, (half s h).crcFails = 1 → (half s h).crcXfer = xfer →
      exec (.dieLinkCrcFail h xfer) s = .next (dieDown s 1))) ∧
  (∀ (h : Half) (ok : Bool) (s : State), (half s h).boot ≠ .reset → (half s h).dlUp = false →
    exec (.dieLinkRetrain h ok) s = .next (updHalf s h fun x =>
      { x with trained := ok, hbCount := 0, crcFails := 0, hbClk := if ok then s.clk else x.hbClk })) ∧
  (∀ s : State, isSplit s = false → dieStates s = true → s.sys.a.dlUp = false → s.sys.b.dlUp = false →
    s.sys.a.downClk ≠ none → (half s (otherHalf (leadHalf s))).role = .follower →
    exec .orphanTimeout s = .next (orphan (updHalf (raiseEv (bothHalves s fun x => { x with downClk := none })
      (leadHalf s) 51 (halfIdx (otherHalf (leadHalf s))) 0 0) (otherHalf (leadHalf s)) fun x => { x with freed := false })
      (otherHalf (leadHalf s)))) ∧
  (∀ (p : Path) (s : State), objOpen s p 0x9002 (servHalf s (pathHalf s p)) →
    let h := servHalf s (pathHalf s p)
    let f := otherHalf h
    exec (.followerRelease p false) s = .next s ∧
    ((half s h).stewardHalted = false → (half s h).role = .lead → isSplit s = false → dieUp s = true →
      exec (.followerRelease p true) s = .next (if (half s f).role = .orphaned then
        raiseEv (updHalf s f fun x => { x with role := .follower, freed := true }) h 52 (halfIdx f) 0 0 else s))) ∧
  (∀ (h : Half) (n : Nat) (c : Cell) (s : State), cell? s n = some c → c.half = h → c.place = .die → crossOk s = true →
    exec (.dieLinkCellArrive h n) s = .next (dieArrive s c (match cellTxn s c with
      | some t => (readyFor s h (outOf t.sink)).isEmpty && !pressBusy s h (outOf t.sink)
      | none => true))) ∧
  (∀ s : State, pulseCrosses s = true → s.time.folOff ≠ 0 →
    exec .timeAlignCheck s = .next (bump (updTime s fun t => { t with folOff := 0 }) 0x7400 0x1F))

/-- In a half that carries traffic a transaction that may leave its ingress buffer packs its next cell of at
most 256 bytes: it reaches its egress where the output is free and the cell may cut through; else it takes
the place its flow has in the vat; homed in the other half it goes onto the die link where that carries
cross-half flows, its output is free and the home half takes it; with no place its flow is held back. A vat
cell that is ready crosses to its egress when its output is free and stays otherwise. A calendar slot of an
output that sends nothing changes nothing; the owner's ready C0 cell of more than 128 bytes crosses in it,
unless the level is P3 or the flow's reservation is refused; a slot of an output that perturbation holds
busy only counts the acts. (R14, R16, R39, R52, R220, R222, R223, R442) -/
def Obligations.CellsLeaveTheIngressAndTheVat : Prop :=
  (∀ (h : Half) (id : Nat) (free : Bool) (t : Txn) (s : State), carries s h = true → txn? s id = some t →
    t.ihalf = h → mayLeave s t = true →
    let out := free && !pressBusy s t.home (outOf t.sink)
    let r := fillCell 256 s t 256
    (t.home = h → cutsThrough s t out = true →
      exec (.pressCellCross h id free .clean) s = .next (retryHalf (arriveBytes r.2 r.1) h)) ∧
    (∀ p, t.home = h → cutsThrough s t out = false → t.kind ≠ .cpl → holdPlace s t.home t.flow t.cls = some p →
      exec (.pressCellCross h id free .clean) s = .next (retryHalf (putCell r.2 t.home t r.1 p) h)) ∧
    (t.home = h → cutsThrough s t out = false → t.kind ≠ .cpl → holdPlace s t.home t.flow t.cls = none →
      exec (.pressCellCross h id free .clean) s = .next (retryHalf (cannotPlace s t) h)) ∧
    (t.home ≠ h → crossOk s = true → out = true → homeTakes s t = true →
      exec (.pressCellCross h id free .clean) s = .next (retryHalf (putCell r.2 t.home t r.1 .die) h)) ∧
    (t.home ≠ h → (crossOk s = false ∨ out = false) →
      exec (.pressCellCross h id free .clean) s = .next (retryHalf s h))) ∧
  (∀ (h : Half) (id : Nat) (free : Bool) (c : Cell) (t : Txn) (s : State), carries s h = true → txn? s id = none →
    cell? s id = some c → c.id = id → c.half = h → cellReady s c = true → cellTxn s c = some t →
    exec (.pressCellCross h id free .clean) s =
      .next (if free && !pressBusy s h (outOf t.sink) then crossVat s c else s)) ∧
  (∀ (h : Half) (port : PP) (owner : Option FlowNo) (s : State), carries s h = true →
    (sendsOut port.val = false → exec (.calendarSlot h port owner) s = .next s) ∧
    (sendsOut port.val = true → pressBusy s h port.val = true → exec (.calendarSlot h port owner) s =
      .next (forAll s ((span (8 * halfIdx h) 8).filter fun i => tpOn s i 2 && tpw s i 1 == port.val) tpAct)) ∧
    (sendsOut port.val = true → pressBusy s h port.val = false → readyFor s h port.val = [] →
      exec (.calendarSlot h port owner) s = .next s) ∧
    (∀ f c, sendsOut port.val = true → pressBusy s h port.val = false → owner = some f →
      contended s (readyFor s h port.val) = false → s.pwr.level ≠ 3 → (flowSt s f.val).refused = false →
      ((readyFor s h port.val).find? fun (x : Cell) => x.flow == f.val && x.cls == 0) = some c → 128 < c.bytes →
      exec (.calendarSlot h port owner) s = .next (crossVat s c)))

/-- A request without completion space takes one header and one data entry for every started 64 bytes, at least
one, once its half has room, for all its transactions; an acquire then leaves the ingress buffer and reaches
its semaphore. A fenced transaction is released when no earlier one of its source end and egress is in the
device, and waits otherwise. A link's doorbell leaves once its flow's earlier posted writes are committed
and arrives with the link as origin; an engine's once its own earlier writes of the flow are. A published
word enters its mirror group's store, or is counted in OD 0x5E08 where no group maps it. A zero-length read
toward a link completes with four zero bytes once every earlier posted write of its function for the link is
acknowledged. (R38, R45, R47, R55, R185, R197, R278, R280) -/
def Obligations.WaitingTransactionsGoOnInTheirTurn : Prop :=
  (∀ (id : Nat) (t : Txn) (r : Req) (s : State), txn? s id = some t → req? s t.req = some r → t.reserved = false →
    cplRoom s r.half r.dir r.cls r.len = true → t.op ≠ .lockAcq → t.kind = .np →
    let n := max 1 (units r.len)
    ∃ u, exec (.cplSpaceReserved id) s = .next u ∧
      (∀ q, req? u r.id = some q → q.resHdr = n ∧ q.resData = n) ∧ (txn? u id).map (·.reserved) = some true ∧
      u = { s with fab := { s.fab with reqs := u.fab.reqs, txns := u.fab.txns } }) ∧
  (∀ (id l : Nat) (t : Txn) (s : State), txn? (reserve s id) id = some t → t.op = .lockAcq → t.src = .link l →
    t.reserved = true →
    exec (.cplSpaceReserved id) s = .next (semArrive (leftIngress (dropTxn (reserve s id) id) t) t.addr l t.req)) ∧
  (∀ (id : Nat) (t : Txn) (s : State), txn? s id = some t → t.fence = true →
    (fenceWaits s t = true → exec (.fenceRelease id) s = .next s) ∧
    (fenceWaits s t = false →
      exec (.fenceRelease id) s = .next (settle (updTxn s id fun u => { u with fenceOk := true })))) ∧
  (∀ (id n l : Nat) (t : Txn) (s : State), txn? s id = some t → t.op = .doorbell n → t.src = .link l →
    (flowWritesDone s t = false → exec (.flowDoorbellRaise id) s = .next s) ∧
    (flowWritesDone s t = true → let s1 := leftIngress (dropTxn s id) t
      exec (.flowDoorbellRaise id) s = .next (doorbellAt s1 t.ihalf n (linkAdmitted s1 n l)))) ∧
  (∀ (id n e : Nat) (t : Txn) (s : State), txn? s id = some t → t.op = .doorbell n → t.src = .eng e →
    exec (.flowDoorbellRaise id) s = .next (if (before s id).any (fun u => u.flow == t.flow && engWrote u e) then s
      else doorbellAt (dropTxn s id) t.ihalf n true)) ∧
  (∀ (id w l : Nat) (t : Txn) (s : State), txn? s id = some t → t.op = .state w → t.src = .link l →
    flowWritesDone s t = true → let s1 := leftIngress (dropTxn s id) t
    (mgOfWord s1 l w = none → exec (.stateValueCommit id) s = .next (bump s1 0x5E08 (hsub t.ihalf))) ∧
    (∀ g, mgOfWord s1 l w = some g → exec (.stateValueCommit id) s =
      .next (storeIn s1 g w (BitVec.ofNat 64 (ofBytesLE (t.data.take 8)))))) ∧
  (∀ (id n l : Nat) (t : Txn) (s : State), txn? s id = some t → t.mark = .zeroRead n → t.sink = .link l →
    t.reserved = true →
    (unacked s n l id = true → exec (.zeroLenReadFlush id) s = .next s) ∧
    (unacked s n l id = false → exec (.zeroLenReadFlush id) s =
      .next (gotPart (dropTxn s id) t.req t.part [0, 0, 0, 0] false t.home)))

/-- A shaped flow's first transaction with payload not yet released is released when TOKENS, refilled at RATE
and capped at BURST, is at least its payload, or when it exceeds BURST and TOKENS equals BURST; TOKENS falls
by the payload, below zero where it must; else the refill alone is kept. On a link whose shaper is in place
a packet that may start leaves when the refilled shaper holds its on-link length and no C0 packet could go
first, spending that length, and otherwise the flow waits for capacity; on a link without one it leaves as
soon as it may start, and changes nothing before. A packet that asks for more credit than the partner ever
showed sets CREDIT_SHORT in LP_LINK_EVT. (R141, R144, R145, R219, R229, R230) -/
def Obligations.ShapersReleaseAgainstTheirTokens : Prop :=
  (∀ (f : FlowNo) (t : Txn) (s : State),
    (s.fab.txns.find? fun t => t.flow == f.val && !t.released && t.kind != .cpl && payLen t != 0) = some t →
    shaped s t.home f.val = true →
    let x := refilled s t.home f.val
    exec (.shaperRelease f) s = .next (
      if (payLen t : Int) ≤ x.tokens ∨ (flowBurst s t.home f.val < payLen t ∧ x.tokens = (flowBurst s t.home f.val : Int)) then
        updTxn (updFlow s f.val fun _ => { x with tokens := x.tokens - (payLen t : Int) }) t.id
          fun u => { u with released := true }
      else updFlow s f.val fun _ => x)) ∧
  (∀ (h : Half) (f : Nat) (s : State), let x := flowSt s f
    let acc := x.frac + (s.clk - x.tokClk) * flowRate s h f
    refilled s h f = { x with
      tokens := min (x.tokens + (acc / 10000 : Nat)) (flowBurst s h f : Nat), frac := acc % 10000, tokClk := s.clk }) ∧
  (∀ (l : LL) (id : Nat) (t : Txn) (s : State), txn? s id = some t → carries s (halfOfLink l.val) = true →
    gateTxn s t = none → (link s l.val).shTok ≠ none → mayStart s l.val t = true →
    let x := shRefill s (link s l.val)
    let cost := onLink (match t.op with | .read => 0 | _ => nextLen s l.val t)
    let tok := x.shTok.getD 0
    let ahead := t.cls ≠ 0 ∧ (s.fab.txns.any fun u => u.cls == 0 && mayStart s l.val u) = true
    ((cost : Int) ≤ tok → ¬ ahead → exec (.linkShaperPacketStart l id) s = .next (startPacket
      (updFlow (updLink s l.val fun _ => { x with shTok := some (tok - (cost : Int)) }) t.flow
        fun y => { y with capHeld := false }) l.val t)) ∧
    ((tok < (cost : Int) ∨ ahead) → exec (.linkShaperPacketStart l id) s =
      .next (updFlow (updLink s l.val fun _ => x) t.flow fun y => { y with capHeld := true }))) ∧
  (∀ (l : LL) (id : Nat) (t : Txn) (s : State), txn? s id = some t → carries s (halfOfLink l.val) = true →
    gateTxn s t = none → (link s l.val).shTok = none →
    exec (.egressPacketStart l id) s = .next (if mayStart s l.val t then startPacket s l.val t else s)) ∧
  (∀ (l : LL) (id : Nat) (t : Txn) (a : Nat) (s : State), txn? s id = some t → t.sink = .link a →
    (bondMembers s a).contains l.val = true → linkActive s l.val = true →
    let c := pktCost (pktOf t (nextLen s l.val t) 0).typ.toNat (nextLen s l.val t)
    (c.1 = some .p → (link s l.val).maxP.getD t.cls 0 < c.2 → exec (.creditWaitTimeout l id) s =
      .next (updLink s l.val fun y => { y with evt := y.evt ||| 0x40 })) ∧
    (c.1 = some .np → (link s l.val).maxNp.getD t.cls 0 < c.2 → exec (.creditWaitTimeout l id) s =
      .next (updLink s l.val fun y => { y with evt := y.evt ||| 0x40 })))

/-- The flow's oldest tail cell is written, while the brine is up and below BRINE_CEIL, to the channel that the
current epoch's key selects for the flow and its sequence number, which then advances; a full channel is
counted in OD 0x5702 and holds the flow back. The oldest segment returns to the vat head while that is less
than REFILL deep; the tail joins the head once the brine part is empty. A monitor window judges eight
channels and starts anew; a channel's window below or at the threshold ends its episode, one above counts,
in a window that carried enough. Training that ends well makes the half's brine ready; one that fails raises
BRINE_FAIL for the channel and ends what the segments held. A tracking pass changes nothing. (R223, R224,
R225, R227, R240, R241) -/
def Obligations.BrineSegmentsMonitorsAndTraining : Prop :=
  (∀ (f : FlowNo) (c : Cell) (s : State), tailCell s f.val = some c → carries s c.half = true →
    brineUp s c.half = true → brineOcc s c.half f.val < flowBrineCeil s c.half f.val →
    let h := c.half
    let ep := cfg s h 0x5605 (hsub h) % 2
    let seq := (flowSt s f.val).bseq
    let ch := brineChannel (brineKey s h ep) (BitVec.ofNat 32 f.val) (BitVec.ofNat 32 seq)
    (chanUsed s h ch < brineSegs s h → exec (.brineSegmentWrite f) s = .next (brineMoved
      (updFlow (moveCell s c.id (.brine ch ep seq)) f.val fun x =>
        { x with bseq := (x.bseq + 1) % 2 ^ 32, epoch := ep == 1 }) h ch)) ∧
    (∀ t, brineSegs s h ≤ chanUsed s h ch → cellTxn (bump s 0x5702 (hsub h)) c = some t →
      exec (.brineSegmentWrite f) s = .next (holdBack (bump s 0x5702 (hsub h)) t))) ∧
  (∀ (f : FlowNo) (c : Cell) (ch ep seq : Nat) (s : State), brineCell s f.val = some c → c.place = .brine ch ep seq →
    carries s c.half = true → (brine s c.half).trained = true →
    (flowRefill s c.half f.val ≤ headOcc s c.half f.val → exec (.brineSegmentRead f .clean) s = .next s) ∧
    (headOcc s c.half f.val < flowRefill s c.half f.val → exec (.brineSegmentRead f .clean) s = .next (tryLetGo
      (tailJoins (brineMoved (moveCell s c.id .head) c.half ch) c.half f.val) c.half f.val c.cls))) ∧
  (∀ (h : Half) (s : State), carries s h = true → exec (.brineMonitorWindow h) s =
    .next (updBrine (forAll s (List.range 8) fun v ch => chanWindow v h ch) h fun b =>
      { b with wrBytes := List.replicate 8 0 })) ∧
  (∀ (h : Half) (ch : Nat) (s : State), let b := brine s h
    let total := b.wrBytes.sum
    let share := 100 * b.wrBytes.getD ch 0 / total
    1025000 ≤ total →
    (100 * b.wrBytes.getD ch 0 ≤ cfg s h 0x5606 1 * total →
      brine (chanWindow s h ch) h = { b with share := setAt b.share ch share, hotCount := setAt b.hotCount ch 0,
                                             hotRaised := b.hotRaised.mapIdx fun i v => v && i != ch }) ∧
    (cfg s h 0x5606 1 * total < 100 * b.wrBytes.getD ch 0 → b.hotCount.getD ch 0 + 1 < cfg s h 0x5606 2 →
      brine (chanWindow s h ch) h =
        { b with share := setAt b.share ch share, hotCount := setAt b.hotCount ch (b.hotCount.getD ch 0 + 1) })) ∧
  (∀ (h : Half) (s : State), (half s h).boot ≠ .reset → cfg s h 0x5602 (hsub h) % 4 ≠ 0 → (brine s h).trained = false →
    (brine s h).down = false →
    exec (.brineTrainingDone h none) s = .next (updBrine s h fun b => { b with trained := true, down := false }) ∧
    (∀ ch : Fin 8, exec (.brineTrainingDone h (some ch)) s = .next (brineLost (raiseEv
      (updBrine s h fun b => { b with trained := false, down := true }) h 5 (8 * halfIdx h + ch.val) 0 0) h))) ∧
  (∀ (c : BC) (s : State), exec (.brineTrackingPass c) s = .next s)

/-- A unit that a link released frees once nothing the link sent with LOCK = 1 before the release is open, and
the next waiting acquire is granted a unit; before that it stays. A waiting acquire whose limit passes
completes with TIMEOUT, is counted in OD 0x5E01 and leaves the queue; where the link does not wait nothing
changes. A holder whose limit passes loses its unit, which frees under the commit condition, with SEM_FORCED
for the hold limit; where the link holds none nothing changes. (R185, R186, R189, R190) -/
def Obligations.SemaphoreUnitsFreeTimeOutAndExpire : Prop :=
  (∀ (n : Sem) (l : LL) (k b : Nat) (s : State), let t := tetherName s l.val
    ((sem s n.val).freeing.find? fun p => p.1 == t) = some (k, b) →
    (semCommitted s t b = false → exec (.semaphoreUnitFree n l) s = .next s) ∧
    (semCommitted s t b = true → exec (.semaphoreUnitFree n l) s =
      .next (semServe 192 (updSem s n.val fun x => { x with freeing := x.freeing.erase (k, b) }) n.val))) ∧
  (∀ (n : Sem) (l : LL) (s : State), let t := tetherName s l.val
    (((sem s n.val).waiters.find? fun p => p.1 == t) = none → exec (.acquireTimeout n l) s = .next s) ∧
    (∀ k rid, ((sem s n.val).waiters.find? fun p => p.1 == t) = some (k, rid) → exec (.acquireTimeout n l) s =
      .next (failPart (bump (updSem s n.val fun x => { x with waiters := x.waiters.filter fun q => q.1 != t }) 0x5E01
        (hsub (halfOfSem n.val))) rid 0 3 (halfOfSem n.val)))) ∧
  (∀ (n : Sem) (l : LL) (s : State), let t := tetherName s l.val
    ((sem s n.val).holders.any (fun p => p.1 == t) = false → exec (.holdLimitExpiry n l) s = .next s) ∧
    ((sem s n.val).holders.any (fun p => p.1 == t) = true →
      let s1 := semForced s n.val t 2
      let s2 := updSem s1 n.val fun x =>
        { x with holders := x.holders.filter fun p => p.1 != t, freeing := x.freeing ++ [(t, s1.nextId)] }
      exec (.holdLimitExpiry n l) s = .next (semFree s2 n.val t))) ∧
  (∀ (n l rid k : Nat) (rest : List (Nat × Nat)) (s : State), (sem s n).waiters = (l, rid) :: rest →
    semServe (k + 1) s n = if semEn s n ∧ semUsed (sem s n) < semCount s n then
      semServe k (semGrant (updSem s n fun y => { y with waiters := rest }) n l rid) n else s)

/-- For every row that receives a packet, under the TYPE it names: on a link that is not Active, or whose half
takes no traffic, nothing changes. A packet in error, with a wrong CRC or ahead of the number expected is
dropped and answered by one NAK that carries the last packet received in order; none follows before a good
packet. A duplicate is acknowledged and dropped. A good packet that is expected next advances the expected
number, allows the next NAK and is acknowledged when it is the 32nd unacknowledged one. A PING is answered
by a completion of flow 0 with no data and the PING's tag, at once or when the replay buffer has room. A
malformed packet is counted and latches MALFORMED; a packet over a miswired tether or of a frozen link is
counted and turned away with its status. (R133, R134, R136, R137, R141, R142, R311, R336) -/
def Obligations.PacketsAreTakenInOrder : Prop :=
  (∀ (l : LL) (p : Pkt) (c : Instr) (t : Nat) (s : State), (c, t) ∈ pktRows l p → p.typ.toNat = t →
    (linkActive s l.val = false ∨ ingressOn s (halfOfLink l.val) = false → exec c s = .next s) ∧
    (rxAble s l.val → ¬ rxGood p ∨ 1 ≤ rxAhead s l.val p ∧ rxAhead s l.val p ≤ 511 →
      exec c s = .next (if (link s l.val).nakSent then s else
        let s1 := bumpR (updLink s l.val fun x => { x with nakSent := true }) (llReg l.val 0x024)
        emit (updLink s1 l.val fun x => x) (.block l.val (Block.ack true (((link s1 l.val).rxSeq + 1023) % 1024))))) ∧
    (rxAble s l.val → rxGood p → 512 ≤ rxAhead s l.val p →
      exec c s = .next (emit (updLink s l.val fun x => { x with rxAcked := 0 })
        (.block l.val (Block.ack false (((link s l.val).rxSeq + 1023) % 1024))))) ∧
    (rxOpen s l.val p → isPing p = true → exec c s =
      .next (linkSend (rxTook s l.val) l.val (mkPkt 3 0 0 p.tag.toNat 0 0 []) 0 none)) ∧
    (rxOpen s l.val p → isPing p = false → malformed (isTether (rxTook s l.val) l.val) p = true →
      exec c s = .next (onMalformed (rxTaken s l.val p) l.val p)) ∧
    (rxOpen s l.val p → isPing p = false → malformed (isTether (rxTook s l.val) l.val) p = false →
      miswired (rxTaken s l.val p) l.val = true →
      exec c s = .next (turnAway (bump (rxTaken s l.val p) 0x9008 (hsub (halfOfLink l.val))) l.val p 1)) ∧
    (rxClean s l.val p → isFrozen (rxTaken s l.val p) (tetherName (rxTook s l.val) l.val) = true → t ≠ 3 → t ≠ 9 →
      exec c s = .next (turnAway (bump (rxTaken s l.val p) 0x8007
        ((if isNpType p then 1 else 3) + halfIdx (halfOfLink l.val))) l.val p 2))) ∧
  (∀ (l : LL) (p : Pkt) (s : State), rxOpen s l.val p → isPing p = true → exec (.ping l p) s =
    .next (linkSend (rxTook s l.val) l.val (mkPkt 3 0 0 p.tag.toNat 0 0 []) 0 none)) ∧
  (∀ (l : Nat) (s : State), Tab.wf LlSt.reset s.links = true →
    (link (rxTook s l) l).rxSeq = ((link s l).rxSeq + 1) % 1024 ∧ (link (rxTook s l) l).nakSent = false ∧
    (rxTook s l).out = (if 32 ≤ (link s l).rxAcked + 1
      then s.out ++ [.block l (Block.ack false ((((link s l).rxSeq + 1) % 1024 + 1023) % 1024))] else s.out))

/-- A packet that nothing turns away, of an enabled flow that runs from its link, and whose range an enabled
entry of the link toward the flow's sink end contains, goes through that entry, which counts a hit. Unsplit
and of an allowed size, toward a sink that passes it, a WRITE joins its flow as a posted transaction with
the translated address and its payload; a READ and an ATOMIC become one open request of the link's tag with
the parts that the sink takes. LOCK = 1 needs an entry bound to a semaphore that the link holds. Without an
entry a posted request is counted in OD 0x4803 and dropped and a non-posted one is counted in OD 0x4802 and
ends with NO_WINDOW. A request of a flow that is not enabled, not from this link or dormant is counted in OD
0x5800 and turned away. (R33, R35, R155, R156, R161, R164, R165, R187, R192) -/
def Obligations.RequestsGoThroughTheirOutboundEntry : Prop :=
  (∀ (l : LL) (p : Pkt) (e : Nat) (s : State), rxFlowed s l.val p →
    let h := halfOfLink l.val
    let v := rxIn s l.val p
    let nm := tetherName v l.val
    let u := bumpR v (outHits e)
    let c := outw u h e 0
    (∀ k, flowSink v h p.flow.toNat ≠ .eng k) → (p.lock = true → lockPasses u h nm e = true) → bit c 1 = false →
    (p.typ = 1 → translateOut v h nm p.flow.toNat p.addr.toNat = some e → sizeOk c p.addr.toNat p.len.toNat = true →
      let t := pktTxn u l.val p .p .write (outAddr u h e p.addr.toNat) p.len.toNat p.payload (bit c 3)
      gate u t.sink = .pass → exec (.dalfelWrite l p) s = .next (addTxn u t)) ∧
    (p.typ = 2 → translateOut v h nm p.flow.toNat p.addr.toNat = some e → sizeOk c p.addr.toNat p.len.toNat = true →
      let t := pktTxn u l.val p .np .read (outAddr u h e p.addr.toNat) p.len.toNat [] (bit c 3)
      gate u t.sink = .pass → exec (.dalfelRead l p) s = .next (submitNp u (.link nm p.tag.toNat) t p.len.toNat
        (readParts u t.sink 0 t.addr p.len.toNat) { ReqOpts.plain with lock := p.lock, raddr := p.addr.toNat }).2) ∧
    (∀ op, p.typ = 6 → let a := p.addr.toNat / 4 * 4
      translateOut v h nm p.flow.toNat a = some e → sizeOk c a p.len.toNat = true → atomicOf p = some op →
      let n := atomicLen op p.len.toNat
      let t := pktTxn u l.val p .np (.atomic op) (outAddr u h e a) n p.payload (bit c 3)
      gate u t.sink = .pass → (∀ k, t.sink = .link k → hasFeature u k 2 = true) →
      exec (.atomic l p) s = .next (submitNp u (.link nm p.tag.toNat) t n [mkPart 0 n t.addr]
        { ReqOpts.plain with lock := p.lock, raddr := a }).2)) ∧
  (∀ (l : LL) (p : Pkt) (s : State), rxFlowed s l.val p →
    let h := halfOfLink l.val
    let v := rxIn s l.val p
    (∀ k, flowSink v h p.flow.toNat ≠ .eng k) →
    (p.typ = 1 → translateOut v h (tetherName v l.val) p.flow.toNat p.addr.toNat = none →
      exec (.dalfelWrite l p) s = .next (creditBack (bump v 0x4803 (hsub h)) l.val p)) ∧
    (p.typ = 2 → translateOut v h (tetherName v l.val) p.flow.toNat p.addr.toNat = none →
      exec (.dalfelRead l p) s = .next (refuseNp (bump v 0x4802 (hsub h)) l.val p 5))) ∧
  (∀ (l : LL) (p : Pkt) (c : Instr) (t : Nat) (s : State), (c, t) ∈ pktRows l p → p.typ.toNat = t → t ≠ 3 → t ≠ 9 →
    rxClean s l.val p → let u := rxTaken s l.val p
    isFrozen u (tetherName (rxTook s l.val) l.val) = false →
    (flowEn u (halfOfLink l.val) p.flow.toNat = false ∨ flowDormant u (halfOfLink l.val) p.flow.toNat = true) →
    exec c s = .next (turnAway (bump u 0x5800 (hsub (halfOfLink l.val))) l.val p 1))

/-- A DOORBELL joins its flow with its source number and without LOCK. A STATE word of the link that a mirror
group maps and that is not held down joins its flow; an unmapped one is counted in OD 0x5E08. A LOCK_ACQ
through an entry without a semaphore ends with UR; one whose semaphore cannot be reached with CA; else it
becomes an open acquire that reaches its semaphore once completion space is reserved. A LOCK_REL of a held
semaphore releases the unit, and any other is counted in OD 0x5E03. A CAP_ANN that is newer puts its
capacity in place, latches CAP_ANN and fills a new shaper; an older one changes nothing. A completion of a
PING frees the tag and gives the round trip; a completion of a quarantined tag is counted in OD 0x5E13, one
of an unknown tag in OD 0x5E15. (R45, R136, R147, R185, R187, R189, R197, R202, R210, R211, R229, R278) -/
def Obligations.WordsLocksAnnouncementsAndCompletionsArrive : Prop :=
  (∀ (l : LL) (p : Pkt) (s : State), rxFlowed s l.val p →
    let h := halfOfLink l.val
    let v := rxIn s l.val p
    let nm := tetherName v l.val
    (∀ k, flowSink v h p.flow.toNat ≠ .eng k) →
    (p.typ = 4 → exec (.doorbell l p) s = .next (addTxn v { pktTxn v l.val p .p
      (.doorbell (ofBytesLE (p.payload.take 2) % 16384)) 0 4 p.payload false with lock := false })) ∧
    (p.typ = 5 → let w := p.addr.toNat % 4096
      (mgOfWord v nm w = none → exec (.state l p) s = .next (creditBack (bump v 0x5E08 (hsub h)) l.val p)) ∧
      (∀ g, mgOfWord v nm w = some g → mgDown v g = false →
        exec (.state l p) s = .next (addTxn v (pktTxn v l.val p .p (.state w) w 8 p.payload false)))) ∧
    (∀ e, translateOut v h nm p.flow.toNat p.addr.toNat = some e →
      let u := bumpR v (outHits e)
      let n := fld (outw u h e 1) 16 8
      (p.typ = 7 → bit (outw u h e 0) 24 = false → exec (.lockAcq l p) s = .next (refuseNp u l.val p 1)) ∧
      (p.typ = 7 → bit (outw u h e 0) 24 = true → semReachable u h n = false →
        exec (.lockAcq l p) s = .next (refuseNp u l.val p 2)) ∧
      (∀ x, p.typ = 7 → bit (outw u h e 0) 24 = true → semReachable u h n = true →
        let t := pktTxn u l.val p .np .lockAcq n 4 [] false
        gate u t.sink = .pass →
        let q := submitNp u (.link nm p.tag.toNat) { t with lock := false } 4 [mkPart 0 4 n]
        (q.2.fab.txns.find? fun y => y.req == q.1) = some x →
        exec (.lockAcq l p) s = .next (if x.reserved then semArrive (leftIngress (dropTxn q.2 x.id) x) n nm q.1
          else q.2)) ∧
      (p.typ = 8 → lockPasses u h nm e = true →
        let n' := fld (outw u h e 1) 16 8
        ofBytesLE (p.payload.take 4) % 256 = n' →
        exec (.lockRel l p) s = .next (let k := creditBack u l.val p
          updSem k n' fun x => { x with holders := x.holders.filter fun q => q.1 != nm,
                                        freeing := x.freeing ++ [(nm, k.nextId)] })))) ∧
  (∀ (l : LL) (p : Pkt) (s : State), rxClean s l.val p →
    let u := rxTaken s l.val p
    let h := halfOfLink l.val
    (p.typ = 9 →
      (annNewer (link u l.val) (ofBytesLE ((p.payload.drop 4).take 2)) = false → exec (.capAnn l p) s = .next u) ∧
      (annNewer (link u l.val) (ofBytesLE ((p.payload.drop 4).take 2)) = true →
        let cap := ofBytesLE (p.payload.take 4)
        let y := shRefill u (link u l.val)
        exec (.capAnn l p) s = .next (let s1 := updLink u l.val fun _ => { y with
            capacity := cap, annSeq := some (ofBytesLE ((p.payload.drop 4).take 2)), evt := y.evt ||| 32,
            shTok := if cap = 0xFFFFFFFF then none else some (y.shTok.getD 4096), shClk := u.clk,
            shFrac := if y.shTok.isSome then y.shFrac else 0 }
          c0Judge s1 s1.pwr.level))) ∧
    (p.typ = 3 → delaySlot u l.val = none → (u.test.delayed.any fun d => d.link.any fun x => x.1 == l.val) = false →
      let nm := tetherName u l.val
      let hit := u.fab.tags.find? fun k => (k.side == linkSide nm) && k.tag == p.tag.toNat
      (∀ k, hit = some k → k.ping = true → exec (.dalfelCpl l p) s = .next (updLink (freeTag u k.side k.tag) l.val fun x =>
        { x with ping := none, rtt := clkToNs (u.clk - k.sent) })) ∧
      (∀ k, hit = some k → k.ping = false → isFrozen u nm = true →
        exec (.dalfelCpl l p) s = .next (bump u 0x8007 (5 + halfIdx h))) ∧
      (∀ k, hit = some k → k.ping = false → isFrozen u nm = false → cplStatus p = 0 → p.poison = false → k.req ≠ 0 →
        cplRemain p = 0 → partLack u k.req k.part ≤ p.len.toNat →
        let w := freeTag u k.side k.tag
        exec (.dalfelCpl l p) s = .next (gotPart w k.req k.part (p.payload.take (partLack w k.req k.part)) p.se h)) ∧
      (hit = none → (u.fab.quars.any fun q => (q.side == linkSide nm) && q.tag == p.tag.toNat) = true →
        exec (.dalfelCpl l p) s = .next (bump (logC u h 0x09 l.val (tag := p.tag.toNat)) 0x5E13 (hsub h))) ∧
      (hit = none → (u.fab.quars.any fun q => (q.side == linkSide nm) && q.tag == p.tag.toNat) = false →
        exec (.dalfelCpl l p) s = .next (bump (logC u h 0x0A l.val (tag := p.tag.toNat)) 0x5E15 (hsub h)))))

/-- A memory request that hits an aperture and finds room is translated by the sub-window that contains its
offset, which counts a hit. Unsplit and of an allowed size, toward a local link that passes it: a write with
all bytes enabled becomes one posted transaction of the sub-window's flow at the translated address; a read
becomes an open request with the parts the sink takes; an AtomicOp becomes an open request of one part where
the target lists the feature. Without a sub-window the request is logged and counted in OD 0x4801; a read or
AtomicOp completes with UR and a write raises UR. A refused size is logged and counted in OD 0x4804; a read
or AtomicOp completes with CA. Without room the TLP waits at the head of VC0. An address no BAR claims, and
any request before start-up is complete, is an Unsupported Request. (R37, R40, R55, R100, R155, R160, R164,
R169, R171, R181, R191, R425) -/
def Obligations.HostRequestsReachTheirAperture : Prop :=
  (∀ (m : HL) (r : HostReq) (n off : Nat) (s : State),
    hostAperture s m.val r.addr.toNat n off .p r.data.length r.vc1 →
    (hitIn s n off = none → exec (.hostMemoryWrite m r) s = .next (aerUR (bump
      (logC s (halfOfHl (n / 64)) 0x03 n (addr := off)) 0x4801 (hsub (halfOfHl (n / 64)))) n)) ∧
    (∀ w bs, hitIn s n off = some w → fld (inw (countIn s n w) n w 0) 14 2 = 0 → r.ep = false → r.data = bs.map some →
      bs ≠ [] → let u := wrIn s n w r
      bit (inw u n w 0) 2 = false →
      (sizeOk (inw u n w 0) r.addr.toNat bs.length = true → exec (.hostMemoryWrite m r) s =
        .next (submitP u (inTxn u n w .p .write off bs.length bs r))) ∧
      (sizeOk (inw u n w 0) r.addr.toNat bs.length = false → exec (.hostMemoryWrite m r) s =
        .next (bump (logC u (halfOfHl (n / 64)) 0x01 (unitWin n w) (addr := r.addr.toNat)) 0x4804
          (hsub (halfOfHl (n / 64))))))) ∧
  (∀ (m : HL) (r : HostReq) (n off : Nat) (s : State), hostAperture s m.val r.addr.toNat n off .np 0 r.vc1 →
    (hitIn s n off = none → exec (.hostMemoryRead m r) s = .next (hostRefuse (bump
      (logC s (halfOfHl (n / 64)) 0x03 n (addr := off)) 0x4801 (hsub (halfOfHl (n / 64)))) (n / 64) n r.tag.toNat .ur
        r.len)) ∧
    (∀ w, hitIn s n off = some w → let c := inw (countIn s n w) n w 0
      let u := rdIn s n w r
      let t := inTxn u n w .np .read off r.len [] r
      r.len ≠ 0 → fld c 14 2 = 0 → bit c 2 = false →
      (sizeOk c r.addr.toNat r.len = true → gate u t.sink = .pass → pfActive u n w = false →
        exec (.hostMemoryRead m r) s = .next (submitNp u (.host (n / 64) n r.tag.toNat r.addr.toNat false)
          { t with ro := r.ro } r.len (readParts u t.sink 0 t.addr r.len)).2) ∧
      (sizeOk c r.addr.toNat r.len = true → gate u t.sink = .pass → pfActive u n w = true →
        exec (.hostMemoryRead m r) s = .next (pfRead u n w off r.len r)) ∧
      (sizeOk c r.addr.toNat r.len = false → exec (.hostMemoryRead m r) s =
        .next (hostRefuse (bump (logC u (halfOfHl (n / 64)) 0x01 (unitWin n w) (addr := r.addr.toNat)) 0x4804
          (hsub (halfOfHl (n / 64)))) (n / 64) n r.tag.toNat .ca r.len)))) ∧
  (∀ (m : HL) (r : HostReq) (op : AtomicOp) (n off : Nat) (s : State), atomicLenOk op r.data.length = true →
    hostAperture s m.val r.addr.toNat n off .np r.data.length r.vc1 →
    ∀ w, hitIn s n off = some w → let c := inw (countIn s n w) n w 0
      let u := rdIn s n w r
      let ops := operandBytes r
      let t := inTxn u n w .np (.atomic op) off (atomicLen op ops.length) ops r
      fld c 14 2 = 0 → bit c 2 = false → sizeOk c r.addr.toNat ops.length = true → gate u t.sink = .pass →
      (∀ l, t.sink = .link l → hasFeature u l 2 = true) →
      exec (.hostAtomicop m r op) s = .next (submitNp (pfFlowWrite u (fld (inw (countIn s n w) n w 1) 0 14))
        (.host (n / 64) n r.tag.toNat r.addr.toNat true) { t with ro := r.ro } (atomicLen op ops.length)
        [mkPart 0 (atomicLen op ops.length) t.addr]).2) ∧
  (∀ (m : HL) (r : HostReq) (n off : Nat) (s : State), hostLive s m.val → startedUp s (halfOfHl m.val) = true →
    hostDecode s m.val r.addr.toNat = .aperture n off → tlpRoom s n off .p r.data.length r.vc1 = false →
    exec (.hostMemoryWrite m r) s = .next (updHl s m.val fun x =>
      { x with waitTlp := x.waitTlp ++ [.hostMemoryWrite m r], vc0Since := some (x.vc0Since.getD s.clk) })) ∧
  (∀ (m : HL) (r : HostReq) (s : State), hostLive s m.val →
    (startedUp s (halfOfHl m.val) = false ∨ hostDecode s m.val r.addr.toNat = .miss) →
    s3Commit s = false →
    exec (.hostMemoryWrite m r) s = .next (aerUR s (64 * m.val)) ∧
    exec (.hostMemoryRead m r) s = .next (hostRefuse s m.val (64 * m.val) r.tag.toNat .ur r.len))

/-- A read of one or two DW of a register BAR that answers returns the register file's bytes; a longer one
completes with CA; one to a BAR that does not answer with UR. A write of one or two whole DW reaches the
register file; one with a byte enable missing or of another length is counted in HP_BAD_ACCESS. A ROM read
inside its window returns the stored image, a ROM write is dropped and counted, and outside the window both
are Unsupported Requests. I/O and locked read requests complete with UR, a vendor-defined message of type 0
raises it, one of type 1 is discarded. A configuration request answers with retry until start-up is
complete, with UR for type 1 or an absent function, with the word for a read, and merges a write. The
steward's own register write reaches the register file. With the link down nothing changes. (R90, R98, R99,
R100, R118, R307, R425) -/
def Obligations.BarsRomConfigurationAndStrayRequestsAreAnswered : Prop :=
  (∀ (m : HL) (f : Fn) (bar2 : Bool) (off dws : Nat) (tag : BitVec 14) (b : HostHit) (s : State), hostLive s m.val →
    namedBar m.val f.val bar2 (off / 4 * 4) = some b →
    (barAnswers s m.val f.val = true → dws = 1 ∨ dws = 2 → let x := barRead s b (off / 4 * 4) dws
      exec (.bar0Read m f bar2 off dws tag) s = .next (tlpOut x.2 m.val (.cplData tag.toNat x.1 0 false false
        (idoCpl s (64 * m.val + f.val))))) ∧
    (barAnswers s m.val f.val = true → dws ≠ 1 → dws ≠ 2 → exec (.bar0Read m f bar2 off dws tag) s =
      .next (tlpOut (aerCAc s (64 * m.val + f.val)) m.val (.cpl tag.toNat .ca (4 * dws)))) ∧
    (barAnswers s m.val f.val = false → exec (.bar0Read m f bar2 off dws tag) s =
      .next (tlpOut (aerURc s (64 * m.val)) m.val (.cpl tag.toNat .ur (4 * dws))))) ∧
  (∀ (m : HL) (f : Fn) (bar2 : Bool) (off : Nat) (ws : List W32) (en : Bool) (b : HostHit) (s : State),
    hostLive s m.val → namedBar m.val f.val bar2 (off / 4 * 4) = some b → barAnswers s m.val f.val = true →
    exec (.registerWrite (.reg m f) bar2 off ws en) s = .next (if en = true ∧ (ws.length = 1 ∨ ws.length = 2)
      then barWrite s b (off / 4 * 4) ws else bumpR s (hpReg m.val 0x1C))) ∧
  (∀ (h : Half) (off : Nat) (ws : List W32) (en : Bool) (s : State), pathLive s (.steward h) = true → off < 2 ^ 26 →
    exec (.registerWrite (.steward h) false off ws en) s = .next (regWrite s (.steward h) (off / 4 * 4) ws)) ∧
  (∀ (m : HL) (a : W32) (len : Nat) (tag : BitVec 14) (s : State), hostLive s m.val →
    (∀ off, romHit s m.val a.toNat = some off →
      exec (.expansionRomRead m a len tag) s = .next (tlpOut s m.val (.cplData tag.toNat
        ((List.range len).map fun i => if off + i < (half s (halfOfHl m.val)).romLen
          then Tab.get 0 s.sys.romBytes (halfIdx (halfOfHl m.val) * 2 ^ 20 + off + i) else 0) 0 false false false)) ∧
      exec (.expansionRomWrite m a) s = .next (bumpR s (hpReg m.val 0x1C))) ∧
    (romHit s m.val a.toNat = none →
      exec (.expansionRomRead m a len tag) s =
        .next (tlpOut (aerURc s (64 * m.val)) m.val (.cpl tag.toNat .ur len)) ∧
      exec (.expansionRomWrite m a) s = .next (aerUR s (64 * m.val)))) ∧
  (∀ (m : HL) (tag : BitVec 14) (s : State), hostLive s m.val →
    exec (.ioRequest m tag) s = .next (tlpOut (aerURc s (64 * m.val)) m.val (.cpl tag.toNat .ur 4)) ∧
    exec (.mrdlk m tag) s = .next (tlpOut (aerURc s (64 * m.val)) m.val (.cpl tag.toNat .ur 4)) ∧
    exec (.vendorDefinedType0 m) s = .next (aerUR s (64 * m.val)) ∧
    exec (.vendorDefinedType1 m) s = .next s) ∧
  (∀ (m : HL) (c : CfgReq) (s : State), hostLive s m.val →
    let n := 64 * m.val + c.fn.toNat
    let off := c.off.toNat / 4 * 4
    (startedUp s (halfOfHl m.val) = false →
      exec (.configRequest m c) s = .next (tlpOut s m.val (.cpl c.tag.toNat .other 4))) ∧
    (startedUp s (halfOfHl m.val) = true → c.type1 = true ∨ 63 < c.fn.toNat ∨ fnExists s n = false →
      exec (.configRequest m c) s =
        .next (tlpOut (aerURc s (64 * m.val)) m.val (.cpl c.tag.toNat .ur 4))) ∧
    (startedUp s (halfOfHl m.val) = true → c.type1 = false → c.fn.toNat ≤ 63 → fnExists s n = true →
      (c.wr = none → exec (.configRequest m c) s = .next (tlpOut s m.val (.cplData c.tag.toNat
        (bytesLE 4 (csRead s n off).toNat) 0 false false false))) ∧
      (∀ v be, c.wr = some (v, be) → exec (.configRequest m c) s =
        .next (tlpOut (csEffect s n off (csMerge s n off v be)) m.val (.cpl c.tag.toNat .sc 0))))) ∧
  (∀ (m : HL) (tag : BitVec 14) (s : State), awake s → hlUp s m.val = false →
    exec (.ioRequest m tag) s = .next s ∧ exec (.vendorDefinedType0 m) s = .next s)

/-- For a served function: clearing Bus Master Enable, or entering D3hot, of a function that was a master
refuses and counts its L2H transactions that have not left, each non-posted one ending with status 4; of one
that was none only the bits change. Setting the bit, or leaving D3hot, makes a function that becomes a
master send what it held and its unmasked pending vectors and continue its DMA queues. Clearing Memory Space
Enable clears that bit alone. Disabling MSI-X clears its enable and discards the held messages, whose
sources become idle. Clearing a mask sends what was pending behind it. Enabling the LTR mechanism where it
was disabled sends the LTR message. PME_Turn_Off is acknowledged. (R112, R113, R114, R115, R118, R294, R385) -/
def Obligations.FunctionEnablesRefuseHoldAndRelease : Prop :=
  (∀ (m : HL) (f : Fn) (s : State), let n := 64 * m.val + f.val
    hostServed s n →
    exec (.busMasterEnableClear m f) s = .next (let t := csBit s n 0x04 2 false
      if masterOn s n then endAll t (fun u => u.kind != .cpl && u.sink == .fn n &&
          (match u.op with | .message _ => false | _ => true)) 4 fun v u => gateCount v u.home u.sink u.kind (.refuse 4)
      else t) ∧
    exec (.busMasterEnableSet m f) s = .next (let t := csBit s n 0x04 2 true
      if masterOn s n = false ∧ masterOn t n = true then
        let held := (fn t n).held
        let t1 := forAll (updFn t n fun x => { x with held := [] }) held fun u p =>
          if p.1 = 0 then notify u n else messageOutcome u (p.1 - 1) p.2
        let t2 := sweepPending t1 n
        forAll t2 (dqsOfFn t1 n) dqAdvance
      else t) ∧
    exec (.memorySpaceEnableClear m f) s = .next (csBit s n 0x04 1 false)) ∧
  (∀ (m : HL) (f : Fn) (s : State), let n := 64 * m.val + f.val
    hostServed s n → let v := (cs s n 0x44).toNat
    exec (.d3hotEntry m f) s = .next (let t := setCs s n 0x44 (BitVec.ofNat 32 (v - v % 4 + 3))
      if masterOn s n then refuseFn t n 4 else masterBack t n) ∧
    (inD3 s n = true → exec (.d3hotExit m f) s =
      .next (masterBack (setCs s n 0x44 (BitVec.ofNat 32 (v - v % 4))) n)) ∧
    (inD3 s n = false → exec (.d3hotExit m f) s = .next s)) ∧
  (∀ (m : HL) (f : Fn) (s : State), let n := 64 * m.val + f.val
    hostServed s n → (msixEn s n = false → exec (.msixDisable m f) s = .next s) ∧
    (msixEn s n = true → let held := (fn s n).held
      exec (.msixDisable m f) s = .next (intxUpdate
        (forAll (updFn (csBit s n 0xB0 31 false) n fun x => { x with held := [] }) (held.filter fun p => p.1 != 0)
          fun u p => updSrc u (p.1 - 1) fun x => { x with pos := .idle }) (n / 64)) ∧
      exec (.msixVectorUnmask m f none) s = .next (sweepPending (csBit s n 0xB0 30 false) n) ∧
      (∀ i : Fin 2048, i.val < (fnLay s n).msix →
        exec (.msixVectorUnmask m f (some i)) s = .next (sweepPending (clearMask s n (some i.val)) n))) ∧
    (∀ i : Fin 2048, msixEn s n = false → msiEn s n = true → i.val < 32 →
      exec (.msixVectorUnmask m f (some i)) s = .next (sweepPending (csBit s n 0x60 i.val false) n))) ∧
  (∀ (m : HL) (s : State), hostServed s (64 * m.val) →
    (ltrEn s (64 * m.val) = true → exec (.ltrMechanismEnable m) s = .next s) ∧
    (ltrEn s (64 * m.val) = false → exec (.ltrMechanismEnable m) s = .next (let t := csBit s (64 * m.val) 0x98 10 true
      tlpOut t m.val (.ltr (hlObj t m.val 7))))) ∧
  (∀ (m : HL) (s : State), hostLive s m.val → exec (.pmeTurnOff m) s =
    .next (tlpOut (updHl s m.val fun x => { x with turnOff := true }) m.val .pmeToAck))

/-- Asserting PERST_N of a powered port that was released re-initialises its links, those that were present and
those of the division now in force; releasing it lets its links come up and ends the device's drive of
WAKE_N. A hot reset and the exit from DL_Active re-initialise the link. A link that can enters DL_Active
with what it negotiated, and sends Device Readiness Status the first time after start-up; a rate or width
outside its limits changes nothing. A retraining records rate and width and latches what changed. An idle
link enters L0s, or the L1 substate that is enabled, unless an admitted C0 flow uses it; L0p narrows below
half of the narrower width and widens above three quarters. The host's exit returns it to L0. (R82, R84,
R85, R96, R109, R110, R111, R116, R118, R393) -/
def Obligations.HostLinksEnterLeaveAndRest : Prop :=
  (∀ (p : HP) (s : State), awake s →
    (s.sys.perst.getD p.val true = false → portsOn s (halfOfHl (4 * p.val)) = true →
      let s2 := updSys s fun y => { y with
        perst := y.perst.set p.val true
        cfgActive := y.cfgActive.set p.val (if starterServed s (halfOfHl (4 * p.val)) then 0
          else cfg s (halfOfHl (4 * p.val)) (0x2000 + 0x100 * p.val) 1) }
      exec (.perstNAssert p) s = .next (forAll s2 ((span (4 * p.val) 4).filter fun m =>
        ((span (4 * p.val) 4).filter (hlPresent s)).contains m || hlPresent s2 m) fun u m => hlReinit u m 1)) ∧
    (s.sys.perst.getD p.val true = true → exec (.perstNDeassert p) s =
      .next (updPwr (updSys s fun y => { y with perst := y.perst.set p.val false }) fun x => { x with wakeLow := false })) ∧
    (s.sys.perst.getD p.val true = false → exec (.perstNDeassert p) s = .next s)) ∧
  (∀ (m : HL) (s : State), hlUp s m.val = true →
    exec (.hotReset m) s = .next (hlReinit s m.val 2) ∧ exec (.dlActiveExit m) s = .next (hlReinit s m.val 0)) ∧
  (∀ (m : HL) (s : State), hlUp s m.val = false → exec (.hotReset m) s = .next s ∧ exec (.dlActiveExit m) s = .next s) ∧
  (∀ (m : HL) (flit : Bool) (rate : BitVec 3) (width : BitVec 5) (rev vc1 : Bool) (s : State),
    let able := hlPresent s m.val = true ∧ (hl s m.val).dlActive = false ∧ portsOn s (halfOfHl m.val) = true ∧
      s.sys.perst.getD (m.val / 4) true = false ∧ s.sys.hrefOk.getD (m.val / 4) true = true ∧ 1 ≤ rate.toNat ∧
      rate.toNat ≤ hlObj s m.val 1 ∧ width.toNat ∈ [1, 2, 4, 8, 16] ∧
      width.toNat ≤ subWidth (cfgActive s (m.val / 4)) (m.val % 4) ∧ (flit = true ∨ rate.toNat ≤ 5) ∧
      (flit = false ∨ hlObj s m.val 2 = 1 ∨ rate.toNat = 6)
    (able → let t := updHl (updPwr s fun x => { x with wakeLow := false }) m.val fun x =>
        { x with dlActive := true, flit := flit, rate := rate.toNat, width := width.toNat, reversed := rev, vc1 := vc1,
                 pwr := 0, narrow := 0, turnOff := false }
      exec (.dlActiveEnter m flit rate width rev vc1) s =
        .next (if startedUp t (halfOfHl m.val) = true ∧ (hl t m.val).drsSent = false
          then tlpOut (updHl t m.val fun x => { x with drsSent := true }) m.val .drs else t)) ∧
    (¬ able → exec (.dlActiveEnter m flit rate width rev vc1) s = .next s)) ∧
  (∀ (m : HL) (rate : BitVec 3) (width : BitVec 5) (s : State), hlUp s m.val = true → 1 ≤ rate.toNat →
    rate.toNat ≤ hlObj s m.val 1 → width.toNat ∈ [1, 2, 4, 8, 16] →
    width.toNat ≤ subWidth (cfgActive s (m.val / 4)) (m.val % 4) → ((hl s m.val).flit = true ∨ rate.toNat ≤ 5) →
    exec (.hostLinkRateChange m rate width) s = .next (updHl s m.val fun x => { x with
      evt := x.evt ||| BitVec.ofNat 32 (flag (x.rate != rate.toNat) 3 + flag (x.width != width.toNat) 4)
      rate := rate.toNat
      width := width.toNat })) ∧
  (∀ (m : HL) (s : State), hlUp s m.val = true → c0OnLink s m.val = false →
    ((hl s m.val).flit = false → (hl s m.val).rate ≠ 6 → (aspm s m.val).testBit 0 = true → (hl s m.val).pwr = 0 →
      hlSending s m.val = false → exec (.l0sIdleTimer m) s = .next (updHl s m.val fun x => { x with pwr := 1 })) ∧
    ((aspm s m.val).testBit 1 = true → (hl s m.val).pwr ∈ [0, 1, 5] → hlBusy s m.val = false →
      exec (.aspmL1IdleTimer m) s = .next (updHl s m.val fun x => { x with pwr := l1State s m.val })) ∧
    (∀ b, (hl s m.val).flit = true → bit (cs s (64 * m.val) 0x2F8) 3 = true → (hl s m.val).pwr = 0 →
      (hl s m.val).narrow = 0 → hlObj s m.val 6 = 1 → 2 < (hl s m.val).width →
      exec (.l0pEvaluation m b) s =
        .next (if 2 * b < rawPer100us (hl s m.val).rate (narrower (hl s m.val).width)
          then updHl s m.val fun y => { y with narrow := narrower (hl s m.val).width, pwr := 5 } else s)) ∧
    (∀ b, (hl s m.val).flit = true → bit (cs s (64 * m.val) 0x2F8) 3 = true → (hl s m.val).pwr = 5 →
      (hl s m.val).narrow ≠ 0 → 3 * rawPer100us (hl s m.val).rate (hl s m.val).narrow < 4 * b →
      exec (.l0pEvaluation m b) s = .next (let v := wider (hl s m.val).narrow (hl s m.val).width
        updHl s m.val fun y => { y with narrow := if v = y.width then 0 else v, pwr := if v = y.width then 0 else 5 }))) ∧
  (∀ (m : HL) (s : State), c0OnLink s m.val = true →
    exec (.l0sIdleTimer m) s = .next s ∧ exec (.aspmL1IdleTimer m) s = .next s) ∧
  (∀ (m : HL) (s : State), hostLive s m.val → 1 ≤ (hl s m.val).pwr → (hl s m.val).pwr ≤ 4 →
    exec (.hostInitiatedExit m) s = .next (updHl s m.val fun x => { x with pwr := 0 }))

/-- A mailbox that answers stores request words while it is not busy; a submit of a length of 1 to 2,048 while
neither busy nor ready makes it busy with that length, another sets OVERRUN or LEN_ERR and starts nothing;
acknowledging clears READY and both errors; the steward's answer ends BUSY and sets RSP_READY. A host
completion of success frees its tag when nothing more is due and brings its data; one of a quarantined tag
is counted in OD 0x5E13, one of an unknown tag in OD 0x5E14. A split write's failure is logged and counted
once its beats are committed. A switch request to an eligible standby member starts the switch-over; the
switch-over ends what was sent to the lost host and makes an eligible member active, or leaves the pair
without a host; an eligible member then becomes active. (R98, R101, R102, R120, R121, R122, R166, R205,
R210, R211) -/
def Obligations.MailboxCompletionsSplitsAndPairs : Prop :=
  (∀ (m : HL) (s : State), awake s → mbxReach s m.val = true → (mbx s m.val).down = false →
    (∀ (len : BitVec 12), (mbx s m.val).busy = false → (mbx s m.val).ready = false → 1 ≤ len.toNat → len.toNat ≤ 2048 →
      exec (.mbxSubmit m len) s = .next (updMbx s m.val fun y =>
        { y with busy := true, reqLen := len.toNat, taken := false, answer := none })) ∧
    (∀ (len : BitVec 12), (mbx s m.val).busy = true ∨ (mbx s m.val).ready = true → 1 ≤ len.toNat → len.toNat ≤ 2048 →
      exec (.mbxSubmit m len) s = .next (updMbx s m.val fun y => { y with overrun := true })) ∧
    (∀ (len : BitVec 12), (mbx s m.val).busy = false → (mbx s m.val).ready = false → len.toNat = 0 ∨ 2048 < len.toNat →
      exec (.mbxSubmit m len) s = .next (updMbx s m.val fun y => { y with lenErr := true })) ∧
    (∀ (off : BitVec 11) (data : List Byte),
      exec (.mbxReqWrite m off data) s = .next (
        if off.toNat % 4 = 0 ∧ (data.length = 4 ∨ data.length = 8) then
          (if (mbx s m.val).busy then s
           else updMbx s m.val fun x => { x with req := writeBytes 0 x.req off.toNat (data.take (2048 - off.toNat)) })
        else bumpR s (hpReg m.val 0x1C))) ∧
    exec (.mbxAck m true) s =
      .next (updMbx s m.val fun x => { x with ready := false, overrun := false, lenErr := false }) ∧
    exec (.mbxAck m false) s = .next s) ∧
  (∀ (m : HL) (bs : List Byte) (s : State), (mbx s m.val).answer = some bs → (mbx s m.val).busy = true →
    exec (.mbxResponse m) s = .next (let t := updMbx s m.val fun x =>
        { x with rsp := writeBytes 0 [] 0 bs, rspLen := bs.length, busy := false, ready := true, answer := none,
                 taken := false }
      if (mbx t m.val).ien then fnEvent t (64 * m.val) 0 else t)) ∧
  (∀ (m : HL) (c : HostCpl) (s : State), hostLive s m.val → delaySlot s (unitHl m.val) = none →
    (s.test.delayed.any fun d => d.host.any fun x => x.1 == m.val) = false →
    let h := halfOfHl m.val
    let hit := s.fab.tags.find? fun u => (u.side == hostSide m.val) && u.tag == c.tag.toNat
    (∀ u, hit = some u → u.req ≠ 0 → c.status = .sc → c.ep = false →
      let t := if partLack s u.req u.part ≤ c.data.length then freeTag s u.side u.tag else s
      exec (.hostCompletion m c) s = .next (gotPart t u.req u.part (c.data.take (partLack t u.req u.part)) false h)) ∧
    (∀ u, hit = some u → u.req ≠ 0 → c.status = .ur → c.ep = false →
      exec (.hostCompletion m c) s = .next (failPart (freeTag s u.side u.tag) u.req u.part 1 h)) ∧
    (hit = none → (s.fab.quars.any fun q => (q.side == hostSide m.val) && q.tag == c.tag.toNat) = true →
      exec (.hostCompletion m c) s = .next (bump (logC s h 0x09 (unitHl m.val) (tag := c.tag.toNat)) 0x5E13 (hsub h))) ∧
    (hit = none → (s.fab.quars.any fun q => (q.side == hostSide m.val) && q.tag == c.tag.toNat) = false →
      exec (.hostCompletion m c) s = .next (bump (aerUnexp (logC s h 0x0A (unitHl m.val) (tag := c.tag.toNat))
        (ridFn s m.val c)) 0x5E14 (hsub h)))) ∧
  (∀ (id : Nat) (f : SplitFail) (s : State), (s.fab.splits.find? fun g => g.id == id) = some f →
    (splitDone s id = false → exec (.splitWriteCommitted id) s = .next s) ∧
    (splitDone s id = true → exec (.splitWriteCommitted id) s = .next (bump (logC
      (updFab s fun x => { x with splits := x.splits.filter fun g => g.id != id }) f.half 0x02 f.win (addr := f.addr))
      0x480B (hsub f.half)))) ∧
  (∀ (p : Path) (m : HL) (f : Fn) (q : Nat) (s : State), let n := 64 * m.val + f.val
    objOpen s p (fnIdx m.val 11) (halfOfHl m.val) → partnerFn s n = some q → eligible s n = true → activeFn s n = q →
    (fn s q).noHost = false →
    exec (.switchRequest p m f true) s = .next (updFn s q fun x => { x with switching := true }) ∧
    exec (.switchRequest p m f false) s = .next s) ∧
  (∀ (m : HL) (f : Fn) (q : Nat) (s : State), let n := 64 * m.val + f.val
    partnerFn s n = some q → let a := activeFn s n
    let o := if a = n then q else n
    ((fn s a).switching = false → exec (.protectionSwitchOver m f) s = .next s) ∧
    ((fn s a).switching = true → exec (.protectionSwitchOver m f) s = .next (let t := endOfHost s a
      if eligible t o then becomeActive t a o else pairNoHost t a o)) ∧
    ((fn s n).noHost = true → eligible s n = true → exec (.pairMemberEligible m f) s = .next (becomeActive s q n)) ∧
    ((fn s n).noHost = false → exec (.pairMemberEligible m f) s = .next s))

/-- A held prefetch unit whose lifetime ends is discarded; one in flight stays. An occupied slot whose hold time
ends loses its data, logged and counted; freeing it by register loses it without a record; an empty slot
stays. A request whose completion does not come ends with TIMEOUT, its tag goes into quarantine, it is
counted, and a host's function records Completion Timeout; with no such tag nothing changes. A move toward
an engine that is not answered in its time ends with TIMEOUT. The end of a quarantine frees the tag alone.
Writing a producer count, over the owner's view or the privileged register, stores it, marks the queue ready
when it moved, and lets it fetch; a restart clears the halt, drops descriptors fetched and not begun, and
lets it go on from the consumer count with PHASE 1. Selecting a flow changes the path's context window only.
(R171, R174, R208, R209, R235, R236, R237, R242, R254) -/
def Obligations.UnitsSlotsTagsAndQueuesAdvance : Prop :=
  (∀ (m : HL) (f : Fn) (w : Fin 8) (off : Nat) (u : PfUnit) (s : State),
    (s.brdg.units.find? fun u => u.fn == 64 * m.val + f.val && u.w == w.val && u.off == off) = some u →
    (∀ d se, u.st = .got d se → exec (.prefetchLifetimeExpiry m f w off) s = .next (pfDiscard s u)) ∧
    (u.st = .waiting → exec (.prefetchLifetimeExpiry m f w off) s = .next s)) ∧
  (∀ (m : HL) (f : Fn) (p : Path) (s : State), let n := 64 * m.val + f.val
    let t := updFn s n fun x => { x with slotVal := false, slotData := [] }
    ((fn s n).slotVal = true → exec (.slotHoldExpiry m f) s =
      .next (bump (logC t (halfOfHl m.val) 0x05 n (addr := (fn s n).slotTag)) 0x4807 2)) ∧
    ((fn s n).slotVal = false → exec (.slotHoldExpiry m f) s = .next s) ∧
    (regOpen s p (halfOfHl m.val) → exec (.winSlotFree p m f) s =
      .next (if (fn s n).slotVal then bump t 0x4807 3 else s))) ∧
  (∀ (side : TagSide) (tag : BitVec 14) (s : State),
    let hit := s.fab.tags.find? fun u => u.side == side && u.tag == tag.toNat && !u.ping
    (hit = none → (∀ e, side ≠ .move e) → exec (.completionTimeout side tag) s = .next s) ∧
    (∀ u, hit = some u → u.req ≠ 0 → let t := quarantine s side tag.toNat (tagUs s u)
      (∀ m, side = .host m → exec (.completionTimeout side tag) s = .next (failPart (bump (aerCTO t u.fn) 0x5E11
        (hsub (sideHalf side))) u.req u.part 3 (sideHalf side))) ∧
      (∀ l, side = .link l → exec (.completionTimeout side tag) s =
        .next (failPart (bump t 0x5E12 (hsub (sideHalf side))) u.req u.part 3 (sideHalf side)))) ∧
    exec (.quarantineEnd side tag) s =
      .next { s with fab := { s.fab with quars := s.fab.quars.filter fun q => !(q.side == side && q.tag == tag.toNat) } }) ∧
  (∀ (e : SE) (tag : BitVec 14) (s : State),
    (engineMove s e tag.toNat = none → exec (.completionTimeout (.move e) tag) s = .next s) ∧
    (∀ r, engineMove s e tag.toNat = some r →
      exec (.completionTimeout (.move e) tag) s = .next (failReq s r.id 3 (halfOfEng e.val)))) ∧
  (∀ (p : Path) (q : DQ) (v : BitVec 16) (s : State),
    let t := updDq s q.val fun d => { d with prod := v.toNat, ready := d.ready || (dq s q.val).prod != v.toNat }
    (regOpen s p (halfOfDq q.val) → (∀ m f, p = .reg m f → f.val = 0) →
      exec (.flowDqProd p q v) s = .next (dqAdvance t q.val)) ∧
    (∀ m f, p = .reg m f → f.val ≠ 0 → dqEn s q.val = true → dqOwner s q.val = 64 * m.val + f.val →
      pathLive s p = true → exec (.flowDqProd p q v) s = .next (dqAdvance t q.val)) ∧
    (regOpen s p (halfOfDq q.val) → exec (.flowDqRestart p q) s = .next (dqAdvance (updDq s q.val fun d =>
      { d with halted := false, pSwitch := false, phase := true, passed := 0,
               jobs := d.jobs.filter fun j => j.phase != 0 || j.desc.isEmpty }) q.val))) ∧
  (∀ (p : Path) (f : BitVec 14) (s : State), regOpen s p (pathHalf s p) → exec (.flowSel p f) s =
    .next { s with brdg := if pathOwnB s p then { s.brdg with selB := f.toNat } else { s.brdg with sel := f.toNat } })

/-- At a boundary of a live group that is not paused and has no pass running, an upward group with nothing
changed does nothing and otherwise a pass begins; a downward group begins to read its table. A pass begins
with the next sequence number, 1 when fresh, and has written it to word 0 first. While a pass runs the
boundary is skipped and counted: below the largest stretch the stretch grows by 1, at it an event is raised.
A paused group remembers to resume. A pass ends when its END write is committed, or, downward, when every
STATE packet is acknowledged and ACK with ACK_TIME is written; the sixteenth quick pass in a row lowers the
stretch by 1. A restart forgets the pass, the stretch, the pause and the values. A refilled budget lets the
link's next mirror write go. (R194, R198, R200, R201, R203, R204) -/
def Obligations.MirrorGroupsPassSkipEndAndRestart : Prop :=
  (∀ (g : MG) (s : State), mgLive s g.val = true →
    (mgDown s g.val = false → mgPaused s g.val = 0 → (mg s g.val).running = false →
      ((mg s g.val).fresh = false → (mg s g.val).resume = false → (mg s g.val).changed = [] →
        exec (.mirrorBoundaryUp g) s = .next s) ∧
      exec (.mirrorBoundaryUp g) s = .next (mgPassUp s g.val)) ∧
    (mgDown s g.val = true → mgPaused s g.val = 0 → (mg s g.val).running = false →
      exec (.mirrorBoundaryDown g) s = .next (mgPassDown s g.val)) ∧
    (mgPaused s g.val = 0 → (mg s g.val).running = true →
      exec (if mgDown s g.val then .mirrorBoundaryDown g else .mirrorBoundaryUp g) s = .next (
        let s1 := bump s 0x5E0A (hsub (halfOfMg g.val))
        let k := (mg s1 g.val).stretch
        if k < mgStretchMax s1 g.val then
          let t := updMg s1 g.val fun x => { x with stretch := x.stretch + 1, halfRuns := 0 }
          if k = 0 then raiseEv t (halfOfMg g.val) 8 g.val 1 0 else t
        else raiseEv s1 (halfOfMg g.val) 9 g.val k 0)) ∧
    (mgPaused s g.val ≠ 0 → exec (if mgDown s g.val then .mirrorBoundaryDown g else .mirrorBoundaryUp g) s =
      .next (updMg s g.val fun x => { x with resume := true }))) ∧
  (∀ (g : Nat) (s : State), Tab.wf MgSt.reset s.brdg.mgs = true →
    let t := mgStart s g
    mg t g = { mg s g with seq := if (mg s g).fresh then 1 else ((mg s g).seq + 1) % 2 ^ 64, fresh := false,
                           resume := false, running := true, started := s.clk, changed := [], readDone := false } ∧
    (∀ k, k ≠ g → mg t k = mg s k)) ∧
  (∀ (g : MG) (s : State), (mg s g.val).running = true →
    (mgDown s g.val = false → (s.fab.txns.any fun t => t.mark == .mirrorEnd g.val) = false →
      exec (.mirrorPassEnd g) s = .next (mgPassDone s g.val)) ∧
    ((s.fab.txns.any fun t => t.mark == .mirrorEnd g.val) = true → exec (.mirrorPassEnd g) s = .next s) ∧
    (mgDown s g.val = true → (mg s g.val).readDone = true → stateUnacked s g.val = false →
      exec (.downwardPassAcked g) s = .next (mgPassDone (mgWrite s g.val (.mirror g.val) 0
        (bytesLE 8 (mg s g.val).seq ++ bytesLE 8 (mg s g.val).readTime)) g.val)) ∧
    (stateUnacked s g.val = true → exec (.downwardPassAcked g) s = .next s)) ∧
  (∀ (g : Nat) (s : State), Tab.wf MgSt.reset s.brdg.mgs = true → (mg s g).halfRuns = 15 →
    2 * (s.clk - (mg s g).started) ≤ nsToClk (1000 * mgSpacing s g) →
    (mg (mgPassDone s g) g).stretch = (mg s g).stretch - 1 ∧ (mg (mgPassDone s g) g).halfRuns = 0 ∧
    (mg (mgPassDone s g) g).running = false) ∧
  (∀ (p : Path) (g : MG) (s : State), wideOpen s p (0x5C00 + g.val) (halfOfMg g.val) →
    Tab.wf MgSt.reset s.brdg.mgs = true → ∃ t, exec (.flowMgRestart p g) s = .next t ∧
      mg t g.val = { mg s g.val with seq := 0, doneSeq := 0, running := false, stretch := 0, halfRuns := 0, reason := 0,
                                     fresh := true, resume := false, changed := [], sentVals := [], sentAny := false,
                                     acks := 0, readDone := false } ∧
      (∀ k, k ≠ g.val → mg t k = mg s k) ∧
      t.fab.txns = s.fab.txns.filter (fun u => !(mgOf u == some g.val && u.left == u.size))) ∧
  (∀ (m : HL) (s : State), (mirrorTurn s m.val = none → exec (.mirrorBudgetRefill m) s = .next s) ∧
    (∀ t, mirrorTurn s m.val = some t → t.data.length ≤ 4096 → ∃ u, exec (.mirrorBudgetRefill m) s = .next u ∧
      u.brdg.bucket = Tab.set 0 (Tab.set 0 s.brdg.bucket m.val (min (budgetSpent s m.val) (4096 - t.data.length)))
        (16 + m.val) s.clk ∧ u = { s with brdg := { s.brdg with bucket := u.brdg.bucket } }))

/-- A DISCOVER is answered by ANNOUNCE. An OPEN of 16 bytes, while no lockout runs, a device key exists and
fewer than four sessions are open, is answered by a CHALLENGE with a number that nothing holds and 16 random
bytes, and waits for its PROOF; a lockout refuses with 7, a missing key with 6. A PROOF whose body is the
device's own HMAC opens the session and is answered by ACCEPT under the session key; another is counted,
ends the challenge and is refused with 5. A REQUEST outside a session whose body parses and whose answer
fits runs its operations in order, in a frame of at most 1,500 bytes; one that does not parse is refused
with 1. A CLOSE of a session is echoed and ends it. A mailbox frame is taken once. An unanswered challenge,
an idle session and a lockout end when their time is over. (R350, R351, R352, R354, R355, R356, R357) -/
def Obligations.FieldFramesAndMailboxesAreAnswered : Prop :=
  (∀ (fr : FieldFrame) (s : State), fieldOpen s fr 0x20 → exec (.discover fr) s =
    .next (emit s (.frame fr.src fr.ether.toNat (pduMake s 0x21 0 (pduSeq fr.pdu)
      (bytesLE 8 s.nv.fuses.mac ++ bytesLE 1 s.sys.straps.devid.toNat ++ bytesLE 1 (mode s) ++
        bytesLE 8 s.nv.fuses.dsn ++ bytesLE 2 0) none)))) ∧
  (∀ (fr : FieldFrame) (s : State), fieldOpen s fr 0x10 → (pduBody fr.pdu).length = 16 →
    let h := leadHalf s
    let b := Back.field fr.src fr.ether.toNat
    ((dictOf s h).lockout = true → exec (.open_ fr) s = .next (refuse s h b none fr.pdu 7)) ∧
    ((dictOf s h).lockout = false → keyOf s h = none → exec (.open_ fr) s = .next (refuse s h b none fr.pdu 6)) ∧
    (∀ k, (dictOf s h).lockout = false → keyOf s h = some k → ((dictOf s h).sessions.filter (·.opened)).length < 4 →
      let u := (sessNumber s).2
      let nd := exactly 16 (Config.freeBytes u.freeCtr)
      exec (.open_ fr) s = .next (sendBack (updDict { u with freeCtr := u.freeCtr + 1 } h fun x =>
        { x with sessions := x.sessions ++ [⟨(sessNumber s).1, false, pduBody fr.pdu, nd, k, none, [], []⟩] }) b
        (pduMake s 0x11 (sessNumber s).1 (pduSeq fr.pdu) nd none)))) ∧
  (∀ (fr : FieldFrame) (x : Sess) (s : State), fieldOpen s fr 0x12 → challenge s (pduSess fr.pdu) = some x →
    ((dictOf s (leadHalf s)).sessions.filter (·.opened)).length < 4 →
    let b := Back.field fr.src fr.ether.toNat
    let ks := sessMac x.ks 0x53 x.nc x.nd x.num
    let t := updSess s x.num fun y => { y with opened := true, ks := ks, seq := some (pduSeq fr.pdu), tag := [], resp := [] }
    exec (.proof fr) s = .next (if pduBody fr.pdu = sessMac x.ks 0x31 x.nc x.nd x.num
      then emit t (.frame fr.src fr.ether.toNat (pduMake s 0x13 x.num (pduSeq fr.pdu)
        (sessMac x.ks 0x32 x.nd x.nc x.num) (some ks)))
      else refuse (proofFailed s x.num) (leadHalf s) b none fr.pdu 5)) ∧
  (∀ (fr : FieldFrame) (s : State), fieldOpen s fr 0x01 → pduSess fr.pdu = 0 →
    let b := Back.field fr.src fr.ether.toNat
    (bodyOps (pduBody fr.pdu) = none → exec (.mdpRequest (.field fr)) s = .next (refuse s (leadHalf s) b none fr.pdu 1)) ∧
    (∀ ops, bodyOps (pduBody fr.pdu) = some ops → 16 + (ops.map answerRoom).sum ≤ 1500 →
      exec (.mdpRequest (.field fr)) s = .next (serveOps s (.field 0) b 0 (fr.pdu.take 16) [] (pduBody fr.pdu))) ∧
    (∀ ops, bodyOps (pduBody fr.pdu) = some ops → 1500 < 16 + (ops.map answerRoom).sum →
      exec (.mdpRequest (.field fr)) s =
        .next (sendAny s b 0 0x02 (pduSeq fr.pdu) (ops.flatMap fun o => answer o stTooLong [])))) ∧
  (∀ (fr : FieldFrame) (x : Sess) (s : State), sessFresh s fr x → pduTyp fr.pdu = 0x14 →
    let tag := fr.pdu.drop (fr.pdu.length - 32)
    let s1 := updSess s x.num fun y => { y with seq := some (pduSeq fr.pdu), tag := tag, resp := [] }
    let s2 := sendSess s1 (.field fr.src fr.ether.toNat) x 0x14 (pduSeq fr.pdu) []
    exec (.close fr) s = .next (sessEnd s2 (leadHalf s2) x.num)) ∧
  (∀ (m : HL) (s : State), (mbx s m.val).orphan = [] →
    ((mbx s m.val).busy = false ∨ (mbx s m.val).taken = true → exec (.mdpRequest (.mailbox m)) s = .next s) ∧
    (s.sys.resetLow = false → (half s (halfOfHl m.val)).stewardHalted = false →
      (half s (halfOfHl m.val)).boot = .complete → (mbx s m.val).busy = true → (mbx s m.val).taken = false →
      exec (.mdpRequest (.mailbox m)) s = .next (mbxFrame (updMbx s m.val fun y => { y with taken := true }) m.val true
        (readBytes 0 (mbx s m.val).req 0 (mbx s m.val).reqLen)))) ∧
  (∀ (n : BitVec 16) (s : State),
    (∀ x, challenge s n.toNat = some x → exec (.challengeTimeout n) s = .next (updDict s (leadHalf s) fun d =>
      { d with sessions := d.sessions.filter fun y => y.num != x.num })) ∧
    (challenge s n.toNat = none → exec (.challengeTimeout n) s = .next s) ∧
    (∀ x, openSess s n.toNat = some x →
      exec (.sessionIdleTimeout n) s = .next (sessEnd s (leadHalf s) x.num)) ∧
    (openSess s n.toNat = none → exec (.sessionIdleTimeout n) s = .next s) ∧
    exec .proofLockoutEnd s = .next (updDict s (leadHalf s) fun d => { d with lockout := false }))

/-- Through an open AG_ register: while a request or its cut is under way an apply is counted in OD 0xF000:0B
and ends busy; one that names a group that another path owns ends locked; where no apply is accepted it is
rejected with 0x9001:00; with a reserved group with 0xF000:01; an empty mask is accepted and counted at
once; else the pending values of the named groups leave the shadow as the request's snapshot. Discard, claim
and release change the dictionary as R365 and R371 say, and nothing else. A check that finds nothing makes
the cut, and one half alone ends accepted; one that finds an object rejects with it and gives the values
back. The follower acts on a cut it has received; its acknowledgement accepts the request. A seal pass
starts, starts over when a sealed field changed, or compares the seal with the reference. (R18, R332, R333,
R365, R366, R368, R370, R371, R372, R373, R374) -/
def Obligations.ApplyGroupsAreSnapshotCheckedCutAndSealed : Prop :=
  (∀ (p : Path) (mask : W32) (s : State), agOpen s p →
    let e := pathHalf s p
    let h := servHalf s e
    let d := dictOf s h
    let m := mask.toNat
    (d.apply.isSome = true ∨ d.cutWait = true → exec (.agApply p mask) s =
      .next (updDict (bumpW s h 0xF000 0x0B) h fun x => { x with res := 4 })) ∧
    (d.apply = none → d.cutWait = false →
      (maskLocked d (pathId p) m = true → exec (.agApply p mask) s = .next (updDict s h fun x => { x with res := 5 })) ∧
      (maskLocked d (pathId p) m = false → applyShut s h = true → exec (.agApply p mask) s =
        .next (updDict s h fun x => { x with res := 2, failIdx := 0x9001, failSub := 0 })) ∧
      (maskLocked d (pathId p) m = false → applyShut s h = false →
        (maskReserved m = true → exec (.agApply p mask) s =
          .next (updDict s h fun x => { x with res := 2, failIdx := 0xF000, failSub := 1 })) ∧
        (m = 0 → exec (.agApply p mask) s = .next (updDict (bumpW s h 0xF000 0x0A) h fun x => { x with res := 1 })) ∧
        (maskReserved m = false → m ≠ 0 → exec (.agApply p mask) s = .next (updDict s h fun x =>
          { x with
            shadow := Tab.keep (fun k _ => !keyIn m k) x.shadow
            keepSh := if m.testBit 20 then none else x.keepSh
            dirty := without x.dirty m
            apply := some ⟨m, Tab.keep (fun k _ => keyIn m k) x.shadow, if m.testBit 20 then x.keepSh else none,
              x.dirty &&& m, 0, .reg⟩ }))))) ∧
  (∀ (p : Path) (mask : W32) (s : State), agOpen s p →
    let h := servHalf s (pathHalf s p)
    exec (.agDiscard p mask) s = .next (updDict s h fun d => discard d mask.toNat) ∧
    exec (.agClaim p mask) s = .next (updDict s h fun d => claim d (pathId p) mask.toNat) ∧
    exec (.agRelease p mask) s = .next (updDict s h fun d => release d (pathId p) mask.toNat)) ∧
  (∀ (h : Half) (q : ApplyReq) (s : State), servHalf s h = h → (dictOf s h).apply = some q →
    (dictOf s h).cutWait = false → (half s h).stewardHalted = false →
    (applyShut s h = true → exec (.applyCheckComplete h) s =
      .next (resumeWith (applyEnd s h 2 (some (0x9001, 0)) fun x => giveBack x q))) ∧
    (∀ b, applyShut s h = false → applyBad s h q = some b → exec (.applyCheckComplete h) s = .next (resumeWith
      (applyEnd s h (if b.res = 3 then 3 else 2) (some (b.idx, b.sub)) fun x => giveBack x q))) ∧
    (applyShut s h = false → applyBad s h q = none → exec (.applyCheckComplete h) s = .next (
      if oneHalf s then resumeWith (applyEnd (leadCut s h q) h 1 none fun x => { x with apply := none })
      else leadCut s h q))) ∧
  (∀ (h : Half) (s : State), (dictOf s h).apply = none → exec (.applyCheckComplete h) s = .next s) ∧
  (∀ (s : State),
    (s.dict.folWait = false → exec .followerCutAct s = .next s) ∧
    (s.dict.folWait = true → oneHalf s = false → let c := folCut s.dict
      let f := otherHalf (leadHalf s)
      let t := actCut s f false (fun t => updHalf { t with dict := { t.dict with folWait := false, folPrev := [] } } f fun x =>
        { x with freed := false }) c.1 c.2
      exec .followerCutAct s = .next { t with dict := { t.dict with folSeq := t.dict.seq } }) ∧
    (s.dict.cutWait = false ∨ s.dict.folWait = true → exec .cutAck s = .next s) ∧
    (oneHalf s = false → s.dict.cutWait = true → s.dict.folWait = false → s.dict.apply.isSome = true → dieUp s = true →
      exec .cutAck s = .next (resumeWith (applyEnd s (leadHalf s) 1 none fun d =>
        { d with apply := none, cutWait := false })))) ∧
  (∀ (h : Half) (s : State), sealer s h = true → let d := dictOf s h
    (d.sealRun = false → exec (.sealPassStart h) s = .next (updDict s h fun x => { x with sealRun := true, sealDirty := false }) ∧
      exec (.sealPassComplete h) s = .next s) ∧
    (d.sealRun = true → exec (.sealPassStart h) s = .next s) ∧
    (d.sealRun = true → d.sealDirty = true → exec (.sealPassComplete h) s =
      .next (updDict s h fun x => { x with sealRun := true, sealDirty := false })) ∧
    (d.sealRun = true → d.sealDirty = false → sealShut s h = false → d.sealOn = true →
      let v := sealOf s h (sealOwn s h)
      exec (.sealPassComplete h) s = .next (let t := updDict s h fun x => { x with sealRun := false, sealNow := v }
        if v = runVal d 0xF000 3 then updDict t h fun x => { x with sealSt := .match_ }
        else if d.sealSt = .mismatch then bumpW (updDict t h fun x => { x with sealSt := .mismatch }) h 0xF000 6
        else raiseEv (bumpW (updDict t h fun x => { x with sealSt := .mismatch }) h 0xF000 6) h 15 0 0 0)))

/-- Through an open instance that may write flash: an erase or a verify of slot 0 or 1, not the running one and
while no operation runs, starts; another slot number changes nothing. The erase ends with the slot EMPTY and
chosen for writing; a window segment that fits stores its bytes in the slot last erased and makes it
WRITTEN; a verify ends with the slot VALID or BAD as its image is. Activating a VALID slot makes it TRIAL
with three attempts and preferred. Confirming makes the running TRIAL slot CONFIRMED. A commit on a
CONFIRMED slot raises the security counter to the image's version and never lowers it. On a CONFIRMED slot
an empty key slot from 1 to 3 takes a whole hash, once, and a key slot that is not the running image's is
revoked. A device key segment enters the key; over the field port it is refused. (R358, R418, R420, R428,
R429, R430, R431, R469) -/
def Obligations.FlashIsErasedWrittenVerifiedAndCommitted : Prop :=
  (∀ (p : Path) (v : Byte) (s : State), instOpen s p 0x1021 →
    let h := servHalf s (pathHalf s p)
    (2 ≤ v.toNat → exec (.erase p v) s = .next s ∧ exec (.verify p v) s = .next s) ∧
    (v.toNat < 2 → flashShut s h = false → upBusy s h = false → runSlot s h ≠ v.toNat →
      exec (.erase p v) s = .next (updUp s h fun u => { u with op := .erase v.toNat, prog := 1 }) ∧
      exec (.verify p v) s = .next (updUp s h fun u => { u with op := .verify v.toNat, prog := 1 }))) ∧
  (∀ (sl : Nat) (s : State), let h := leadHalf s
    ((upSt s h).op = .erase sl → exec .eraseComplete s = .next (updUp (setSlotState (forAll s (flashTargets s h) fun u k =>
      updFlash u k fun f => { f with bytes := clearBytes f.bytes (slotBase sl) (slotBase sl + 31 * 1048576) }) h sl .empty) h
        fun u => { u with op := .none, prog := 2, last := some sl })) ∧
    ((upSt s h).op = .verify sl → exec .verifyComplete s = .next (
      if imageOk s (flash s h) sl then updUp (setSlotState s h sl .valid) h fun u => { u with op := .none, prog := 2 }
      else updUp (setSlotState s h sl .bad) h fun u => { u with op := .none, prog := 3 })) ∧
    ((upSt s .a).op = .none → (upSt s .b).op = .none →
      exec .eraseComplete s = .next s ∧ exec .verifyComplete s = .next s)) ∧
  (∀ (p : Path) (off : BitVec 16) (bs : List Byte) (sl : Nat) (s : State), instOpen s p 0x1021 →
    let h := servHalf s (pathHalf s p)
    off.toNat + bs.length ≤ 65536 → flashShut s h = false → upBusy s h = false → (upSt s h).last = some sl →
    runSlot s h ≠ sl → exec (.imageWindowWrite p off bs) s = .next (setSlotState (forAll s (flashTargets s h) fun u k =>
      updFlash u k fun f => { f with bytes := writeBytes 0xFF f.bytes (slotBase sl + ((upSt s h).base + off.toNat)) bs })
      h sl .written)) ∧
  (∀ (p : Path) (v : Byte) (s : State), instOpen s p 0x1022 →
    let h := servHalf s (pathHalf s p)
    flashShut s h = false →
    (v.toNat < 2 → upBusy s h = false → runSlot s h ≠ v.toNat → slotState s h v.toNat = .valid →
      exec (.activate p v) s = .next (updUp (forAll s (flashTargets s h) fun u k => updFlash u k fun f =>
        putBootRec f fun r => { r.put v.toNat .trial 3 with pref := v.toNat }) h fun u => { u with prog := 2 })) ∧
    (v.toNat = 1 → runSlot s h < 2 → slotState s h (runSlot s h) = .trial →
      exec (.confirm p v) s = .next (setSlotState s h (runSlot s h) .confirmed)) ∧
    (v.toNat = 1 → runConfirmed s h = true → exec (.commit p v) s = .next (outdated (updNv s fun n => { n with fuses :=
      { n.fuses with counter := max n.fuses.counter (min 63 (imgSvn (flash s h) (runSlot s h))) } }) h)) ∧
    (v.toNat = 0 → exec (.confirm p v) s = .next s ∧ exec (.commit p v) s = .next s)) ∧
  (∀ (p : Path) (k : Fin 4) (hash : List Byte) (s : State), instOpen s p 0x1023 →
    let h := servHalf s (pathHalf s p)
    hash.length = 48 → flashShut s h = false → runConfirmed s h = true → k.val ≠ 0 → s.nv.fuses.keys.getD k.val [] = [] →
    exec (.fuseKeySlot p k 0 hash) s = .next { s with nv := { s.nv with fuses := { s.nv.fuses with
      keys := s.nv.fuses.keys.set k.val hash } } }) ∧
  (∀ (p : Path) (k : Fin 4) (off : BitVec 16) (hash : List Byte) (s : State), instOpen s p 0x1023 →
    k.val = 0 ∨ s.nv.fuses.keys.getD k.val [] ≠ [] → exec (.fuseKeySlot p k off hash) s = .next s) ∧
  (∀ (p : Path) (v : Byte) (s : State), instOpen s p 0x1023 →
    let h := servHalf s (pathHalf s p)
    (3 < v.toNat → exec (.revokeKeySlot p v) s = .next s) ∧
    (v.toNat ≤ 3 → flashShut s h = false → runConfirmed s h = true → imgKey (flash s h) (runSlot s h) ≠ v.toNat →
      exec (.revokeKeySlot p v) s = .next { s with nv := { s.nv with fuses := { s.nv.fuses with
        revoked := s.nv.fuses.revoked.set v.toNat true } } })) ∧
  (∀ (p : Path) (off : BitVec 16) (bs : List Byte) (s : State), instOpen s p 0x1100 → (∀ n, p ≠ .field n) →
    let h := servHalf s (pathHalf s p)
    off.toNat + bs.length ≤ 32 → flashShut s h = false →
    exec (.deviceKeyWrite p off bs) s = .next (forAll s (flashTargets s h) fun u k => updFlash u k fun f =>
      { f with key := (exactly 32 f.key).take off.toNat ++ bs ++ (exactly 32 f.key).drop (off.toNat + bs.length) })) ∧
  (∀ (n : BitVec 16) (off : BitVec 16) (bs : List Byte) (s : State), pathPriv s (.field n) = true →
    exec (.deviceKeyWrite (.field n) off bs) s = .next s)

/-- With a level change under way and no rail request waiting, the switch point puts the new level in force and
judges the C0 reservations: a raise is then complete, a lowering requests VDD_CORE at the voltage of the new
level, with VDD_ENG to follow. A write answered with Slave Ack 0 makes the request accepted; VDone then
records the voltage of the rail and sends the next request, or ends the change. A status poll sends a Read
Status. The first time out sends the request again; the second, of a level change, raises AVS_FAIL and,
where the level was being raised, requests the old voltage. On grade E at P0, a half above 105 degrees holds
the device: LEVEL_HELD, and a change to P1; when both are at or below 100 it returns by way of the P0
voltages. A silent rail, or no change, changes nothing. (R377, R379, R380, R381) -/
def Obligations.PerformanceLevelsMoveWithTheirVoltages : Prop :=
  (∀ (v : Nat) (s : State), s.pwr.target = some v → s.pwr.sleep = 0 → s.pwr.avs = none → v ≠ s.pwr.level →
    let s1 := c0Judge (updPwr s fun p => { p with level := v }) v
    exec .levelSwitchPoint s = .next (if v < s.pwr.level then levelDone s1 else
      avsStart s1 false (levelMv v) .level [(true, levelMv v)])) ∧
  (∀ s : State, s.pwr.target = none → exec .levelSwitchPoint s = .next s) ∧
  (∀ (r : AvsReq) (s : State), s.pwr.avs = some r →
    exec .avsStatusPoll s = .next (emit s (.avs r.rail false 0)) ∧
    exec (.avsResponse (.writeAck r.rail 0)) s = .next (updPwr s fun p => { p with avs := some { r with acked := true } }) ∧
    (∀ (v : Bool) (a : BitVec 2), v ≠ r.rail ∨ a ≠ 0 → exec (.avsResponse (.writeAck v a)) s = .next s) ∧
    exec (.avsResponse (.status r.rail false)) s = .next s ∧
    (∀ m rest, r.acked = true → r.tries < 3 → r.use = .level → r.next = m :: rest → s.pwr.avsFail = false →
      exec (.avsResponse (.status r.rail true)) s = .next (avsStart (updPwr s fun p =>
        { p with vcore := if r.rail then p.vcore else r.mv, veng := if r.rail then r.mv else p.veng, avs := none, avsFail := false })
          m.1 m.2 .level rest)) ∧
    (r.acked = true → r.tries < 3 → r.use = .level → r.next = [] → s.pwr.avsFail = false → s.pwr.target = some s.pwr.level →
      exec (.avsResponse (.status r.rail true)) s = .next (levelDone (updPwr s fun p =>
        { p with vcore := if r.rail then p.vcore else r.mv, veng := if r.rail then r.mv else p.veng, avs := none, avsFail := false }))) ∧
    (r.tries = 1 → exec (.avsRequestTimeout r.rail) s = .next (emit (updPwr s fun p => { p with
      avs := some { r with acked := false, tries := 2 } }) (.avs r.rail true r.mv))) ∧
    (∀ v, r.tries = 2 → r.use = .level → s.pwr.target = some v → exec (.avsRequestTimeout r.rail) s = .next (
      let t := updPwr (raiseEv (alertOn (updPwr s fun p => { p with avsFail := true }) 3) (rindHalf s) 34
        (if r.rail then 1 else 0) 1 0) fun p => { p with target := none, avs := none }
      if v < s.pwr.level then avsStart t false (levelMv s.pwr.level) .restore [(true, levelMv s.pwr.level)] else t)) ∧
    exec (.avsRequestTimeout (!r.rail)) s = .next s) ∧
  (∀ (fr : AvsFrame) (rail : Bool) (s : State), s.pwr.avs = none → exec (.avsResponse fr) s = .next s ∧
    exec .avsStatusPoll s = .next s ∧ exec (.avsRequestTimeout rail) s = .next s) ∧
  (∀ (h : Half) (tj : Int) (s : State), s.pwr.sleep = 0 → s.pwr.target = none → levelAsked s = 0 →
    let u := updPwr s fun p => match h with | .a => { p with tjA := tj } | .b => { p with tjB := tj }
    (s.nv.fuses.gradeE = true → s.pwr.level = 0 → s.pwr.held = false → 420 < tj →
      exec (.tempThresholdCross h tj) s = .next (updPwr
        (raiseEv (updPwr u fun p => { p with held := true }) (rindHalf s) 33 0 1 0) fun p => { p with target := some 1 })) ∧
    (s.pwr.held = true → s.pwr.level = 1 → u.pwr.tjA ≤ 400 → u.pwr.tjB ≤ 400 →
      exec (.tempThresholdCross h tj) s = .next (avsStart (updPwr
        (raiseEv (updPwr u fun p => { p with held := false }) (rindHalf s) 33 0 0 0) fun p => { p with target := some 0 })
          false 800 .level [(true, 800)])))

/-- Through an open path a write of 1 to 3 to PWR_SLEEP asks for that state, of two halves for the shallower; 0
asks nothing. At the check the first failing row of Table 14.4 is recorded, counted by state and raised as
SLEEP_REFUSED and the request ends; where no row fails nothing is in progress, outstanding or queued, for S2
and S3 no host link is up and no semaphore held, for S1 no local packet waits, and the entry commits. The
idle timer commits an entry to S1 whose conditions hold. A completed entry puts the state in force and
counts it; a wake that came meanwhile begins the exit at once; a rail that failed aborts it. A management
access wakes S1; comparator 0, where enabled, wakes S3: the voltages of P3 are requested and WAKE_N is
driven low until its time ends. An exit from S1 is complete at once and raises WOKEN with its cause. Without
a commit, an exit or a request nothing happens. (R384, R385, R386, R387, R388, R389, R393, R394, R396) -/
def Obligations.SleepIsAskedCheckedEnteredAndLeft : Prop :=
  (∀ (p : Path) (v : BitVec 2) (s : State), wideOpen s p 0x7001 (pathHalf s p) →
    let i := halfIdx (pathHalf s p)
    (v = 0 → exec (.pwrSleep p v) s = .next s) ∧
    (v ≠ 0 → s.pwr.reqHalf.getD (1 - i) 0 = 0 → i < s.pwr.reqHalf.length → exec (.pwrSleep p v) s = .next (updPwr s fun x =>
      { x with request := some v.toNat, reqHalf := s.pwr.reqHalf.set i v.toNat }))) ∧
  (∀ (v : Nat) (s : State), s.pwr.request = some v → s.pwr.sleep = 0 → s.pwr.commit = false →
    (∀ c i, sleepBlocked s v false = some (c, i) → exec .sleepEntryCheck s = .next (raiseEv (bump (updPwr s fun p =>
      { p with refuser := BitVec.ofNat 32 (c + place i 8 16 + place v 24 2), refTime := timeNow s, request := none,
               reqHalf := [0, 0], early := false }) 0x7005 v) (rindHalf s) 35 i c v)) ∧
    (sleepBlocked s v false = none → exec .sleepEntryCheck s = .next (
      let t := updPwr s fun p => { p with commit := true, request := some v }
      if v = 1 then t else deepEntry t v))) ∧
  (∀ (v : Nat) (auto : Bool) (s : State), sleepBlocked s v auto = none →
    rowSequencing s = none ∧ rowHalf s = none ∧ (auto = false → rowOther s = none) ∧ rowFlow s = none ∧
    rowRequests s = none ∧ rowEngine s = none ∧ rowQueue s = none ∧ rowMirror s = none ∧
    (2 ≤ v → rowHostLink s = none ∧ rowSemaphore s = none) ∧ (v = 1 → rowLocalLink s = none)) ∧
  (∀ s : State, s.pwr.sleep = 0 → s.pwr.request = none → s.pwr.commit = false → s.sys.resetLow = false →
    exec .s1IdleTimer s = .next (if cfg s (rindHalf s) 0x7002 1 ≠ 0 ∧ sleepBlocked s 1 true = none then
      updPwr s fun p => { p with commit := true, request := some 1 } else s)) ∧
  (∀ (v : Nat) (s : State), s.pwr.commit = true → s.pwr.request = some v →
    let t := updPwr (bump (residence s) 0x7004 v) fun p =>
      { p with sleep := v, commit := false, request := none, reqHalf := [0, 0], early := false }
    (s.pwr.avs = none → exec .sleepEntryComplete s =
      .next (if s.pwr.early then bump (wakeBy t s.pwr.cause s.pwr.inst) 0x7006 2 else t)) ∧
    (∀ r, s.pwr.avs = some r → v ≠ 1 → r.use = .entry → r.tries = 3 →
      exec .sleepEntryComplete s = .next (sleepAbort s r.rail v))) ∧
  (∀ s : State, s.pwr.commit = false → exec .sleepEntryComplete s = .next s) ∧
  (∀ s : State, s.pwr.request = none → exec .sleepEntryCheck s = .next s) ∧
  (∀ s : State, s.pwr.exiting = false →
    (s.pwr.sleep = 1 → exec (.wake .management) s = .next (updPwr s fun p =>
      { p with exiting := true, cause := 7, inst := 0, exitStart := s.clk, wakeLow := false })) ∧
    (s.pwr.sleep = 3 → (cfg s (leadHalf s) 0x7003 1).testBit 8 = true → exec (.wake (.timer 0)) s = .next (
      avsStart (updPwr s fun p => { p with exiting := true, cause := 3, inst := 0, exitStart := s.clk, wakeLow := true })
        false 600 .exit [(true, 600)])) ∧
    (1 < s.pwr.sleep → exec (.wake .management) s = .next s) ∧
    exec .sleepExitComplete s = .next s) ∧
  (∀ (c : WakeCause) (s : State), awake s → exec (.wake c) s = .next s) ∧
  (∀ s : State, s.pwr.exiting = true → s.pwr.avs = none → s.pwr.sleep = 1 → exec .sleepExitComplete s = .next (
    let t := updPwr (residence s) fun p => { p with sleep := 0, exiting := false, early := false }
    let u := putCount (bump t 0x700A s.pwr.cause) 0x7008 1 ((s.clk - s.pwr.exitStart) / 1250)
    raiseEv u (rindHalf u) 37 s.pwr.inst s.pwr.cause 1)) ∧
  (∀ s : State, s.pwr.exiting = true → s.pwr.avs = none → s.pwr.sleep = 2 → s.pwr.cave.valid = true →
    exec .sleepExitComplete s = .next (exitDone (timeRestore (flopsLost s)))) ∧
  (∀ s : State, exec .wakeNDriveEnd s = .next (updPwr s fun p => { p with wakeLow := false }))

/-- Through an open path a load sets seconds and nanoseconds with no fraction, sets TIME_VALID and raises
TIME_STEPPED; a step adds its signed nanoseconds and raises it too. A new time replaces seconds, nanoseconds
and fraction, and where no armed comparator compares time nothing else but the copy of the other half and
the pair of the calibration; a sum within range is exact to 2 to the power -32 ns. An armed comparator sets
FIRED, raises TIME_ALARM, and a periodic one moves its value on by its period; an unarmed one does nothing.
Where PPS_OUT is driven a rollover of the seconds raises it, and its end lowers it. An accepted PPS_IN edge
is captured less its delay and measured against the nearest second; one too short or too soon is only
counted; PPS_IN_LOST is raised once per gap. With no time service named no measurement is made; otherwise
the fields are written in its servo page. (R27, R395, R399, R401, R402, R404) -/
def Obligations.DeviceTimeIsLoadedSteppedComparedAndPulsed : Prop :=
  (∀ (p : Path) (s : State), regOpen s p (pathHalf s p) →
    (fld s.time.loadNs 0 30 < 1000000000 → exec (.timeLoad p) s = .next (raiseEv
      (updTime (timeSet s (fld s.time.loadH 0 16 * 2 ^ 32 + s.time.loadL.toNat) (fld s.time.loadNs 0 30) 0) fun t =>
        { t with valid := true }) (rindHalf s) 42 0 1 0)) ∧
    exec (.timeStep p) s = .next (raiseEv (timeAdd s (s.time.stepNs.toInt * 65536)) (rindHalf s) 42 0 2 0)) ∧
  (∀ (sec ns frac : Nat) (s : State), (∀ n, n < 4 → tcArmed s n = true → tcMode1 s n = false) →
    timeSet s sec ns frac = updTime s fun t =>
      { t with sec := sec % 2 ^ 48, ns := ns, frac := frac, capNs := none,
               folOff := if pulseCrosses s then 0 else t.folOff + (Int.ofNat (timeNs s) - Int.ofNat (sec * 1000000000 + ns)) }) ∧
  (∀ (d : Int) (s : State), let now := Int.ofNat (timeNs s * 2 ^ 32 + s.time.frac) + d * 65536
    0 ≤ now → now < 2 ^ 48 * 1000000000 * 2 ^ 32 →
    ∃ sec ns frac, timeAdd s d = timeSet s sec ns frac ∧ sec < 2 ^ 48 ∧ ns < 1000000000 ∧ frac < 2 ^ 32 ∧
      Int.ofNat ((sec * 1000000000 + ns) * 2 ^ 32 + frac) = now) ∧
  (∀ (n : Fin 4) (s : State),
    (tcArmed s n.val = true → exec (.tcMatch n) s = .next (wakeSrc (raiseEv (updTime s fun t =>
      { t with fired := t.fired.set n.val true,
               tcAdv := if tcPeriodic s n.val then t.tcAdv.set n.val (t.tcAdv.getD n.val 0 + tcw s n.val 1) else t.tcAdv })
      (rindHalf s) 38 n.val 0 0) 3 n.val)) ∧
    (tcArmed s n.val = false → exec (.tcMatch n) s = .next s)) ∧
  (∀ s : State, (s.time.running = true → s.pwr.sleep ≤ 1 → ppsDriven s = true →
      exec .secondsRollover s = .next (emit (updTime s fun t => { t with ppsOut := true }) (.pulse 0 1))) ∧
    (ppsDriven s = false → exec .secondsRollover s = .next s) ∧
    (s.time.ppsOut = true →
      exec .ppsOutHighTimeEnd s = .next (emit (updTime s fun t => { t with ppsOut := false }) (.pulse 0 0))) ∧
    (s.time.ppsOut = false → exec .ppsOutHighTimeEnd s = .next s) ∧
    (s.time.running = true → exec .ppsInLost s = .next (if s.time.ppsLost then s else
      raiseEv (updTime s fun t => { t with ppsLost := true }) (rindHalf s) 43 0 0 0))) ∧
  (∀ (high : Nat) (s : State), s.time.running = true → s.pwr.sleep ≤ 1 →
    (high < 100 → exec (.ppsInEdge high) s = .next (bump s 0x7401 5)) ∧
    (∀ c, s.time.ppsLast = some c → clkToNs (s.clk - c) < 500000000 → exec (.ppsInEdge high) s = .next (bump s 0x7401 5)) ∧
    (100 ≤ high → (∀ c, s.time.ppsLast = some c → 500000000 ≤ clkToNs (s.clk - c)) →
      let cap := timeNs s - cfg s (rindHalf s) 0x7401 4
      exec (.ppsInEdge high) s = .next (measure (updTime s fun t => { t with ppsLast := some s.clk, ppsLost := false })
        1 (timeFmt cap) (ppsOffset cap * 65536) 0))) ∧
  (∀ cap : Nat, (cap % 1000000000 < 500000000 → ppsOffset cap = -Int.ofNat (cap % 1000000000)) ∧
    (500000000 < cap % 1000000000 → ppsOffset cap = Int.ofNat (1000000000 - cap % 1000000000))) ∧
  (∀ (k : Nat) (tm : W64) (off : Int) (d : Nat) (s : State),
    (servoCluster s = none → measure s k tm off d = s) ∧
    (∀ c, servoCluster s = some c → measure s k tm off d = raiseEv (updTime (updClus s c fun x => { x with
        mem := [(0x08, k), (0x10, tm.toNat), (0x18, (BitVec.ofInt 64 off).toNat), (0x20, d), (0x28, s.time.incr),
                (0x00, s.time.mSeq + 1)].foldl (fun m w => writeBytes 0 m (0xFFF00 + w.1) (bytesLE 8 w.2)) x.mem }) fun t =>
      { t with mSeq := s.time.mSeq + 1, mClk := some s.clk }) (rindHalf s) 39 0 k 0))

/-- A dialogue on the link named for PTM sends a request and keeps the time at which it leaves; a response gives
half the time away as link delay, and the offset of the master; a missing one is counted. A correction with
a new sequence number is taken once: an INCR out of range is counted and raises SERVO_REJECT; else INCR and
step take effect, LOCKED takes lock where a measurement is at most 2 s old, UNLOCK ends it and raises
TIME_UNLOCKED. A sequence number seen does nothing; 0 is no correction, and the next one counts as new. In
S0 with the lead steward up, a capture after another adds its ratio, of which the last 64 are averaged. A
pop removes the oldest timestamp of its half. A lost rind sets RIND_LOST; with its power the cave and the
ticks are lost. (R398, R403, R404, R405, R406, R408) -/
def Obligations.MeasurementsCorrectionsAndTimestampsAreHandled : Prop :=
  (∀ (m : Nat) (s : State), ptmLink s = some m → s.time.running = true → s.pwr.sleep = 0 →
    exec .ptmDialogue s = .next (tlpOut (updTime s fun t => { t with ptm := some (timeNs s * 65536 + t.frac / 65536) })
      m .ptmRequest)) ∧
  (∀ s : State, ptmLink s = none → exec .ptmDialogue s = .next s) ∧
  (∀ (t1 : Nat) (master : BitVec 64) (prop : BitVec 32) (s : State), s.time.ptm = some t1 →
    let s1 := updTime s fun t => { t with ptm := none }
    let delay := (timeNs s * 65536 + s.time.frac / 65536 - t1 - prop.toNat * 65536) / 2
    exec (.ptmResponse none) s = .next (bump s1 0x7410 3) ∧
    exec (.ptmResponse (some (master, prop))) s = .next (measure s1 2 (timeFmt (t1 / 65536))
      (Int.ofNat (master.toNat * 65536) - Int.ofNat delay - Int.ofNat t1) delay)) ∧
  (∀ (answer : Option (BitVec 64 × BitVec 32)) (s : State), s.time.ptm = none → exec (.ptmResponse answer) s = .next s) ∧
  (∀ (c n incr flags : Nat) (step : Int) (s : State), servoCluster s = some c → s.pwr.sleep ≤ 1 →
    servoWord s c 0x80 8 = n → servoWord s c 0x88 8 = incr → servoWord s c 0x98 4 = flags →
    (BitVec.ofNat 64 (servoWord s c 0x90 8)).toInt = step →
    let u := updTime s fun t => { t with cSeen := n }
    (n = s.time.cSeen → exec .servoPoll s = .next s) ∧
    (n = 0 → n ≠ s.time.cSeen → exec .servoPoll s = .next u) ∧
    (n ≠ 0 → n ≠ s.time.cSeen →
      (incr ≠ 0 → incrOk incr = false → exec .servoPoll s = .next (raiseEv (bump u 0x7420 2) (rindHalf s) 44 0 0 0)) ∧
      (incr ≠ 0 → incrOk incr = true → step = 0 → flags = 0 →
        exec .servoPoll s = .next (updTime u fun t => { t with incr := incr })) ∧
      (incr = 0 → step ≠ 0 → flags = 0 →
        exec .servoPoll s = .next (timeStepped (updTime (timeAdd u step) fun t => { t with valid := true }) 3)) ∧
      (incr = 0 → step = 0 → flags = 1 → exec .servoPoll s = .next (match s.time.mClk with
        | some k => if clkToNs (s.clk - k) ≤ 2000000000 then raiseEv (updTime u fun t =>
            { t with uncertain := false, valid := true, locked := true, bound := 0 }) (rindHalf s) 40 0 0 0 else u
        | none => u)) ∧
      (incr = 0 → step = 0 → flags = 2 → exec .servoPoll s = .next (raiseEv (updTime u fun t =>
        { t with uncertain := true, locked := false, boundClk := if t.uncertain && !t.locked then t.boundClk else s.clk })
          (rindHalf s) 41 0 0 0)))) ∧
  (∀ s : State, servoCluster s = none → exec .servoPoll s = .next s) ∧
  (∀ s : State, s.pwr.sleep = 0 → stewardUp s (rindHalf s) = true → s.time.running = true →
    (s.time.capNs = none → s.time.ratios = [] →
      exec .calibrationCapture s = .next (updTime s fun t => { t with capNs := some (timeNs s, t.tick) })) ∧
    (∀ n0 t0, s.time.capNs = some (n0, t0) → t0 < s.time.tick → n0 ≤ timeNs s →
      let all := s.time.ratios ++ [(timeNs s - n0) * 2 ^ 32 / (s.time.tick - t0)]
      let rs := all.drop (all.length - 64)
      rs.length ≤ 64 ∧ rs ≠ [] ∧ exec .calibrationCapture s = .next (updTime s fun t =>
        { t with capNs := some (timeNs s, t.tick), ratios := rs, ratio := rs.sum / rs.length, unc := (ratioOf rs).2 }) ∧
      100 ≤ (ratioOf rs).2)) ∧
  (∀ s : State, s.pwr.sleep ≠ 0 → exec .calibrationCapture s = .next s) ∧
  (∀ (p : Path) (h : Half) (s : State), regOpen s p h → exec (.timeTsrPop p h) s = .next (updTime s fun t =>
    match h with
    | .a => { t with ringA := t.ringA.drop 1, fullA := t.fullA && t.ringA.isEmpty }
    | .b => { t with ringB := t.ringB.drop 1, fullB := t.fullB && t.ringB.isEmpty })) ∧
  (∀ s : State, exec (.rindLost false) s = .next (updTime s fun t => { t with rindLost := true }) ∧
    exec (.rindLost true) s = .next (updPwr (updTime s fun t => { t with rindLost := true, tick := 0 }) fun p =>
      { p with cave := CaveSt.reset }))

/-- Through an open path a self-test starts in TEST mode, in S0, with no flow homed in its half and no service
enabled there; otherwise RESULT reads REFUSED, and one that runs goes on. Its end clears the tested memories
and leaves the failing blocks of those tested with the first failing address, or PASS. TST_STOP returns
every object of AG22 to its default in the running values and shadows of both instances. A completion held
alone is matched when it is released, then what waits behind it; with none held nothing happens. A
starvation whose slot is on and timed ends and what it withheld is advanced. A TAP holds the instruction
loaded, any code outside the table as BYPASS, and one that drives the balls takes its die out of mission
use, which TRST_N does not give back: it selects IDCODE. A trip latches and drives ALERT_N. SYSCLK absent
while both starters wait holds start-up and drives ALERT_N; a clock check records each presence, and SYSCLK
present releases ALERT_N. (R438, R439, R442, R444, R445, R446, R460, R463, R466) -/
def Obligations.TestsPerturbationsScanAndClocksActAndEnd : Prop :=
  (∀ (p : Path) (h : Half) (blocks : BitVec 5) (s : State), wideOpen s p 0xA010 h →
    ((bist s h).running = true → exec (.bistStart p h blocks) s = .next s) ∧
    ((bist s h).running = false → exec (.bistStart p h blocks) s = .next (updBist s h
      (if isTest s = true ∧ homesFlow s h = false ∧ enabledSvcs s h = [] then fun _ => ⟨true, blocks.toNat, 0, 0, 0⟩
       else fun b => { b with blocks := blocks.toNat, result := 3 })))) ∧
  (∀ (h : Half) (failed : BitVec 5) (addr : W64) (s : State),
    ((bist s h).running = false → exec (.bistComplete h failed addr) s = .next s) ∧
    ((bist s h).running = true → exec (.bistComplete h failed addr) s = .next (
      let t := forAll s ((List.range 5).filter fun i => (bist s h).blocks.testBit i) fun u i => bistZero u h i
      if failed.toNat &&& (bist s h).blocks = 0 then
        updBist t h fun x => { x with running := false, result := 1, failed := 0, addr := 0 }
      else updBist t h fun x =>
        { x with running := false, result := 2, failed := failed.toNat &&& (bist s h).blocks, addr := addr }))) ∧
  (∀ (p : Path) (s : State), wideOpen s p 0xA020 (pathHalf s p) → (∀ i, i < 16 → s.test.starved.getD i false = false) →
    exec (.tstStop p) s = .next { s with dict := stopDict s.dict, dictB := stopDict s.dictB }) ∧
  (∀ (d : DictSt) (idx sub v : Nat), 0xA000 ≤ idx → idx < 0xA010 → sub < 256 →
    Tab.get v (stopDict d).run (okey 0 idx sub) = v ∧
    Tab.get (none : Option Nat) (stopDict d).shadow (okey 0 idx sub) = none) ∧
  (∀ (i : Fin 16) (s : State),
    (s.test.delayed = [] → exec (.delayedCompletionRelease i) s = .next s) ∧
    (∀ l p, s.test.delayed = [⟨i.val, none, some (l, p)⟩] →
      exec (.delayedCompletionRelease i) s = .next (delayFollow 1 (cplNow (updTest s fun t => { t with delayed := [] }) l p) l)) ∧
    (∀ m c, s.test.delayed = [⟨i.val, some (m, c), none⟩] →
      exec (.delayedCompletionRelease i) s = .next (delayFollow 1 (hostCplNow (updTest s fun t => { t with delayed := [] }) m c) (0x1000 + m)))) ∧
  (∀ (i : Fin 16) (s : State),
    (s.test.starved.getD i.val false = true → tpOn s i.val 6 = true → tpw s i.val 3 ≠ 0 →
      let t := updTest s fun t => { t with starved := t.starved.set i.val false }
      exec (.creditStarvationEnd i) s =
        .next (starveRelease t (tpw t i.val 1) ((tpw t i.val 2).testBit 0) (tpw t i.val 2 / 2 % 4))) ∧
    (s.test.starved.getD i.val false = false → exec (.creditStarvationEnd i) s = .next s)) ∧
  (∀ (h : Half) (code : Byte) (s : State), exec (.tapInstructionLoad h code) s = .next (updTest s fun t =>
    let c : Byte := if 1 ≤ code.toNat ∧ code.toNat ≤ 7 then code else 0xFF
    let leaves := decide (3 ≤ code.toNat ∧ code.toNat ≤ 7)
    match h with
    | .a => { t with tapA := c, offA := t.offA || leaves }
    | .b => { t with tapB := c, offB := t.offB || leaves })) ∧
  (∀ s : State, exec .trstNLow s = .next (updTest s fun t => { t with tapA := 1, tapB := 1 })) ∧
  (∀ (h : Half) (s : State), exec (.thermtrip h) s =
    .next (alertOn (updSys s fun y => { y with thermtrip := y.thermtrip.set (halfIdx h) true }) 5)) ∧
  (∀ s : State, s.sys.resetLow = false → s.sys.a.boot = .starter → s.sys.b.boot = .starter → exec .sysclkAbsent s =
    .next (alertOn (updSys s fun y => { y with sysclkOk := false, clkStat := y.clkStat - (y.clkStat &&& 1) }) 4)) ∧
  (∀ s : State, s.sys.a.boot = .complete → exec .sysclkAbsent s = .next s) ∧
  (∀ (present : BitVec 10) (s : State), s.sys.resetLow = false →
    let b := present.getLsbD
    let t := updSys s fun y => { y with clkStat := present.toNat, sysclkOk := b 0, hrefOk := [b 2, b 3, b 4, b 5],
                                        lrefOk := [b 6, b 7, b 8, b 9] }
    (b 0 = true → b 6 = true → exec (.clockCheck present) s = .next (alertOff t 4)) ∧
    (b 0 = false → b 6 = true → exec (.clockCheck present) s = .next t) ∧
    (b 0 = false → b 6 = false → s.time.ppsOut = true → exec (.clockCheck present) s =
      .next (emit (updTime t fun x => { x with ppsOut := false }) (.pulse 0 0))))

/-- mix multiplies by 0xA24B1F6D9C35E817, exclusive-ors the product with itself shifted right by 29, and
multiplies again, modulo 2^64. crc_update folds n bytes of the data, least significant first, into the
reflected CRC-32C with 0x82F63B78, without initial value or final XOR, and the CRC of a packet (R133) is
what it gives from all ones, inverted. brine_channel and dispatch_bucket are taken from the same mix. On an
engine that can execute, HASH writes to rd the mix of rs1 xor rs2, and CRC writes crc_update of rs1 with the
fn low bytes of rs2. CRC with an fn of 0 or above 8 raises fault ILLEGAL with the instruction word. (R259) -/
def Obligations.HashAndCrcComputeTheirFunctions : Prop :=
  (∀ x : W64, mix x =
    (x * 0xA24B1F6D9C35E817 ^^^ ((x * 0xA24B1F6D9C35E817) >>> 29)) * 0xA24B1F6D9C35E817) ∧
  (∀ (c : W32) (data : W64) (n : Nat), n ≤ 8 → crcUpdate c (bytesLE n data.toNat) =
    (List.range n).foldl (fun c i =>
      (List.range 8).foldl (fun (d : W32) _ => (d >>> 1) ^^^ (if d &&& 1 = 1 then 0x82F63B78 else 0))
        (c ^^^ ((data >>> (8 * i)) &&& 0xFF).setWidth 32)) c) ∧
  (∀ p : Pkt, pktCrc p = ~~~ crcUpdate 0xFFFFFFFF (hdrBytes p ++ [0, 0, 0, 0] ++ p.payload)) ∧
  (∀ (key : W64) (flow seq : W32), brineChannel key flow seq = (mix ((flow ++ seq) ^^^ key) >>> 61).toNat ∧
    dispatchBucket key flow = (mix ((flow ++ (0 : W32)) ^^^ key) >>> 56).toNat) ∧
  (∀ (e : SE) (x : BitVec 26) (s : State), engReady s e.val → engWf s e.val →
    let a := engReg s e.val (opB x)
    let b := engReg s e.val (opC x)
    (opFn x = 0 → ∃ t, exec (.engHash e x) s = .next t ∧ wroteRd s t e.val (opA x) (mix (a ^^^ b))) ∧
    (1 ≤ opFn x → opFn x ≤ 8 → ∃ t, exec (.engCrc e x) s = .next t ∧
      wroteRd s t e.val (opA x) ((crcUpdate (a.setWidth 32) (bytesLE (opFn x) b.toNat)).setWidth 64)) ∧
    (opFn x = 0 ∨ 8 < opFn x →
      exec (.engCrc e x) s = .next (engFault s e.val fIllegal (BitVec.ofNat 64 (0x0D * 2 ^ 26 + x.toNat)))))

/-- The dictionary's identity area holds OD 0x1030:01, a read-only U32 that either view may read, with default
0. Wherever the area is served and the object reached, a READ of it over the mailbox of a host link answers
OK with the four bytes that a read of ID_CLK_STAT by PF0 of the same link returns, and changes nothing.
(R467) -/
def Obligations.ClockStatusIsMirroredByItsObject : Prop :=
  (∃ r, odFind 0x1030 1 = some r ∧ r.ty = .u32 ∧ r.acc = .ro ∧ r.priv = false ∧ odDefault 0x1030 1 = 0) ∧
  (∀ (m : HL) (shadow : Bool) (h : Half) (s : State), areaServed s (pathHalf s (.mbx m)) 0x1030 = true →
    odServes s (pathHalf s (.mbx m)) 0x1030 1 = some h → pathReaches s (.reg m 0) (pathHalf s (.reg m 0)) = true →
    regRead s (.reg m 0) 0x310 1 = ((odRead s (.mbx m) shadow 0x1030 1 4 0).2, s) ∧
    (odRead s (.mbx m) shadow 0x1030 1 4 0).1 = 0)

/-- On an engine that can execute, EOI of a word with its other fields 0 that names a source other than the top
of the stack, or comes with an empty stack or while a pending return is held, adds 1 to OD 0x6C23 of the
engine's half and raises fault STACK with the named source in FINFO. Where the fault is taken by a handler,
the stack, the pending return, every source and every controller stay as they were, the engine goes on at
its fault vector and will come back to the EOI. (R289) -/
def Obligations.EoiOutOfOrderFaults : Prop :=
  ∀ (e : SE) (x : BitVec 26) (s : State), engReady s e.val → engWf s e.val → opA x = 0 → opC x = 0 → opFn x = 0 →
    let n := (engReg s e.val (opB x)).toNat % 2 ^ 14
    let g := eng s e.val
    (g.stack = [] ∨ g.pendRet ≠ none ∨ (∀ top ∈ g.stack.head?, top.src ≠ n)) →
    exec (.engEoi e x) s =
      .next (engFault (bump s 0x6C23 (hsub (halfOfEng e.val))) e.val 9 (BitVec.ofNat 64 n)) ∧
    (g.fvec ≠ 0 → g.inFault = false →
      let t := engFault (bump s 0x6C23 (hsub (halfOfEng e.val))) e.val 9 (BitVec.ofNat 64 n)
      (eng t e.val).stack = g.stack ∧ (eng t e.val).pendRet = g.pendRet ∧ t.evc = s.evc ∧
      (eng t e.val).fstat = 9 ∧ (eng t e.val).finfo = BitVec.ofNat 64 n ∧ (eng t e.val).fret = g.pc ∧
      (eng t e.val).inFault = true ∧ (eng t e.val).pc = g.fvec)

/-- A write of a register of the privileged set that arrives from a view without privilege does nothing but add
1 to ERR_PRIV_DENIED of the path's dictionary instance, up to all ones, and leave in ERR_PRIV_LAST the
register's offset, the function and the host link; a write of a privileged object leaves the index, the
subindex, bit 36 and the host link, over the field port bit 37 in their place. This holds for every value
written, and for the rows of links, lanes, margins, slots, queues, flow and engine selection, engine
counters, doorbells, records, logs, error counters, time, releases, mirror groups, source masks, sleep
requests and tests. (R92, R320, R347) -/
def Obligations.UnprivilegedWritesOnlyLeaveADenial : Prop :=
  (∀ (p : Path) (s : State) (l : LL) (n : LaneNo) (m : HL) (f : Fn) (q : DQ) (e : SE) (h : Half) (v : Bool)
      (c : BitVec 14) (i : Instr) (off : Nat), regShut s p → privRegRow p l n m f q e h v c i off →
    exec i s = .next (deny s p (denyReg p off))) ∧
  (∀ (p : Path) (s : State) (l : LL) (g : MG) (n : ES) (h : Half) (v : Bool) (c : BitVec 14) (i : Instr)
      (off idx sub : Nat), privBothRow p l g n h v c i off idx sub →
    ((∃ k f, p = .reg k f) → regShut s p → exec i s = .next (deny s p (denyReg p off))) ∧
    (objShut s p idx → exec i s = .next (deny s p (denyObj p idx sub)))) ∧
  (∀ (p : Path) (s : State) (code : Nat), deny s p code =
    if ownB s = true ∧ pathHalf s p = .b
    then { s with dictB := { s.dictB with denied := min 0xFFFFFFFF (s.dictB.denied + 1), privLast := code } }
    else { s with dict := { s.dict with denied := min 0xFFFFFFFF (s.dict.denied + 1), privLast := code } })

/-- For every command c and state s, a step of s with c at the front of its queue answers what exec of c answers
on s with the rest of the queue: nothing is added around it. The queue is the model's own way of taking
commands. (R7, R98, R365) -/
def Obligations.StepRunsTheCommandAtTheFront : Prop :=
  ∀ (c : Instr) (rest : List Instr) (s : State),
    step { s with pending := c :: rest } = exec c { s with pending := rest }

/-- That the empty queue lets one cycle of the 1.25 GHz domain pass is the model's choice (log entry 2). In that
cycle the device time, taken as one number in units of 2^-32 ns, grows by INCR modulo 2^48 seconds where the
counter runs, the device is in S0 or S1 and LREFCLK[0] is present; else it stands. The nanoseconds stay
below 10^9 and the fraction below 2^32. Engine cycles count in S0 and S1 alone, at the rate of the clock
level. The rind tick counts once in 38,147 cycles, whatever the sleep state. Registers, memories, queues,
logs and everything else stay. (R25, R265, R398, R413, R460) -/
def Obligations.IdleStepIsOneCycleOfTheTimeDomain : Prop :=
  ∀ s : State, s.pending = [] → ∃ t, step s = .next t ∧
    t.clk = s.clk + 1 ∧
    (let worth (x : State) : Nat := (x.time.sec * 1000000000 + x.time.ns) * 2 ^ 32 + x.time.frac
     s.time.ns < 1000000000 → s.time.frac < 2 ^ 32 → s.time.sec < 2 ^ 48 →
     worth t = (if s.time.running = true ∧ s.pwr.sleep ≤ 1 ∧ s.sys.lrefOk.getD 0 true = true
                then (worth s + s.time.incr) % (2 ^ 48 * 1000000000 * 2 ^ 32) else worth s) ∧
     t.time.ns < 1000000000 ∧ t.time.frac < 2 ^ 32 ∧ t.time.sec < 2 ^ 48) ∧
    t.eng.cyc = s.eng.cyc + (if s.pwr.sleep ≤ 1 then 4 - s.pwr.level else 0) ∧
    (t.time.tick = (if 38147 ≤ s.sys.tickPhase + 1 then (s.time.tick + 1) % 2 ^ 48 else s.time.tick) ∧
     t.sys.tickPhase = (if 38147 ≤ s.sys.tickPhase + 1 then 0 else s.sys.tickPhase + 1)) ∧
    t = { s with clk := t.clk, sys := { s.sys with tickPhase := t.sys.tickPhase }, eng := { s.eng with cyc := t.eng.cyc },
                 time := { s.time with sec := t.time.sec, ns := t.time.ns, frac := t.time.frac, tick := t.time.tick } }

/-- The state the model calls reset is the moment in which RESET_N is low: no command waits; both halves are in
start-up with nothing loaded; every configuration object reads its table's default in both instances,
running value and shadow; no counter has counted; no session, claim, error record or event record stands; no
link, host link, flow, engine or service holds anything; the device time is 0 s, TIME_VALID 0,
TIME_UNCERTAIN 1, LOCKED 0, INCR nominal; the device is in S0 at the P3 clocks; the cave is invalid;
ID_CLK_STAT reads 0; the instruction of both TAPs is IDCODE. What flash and fuses hold, that the pins
sampled read 0 and that the clocks are present are the model's own values (log entries 8, 10 and 24 among
them). (R398, R413, R422, R466) -/
def Obligations.ResetLeavesEveryBlockInItsResetState : Prop :=
  let s := State.reset
  s.pending = [] ∧ s.sys.resetLow = true ∧
  (∀ h, (half s h).boot = .reset ∧ (half s h).role = .starting ∧ (half s h).stewardHalted = false ∧
    (dictOf s h).sessions = [] ∧ (dictOf s h).owners = [] ∧ (dictOf s h).apply = none ∧
    ∀ idx sub, runVal (dictOf s h) idx sub = odDefault idx sub ∧ shadowVal (dictOf s h) idx sub = odDefault idx sub) ∧
  (∀ k, Tab.get 0 s.cnt k = 0) ∧
  (∀ n, lane s n = LaneSt.reset ∧ link s n = LlSt.reset ∧ hl s n = HlSt.reset ∧ fn s n = FnSt.reset ∧
    eng s n = EngSt.reset ∧ clus s n = ClSt.reset ∧ svc s n = SvSt.reset ∧ src s n = SrcSt.reset ∧ sem s n = SemSt.reset) ∧
  s.fab.txns = [] ∧ s.fab.cells = [] ∧ s.fab.reqs = [] ∧ s.evc.recA = [] ∧ s.evc.recB = [] ∧
  s.err.logA = [] ∧ s.err.logB = [] ∧
  (s.time.sec = 0 ∧ s.time.ns = 0 ∧ s.time.frac = 0 ∧ s.time.running = false ∧ s.time.valid = false ∧
   s.time.uncertain = true ∧ s.time.locked = false ∧ s.time.incr = 0xCCCCCCCD) ∧
  s.pwr.sleep = 0 ∧ s.pwr.level = 3 ∧ s.pwr.cave.valid = false ∧ clkStatWord s = 0 ∧ s.test.tapA = 1 ∧ s.test.tapB = 1

/-- The invariant that every step keeps holds after reset: each table by resource number lists its entries in
rising order and none that reads as an unlisted one, so do the memories of engines and clusters, and every
engine holds 32 general registers. The canonical form is the model's own way to hold them. (R244, R245,
R413) -/
def Obligations.ResetIsCanonical : Prop :=
  canonical State.reset

/-- Every command of the table has its effect in the model and answers a next state in every state: none ends in
a fault or a refusal. A command that nothing can come of, a write to a register that no half serves for one,
leaves the state as the rules give it. (R7, R8, R98, R320) -/
def Obligations.EveryCommandIsCarriedOut : Prop :=
  ∀ (i : Instr) (s : State), answers (exec i s)

/-- From every state whose tables and engine memories are in canonical form and whose engines hold 32 registers,
every step of the block answers a state of which the same holds: each of the commands, of links, hosts,
engines, dictionary, power, start-up and test, and the idle cycle. It is the premise under which the
statements about single commands say what a table reads after a change. (R244, R245, R413) -/
def Obligations.EveryStepKeepsTheStateCanonical : Prop :=
  ∀ s t : State, step s = .next t → canonical s → canonical t

/-- Whatever the state and the command: a step leaves the queue with its front command gone and the others in
their order; the count of cycles does not fall; the fuses only gain: the security counter does not fall, a
fused key slot keeps its hash and a revoked slot stays revoked, through resets and upgrades alike. (R413,
R431) -/
def Obligations.EveryStepTakesOneCommandAndFusesOnlyGain : Prop :=
  ∀ s t : State, step s = .next t → t.pending = s.pending.tail ∧ s.clk ≤ t.clk ∧ fuseLe s.nv.fuses t.nv.fuses
end

