-- ==== Sys2Proof/Laws/State.lean ====
section
/-! SUPPORT. One lemma per field per update of the state: what an update leaves alone. -/

namespace Sys2Proof.Machine


/-! ### emit -/

@[simp] theorem emit_pending (s : State) (e : Emission) : (emit s e).pending = s.pending := rfl
@[simp] theorem emit_clk (s : State) (e : Emission) : (emit s e).clk = s.clk := rfl
@[simp] theorem emit_freeCtr (s : State) (e : Emission) : (emit s e).freeCtr = s.freeCtr := rfl
@[simp] theorem emit_nextId (s : State) (e : Emission) : (emit s e).nextId = s.nextId := rfl
@[simp] theorem emit_sys (s : State) (e : Emission) : (emit s e).sys = s.sys := rfl
@[simp] theorem emit_nv (s : State) (e : Emission) : (emit s e).nv = s.nv := rfl
@[simp] theorem emit_dict (s : State) (e : Emission) : (emit s e).dict = s.dict := rfl
@[simp] theorem emit_dictB (s : State) (e : Emission) : (emit s e).dictB = s.dictB := rfl
@[simp] theorem emit_cnt (s : State) (e : Emission) : (emit s e).cnt = s.cnt := rfl
@[simp] theorem emit_lanes (s : State) (e : Emission) : (emit s e).lanes = s.lanes := rfl
@[simp] theorem emit_links (s : State) (e : Emission) : (emit s e).links = s.links := rfl
@[simp] theorem emit_host (s : State) (e : Emission) : (emit s e).host = s.host := rfl
@[simp] theorem emit_fab (s : State) (e : Emission) : (emit s e).fab = s.fab := rfl
@[simp] theorem emit_brdg (s : State) (e : Emission) : (emit s e).brdg = s.brdg := rfl
@[simp] theorem emit_evc (s : State) (e : Emission) : (emit s e).evc = s.evc := rfl
@[simp] theorem emit_err (s : State) (e : Emission) : (emit s e).err = s.err := rfl
@[simp] theorem emit_eng (s : State) (e : Emission) : (emit s e).eng = s.eng := rfl
@[simp] theorem emit_pwr (s : State) (e : Emission) : (emit s e).pwr = s.pwr := rfl
@[simp] theorem emit_time (s : State) (e : Emission) : (emit s e).time = s.time := rfl
@[simp] theorem emit_test (s : State) (e : Emission) : (emit s e).test = s.test := rfl
@[simp] theorem emit_lane_eq (s : State) (e : Emission) (k : Nat) : lane (emit s e) k = lane s k := rfl
@[simp] theorem emit_link_eq (s : State) (e : Emission) (k : Nat) : link (emit s e) k = link s k := rfl
@[simp] theorem emit_hl_eq (s : State) (e : Emission) (k : Nat) : hl (emit s e) k = hl s k := rfl
@[simp] theorem emit_fn_eq (s : State) (e : Emission) (k : Nat) : fn (emit s e) k = fn s k := rfl
@[simp] theorem emit_mbx_eq (s : State) (e : Emission) (k : Nat) : mbx (emit s e) k = mbx s k := rfl
@[simp] theorem emit_flowSt_eq (s : State) (e : Emission) (k : Nat) : flowSt (emit s e) k = flowSt s k := rfl
@[simp] theorem emit_sem_eq (s : State) (e : Emission) (k : Nat) : sem (emit s e) k = sem s k := rfl
@[simp] theorem emit_mg_eq (s : State) (e : Emission) (k : Nat) : mg (emit s e) k = mg s k := rfl
@[simp] theorem emit_dq_eq (s : State) (e : Emission) (k : Nat) : dq (emit s e) k = dq s k := rfl
@[simp] theorem emit_src_eq (s : State) (e : Emission) (k : Nat) : src (emit s e) k = src s k := rfl
@[simp] theorem emit_eng_eq (s : State) (e : Emission) (k : Nat) : eng (emit s e) k = eng s k := rfl
@[simp] theorem emit_clus_eq (s : State) (e : Emission) (k : Nat) : clus (emit s e) k = clus s k := rfl
@[simp] theorem emit_svc_eq (s : State) (e : Emission) (k : Nat) : svc (emit s e) k = svc s k := rfl
@[simp] theorem emit_half_eq (s : State) (e : Emission) (h : Half) : half (emit s e) h = half s h := by cases h <;> rfl

/-! ### updSys -/

@[simp] theorem updSys_pending (s : State) (f : SysSt → SysSt) : (updSys s f).pending = s.pending := rfl
@[simp] theorem updSys_out (s : State) (f : SysSt → SysSt) : (updSys s f).out = s.out := rfl
@[simp] theorem updSys_clk (s : State) (f : SysSt → SysSt) : (updSys s f).clk = s.clk := rfl
@[simp] theorem updSys_freeCtr (s : State) (f : SysSt → SysSt) : (updSys s f).freeCtr = s.freeCtr := rfl
@[simp] theorem updSys_nextId (s : State) (f : SysSt → SysSt) : (updSys s f).nextId = s.nextId := rfl
@[simp] theorem updSys_nv (s : State) (f : SysSt → SysSt) : (updSys s f).nv = s.nv := rfl
@[simp] theorem updSys_dict (s : State) (f : SysSt → SysSt) : (updSys s f).dict = s.dict := rfl
@[simp] theorem updSys_dictB (s : State) (f : SysSt → SysSt) : (updSys s f).dictB = s.dictB := rfl
@[simp] theorem updSys_cnt (s : State) (f : SysSt → SysSt) : (updSys s f).cnt = s.cnt := rfl
@[simp] theorem updSys_lanes (s : State) (f : SysSt → SysSt) : (updSys s f).lanes = s.lanes := rfl
@[simp] theorem updSys_links (s : State) (f : SysSt → SysSt) : (updSys s f).links = s.links := rfl
@[simp] theorem updSys_host (s : State) (f : SysSt → SysSt) : (updSys s f).host = s.host := rfl
@[simp] theorem updSys_fab (s : State) (f : SysSt → SysSt) : (updSys s f).fab = s.fab := rfl
@[simp] theorem updSys_brdg (s : State) (f : SysSt → SysSt) : (updSys s f).brdg = s.brdg := rfl
@[simp] theorem updSys_evc (s : State) (f : SysSt → SysSt) : (updSys s f).evc = s.evc := rfl
@[simp] theorem updSys_err (s : State) (f : SysSt → SysSt) : (updSys s f).err = s.err := rfl
@[simp] theorem updSys_eng (s : State) (f : SysSt → SysSt) : (updSys s f).eng = s.eng := rfl
@[simp] theorem updSys_pwr (s : State) (f : SysSt → SysSt) : (updSys s f).pwr = s.pwr := rfl
@[simp] theorem updSys_time (s : State) (f : SysSt → SysSt) : (updSys s f).time = s.time := rfl
@[simp] theorem updSys_test (s : State) (f : SysSt → SysSt) : (updSys s f).test = s.test := rfl
@[simp] theorem updSys_lane_eq (s : State) (f : SysSt → SysSt) (k : Nat) : lane (updSys s f) k = lane s k := rfl
@[simp] theorem updSys_link_eq (s : State) (f : SysSt → SysSt) (k : Nat) : link (updSys s f) k = link s k := rfl
@[simp] theorem updSys_hl_eq (s : State) (f : SysSt → SysSt) (k : Nat) : hl (updSys s f) k = hl s k := rfl
@[simp] theorem updSys_fn_eq (s : State) (f : SysSt → SysSt) (k : Nat) : fn (updSys s f) k = fn s k := rfl
@[simp] theorem updSys_mbx_eq (s : State) (f : SysSt → SysSt) (k : Nat) : mbx (updSys s f) k = mbx s k := rfl
@[simp] theorem updSys_flowSt_eq (s : State) (f : SysSt → SysSt) (k : Nat) : flowSt (updSys s f) k = flowSt s k := rfl
@[simp] theorem updSys_sem_eq (s : State) (f : SysSt → SysSt) (k : Nat) : sem (updSys s f) k = sem s k := rfl
@[simp] theorem updSys_mg_eq (s : State) (f : SysSt → SysSt) (k : Nat) : mg (updSys s f) k = mg s k := rfl
@[simp] theorem updSys_dq_eq (s : State) (f : SysSt → SysSt) (k : Nat) : dq (updSys s f) k = dq s k := rfl
@[simp] theorem updSys_src_eq (s : State) (f : SysSt → SysSt) (k : Nat) : src (updSys s f) k = src s k := rfl
@[simp] theorem updSys_eng_eq (s : State) (f : SysSt → SysSt) (k : Nat) : eng (updSys s f) k = eng s k := rfl
@[simp] theorem updSys_clus_eq (s : State) (f : SysSt → SysSt) (k : Nat) : clus (updSys s f) k = clus s k := rfl
@[simp] theorem updSys_svc_eq (s : State) (f : SysSt → SysSt) (k : Nat) : svc (updSys s f) k = svc s k := rfl

/-! ### updFab -/

@[simp] theorem updFab_pending (s : State) (f : FabSt → FabSt) : (updFab s f).pending = s.pending := rfl
@[simp] theorem updFab_out (s : State) (f : FabSt → FabSt) : (updFab s f).out = s.out := rfl
@[simp] theorem updFab_clk (s : State) (f : FabSt → FabSt) : (updFab s f).clk = s.clk := rfl
@[simp] theorem updFab_freeCtr (s : State) (f : FabSt → FabSt) : (updFab s f).freeCtr = s.freeCtr := rfl
@[simp] theorem updFab_nextId (s : State) (f : FabSt → FabSt) : (updFab s f).nextId = s.nextId := rfl
@[simp] theorem updFab_sys (s : State) (f : FabSt → FabSt) : (updFab s f).sys = s.sys := rfl
@[simp] theorem updFab_nv (s : State) (f : FabSt → FabSt) : (updFab s f).nv = s.nv := rfl
@[simp] theorem updFab_dict (s : State) (f : FabSt → FabSt) : (updFab s f).dict = s.dict := rfl
@[simp] theorem updFab_dictB (s : State) (f : FabSt → FabSt) : (updFab s f).dictB = s.dictB := rfl
@[simp] theorem updFab_cnt (s : State) (f : FabSt → FabSt) : (updFab s f).cnt = s.cnt := rfl
@[simp] theorem updFab_lanes (s : State) (f : FabSt → FabSt) : (updFab s f).lanes = s.lanes := rfl
@[simp] theorem updFab_links (s : State) (f : FabSt → FabSt) : (updFab s f).links = s.links := rfl
@[simp] theorem updFab_host (s : State) (f : FabSt → FabSt) : (updFab s f).host = s.host := rfl
@[simp] theorem updFab_brdg (s : State) (f : FabSt → FabSt) : (updFab s f).brdg = s.brdg := rfl
@[simp] theorem updFab_evc (s : State) (f : FabSt → FabSt) : (updFab s f).evc = s.evc := rfl
@[simp] theorem updFab_err (s : State) (f : FabSt → FabSt) : (updFab s f).err = s.err := rfl
@[simp] theorem updFab_eng (s : State) (f : FabSt → FabSt) : (updFab s f).eng = s.eng := rfl
@[simp] theorem updFab_pwr (s : State) (f : FabSt → FabSt) : (updFab s f).pwr = s.pwr := rfl
@[simp] theorem updFab_time (s : State) (f : FabSt → FabSt) : (updFab s f).time = s.time := rfl
@[simp] theorem updFab_test (s : State) (f : FabSt → FabSt) : (updFab s f).test = s.test := rfl
@[simp] theorem updFab_lane_eq (s : State) (f : FabSt → FabSt) (k : Nat) : lane (updFab s f) k = lane s k := rfl
@[simp] theorem updFab_link_eq (s : State) (f : FabSt → FabSt) (k : Nat) : link (updFab s f) k = link s k := rfl
@[simp] theorem updFab_hl_eq (s : State) (f : FabSt → FabSt) (k : Nat) : hl (updFab s f) k = hl s k := rfl
@[simp] theorem updFab_fn_eq (s : State) (f : FabSt → FabSt) (k : Nat) : fn (updFab s f) k = fn s k := rfl
@[simp] theorem updFab_mbx_eq (s : State) (f : FabSt → FabSt) (k : Nat) : mbx (updFab s f) k = mbx s k := rfl
@[simp] theorem updFab_sem_eq (s : State) (f : FabSt → FabSt) (k : Nat) : sem (updFab s f) k = sem s k := rfl
@[simp] theorem updFab_mg_eq (s : State) (f : FabSt → FabSt) (k : Nat) : mg (updFab s f) k = mg s k := rfl
@[simp] theorem updFab_dq_eq (s : State) (f : FabSt → FabSt) (k : Nat) : dq (updFab s f) k = dq s k := rfl
@[simp] theorem updFab_src_eq (s : State) (f : FabSt → FabSt) (k : Nat) : src (updFab s f) k = src s k := rfl
@[simp] theorem updFab_eng_eq (s : State) (f : FabSt → FabSt) (k : Nat) : eng (updFab s f) k = eng s k := rfl
@[simp] theorem updFab_clus_eq (s : State) (f : FabSt → FabSt) (k : Nat) : clus (updFab s f) k = clus s k := rfl
@[simp] theorem updFab_svc_eq (s : State) (f : FabSt → FabSt) (k : Nat) : svc (updFab s f) k = svc s k := rfl
@[simp] theorem updFab_half_eq (s : State) (f : FabSt → FabSt) (h : Half) : half (updFab s f) h = half s h := by cases h <;> rfl

/-! ### updBrdg -/

@[simp] theorem updBrdg_pending (s : State) (f : BrdgSt → BrdgSt) : (updBrdg s f).pending = s.pending := rfl
@[simp] theorem updBrdg_out (s : State) (f : BrdgSt → BrdgSt) : (updBrdg s f).out = s.out := rfl
@[simp] theorem updBrdg_clk (s : State) (f : BrdgSt → BrdgSt) : (updBrdg s f).clk = s.clk := rfl
@[simp] theorem updBrdg_freeCtr (s : State) (f : BrdgSt → BrdgSt) : (updBrdg s f).freeCtr = s.freeCtr := rfl
@[simp] theorem updBrdg_nextId (s : State) (f : BrdgSt → BrdgSt) : (updBrdg s f).nextId = s.nextId := rfl
@[simp] theorem updBrdg_sys (s : State) (f : BrdgSt → BrdgSt) : (updBrdg s f).sys = s.sys := rfl
@[simp] theorem updBrdg_nv (s : State) (f : BrdgSt → BrdgSt) : (updBrdg s f).nv = s.nv := rfl
@[simp] theorem updBrdg_dict (s : State) (f : BrdgSt → BrdgSt) : (updBrdg s f).dict = s.dict := rfl
@[simp] theorem updBrdg_dictB (s : State) (f : BrdgSt → BrdgSt) : (updBrdg s f).dictB = s.dictB := rfl
@[simp] theorem updBrdg_cnt (s : State) (f : BrdgSt → BrdgSt) : (updBrdg s f).cnt = s.cnt := rfl
@[simp] theorem updBrdg_lanes (s : State) (f : BrdgSt → BrdgSt) : (updBrdg s f).lanes = s.lanes := rfl
@[simp] theorem updBrdg_links (s : State) (f : BrdgSt → BrdgSt) : (updBrdg s f).links = s.links := rfl
@[simp] theorem updBrdg_host (s : State) (f : BrdgSt → BrdgSt) : (updBrdg s f).host = s.host := rfl
@[simp] theorem updBrdg_fab (s : State) (f : BrdgSt → BrdgSt) : (updBrdg s f).fab = s.fab := rfl
@[simp] theorem updBrdg_evc (s : State) (f : BrdgSt → BrdgSt) : (updBrdg s f).evc = s.evc := rfl
@[simp] theorem updBrdg_err (s : State) (f : BrdgSt → BrdgSt) : (updBrdg s f).err = s.err := rfl
@[simp] theorem updBrdg_eng (s : State) (f : BrdgSt → BrdgSt) : (updBrdg s f).eng = s.eng := rfl
@[simp] theorem updBrdg_pwr (s : State) (f : BrdgSt → BrdgSt) : (updBrdg s f).pwr = s.pwr := rfl
@[simp] theorem updBrdg_time (s : State) (f : BrdgSt → BrdgSt) : (updBrdg s f).time = s.time := rfl
@[simp] theorem updBrdg_test (s : State) (f : BrdgSt → BrdgSt) : (updBrdg s f).test = s.test := rfl
@[simp] theorem updBrdg_lane_eq (s : State) (f : BrdgSt → BrdgSt) (k : Nat) : lane (updBrdg s f) k = lane s k := rfl
@[simp] theorem updBrdg_link_eq (s : State) (f : BrdgSt → BrdgSt) (k : Nat) : link (updBrdg s f) k = link s k := rfl
@[simp] theorem updBrdg_hl_eq (s : State) (f : BrdgSt → BrdgSt) (k : Nat) : hl (updBrdg s f) k = hl s k := rfl
@[simp] theorem updBrdg_fn_eq (s : State) (f : BrdgSt → BrdgSt) (k : Nat) : fn (updBrdg s f) k = fn s k := rfl
@[simp] theorem updBrdg_mbx_eq (s : State) (f : BrdgSt → BrdgSt) (k : Nat) : mbx (updBrdg s f) k = mbx s k := rfl
@[simp] theorem updBrdg_flowSt_eq (s : State) (f : BrdgSt → BrdgSt) (k : Nat) : flowSt (updBrdg s f) k = flowSt s k := rfl
@[simp] theorem updBrdg_src_eq (s : State) (f : BrdgSt → BrdgSt) (k : Nat) : src (updBrdg s f) k = src s k := rfl
@[simp] theorem updBrdg_eng_eq (s : State) (f : BrdgSt → BrdgSt) (k : Nat) : eng (updBrdg s f) k = eng s k := rfl
@[simp] theorem updBrdg_clus_eq (s : State) (f : BrdgSt → BrdgSt) (k : Nat) : clus (updBrdg s f) k = clus s k := rfl
@[simp] theorem updBrdg_svc_eq (s : State) (f : BrdgSt → BrdgSt) (k : Nat) : svc (updBrdg s f) k = svc s k := rfl
@[simp] theorem updBrdg_half_eq (s : State) (f : BrdgSt → BrdgSt) (h : Half) : half (updBrdg s f) h = half s h := by cases h <;> rfl

/-! ### updPwr -/

@[simp] theorem updPwr_pending (s : State) (f : PwrSt → PwrSt) : (updPwr s f).pending = s.pending := rfl
@[simp] theorem updPwr_out (s : State) (f : PwrSt → PwrSt) : (updPwr s f).out = s.out := rfl
@[simp] theorem updPwr_clk (s : State) (f : PwrSt → PwrSt) : (updPwr s f).clk = s.clk := rfl
@[simp] theorem updPwr_freeCtr (s : State) (f : PwrSt → PwrSt) : (updPwr s f).freeCtr = s.freeCtr := rfl
@[simp] theorem updPwr_nextId (s : State) (f : PwrSt → PwrSt) : (updPwr s f).nextId = s.nextId := rfl
@[simp] theorem updPwr_sys (s : State) (f : PwrSt → PwrSt) : (updPwr s f).sys = s.sys := rfl
@[simp] theorem updPwr_nv (s : State) (f : PwrSt → PwrSt) : (updPwr s f).nv = s.nv := rfl
@[simp] theorem updPwr_dict (s : State) (f : PwrSt → PwrSt) : (updPwr s f).dict = s.dict := rfl
@[simp] theorem updPwr_dictB (s : State) (f : PwrSt → PwrSt) : (updPwr s f).dictB = s.dictB := rfl
@[simp] theorem updPwr_cnt (s : State) (f : PwrSt → PwrSt) : (updPwr s f).cnt = s.cnt := rfl
@[simp] theorem updPwr_lanes (s : State) (f : PwrSt → PwrSt) : (updPwr s f).lanes = s.lanes := rfl
@[simp] theorem updPwr_links (s : State) (f : PwrSt → PwrSt) : (updPwr s f).links = s.links := rfl
@[simp] theorem updPwr_host (s : State) (f : PwrSt → PwrSt) : (updPwr s f).host = s.host := rfl
@[simp] theorem updPwr_fab (s : State) (f : PwrSt → PwrSt) : (updPwr s f).fab = s.fab := rfl
@[simp] theorem updPwr_brdg (s : State) (f : PwrSt → PwrSt) : (updPwr s f).brdg = s.brdg := rfl
@[simp] theorem updPwr_evc (s : State) (f : PwrSt → PwrSt) : (updPwr s f).evc = s.evc := rfl
@[simp] theorem updPwr_err (s : State) (f : PwrSt → PwrSt) : (updPwr s f).err = s.err := rfl
@[simp] theorem updPwr_eng (s : State) (f : PwrSt → PwrSt) : (updPwr s f).eng = s.eng := rfl
@[simp] theorem updPwr_time (s : State) (f : PwrSt → PwrSt) : (updPwr s f).time = s.time := rfl
@[simp] theorem updPwr_test (s : State) (f : PwrSt → PwrSt) : (updPwr s f).test = s.test := rfl
@[simp] theorem updPwr_lane_eq (s : State) (f : PwrSt → PwrSt) (k : Nat) : lane (updPwr s f) k = lane s k := rfl
@[simp] theorem updPwr_link_eq (s : State) (f : PwrSt → PwrSt) (k : Nat) : link (updPwr s f) k = link s k := rfl
@[simp] theorem updPwr_hl_eq (s : State) (f : PwrSt → PwrSt) (k : Nat) : hl (updPwr s f) k = hl s k := rfl
@[simp] theorem updPwr_fn_eq (s : State) (f : PwrSt → PwrSt) (k : Nat) : fn (updPwr s f) k = fn s k := rfl
@[simp] theorem updPwr_mbx_eq (s : State) (f : PwrSt → PwrSt) (k : Nat) : mbx (updPwr s f) k = mbx s k := rfl
@[simp] theorem updPwr_flowSt_eq (s : State) (f : PwrSt → PwrSt) (k : Nat) : flowSt (updPwr s f) k = flowSt s k := rfl
@[simp] theorem updPwr_sem_eq (s : State) (f : PwrSt → PwrSt) (k : Nat) : sem (updPwr s f) k = sem s k := rfl
@[simp] theorem updPwr_mg_eq (s : State) (f : PwrSt → PwrSt) (k : Nat) : mg (updPwr s f) k = mg s k := rfl
@[simp] theorem updPwr_dq_eq (s : State) (f : PwrSt → PwrSt) (k : Nat) : dq (updPwr s f) k = dq s k := rfl
@[simp] theorem updPwr_src_eq (s : State) (f : PwrSt → PwrSt) (k : Nat) : src (updPwr s f) k = src s k := rfl
@[simp] theorem updPwr_eng_eq (s : State) (f : PwrSt → PwrSt) (k : Nat) : eng (updPwr s f) k = eng s k := rfl
@[simp] theorem updPwr_clus_eq (s : State) (f : PwrSt → PwrSt) (k : Nat) : clus (updPwr s f) k = clus s k := rfl
@[simp] theorem updPwr_svc_eq (s : State) (f : PwrSt → PwrSt) (k : Nat) : svc (updPwr s f) k = svc s k := rfl
@[simp] theorem updPwr_half_eq (s : State) (f : PwrSt → PwrSt) (h : Half) : half (updPwr s f) h = half s h := by cases h <;> rfl

/-! ### updTime -/

@[simp] theorem updTime_pending (s : State) (f : TimeSt → TimeSt) : (updTime s f).pending = s.pending := rfl
@[simp] theorem updTime_out (s : State) (f : TimeSt → TimeSt) : (updTime s f).out = s.out := rfl
@[simp] theorem updTime_clk (s : State) (f : TimeSt → TimeSt) : (updTime s f).clk = s.clk := rfl
@[simp] theorem updTime_freeCtr (s : State) (f : TimeSt → TimeSt) : (updTime s f).freeCtr = s.freeCtr := rfl
@[simp] theorem updTime_nextId (s : State) (f : TimeSt → TimeSt) : (updTime s f).nextId = s.nextId := rfl
@[simp] theorem updTime_sys (s : State) (f : TimeSt → TimeSt) : (updTime s f).sys = s.sys := rfl
@[simp] theorem updTime_nv (s : State) (f : TimeSt → TimeSt) : (updTime s f).nv = s.nv := rfl
@[simp] theorem updTime_dict (s : State) (f : TimeSt → TimeSt) : (updTime s f).dict = s.dict := rfl
@[simp] theorem updTime_dictB (s : State) (f : TimeSt → TimeSt) : (updTime s f).dictB = s.dictB := rfl
@[simp] theorem updTime_cnt (s : State) (f : TimeSt → TimeSt) : (updTime s f).cnt = s.cnt := rfl
@[simp] theorem updTime_lanes (s : State) (f : TimeSt → TimeSt) : (updTime s f).lanes = s.lanes := rfl
@[simp] theorem updTime_links (s : State) (f : TimeSt → TimeSt) : (updTime s f).links = s.links := rfl
@[simp] theorem updTime_host (s : State) (f : TimeSt → TimeSt) : (updTime s f).host = s.host := rfl
@[simp] theorem updTime_fab (s : State) (f : TimeSt → TimeSt) : (updTime s f).fab = s.fab := rfl
@[simp] theorem updTime_brdg (s : State) (f : TimeSt → TimeSt) : (updTime s f).brdg = s.brdg := rfl
@[simp] theorem updTime_evc (s : State) (f : TimeSt → TimeSt) : (updTime s f).evc = s.evc := rfl
@[simp] theorem updTime_err (s : State) (f : TimeSt → TimeSt) : (updTime s f).err = s.err := rfl
@[simp] theorem updTime_eng (s : State) (f : TimeSt → TimeSt) : (updTime s f).eng = s.eng := rfl
@[simp] theorem updTime_pwr (s : State) (f : TimeSt → TimeSt) : (updTime s f).pwr = s.pwr := rfl
@[simp] theorem updTime_test (s : State) (f : TimeSt → TimeSt) : (updTime s f).test = s.test := rfl
@[simp] theorem updTime_lane_eq (s : State) (f : TimeSt → TimeSt) (k : Nat) : lane (updTime s f) k = lane s k := rfl
@[simp] theorem updTime_link_eq (s : State) (f : TimeSt → TimeSt) (k : Nat) : link (updTime s f) k = link s k := rfl
@[simp] theorem updTime_hl_eq (s : State) (f : TimeSt → TimeSt) (k : Nat) : hl (updTime s f) k = hl s k := rfl
@[simp] theorem updTime_fn_eq (s : State) (f : TimeSt → TimeSt) (k : Nat) : fn (updTime s f) k = fn s k := rfl
@[simp] theorem updTime_mbx_eq (s : State) (f : TimeSt → TimeSt) (k : Nat) : mbx (updTime s f) k = mbx s k := rfl
@[simp] theorem updTime_flowSt_eq (s : State) (f : TimeSt → TimeSt) (k : Nat) : flowSt (updTime s f) k = flowSt s k := rfl
@[simp] theorem updTime_sem_eq (s : State) (f : TimeSt → TimeSt) (k : Nat) : sem (updTime s f) k = sem s k := rfl
@[simp] theorem updTime_mg_eq (s : State) (f : TimeSt → TimeSt) (k : Nat) : mg (updTime s f) k = mg s k := rfl
@[simp] theorem updTime_dq_eq (s : State) (f : TimeSt → TimeSt) (k : Nat) : dq (updTime s f) k = dq s k := rfl
@[simp] theorem updTime_src_eq (s : State) (f : TimeSt → TimeSt) (k : Nat) : src (updTime s f) k = src s k := rfl
@[simp] theorem updTime_eng_eq (s : State) (f : TimeSt → TimeSt) (k : Nat) : eng (updTime s f) k = eng s k := rfl
@[simp] theorem updTime_clus_eq (s : State) (f : TimeSt → TimeSt) (k : Nat) : clus (updTime s f) k = clus s k := rfl
@[simp] theorem updTime_svc_eq (s : State) (f : TimeSt → TimeSt) (k : Nat) : svc (updTime s f) k = svc s k := rfl
@[simp] theorem updTime_half_eq (s : State) (f : TimeSt → TimeSt) (h : Half) : half (updTime s f) h = half s h := by cases h <;> rfl

/-! ### updTest -/

@[simp] theorem updTest_pending (s : State) (f : TestSt → TestSt) : (updTest s f).pending = s.pending := rfl
@[simp] theorem updTest_out (s : State) (f : TestSt → TestSt) : (updTest s f).out = s.out := rfl
@[simp] theorem updTest_clk (s : State) (f : TestSt → TestSt) : (updTest s f).clk = s.clk := rfl
@[simp] theorem updTest_freeCtr (s : State) (f : TestSt → TestSt) : (updTest s f).freeCtr = s.freeCtr := rfl
@[simp] theorem updTest_nextId (s : State) (f : TestSt → TestSt) : (updTest s f).nextId = s.nextId := rfl
@[simp] theorem updTest_sys (s : State) (f : TestSt → TestSt) : (updTest s f).sys = s.sys := rfl
@[simp] theorem updTest_nv (s : State) (f : TestSt → TestSt) : (updTest s f).nv = s.nv := rfl
@[simp] theorem updTest_dict (s : State) (f : TestSt → TestSt) : (updTest s f).dict = s.dict := rfl
@[simp] theorem updTest_dictB (s : State) (f : TestSt → TestSt) : (updTest s f).dictB = s.dictB := rfl
@[simp] theorem updTest_cnt (s : State) (f : TestSt → TestSt) : (updTest s f).cnt = s.cnt := rfl
@[simp] theorem updTest_lanes (s : State) (f : TestSt → TestSt) : (updTest s f).lanes = s.lanes := rfl
@[simp] theorem updTest_links (s : State) (f : TestSt → TestSt) : (updTest s f).links = s.links := rfl
@[simp] theorem updTest_host (s : State) (f : TestSt → TestSt) : (updTest s f).host = s.host := rfl
@[simp] theorem updTest_fab (s : State) (f : TestSt → TestSt) : (updTest s f).fab = s.fab := rfl
@[simp] theorem updTest_brdg (s : State) (f : TestSt → TestSt) : (updTest s f).brdg = s.brdg := rfl
@[simp] theorem updTest_evc (s : State) (f : TestSt → TestSt) : (updTest s f).evc = s.evc := rfl
@[simp] theorem updTest_err (s : State) (f : TestSt → TestSt) : (updTest s f).err = s.err := rfl
@[simp] theorem updTest_eng (s : State) (f : TestSt → TestSt) : (updTest s f).eng = s.eng := rfl
@[simp] theorem updTest_pwr (s : State) (f : TestSt → TestSt) : (updTest s f).pwr = s.pwr := rfl
@[simp] theorem updTest_time (s : State) (f : TestSt → TestSt) : (updTest s f).time = s.time := rfl
@[simp] theorem updTest_lane_eq (s : State) (f : TestSt → TestSt) (k : Nat) : lane (updTest s f) k = lane s k := rfl
@[simp] theorem updTest_link_eq (s : State) (f : TestSt → TestSt) (k : Nat) : link (updTest s f) k = link s k := rfl
@[simp] theorem updTest_hl_eq (s : State) (f : TestSt → TestSt) (k : Nat) : hl (updTest s f) k = hl s k := rfl
@[simp] theorem updTest_fn_eq (s : State) (f : TestSt → TestSt) (k : Nat) : fn (updTest s f) k = fn s k := rfl
@[simp] theorem updTest_mbx_eq (s : State) (f : TestSt → TestSt) (k : Nat) : mbx (updTest s f) k = mbx s k := rfl
@[simp] theorem updTest_flowSt_eq (s : State) (f : TestSt → TestSt) (k : Nat) : flowSt (updTest s f) k = flowSt s k := rfl
@[simp] theorem updTest_sem_eq (s : State) (f : TestSt → TestSt) (k : Nat) : sem (updTest s f) k = sem s k := rfl
@[simp] theorem updTest_mg_eq (s : State) (f : TestSt → TestSt) (k : Nat) : mg (updTest s f) k = mg s k := rfl
@[simp] theorem updTest_dq_eq (s : State) (f : TestSt → TestSt) (k : Nat) : dq (updTest s f) k = dq s k := rfl
@[simp] theorem updTest_src_eq (s : State) (f : TestSt → TestSt) (k : Nat) : src (updTest s f) k = src s k := rfl
@[simp] theorem updTest_eng_eq (s : State) (f : TestSt → TestSt) (k : Nat) : eng (updTest s f) k = eng s k := rfl
@[simp] theorem updTest_clus_eq (s : State) (f : TestSt → TestSt) (k : Nat) : clus (updTest s f) k = clus s k := rfl
@[simp] theorem updTest_svc_eq (s : State) (f : TestSt → TestSt) (k : Nat) : svc (updTest s f) k = svc s k := rfl
@[simp] theorem updTest_half_eq (s : State) (f : TestSt → TestSt) (h : Half) : half (updTest s f) h = half s h := by cases h <;> rfl

/-! ### updNv -/

@[simp] theorem updNv_pending (s : State) (f : NvSt → NvSt) : (updNv s f).pending = s.pending := rfl
@[simp] theorem updNv_out (s : State) (f : NvSt → NvSt) : (updNv s f).out = s.out := rfl
@[simp] theorem updNv_clk (s : State) (f : NvSt → NvSt) : (updNv s f).clk = s.clk := rfl
@[simp] theorem updNv_freeCtr (s : State) (f : NvSt → NvSt) : (updNv s f).freeCtr = s.freeCtr := rfl
@[simp] theorem updNv_nextId (s : State) (f : NvSt → NvSt) : (updNv s f).nextId = s.nextId := rfl
@[simp] theorem updNv_sys (s : State) (f : NvSt → NvSt) : (updNv s f).sys = s.sys := rfl
@[simp] theorem updNv_dict (s : State) (f : NvSt → NvSt) : (updNv s f).dict = s.dict := rfl
@[simp] theorem updNv_dictB (s : State) (f : NvSt → NvSt) : (updNv s f).dictB = s.dictB := rfl
@[simp] theorem updNv_cnt (s : State) (f : NvSt → NvSt) : (updNv s f).cnt = s.cnt := rfl
@[simp] theorem updNv_lanes (s : State) (f : NvSt → NvSt) : (updNv s f).lanes = s.lanes := rfl
@[simp] theorem updNv_links (s : State) (f : NvSt → NvSt) : (updNv s f).links = s.links := rfl
@[simp] theorem updNv_host (s : State) (f : NvSt → NvSt) : (updNv s f).host = s.host := rfl
@[simp] theorem updNv_fab (s : State) (f : NvSt → NvSt) : (updNv s f).fab = s.fab := rfl
@[simp] theorem updNv_brdg (s : State) (f : NvSt → NvSt) : (updNv s f).brdg = s.brdg := rfl
@[simp] theorem updNv_evc (s : State) (f : NvSt → NvSt) : (updNv s f).evc = s.evc := rfl
@[simp] theorem updNv_err (s : State) (f : NvSt → NvSt) : (updNv s f).err = s.err := rfl
@[simp] theorem updNv_eng (s : State) (f : NvSt → NvSt) : (updNv s f).eng = s.eng := rfl
@[simp] theorem updNv_pwr (s : State) (f : NvSt → NvSt) : (updNv s f).pwr = s.pwr := rfl
@[simp] theorem updNv_time (s : State) (f : NvSt → NvSt) : (updNv s f).time = s.time := rfl
@[simp] theorem updNv_test (s : State) (f : NvSt → NvSt) : (updNv s f).test = s.test := rfl
@[simp] theorem updNv_lane_eq (s : State) (f : NvSt → NvSt) (k : Nat) : lane (updNv s f) k = lane s k := rfl
@[simp] theorem updNv_link_eq (s : State) (f : NvSt → NvSt) (k : Nat) : link (updNv s f) k = link s k := rfl
@[simp] theorem updNv_hl_eq (s : State) (f : NvSt → NvSt) (k : Nat) : hl (updNv s f) k = hl s k := rfl
@[simp] theorem updNv_fn_eq (s : State) (f : NvSt → NvSt) (k : Nat) : fn (updNv s f) k = fn s k := rfl
@[simp] theorem updNv_mbx_eq (s : State) (f : NvSt → NvSt) (k : Nat) : mbx (updNv s f) k = mbx s k := rfl
@[simp] theorem updNv_flowSt_eq (s : State) (f : NvSt → NvSt) (k : Nat) : flowSt (updNv s f) k = flowSt s k := rfl
@[simp] theorem updNv_sem_eq (s : State) (f : NvSt → NvSt) (k : Nat) : sem (updNv s f) k = sem s k := rfl
@[simp] theorem updNv_mg_eq (s : State) (f : NvSt → NvSt) (k : Nat) : mg (updNv s f) k = mg s k := rfl
@[simp] theorem updNv_dq_eq (s : State) (f : NvSt → NvSt) (k : Nat) : dq (updNv s f) k = dq s k := rfl
@[simp] theorem updNv_src_eq (s : State) (f : NvSt → NvSt) (k : Nat) : src (updNv s f) k = src s k := rfl
@[simp] theorem updNv_eng_eq (s : State) (f : NvSt → NvSt) (k : Nat) : eng (updNv s f) k = eng s k := rfl
@[simp] theorem updNv_clus_eq (s : State) (f : NvSt → NvSt) (k : Nat) : clus (updNv s f) k = clus s k := rfl
@[simp] theorem updNv_svc_eq (s : State) (f : NvSt → NvSt) (k : Nat) : svc (updNv s f) k = svc s k := rfl
@[simp] theorem updNv_half_eq (s : State) (f : NvSt → NvSt) (h : Half) : half (updNv s f) h = half s h := by cases h <;> rfl

/-! ### updLane -/

@[simp] theorem updLane_pending (s : State) (n : Nat) (f : LaneSt → LaneSt) : (updLane s n f).pending = s.pending := rfl
@[simp] theorem updLane_out (s : State) (n : Nat) (f : LaneSt → LaneSt) : (updLane s n f).out = s.out := rfl
@[simp] theorem updLane_clk (s : State) (n : Nat) (f : LaneSt → LaneSt) : (updLane s n f).clk = s.clk := rfl
@[simp] theorem updLane_freeCtr (s : State) (n : Nat) (f : LaneSt → LaneSt) : (updLane s n f).freeCtr = s.freeCtr := rfl
@[simp] theorem updLane_nextId (s : State) (n : Nat) (f : LaneSt → LaneSt) : (updLane s n f).nextId = s.nextId := rfl
@[simp] theorem updLane_sys (s : State) (n : Nat) (f : LaneSt → LaneSt) : (updLane s n f).sys = s.sys := rfl
@[simp] theorem updLane_nv (s : State) (n : Nat) (f : LaneSt → LaneSt) : (updLane s n f).nv = s.nv := rfl
@[simp] theorem updLane_dict (s : State) (n : Nat) (f : LaneSt → LaneSt) : (updLane s n f).dict = s.dict := rfl
@[simp] theorem updLane_dictB (s : State) (n : Nat) (f : LaneSt → LaneSt) : (updLane s n f).dictB = s.dictB := rfl
@[simp] theorem updLane_cnt (s : State) (n : Nat) (f : LaneSt → LaneSt) : (updLane s n f).cnt = s.cnt := rfl
@[simp] theorem updLane_links (s : State) (n : Nat) (f : LaneSt → LaneSt) : (updLane s n f).links = s.links := rfl
@[simp] theorem updLane_host (s : State) (n : Nat) (f : LaneSt → LaneSt) : (updLane s n f).host = s.host := rfl
@[simp] theorem updLane_fab (s : State) (n : Nat) (f : LaneSt → LaneSt) : (updLane s n f).fab = s.fab := rfl
@[simp] theorem updLane_brdg (s : State) (n : Nat) (f : LaneSt → LaneSt) : (updLane s n f).brdg = s.brdg := rfl
@[simp] theorem updLane_evc (s : State) (n : Nat) (f : LaneSt → LaneSt) : (updLane s n f).evc = s.evc := rfl
@[simp] theorem updLane_err (s : State) (n : Nat) (f : LaneSt → LaneSt) : (updLane s n f).err = s.err := rfl
@[simp] theorem updLane_eng (s : State) (n : Nat) (f : LaneSt → LaneSt) : (updLane s n f).eng = s.eng := rfl
@[simp] theorem updLane_pwr (s : State) (n : Nat) (f : LaneSt → LaneSt) : (updLane s n f).pwr = s.pwr := rfl
@[simp] theorem updLane_time (s : State) (n : Nat) (f : LaneSt → LaneSt) : (updLane s n f).time = s.time := rfl
@[simp] theorem updLane_test (s : State) (n : Nat) (f : LaneSt → LaneSt) : (updLane s n f).test = s.test := rfl
@[simp] theorem updLane_link_eq (s : State) (n : Nat) (f : LaneSt → LaneSt) (k : Nat) : link (updLane s n f) k = link s k := rfl
@[simp] theorem updLane_hl_eq (s : State) (n : Nat) (f : LaneSt → LaneSt) (k : Nat) : hl (updLane s n f) k = hl s k := rfl
@[simp] theorem updLane_fn_eq (s : State) (n : Nat) (f : LaneSt → LaneSt) (k : Nat) : fn (updLane s n f) k = fn s k := rfl
@[simp] theorem updLane_mbx_eq (s : State) (n : Nat) (f : LaneSt → LaneSt) (k : Nat) : mbx (updLane s n f) k = mbx s k := rfl
@[simp] theorem updLane_flowSt_eq (s : State) (n : Nat) (f : LaneSt → LaneSt) (k : Nat) : flowSt (updLane s n f) k = flowSt s k := rfl
@[simp] theorem updLane_sem_eq (s : State) (n : Nat) (f : LaneSt → LaneSt) (k : Nat) : sem (updLane s n f) k = sem s k := rfl
@[simp] theorem updLane_mg_eq (s : State) (n : Nat) (f : LaneSt → LaneSt) (k : Nat) : mg (updLane s n f) k = mg s k := rfl
@[simp] theorem updLane_dq_eq (s : State) (n : Nat) (f : LaneSt → LaneSt) (k : Nat) : dq (updLane s n f) k = dq s k := rfl
@[simp] theorem updLane_src_eq (s : State) (n : Nat) (f : LaneSt → LaneSt) (k : Nat) : src (updLane s n f) k = src s k := rfl
@[simp] theorem updLane_eng_eq (s : State) (n : Nat) (f : LaneSt → LaneSt) (k : Nat) : eng (updLane s n f) k = eng s k := rfl
@[simp] theorem updLane_clus_eq (s : State) (n : Nat) (f : LaneSt → LaneSt) (k : Nat) : clus (updLane s n f) k = clus s k := rfl
@[simp] theorem updLane_svc_eq (s : State) (n : Nat) (f : LaneSt → LaneSt) (k : Nat) : svc (updLane s n f) k = svc s k := rfl
@[simp] theorem updLane_half_eq (s : State) (n : Nat) (f : LaneSt → LaneSt) (h : Half) : half (updLane s n f) h = half s h := by cases h <;> rfl

/-! ### updLink -/

@[simp] theorem updLink_pending (s : State) (n : Nat) (f : LlSt → LlSt) : (updLink s n f).pending = s.pending := rfl
@[simp] theorem updLink_out (s : State) (n : Nat) (f : LlSt → LlSt) : (updLink s n f).out = s.out := rfl
@[simp] theorem updLink_clk (s : State) (n : Nat) (f : LlSt → LlSt) : (updLink s n f).clk = s.clk := rfl
@[simp] theorem updLink_freeCtr (s : State) (n : Nat) (f : LlSt → LlSt) : (updLink s n f).freeCtr = s.freeCtr := rfl
@[simp] theorem updLink_nextId (s : State) (n : Nat) (f : LlSt → LlSt) : (updLink s n f).nextId = s.nextId := rfl
@[simp] theorem updLink_sys (s : State) (n : Nat) (f : LlSt → LlSt) : (updLink s n f).sys = s.sys := rfl
@[simp] theorem updLink_nv (s : State) (n : Nat) (f : LlSt → LlSt) : (updLink s n f).nv = s.nv := rfl
@[simp] theorem updLink_dict (s : State) (n : Nat) (f : LlSt → LlSt) : (updLink s n f).dict = s.dict := rfl
@[simp] theorem updLink_dictB (s : State) (n : Nat) (f : LlSt → LlSt) : (updLink s n f).dictB = s.dictB := rfl
@[simp] theorem updLink_cnt (s : State) (n : Nat) (f : LlSt → LlSt) : (updLink s n f).cnt = s.cnt := rfl
@[simp] theorem updLink_lanes (s : State) (n : Nat) (f : LlSt → LlSt) : (updLink s n f).lanes = s.lanes := rfl
@[simp] theorem updLink_host (s : State) (n : Nat) (f : LlSt → LlSt) : (updLink s n f).host = s.host := rfl
@[simp] theorem updLink_fab (s : State) (n : Nat) (f : LlSt → LlSt) : (updLink s n f).fab = s.fab := rfl
@[simp] theorem updLink_brdg (s : State) (n : Nat) (f : LlSt → LlSt) : (updLink s n f).brdg = s.brdg := rfl
@[simp] theorem updLink_evc (s : State) (n : Nat) (f : LlSt → LlSt) : (updLink s n f).evc = s.evc := rfl
@[simp] theorem updLink_err (s : State) (n : Nat) (f : LlSt → LlSt) : (updLink s n f).err = s.err := rfl
@[simp] theorem updLink_eng (s : State) (n : Nat) (f : LlSt → LlSt) : (updLink s n f).eng = s.eng := rfl
@[simp] theorem updLink_pwr (s : State) (n : Nat) (f : LlSt → LlSt) : (updLink s n f).pwr = s.pwr := rfl
@[simp] theorem updLink_time (s : State) (n : Nat) (f : LlSt → LlSt) : (updLink s n f).time = s.time := rfl
@[simp] theorem updLink_test (s : State) (n : Nat) (f : LlSt → LlSt) : (updLink s n f).test = s.test := rfl
@[simp] theorem updLink_lane_eq (s : State) (n : Nat) (f : LlSt → LlSt) (k : Nat) : lane (updLink s n f) k = lane s k := rfl
@[simp] theorem updLink_hl_eq (s : State) (n : Nat) (f : LlSt → LlSt) (k : Nat) : hl (updLink s n f) k = hl s k := rfl
@[simp] theorem updLink_fn_eq (s : State) (n : Nat) (f : LlSt → LlSt) (k : Nat) : fn (updLink s n f) k = fn s k := rfl
@[simp] theorem updLink_mbx_eq (s : State) (n : Nat) (f : LlSt → LlSt) (k : Nat) : mbx (updLink s n f) k = mbx s k := rfl
@[simp] theorem updLink_flowSt_eq (s : State) (n : Nat) (f : LlSt → LlSt) (k : Nat) : flowSt (updLink s n f) k = flowSt s k := rfl
@[simp] theorem updLink_sem_eq (s : State) (n : Nat) (f : LlSt → LlSt) (k : Nat) : sem (updLink s n f) k = sem s k := rfl
@[simp] theorem updLink_mg_eq (s : State) (n : Nat) (f : LlSt → LlSt) (k : Nat) : mg (updLink s n f) k = mg s k := rfl
@[simp] theorem updLink_dq_eq (s : State) (n : Nat) (f : LlSt → LlSt) (k : Nat) : dq (updLink s n f) k = dq s k := rfl
@[simp] theorem updLink_src_eq (s : State) (n : Nat) (f : LlSt → LlSt) (k : Nat) : src (updLink s n f) k = src s k := rfl
@[simp] theorem updLink_eng_eq (s : State) (n : Nat) (f : LlSt → LlSt) (k : Nat) : eng (updLink s n f) k = eng s k := rfl
@[simp] theorem updLink_clus_eq (s : State) (n : Nat) (f : LlSt → LlSt) (k : Nat) : clus (updLink s n f) k = clus s k := rfl
@[simp] theorem updLink_svc_eq (s : State) (n : Nat) (f : LlSt → LlSt) (k : Nat) : svc (updLink s n f) k = svc s k := rfl
@[simp] theorem updLink_half_eq (s : State) (n : Nat) (f : LlSt → LlSt) (h : Half) : half (updLink s n f) h = half s h := by cases h <;> rfl

/-! ### updHl -/

@[simp] theorem updHl_pending (s : State) (n : Nat) (f : HlSt → HlSt) : (updHl s n f).pending = s.pending := rfl
@[simp] theorem updHl_out (s : State) (n : Nat) (f : HlSt → HlSt) : (updHl s n f).out = s.out := rfl
@[simp] theorem updHl_clk (s : State) (n : Nat) (f : HlSt → HlSt) : (updHl s n f).clk = s.clk := rfl
@[simp] theorem updHl_freeCtr (s : State) (n : Nat) (f : HlSt → HlSt) : (updHl s n f).freeCtr = s.freeCtr := rfl
@[simp] theorem updHl_nextId (s : State) (n : Nat) (f : HlSt → HlSt) : (updHl s n f).nextId = s.nextId := rfl
@[simp] theorem updHl_sys (s : State) (n : Nat) (f : HlSt → HlSt) : (updHl s n f).sys = s.sys := rfl
@[simp] theorem updHl_nv (s : State) (n : Nat) (f : HlSt → HlSt) : (updHl s n f).nv = s.nv := rfl
@[simp] theorem updHl_dict (s : State) (n : Nat) (f : HlSt → HlSt) : (updHl s n f).dict = s.dict := rfl
@[simp] theorem updHl_dictB (s : State) (n : Nat) (f : HlSt → HlSt) : (updHl s n f).dictB = s.dictB := rfl
@[simp] theorem updHl_cnt (s : State) (n : Nat) (f : HlSt → HlSt) : (updHl s n f).cnt = s.cnt := rfl
@[simp] theorem updHl_lanes (s : State) (n : Nat) (f : HlSt → HlSt) : (updHl s n f).lanes = s.lanes := rfl
@[simp] theorem updHl_links (s : State) (n : Nat) (f : HlSt → HlSt) : (updHl s n f).links = s.links := rfl
@[simp] theorem updHl_fab (s : State) (n : Nat) (f : HlSt → HlSt) : (updHl s n f).fab = s.fab := rfl
@[simp] theorem updHl_brdg (s : State) (n : Nat) (f : HlSt → HlSt) : (updHl s n f).brdg = s.brdg := rfl
@[simp] theorem updHl_evc (s : State) (n : Nat) (f : HlSt → HlSt) : (updHl s n f).evc = s.evc := rfl
@[simp] theorem updHl_err (s : State) (n : Nat) (f : HlSt → HlSt) : (updHl s n f).err = s.err := rfl
@[simp] theorem updHl_eng (s : State) (n : Nat) (f : HlSt → HlSt) : (updHl s n f).eng = s.eng := rfl
@[simp] theorem updHl_pwr (s : State) (n : Nat) (f : HlSt → HlSt) : (updHl s n f).pwr = s.pwr := rfl
@[simp] theorem updHl_time (s : State) (n : Nat) (f : HlSt → HlSt) : (updHl s n f).time = s.time := rfl
@[simp] theorem updHl_test (s : State) (n : Nat) (f : HlSt → HlSt) : (updHl s n f).test = s.test := rfl
@[simp] theorem updHl_lane_eq (s : State) (n : Nat) (f : HlSt → HlSt) (k : Nat) : lane (updHl s n f) k = lane s k := rfl
@[simp] theorem updHl_link_eq (s : State) (n : Nat) (f : HlSt → HlSt) (k : Nat) : link (updHl s n f) k = link s k := rfl
@[simp] theorem updHl_fn_eq (s : State) (n : Nat) (f : HlSt → HlSt) (k : Nat) : fn (updHl s n f) k = fn s k := rfl
@[simp] theorem updHl_mbx_eq (s : State) (n : Nat) (f : HlSt → HlSt) (k : Nat) : mbx (updHl s n f) k = mbx s k := rfl
@[simp] theorem updHl_flowSt_eq (s : State) (n : Nat) (f : HlSt → HlSt) (k : Nat) : flowSt (updHl s n f) k = flowSt s k := rfl
@[simp] theorem updHl_sem_eq (s : State) (n : Nat) (f : HlSt → HlSt) (k : Nat) : sem (updHl s n f) k = sem s k := rfl
@[simp] theorem updHl_mg_eq (s : State) (n : Nat) (f : HlSt → HlSt) (k : Nat) : mg (updHl s n f) k = mg s k := rfl
@[simp] theorem updHl_dq_eq (s : State) (n : Nat) (f : HlSt → HlSt) (k : Nat) : dq (updHl s n f) k = dq s k := rfl
@[simp] theorem updHl_src_eq (s : State) (n : Nat) (f : HlSt → HlSt) (k : Nat) : src (updHl s n f) k = src s k := rfl
@[simp] theorem updHl_eng_eq (s : State) (n : Nat) (f : HlSt → HlSt) (k : Nat) : eng (updHl s n f) k = eng s k := rfl
@[simp] theorem updHl_clus_eq (s : State) (n : Nat) (f : HlSt → HlSt) (k : Nat) : clus (updHl s n f) k = clus s k := rfl
@[simp] theorem updHl_svc_eq (s : State) (n : Nat) (f : HlSt → HlSt) (k : Nat) : svc (updHl s n f) k = svc s k := rfl
@[simp] theorem updHl_half_eq (s : State) (n : Nat) (f : HlSt → HlSt) (h : Half) : half (updHl s n f) h = half s h := by cases h <;> rfl

/-! ### updFn -/

@[simp] theorem updFn_pending (s : State) (n : Nat) (f : FnSt → FnSt) : (updFn s n f).pending = s.pending := rfl
@[simp] theorem updFn_out (s : State) (n : Nat) (f : FnSt → FnSt) : (updFn s n f).out = s.out := rfl
@[simp] theorem updFn_clk (s : State) (n : Nat) (f : FnSt → FnSt) : (updFn s n f).clk = s.clk := rfl
@[simp] theorem updFn_freeCtr (s : State) (n : Nat) (f : FnSt → FnSt) : (updFn s n f).freeCtr = s.freeCtr := rfl
@[simp] theorem updFn_nextId (s : State) (n : Nat) (f : FnSt → FnSt) : (updFn s n f).nextId = s.nextId := rfl
@[simp] theorem updFn_sys (s : State) (n : Nat) (f : FnSt → FnSt) : (updFn s n f).sys = s.sys := rfl
@[simp] theorem updFn_nv (s : State) (n : Nat) (f : FnSt → FnSt) : (updFn s n f).nv = s.nv := rfl
@[simp] theorem updFn_dict (s : State) (n : Nat) (f : FnSt → FnSt) : (updFn s n f).dict = s.dict := rfl
@[simp] theorem updFn_dictB (s : State) (n : Nat) (f : FnSt → FnSt) : (updFn s n f).dictB = s.dictB := rfl
@[simp] theorem updFn_cnt (s : State) (n : Nat) (f : FnSt → FnSt) : (updFn s n f).cnt = s.cnt := rfl
@[simp] theorem updFn_lanes (s : State) (n : Nat) (f : FnSt → FnSt) : (updFn s n f).lanes = s.lanes := rfl
@[simp] theorem updFn_links (s : State) (n : Nat) (f : FnSt → FnSt) : (updFn s n f).links = s.links := rfl
@[simp] theorem updFn_fab (s : State) (n : Nat) (f : FnSt → FnSt) : (updFn s n f).fab = s.fab := rfl
@[simp] theorem updFn_brdg (s : State) (n : Nat) (f : FnSt → FnSt) : (updFn s n f).brdg = s.brdg := rfl
@[simp] theorem updFn_evc (s : State) (n : Nat) (f : FnSt → FnSt) : (updFn s n f).evc = s.evc := rfl
@[simp] theorem updFn_err (s : State) (n : Nat) (f : FnSt → FnSt) : (updFn s n f).err = s.err := rfl
@[simp] theorem updFn_eng (s : State) (n : Nat) (f : FnSt → FnSt) : (updFn s n f).eng = s.eng := rfl
@[simp] theorem updFn_pwr (s : State) (n : Nat) (f : FnSt → FnSt) : (updFn s n f).pwr = s.pwr := rfl
@[simp] theorem updFn_time (s : State) (n : Nat) (f : FnSt → FnSt) : (updFn s n f).time = s.time := rfl
@[simp] theorem updFn_test (s : State) (n : Nat) (f : FnSt → FnSt) : (updFn s n f).test = s.test := rfl
@[simp] theorem updFn_lane_eq (s : State) (n : Nat) (f : FnSt → FnSt) (k : Nat) : lane (updFn s n f) k = lane s k := rfl
@[simp] theorem updFn_link_eq (s : State) (n : Nat) (f : FnSt → FnSt) (k : Nat) : link (updFn s n f) k = link s k := rfl
@[simp] theorem updFn_hl_eq (s : State) (n : Nat) (f : FnSt → FnSt) (k : Nat) : hl (updFn s n f) k = hl s k := rfl
@[simp] theorem updFn_mbx_eq (s : State) (n : Nat) (f : FnSt → FnSt) (k : Nat) : mbx (updFn s n f) k = mbx s k := rfl
@[simp] theorem updFn_flowSt_eq (s : State) (n : Nat) (f : FnSt → FnSt) (k : Nat) : flowSt (updFn s n f) k = flowSt s k := rfl
@[simp] theorem updFn_sem_eq (s : State) (n : Nat) (f : FnSt → FnSt) (k : Nat) : sem (updFn s n f) k = sem s k := rfl
@[simp] theorem updFn_mg_eq (s : State) (n : Nat) (f : FnSt → FnSt) (k : Nat) : mg (updFn s n f) k = mg s k := rfl
@[simp] theorem updFn_dq_eq (s : State) (n : Nat) (f : FnSt → FnSt) (k : Nat) : dq (updFn s n f) k = dq s k := rfl
@[simp] theorem updFn_src_eq (s : State) (n : Nat) (f : FnSt → FnSt) (k : Nat) : src (updFn s n f) k = src s k := rfl
@[simp] theorem updFn_eng_eq (s : State) (n : Nat) (f : FnSt → FnSt) (k : Nat) : eng (updFn s n f) k = eng s k := rfl
@[simp] theorem updFn_clus_eq (s : State) (n : Nat) (f : FnSt → FnSt) (k : Nat) : clus (updFn s n f) k = clus s k := rfl
@[simp] theorem updFn_svc_eq (s : State) (n : Nat) (f : FnSt → FnSt) (k : Nat) : svc (updFn s n f) k = svc s k := rfl
@[simp] theorem updFn_half_eq (s : State) (n : Nat) (f : FnSt → FnSt) (h : Half) : half (updFn s n f) h = half s h := by cases h <;> rfl

/-! ### updMbx -/

@[simp] theorem updMbx_pending (s : State) (n : Nat) (f : MbxSt → MbxSt) : (updMbx s n f).pending = s.pending := rfl
@[simp] theorem updMbx_out (s : State) (n : Nat) (f : MbxSt → MbxSt) : (updMbx s n f).out = s.out := rfl
@[simp] theorem updMbx_clk (s : State) (n : Nat) (f : MbxSt → MbxSt) : (updMbx s n f).clk = s.clk := rfl
@[simp] theorem updMbx_freeCtr (s : State) (n : Nat) (f : MbxSt → MbxSt) : (updMbx s n f).freeCtr = s.freeCtr := rfl
@[simp] theorem updMbx_nextId (s : State) (n : Nat) (f : MbxSt → MbxSt) : (updMbx s n f).nextId = s.nextId := rfl
@[simp] theorem updMbx_sys (s : State) (n : Nat) (f : MbxSt → MbxSt) : (updMbx s n f).sys = s.sys := rfl
@[simp] theorem updMbx_nv (s : State) (n : Nat) (f : MbxSt → MbxSt) : (updMbx s n f).nv = s.nv := rfl
@[simp] theorem updMbx_dict (s : State) (n : Nat) (f : MbxSt → MbxSt) : (updMbx s n f).dict = s.dict := rfl
@[simp] theorem updMbx_dictB (s : State) (n : Nat) (f : MbxSt → MbxSt) : (updMbx s n f).dictB = s.dictB := rfl
@[simp] theorem updMbx_cnt (s : State) (n : Nat) (f : MbxSt → MbxSt) : (updMbx s n f).cnt = s.cnt := rfl
@[simp] theorem updMbx_lanes (s : State) (n : Nat) (f : MbxSt → MbxSt) : (updMbx s n f).lanes = s.lanes := rfl
@[simp] theorem updMbx_links (s : State) (n : Nat) (f : MbxSt → MbxSt) : (updMbx s n f).links = s.links := rfl
@[simp] theorem updMbx_fab (s : State) (n : Nat) (f : MbxSt → MbxSt) : (updMbx s n f).fab = s.fab := rfl
@[simp] theorem updMbx_brdg (s : State) (n : Nat) (f : MbxSt → MbxSt) : (updMbx s n f).brdg = s.brdg := rfl
@[simp] theorem updMbx_evc (s : State) (n : Nat) (f : MbxSt → MbxSt) : (updMbx s n f).evc = s.evc := rfl
@[simp] theorem updMbx_err (s : State) (n : Nat) (f : MbxSt → MbxSt) : (updMbx s n f).err = s.err := rfl
@[simp] theorem updMbx_eng (s : State) (n : Nat) (f : MbxSt → MbxSt) : (updMbx s n f).eng = s.eng := rfl
@[simp] theorem updMbx_pwr (s : State) (n : Nat) (f : MbxSt → MbxSt) : (updMbx s n f).pwr = s.pwr := rfl
@[simp] theorem updMbx_time (s : State) (n : Nat) (f : MbxSt → MbxSt) : (updMbx s n f).time = s.time := rfl
@[simp] theorem updMbx_test (s : State) (n : Nat) (f : MbxSt → MbxSt) : (updMbx s n f).test = s.test := rfl
@[simp] theorem updMbx_lane_eq (s : State) (n : Nat) (f : MbxSt → MbxSt) (k : Nat) : lane (updMbx s n f) k = lane s k := rfl
@[simp] theorem updMbx_link_eq (s : State) (n : Nat) (f : MbxSt → MbxSt) (k : Nat) : link (updMbx s n f) k = link s k := rfl
@[simp] theorem updMbx_hl_eq (s : State) (n : Nat) (f : MbxSt → MbxSt) (k : Nat) : hl (updMbx s n f) k = hl s k := rfl
@[simp] theorem updMbx_fn_eq (s : State) (n : Nat) (f : MbxSt → MbxSt) (k : Nat) : fn (updMbx s n f) k = fn s k := rfl
@[simp] theorem updMbx_flowSt_eq (s : State) (n : Nat) (f : MbxSt → MbxSt) (k : Nat) : flowSt (updMbx s n f) k = flowSt s k := rfl
@[simp] theorem updMbx_sem_eq (s : State) (n : Nat) (f : MbxSt → MbxSt) (k : Nat) : sem (updMbx s n f) k = sem s k := rfl
@[simp] theorem updMbx_mg_eq (s : State) (n : Nat) (f : MbxSt → MbxSt) (k : Nat) : mg (updMbx s n f) k = mg s k := rfl
@[simp] theorem updMbx_dq_eq (s : State) (n : Nat) (f : MbxSt → MbxSt) (k : Nat) : dq (updMbx s n f) k = dq s k := rfl
@[simp] theorem updMbx_src_eq (s : State) (n : Nat) (f : MbxSt → MbxSt) (k : Nat) : src (updMbx s n f) k = src s k := rfl
@[simp] theorem updMbx_eng_eq (s : State) (n : Nat) (f : MbxSt → MbxSt) (k : Nat) : eng (updMbx s n f) k = eng s k := rfl
@[simp] theorem updMbx_clus_eq (s : State) (n : Nat) (f : MbxSt → MbxSt) (k : Nat) : clus (updMbx s n f) k = clus s k := rfl
@[simp] theorem updMbx_svc_eq (s : State) (n : Nat) (f : MbxSt → MbxSt) (k : Nat) : svc (updMbx s n f) k = svc s k := rfl
@[simp] theorem updMbx_half_eq (s : State) (n : Nat) (f : MbxSt → MbxSt) (h : Half) : half (updMbx s n f) h = half s h := by cases h <;> rfl

/-! ### updFlow -/

@[simp] theorem updFlow_pending (s : State) (n : Nat) (f : FlowSt → FlowSt) : (updFlow s n f).pending = s.pending := rfl
@[simp] theorem updFlow_out (s : State) (n : Nat) (f : FlowSt → FlowSt) : (updFlow s n f).out = s.out := rfl
@[simp] theorem updFlow_clk (s : State) (n : Nat) (f : FlowSt → FlowSt) : (updFlow s n f).clk = s.clk := rfl
@[simp] theorem updFlow_freeCtr (s : State) (n : Nat) (f : FlowSt → FlowSt) : (updFlow s n f).freeCtr = s.freeCtr := rfl
@[simp] theorem updFlow_nextId (s : State) (n : Nat) (f : FlowSt → FlowSt) : (updFlow s n f).nextId = s.nextId := rfl
@[simp] theorem updFlow_sys (s : State) (n : Nat) (f : FlowSt → FlowSt) : (updFlow s n f).sys = s.sys := rfl
@[simp] theorem updFlow_nv (s : State) (n : Nat) (f : FlowSt → FlowSt) : (updFlow s n f).nv = s.nv := rfl
@[simp] theorem updFlow_dict (s : State) (n : Nat) (f : FlowSt → FlowSt) : (updFlow s n f).dict = s.dict := rfl
@[simp] theorem updFlow_dictB (s : State) (n : Nat) (f : FlowSt → FlowSt) : (updFlow s n f).dictB = s.dictB := rfl
@[simp] theorem updFlow_cnt (s : State) (n : Nat) (f : FlowSt → FlowSt) : (updFlow s n f).cnt = s.cnt := rfl
@[simp] theorem updFlow_lanes (s : State) (n : Nat) (f : FlowSt → FlowSt) : (updFlow s n f).lanes = s.lanes := rfl
@[simp] theorem updFlow_links (s : State) (n : Nat) (f : FlowSt → FlowSt) : (updFlow s n f).links = s.links := rfl
@[simp] theorem updFlow_host (s : State) (n : Nat) (f : FlowSt → FlowSt) : (updFlow s n f).host = s.host := rfl
@[simp] theorem updFlow_brdg (s : State) (n : Nat) (f : FlowSt → FlowSt) : (updFlow s n f).brdg = s.brdg := rfl
@[simp] theorem updFlow_evc (s : State) (n : Nat) (f : FlowSt → FlowSt) : (updFlow s n f).evc = s.evc := rfl
@[simp] theorem updFlow_err (s : State) (n : Nat) (f : FlowSt → FlowSt) : (updFlow s n f).err = s.err := rfl
@[simp] theorem updFlow_eng (s : State) (n : Nat) (f : FlowSt → FlowSt) : (updFlow s n f).eng = s.eng := rfl
@[simp] theorem updFlow_pwr (s : State) (n : Nat) (f : FlowSt → FlowSt) : (updFlow s n f).pwr = s.pwr := rfl
@[simp] theorem updFlow_time (s : State) (n : Nat) (f : FlowSt → FlowSt) : (updFlow s n f).time = s.time := rfl
@[simp] theorem updFlow_test (s : State) (n : Nat) (f : FlowSt → FlowSt) : (updFlow s n f).test = s.test := rfl
@[simp] theorem updFlow_lane_eq (s : State) (n : Nat) (f : FlowSt → FlowSt) (k : Nat) : lane (updFlow s n f) k = lane s k := rfl
@[simp] theorem updFlow_link_eq (s : State) (n : Nat) (f : FlowSt → FlowSt) (k : Nat) : link (updFlow s n f) k = link s k := rfl
@[simp] theorem updFlow_hl_eq (s : State) (n : Nat) (f : FlowSt → FlowSt) (k : Nat) : hl (updFlow s n f) k = hl s k := rfl
@[simp] theorem updFlow_fn_eq (s : State) (n : Nat) (f : FlowSt → FlowSt) (k : Nat) : fn (updFlow s n f) k = fn s k := rfl
@[simp] theorem updFlow_mbx_eq (s : State) (n : Nat) (f : FlowSt → FlowSt) (k : Nat) : mbx (updFlow s n f) k = mbx s k := rfl
@[simp] theorem updFlow_sem_eq (s : State) (n : Nat) (f : FlowSt → FlowSt) (k : Nat) : sem (updFlow s n f) k = sem s k := rfl
@[simp] theorem updFlow_mg_eq (s : State) (n : Nat) (f : FlowSt → FlowSt) (k : Nat) : mg (updFlow s n f) k = mg s k := rfl
@[simp] theorem updFlow_dq_eq (s : State) (n : Nat) (f : FlowSt → FlowSt) (k : Nat) : dq (updFlow s n f) k = dq s k := rfl
@[simp] theorem updFlow_src_eq (s : State) (n : Nat) (f : FlowSt → FlowSt) (k : Nat) : src (updFlow s n f) k = src s k := rfl
@[simp] theorem updFlow_eng_eq (s : State) (n : Nat) (f : FlowSt → FlowSt) (k : Nat) : eng (updFlow s n f) k = eng s k := rfl
@[simp] theorem updFlow_clus_eq (s : State) (n : Nat) (f : FlowSt → FlowSt) (k : Nat) : clus (updFlow s n f) k = clus s k := rfl
@[simp] theorem updFlow_svc_eq (s : State) (n : Nat) (f : FlowSt → FlowSt) (k : Nat) : svc (updFlow s n f) k = svc s k := rfl
@[simp] theorem updFlow_half_eq (s : State) (n : Nat) (f : FlowSt → FlowSt) (h : Half) : half (updFlow s n f) h = half s h := by cases h <;> rfl

/-! ### updBrine -/

@[simp] theorem updBrine_pending (s : State) (h : Half) (f : BrineSt → BrineSt) : (updBrine s h f).pending = s.pending := rfl
@[simp] theorem updBrine_out (s : State) (h : Half) (f : BrineSt → BrineSt) : (updBrine s h f).out = s.out := rfl
@[simp] theorem updBrine_clk (s : State) (h : Half) (f : BrineSt → BrineSt) : (updBrine s h f).clk = s.clk := rfl
@[simp] theorem updBrine_freeCtr (s : State) (h : Half) (f : BrineSt → BrineSt) : (updBrine s h f).freeCtr = s.freeCtr := rfl
@[simp] theorem updBrine_nextId (s : State) (h : Half) (f : BrineSt → BrineSt) : (updBrine s h f).nextId = s.nextId := rfl
@[simp] theorem updBrine_sys (s : State) (h : Half) (f : BrineSt → BrineSt) : (updBrine s h f).sys = s.sys := rfl
@[simp] theorem updBrine_nv (s : State) (h : Half) (f : BrineSt → BrineSt) : (updBrine s h f).nv = s.nv := rfl
@[simp] theorem updBrine_dict (s : State) (h : Half) (f : BrineSt → BrineSt) : (updBrine s h f).dict = s.dict := rfl
@[simp] theorem updBrine_dictB (s : State) (h : Half) (f : BrineSt → BrineSt) : (updBrine s h f).dictB = s.dictB := rfl
@[simp] theorem updBrine_cnt (s : State) (h : Half) (f : BrineSt → BrineSt) : (updBrine s h f).cnt = s.cnt := rfl
@[simp] theorem updBrine_lanes (s : State) (h : Half) (f : BrineSt → BrineSt) : (updBrine s h f).lanes = s.lanes := rfl
@[simp] theorem updBrine_links (s : State) (h : Half) (f : BrineSt → BrineSt) : (updBrine s h f).links = s.links := rfl
@[simp] theorem updBrine_host (s : State) (h : Half) (f : BrineSt → BrineSt) : (updBrine s h f).host = s.host := rfl
@[simp] theorem updBrine_brdg (s : State) (h : Half) (f : BrineSt → BrineSt) : (updBrine s h f).brdg = s.brdg := rfl
@[simp] theorem updBrine_evc (s : State) (h : Half) (f : BrineSt → BrineSt) : (updBrine s h f).evc = s.evc := rfl
@[simp] theorem updBrine_err (s : State) (h : Half) (f : BrineSt → BrineSt) : (updBrine s h f).err = s.err := rfl
@[simp] theorem updBrine_eng (s : State) (h : Half) (f : BrineSt → BrineSt) : (updBrine s h f).eng = s.eng := rfl
@[simp] theorem updBrine_pwr (s : State) (h : Half) (f : BrineSt → BrineSt) : (updBrine s h f).pwr = s.pwr := rfl
@[simp] theorem updBrine_time (s : State) (h : Half) (f : BrineSt → BrineSt) : (updBrine s h f).time = s.time := rfl
@[simp] theorem updBrine_test (s : State) (h : Half) (f : BrineSt → BrineSt) : (updBrine s h f).test = s.test := rfl
@[simp] theorem updBrine_lane_eq (s : State) (h : Half) (f : BrineSt → BrineSt) (k : Nat) : lane (updBrine s h f) k = lane s k := rfl
@[simp] theorem updBrine_link_eq (s : State) (h : Half) (f : BrineSt → BrineSt) (k : Nat) : link (updBrine s h f) k = link s k := rfl
@[simp] theorem updBrine_hl_eq (s : State) (h : Half) (f : BrineSt → BrineSt) (k : Nat) : hl (updBrine s h f) k = hl s k := rfl
@[simp] theorem updBrine_fn_eq (s : State) (h : Half) (f : BrineSt → BrineSt) (k : Nat) : fn (updBrine s h f) k = fn s k := rfl
@[simp] theorem updBrine_mbx_eq (s : State) (h : Half) (f : BrineSt → BrineSt) (k : Nat) : mbx (updBrine s h f) k = mbx s k := rfl
@[simp] theorem updBrine_sem_eq (s : State) (h : Half) (f : BrineSt → BrineSt) (k : Nat) : sem (updBrine s h f) k = sem s k := rfl
@[simp] theorem updBrine_mg_eq (s : State) (h : Half) (f : BrineSt → BrineSt) (k : Nat) : mg (updBrine s h f) k = mg s k := rfl
@[simp] theorem updBrine_dq_eq (s : State) (h : Half) (f : BrineSt → BrineSt) (k : Nat) : dq (updBrine s h f) k = dq s k := rfl
@[simp] theorem updBrine_src_eq (s : State) (h : Half) (f : BrineSt → BrineSt) (k : Nat) : src (updBrine s h f) k = src s k := rfl
@[simp] theorem updBrine_eng_eq (s : State) (h : Half) (f : BrineSt → BrineSt) (k : Nat) : eng (updBrine s h f) k = eng s k := rfl
@[simp] theorem updBrine_clus_eq (s : State) (h : Half) (f : BrineSt → BrineSt) (k : Nat) : clus (updBrine s h f) k = clus s k := rfl
@[simp] theorem updBrine_svc_eq (s : State) (h : Half) (f : BrineSt → BrineSt) (k : Nat) : svc (updBrine s h f) k = svc s k := rfl
@[simp] theorem updBrine_half_eq (s : State) (h : Half) (f : BrineSt → BrineSt) (h : Half) : half (updBrine s h f) h = half s h := by cases h <;> rfl

/-! ### updSem -/

@[simp] theorem updSem_pending (s : State) (n : Nat) (f : SemSt → SemSt) : (updSem s n f).pending = s.pending := rfl
@[simp] theorem updSem_out (s : State) (n : Nat) (f : SemSt → SemSt) : (updSem s n f).out = s.out := rfl
@[simp] theorem updSem_clk (s : State) (n : Nat) (f : SemSt → SemSt) : (updSem s n f).clk = s.clk := rfl
@[simp] theorem updSem_freeCtr (s : State) (n : Nat) (f : SemSt → SemSt) : (updSem s n f).freeCtr = s.freeCtr := rfl
@[simp] theorem updSem_nextId (s : State) (n : Nat) (f : SemSt → SemSt) : (updSem s n f).nextId = s.nextId := rfl
@[simp] theorem updSem_sys (s : State) (n : Nat) (f : SemSt → SemSt) : (updSem s n f).sys = s.sys := rfl
@[simp] theorem updSem_nv (s : State) (n : Nat) (f : SemSt → SemSt) : (updSem s n f).nv = s.nv := rfl
@[simp] theorem updSem_dict (s : State) (n : Nat) (f : SemSt → SemSt) : (updSem s n f).dict = s.dict := rfl
@[simp] theorem updSem_dictB (s : State) (n : Nat) (f : SemSt → SemSt) : (updSem s n f).dictB = s.dictB := rfl
@[simp] theorem updSem_cnt (s : State) (n : Nat) (f : SemSt → SemSt) : (updSem s n f).cnt = s.cnt := rfl
@[simp] theorem updSem_lanes (s : State) (n : Nat) (f : SemSt → SemSt) : (updSem s n f).lanes = s.lanes := rfl
@[simp] theorem updSem_links (s : State) (n : Nat) (f : SemSt → SemSt) : (updSem s n f).links = s.links := rfl
@[simp] theorem updSem_host (s : State) (n : Nat) (f : SemSt → SemSt) : (updSem s n f).host = s.host := rfl
@[simp] theorem updSem_fab (s : State) (n : Nat) (f : SemSt → SemSt) : (updSem s n f).fab = s.fab := rfl
@[simp] theorem updSem_evc (s : State) (n : Nat) (f : SemSt → SemSt) : (updSem s n f).evc = s.evc := rfl
@[simp] theorem updSem_err (s : State) (n : Nat) (f : SemSt → SemSt) : (updSem s n f).err = s.err := rfl
@[simp] theorem updSem_eng (s : State) (n : Nat) (f : SemSt → SemSt) : (updSem s n f).eng = s.eng := rfl
@[simp] theorem updSem_pwr (s : State) (n : Nat) (f : SemSt → SemSt) : (updSem s n f).pwr = s.pwr := rfl
@[simp] theorem updSem_time (s : State) (n : Nat) (f : SemSt → SemSt) : (updSem s n f).time = s.time := rfl
@[simp] theorem updSem_test (s : State) (n : Nat) (f : SemSt → SemSt) : (updSem s n f).test = s.test := rfl
@[simp] theorem updSem_lane_eq (s : State) (n : Nat) (f : SemSt → SemSt) (k : Nat) : lane (updSem s n f) k = lane s k := rfl
@[simp] theorem updSem_link_eq (s : State) (n : Nat) (f : SemSt → SemSt) (k : Nat) : link (updSem s n f) k = link s k := rfl
@[simp] theorem updSem_hl_eq (s : State) (n : Nat) (f : SemSt → SemSt) (k : Nat) : hl (updSem s n f) k = hl s k := rfl
@[simp] theorem updSem_fn_eq (s : State) (n : Nat) (f : SemSt → SemSt) (k : Nat) : fn (updSem s n f) k = fn s k := rfl
@[simp] theorem updSem_mbx_eq (s : State) (n : Nat) (f : SemSt → SemSt) (k : Nat) : mbx (updSem s n f) k = mbx s k := rfl
@[simp] theorem updSem_flowSt_eq (s : State) (n : Nat) (f : SemSt → SemSt) (k : Nat) : flowSt (updSem s n f) k = flowSt s k := rfl
@[simp] theorem updSem_mg_eq (s : State) (n : Nat) (f : SemSt → SemSt) (k : Nat) : mg (updSem s n f) k = mg s k := rfl
@[simp] theorem updSem_dq_eq (s : State) (n : Nat) (f : SemSt → SemSt) (k : Nat) : dq (updSem s n f) k = dq s k := rfl
@[simp] theorem updSem_src_eq (s : State) (n : Nat) (f : SemSt → SemSt) (k : Nat) : src (updSem s n f) k = src s k := rfl
@[simp] theorem updSem_eng_eq (s : State) (n : Nat) (f : SemSt → SemSt) (k : Nat) : eng (updSem s n f) k = eng s k := rfl
@[simp] theorem updSem_clus_eq (s : State) (n : Nat) (f : SemSt → SemSt) (k : Nat) : clus (updSem s n f) k = clus s k := rfl
@[simp] theorem updSem_svc_eq (s : State) (n : Nat) (f : SemSt → SemSt) (k : Nat) : svc (updSem s n f) k = svc s k := rfl
@[simp] theorem updSem_half_eq (s : State) (n : Nat) (f : SemSt → SemSt) (h : Half) : half (updSem s n f) h = half s h := by cases h <;> rfl

/-! ### updMg -/

@[simp] theorem updMg_pending (s : State) (n : Nat) (f : MgSt → MgSt) : (updMg s n f).pending = s.pending := rfl
@[simp] theorem updMg_out (s : State) (n : Nat) (f : MgSt → MgSt) : (updMg s n f).out = s.out := rfl
@[simp] theorem updMg_clk (s : State) (n : Nat) (f : MgSt → MgSt) : (updMg s n f).clk = s.clk := rfl
@[simp] theorem updMg_freeCtr (s : State) (n : Nat) (f : MgSt → MgSt) : (updMg s n f).freeCtr = s.freeCtr := rfl
@[simp] theorem updMg_nextId (s : State) (n : Nat) (f : MgSt → MgSt) : (updMg s n f).nextId = s.nextId := rfl
@[simp] theorem updMg_sys (s : State) (n : Nat) (f : MgSt → MgSt) : (updMg s n f).sys = s.sys := rfl
@[simp] theorem updMg_nv (s : State) (n : Nat) (f : MgSt → MgSt) : (updMg s n f).nv = s.nv := rfl
@[simp] theorem updMg_dict (s : State) (n : Nat) (f : MgSt → MgSt) : (updMg s n f).dict = s.dict := rfl
@[simp] theorem updMg_dictB (s : State) (n : Nat) (f : MgSt → MgSt) : (updMg s n f).dictB = s.dictB := rfl
@[simp] theorem updMg_cnt (s : State) (n : Nat) (f : MgSt → MgSt) : (updMg s n f).cnt = s.cnt := rfl
@[simp] theorem updMg_lanes (s : State) (n : Nat) (f : MgSt → MgSt) : (updMg s n f).lanes = s.lanes := rfl
@[simp] theorem updMg_links (s : State) (n : Nat) (f : MgSt → MgSt) : (updMg s n f).links = s.links := rfl
@[simp] theorem updMg_host (s : State) (n : Nat) (f : MgSt → MgSt) : (updMg s n f).host = s.host := rfl
@[simp] theorem updMg_fab (s : State) (n : Nat) (f : MgSt → MgSt) : (updMg s n f).fab = s.fab := rfl
@[simp] theorem updMg_evc (s : State) (n : Nat) (f : MgSt → MgSt) : (updMg s n f).evc = s.evc := rfl
@[simp] theorem updMg_err (s : State) (n : Nat) (f : MgSt → MgSt) : (updMg s n f).err = s.err := rfl
@[simp] theorem updMg_eng (s : State) (n : Nat) (f : MgSt → MgSt) : (updMg s n f).eng = s.eng := rfl
@[simp] theorem updMg_pwr (s : State) (n : Nat) (f : MgSt → MgSt) : (updMg s n f).pwr = s.pwr := rfl
@[simp] theorem updMg_time (s : State) (n : Nat) (f : MgSt → MgSt) : (updMg s n f).time = s.time := rfl
@[simp] theorem updMg_test (s : State) (n : Nat) (f : MgSt → MgSt) : (updMg s n f).test = s.test := rfl
@[simp] theorem updMg_lane_eq (s : State) (n : Nat) (f : MgSt → MgSt) (k : Nat) : lane (updMg s n f) k = lane s k := rfl
@[simp] theorem updMg_link_eq (s : State) (n : Nat) (f : MgSt → MgSt) (k : Nat) : link (updMg s n f) k = link s k := rfl
@[simp] theorem updMg_hl_eq (s : State) (n : Nat) (f : MgSt → MgSt) (k : Nat) : hl (updMg s n f) k = hl s k := rfl
@[simp] theorem updMg_fn_eq (s : State) (n : Nat) (f : MgSt → MgSt) (k : Nat) : fn (updMg s n f) k = fn s k := rfl
@[simp] theorem updMg_mbx_eq (s : State) (n : Nat) (f : MgSt → MgSt) (k : Nat) : mbx (updMg s n f) k = mbx s k := rfl
@[simp] theorem updMg_flowSt_eq (s : State) (n : Nat) (f : MgSt → MgSt) (k : Nat) : flowSt (updMg s n f) k = flowSt s k := rfl
@[simp] theorem updMg_sem_eq (s : State) (n : Nat) (f : MgSt → MgSt) (k : Nat) : sem (updMg s n f) k = sem s k := rfl
@[simp] theorem updMg_dq_eq (s : State) (n : Nat) (f : MgSt → MgSt) (k : Nat) : dq (updMg s n f) k = dq s k := rfl
@[simp] theorem updMg_src_eq (s : State) (n : Nat) (f : MgSt → MgSt) (k : Nat) : src (updMg s n f) k = src s k := rfl
@[simp] theorem updMg_eng_eq (s : State) (n : Nat) (f : MgSt → MgSt) (k : Nat) : eng (updMg s n f) k = eng s k := rfl
@[simp] theorem updMg_clus_eq (s : State) (n : Nat) (f : MgSt → MgSt) (k : Nat) : clus (updMg s n f) k = clus s k := rfl
@[simp] theorem updMg_svc_eq (s : State) (n : Nat) (f : MgSt → MgSt) (k : Nat) : svc (updMg s n f) k = svc s k := rfl
@[simp] theorem updMg_half_eq (s : State) (n : Nat) (f : MgSt → MgSt) (h : Half) : half (updMg s n f) h = half s h := by cases h <;> rfl

/-! ### updDq -/

@[simp] theorem updDq_pending (s : State) (n : Nat) (f : DqSt → DqSt) : (updDq s n f).pending = s.pending := rfl
@[simp] theorem updDq_out (s : State) (n : Nat) (f : DqSt → DqSt) : (updDq s n f).out = s.out := rfl
@[simp] theorem updDq_clk (s : State) (n : Nat) (f : DqSt → DqSt) : (updDq s n f).clk = s.clk := rfl
@[simp] theorem updDq_freeCtr (s : State) (n : Nat) (f : DqSt → DqSt) : (updDq s n f).freeCtr = s.freeCtr := rfl
@[simp] theorem updDq_nextId (s : State) (n : Nat) (f : DqSt → DqSt) : (updDq s n f).nextId = s.nextId := rfl
@[simp] theorem updDq_sys (s : State) (n : Nat) (f : DqSt → DqSt) : (updDq s n f).sys = s.sys := rfl
@[simp] theorem updDq_nv (s : State) (n : Nat) (f : DqSt → DqSt) : (updDq s n f).nv = s.nv := rfl
@[simp] theorem updDq_dict (s : State) (n : Nat) (f : DqSt → DqSt) : (updDq s n f).dict = s.dict := rfl
@[simp] theorem updDq_dictB (s : State) (n : Nat) (f : DqSt → DqSt) : (updDq s n f).dictB = s.dictB := rfl
@[simp] theorem updDq_cnt (s : State) (n : Nat) (f : DqSt → DqSt) : (updDq s n f).cnt = s.cnt := rfl
@[simp] theorem updDq_lanes (s : State) (n : Nat) (f : DqSt → DqSt) : (updDq s n f).lanes = s.lanes := rfl
@[simp] theorem updDq_links (s : State) (n : Nat) (f : DqSt → DqSt) : (updDq s n f).links = s.links := rfl
@[simp] theorem updDq_host (s : State) (n : Nat) (f : DqSt → DqSt) : (updDq s n f).host = s.host := rfl
@[simp] theorem updDq_fab (s : State) (n : Nat) (f : DqSt → DqSt) : (updDq s n f).fab = s.fab := rfl
@[simp] theorem updDq_evc (s : State) (n : Nat) (f : DqSt → DqSt) : (updDq s n f).evc = s.evc := rfl
@[simp] theorem updDq_err (s : State) (n : Nat) (f : DqSt → DqSt) : (updDq s n f).err = s.err := rfl
@[simp] theorem updDq_eng (s : State) (n : Nat) (f : DqSt → DqSt) : (updDq s n f).eng = s.eng := rfl
@[simp] theorem updDq_pwr (s : State) (n : Nat) (f : DqSt → DqSt) : (updDq s n f).pwr = s.pwr := rfl
@[simp] theorem updDq_time (s : State) (n : Nat) (f : DqSt → DqSt) : (updDq s n f).time = s.time := rfl
@[simp] theorem updDq_test (s : State) (n : Nat) (f : DqSt → DqSt) : (updDq s n f).test = s.test := rfl
@[simp] theorem updDq_lane_eq (s : State) (n : Nat) (f : DqSt → DqSt) (k : Nat) : lane (updDq s n f) k = lane s k := rfl
@[simp] theorem updDq_link_eq (s : State) (n : Nat) (f : DqSt → DqSt) (k : Nat) : link (updDq s n f) k = link s k := rfl
@[simp] theorem updDq_hl_eq (s : State) (n : Nat) (f : DqSt → DqSt) (k : Nat) : hl (updDq s n f) k = hl s k := rfl
@[simp] theorem updDq_fn_eq (s : State) (n : Nat) (f : DqSt → DqSt) (k : Nat) : fn (updDq s n f) k = fn s k := rfl
@[simp] theorem updDq_mbx_eq (s : State) (n : Nat) (f : DqSt → DqSt) (k : Nat) : mbx (updDq s n f) k = mbx s k := rfl
@[simp] theorem updDq_flowSt_eq (s : State) (n : Nat) (f : DqSt → DqSt) (k : Nat) : flowSt (updDq s n f) k = flowSt s k := rfl
@[simp] theorem updDq_sem_eq (s : State) (n : Nat) (f : DqSt → DqSt) (k : Nat) : sem (updDq s n f) k = sem s k := rfl
@[simp] theorem updDq_mg_eq (s : State) (n : Nat) (f : DqSt → DqSt) (k : Nat) : mg (updDq s n f) k = mg s k := rfl
@[simp] theorem updDq_src_eq (s : State) (n : Nat) (f : DqSt → DqSt) (k : Nat) : src (updDq s n f) k = src s k := rfl
@[simp] theorem updDq_eng_eq (s : State) (n : Nat) (f : DqSt → DqSt) (k : Nat) : eng (updDq s n f) k = eng s k := rfl
@[simp] theorem updDq_clus_eq (s : State) (n : Nat) (f : DqSt → DqSt) (k : Nat) : clus (updDq s n f) k = clus s k := rfl
@[simp] theorem updDq_svc_eq (s : State) (n : Nat) (f : DqSt → DqSt) (k : Nat) : svc (updDq s n f) k = svc s k := rfl
@[simp] theorem updDq_half_eq (s : State) (n : Nat) (f : DqSt → DqSt) (h : Half) : half (updDq s n f) h = half s h := by cases h <;> rfl

/-! ### updSrc -/

@[simp] theorem updSrc_pending (s : State) (n : Nat) (f : SrcSt → SrcSt) : (updSrc s n f).pending = s.pending := rfl
@[simp] theorem updSrc_out (s : State) (n : Nat) (f : SrcSt → SrcSt) : (updSrc s n f).out = s.out := rfl
@[simp] theorem updSrc_clk (s : State) (n : Nat) (f : SrcSt → SrcSt) : (updSrc s n f).clk = s.clk := rfl
@[simp] theorem updSrc_freeCtr (s : State) (n : Nat) (f : SrcSt → SrcSt) : (updSrc s n f).freeCtr = s.freeCtr := rfl
@[simp] theorem updSrc_nextId (s : State) (n : Nat) (f : SrcSt → SrcSt) : (updSrc s n f).nextId = s.nextId := rfl
@[simp] theorem updSrc_sys (s : State) (n : Nat) (f : SrcSt → SrcSt) : (updSrc s n f).sys = s.sys := rfl
@[simp] theorem updSrc_nv (s : State) (n : Nat) (f : SrcSt → SrcSt) : (updSrc s n f).nv = s.nv := rfl
@[simp] theorem updSrc_dict (s : State) (n : Nat) (f : SrcSt → SrcSt) : (updSrc s n f).dict = s.dict := rfl
@[simp] theorem updSrc_dictB (s : State) (n : Nat) (f : SrcSt → SrcSt) : (updSrc s n f).dictB = s.dictB := rfl
@[simp] theorem updSrc_cnt (s : State) (n : Nat) (f : SrcSt → SrcSt) : (updSrc s n f).cnt = s.cnt := rfl
@[simp] theorem updSrc_lanes (s : State) (n : Nat) (f : SrcSt → SrcSt) : (updSrc s n f).lanes = s.lanes := rfl
@[simp] theorem updSrc_links (s : State) (n : Nat) (f : SrcSt → SrcSt) : (updSrc s n f).links = s.links := rfl
@[simp] theorem updSrc_host (s : State) (n : Nat) (f : SrcSt → SrcSt) : (updSrc s n f).host = s.host := rfl
@[simp] theorem updSrc_fab (s : State) (n : Nat) (f : SrcSt → SrcSt) : (updSrc s n f).fab = s.fab := rfl
@[simp] theorem updSrc_brdg (s : State) (n : Nat) (f : SrcSt → SrcSt) : (updSrc s n f).brdg = s.brdg := rfl
@[simp] theorem updSrc_err (s : State) (n : Nat) (f : SrcSt → SrcSt) : (updSrc s n f).err = s.err := rfl
@[simp] theorem updSrc_eng (s : State) (n : Nat) (f : SrcSt → SrcSt) : (updSrc s n f).eng = s.eng := rfl
@[simp] theorem updSrc_pwr (s : State) (n : Nat) (f : SrcSt → SrcSt) : (updSrc s n f).pwr = s.pwr := rfl
@[simp] theorem updSrc_time (s : State) (n : Nat) (f : SrcSt → SrcSt) : (updSrc s n f).time = s.time := rfl
@[simp] theorem updSrc_test (s : State) (n : Nat) (f : SrcSt → SrcSt) : (updSrc s n f).test = s.test := rfl
@[simp] theorem updSrc_lane_eq (s : State) (n : Nat) (f : SrcSt → SrcSt) (k : Nat) : lane (updSrc s n f) k = lane s k := rfl
@[simp] theorem updSrc_link_eq (s : State) (n : Nat) (f : SrcSt → SrcSt) (k : Nat) : link (updSrc s n f) k = link s k := rfl
@[simp] theorem updSrc_hl_eq (s : State) (n : Nat) (f : SrcSt → SrcSt) (k : Nat) : hl (updSrc s n f) k = hl s k := rfl
@[simp] theorem updSrc_fn_eq (s : State) (n : Nat) (f : SrcSt → SrcSt) (k : Nat) : fn (updSrc s n f) k = fn s k := rfl
@[simp] theorem updSrc_mbx_eq (s : State) (n : Nat) (f : SrcSt → SrcSt) (k : Nat) : mbx (updSrc s n f) k = mbx s k := rfl
@[simp] theorem updSrc_flowSt_eq (s : State) (n : Nat) (f : SrcSt → SrcSt) (k : Nat) : flowSt (updSrc s n f) k = flowSt s k := rfl
@[simp] theorem updSrc_sem_eq (s : State) (n : Nat) (f : SrcSt → SrcSt) (k : Nat) : sem (updSrc s n f) k = sem s k := rfl
@[simp] theorem updSrc_mg_eq (s : State) (n : Nat) (f : SrcSt → SrcSt) (k : Nat) : mg (updSrc s n f) k = mg s k := rfl
@[simp] theorem updSrc_dq_eq (s : State) (n : Nat) (f : SrcSt → SrcSt) (k : Nat) : dq (updSrc s n f) k = dq s k := rfl
@[simp] theorem updSrc_eng_eq (s : State) (n : Nat) (f : SrcSt → SrcSt) (k : Nat) : eng (updSrc s n f) k = eng s k := rfl
@[simp] theorem updSrc_clus_eq (s : State) (n : Nat) (f : SrcSt → SrcSt) (k : Nat) : clus (updSrc s n f) k = clus s k := rfl
@[simp] theorem updSrc_svc_eq (s : State) (n : Nat) (f : SrcSt → SrcSt) (k : Nat) : svc (updSrc s n f) k = svc s k := rfl
@[simp] theorem updSrc_half_eq (s : State) (n : Nat) (f : SrcSt → SrcSt) (h : Half) : half (updSrc s n f) h = half s h := by cases h <;> rfl

/-! ### updEng -/

@[simp] theorem updEng_pending (s : State) (n : Nat) (f : EngSt → EngSt) : (updEng s n f).pending = s.pending := rfl
@[simp] theorem updEng_out (s : State) (n : Nat) (f : EngSt → EngSt) : (updEng s n f).out = s.out := rfl
@[simp] theorem updEng_clk (s : State) (n : Nat) (f : EngSt → EngSt) : (updEng s n f).clk = s.clk := rfl
@[simp] theorem updEng_freeCtr (s : State) (n : Nat) (f : EngSt → EngSt) : (updEng s n f).freeCtr = s.freeCtr := rfl
@[simp] theorem updEng_nextId (s : State) (n : Nat) (f : EngSt → EngSt) : (updEng s n f).nextId = s.nextId := rfl
@[simp] theorem updEng_sys (s : State) (n : Nat) (f : EngSt → EngSt) : (updEng s n f).sys = s.sys := rfl
@[simp] theorem updEng_nv (s : State) (n : Nat) (f : EngSt → EngSt) : (updEng s n f).nv = s.nv := rfl
@[simp] theorem updEng_dict (s : State) (n : Nat) (f : EngSt → EngSt) : (updEng s n f).dict = s.dict := rfl
@[simp] theorem updEng_dictB (s : State) (n : Nat) (f : EngSt → EngSt) : (updEng s n f).dictB = s.dictB := rfl
@[simp] theorem updEng_cnt (s : State) (n : Nat) (f : EngSt → EngSt) : (updEng s n f).cnt = s.cnt := rfl
@[simp] theorem updEng_lanes (s : State) (n : Nat) (f : EngSt → EngSt) : (updEng s n f).lanes = s.lanes := rfl
@[simp] theorem updEng_links (s : State) (n : Nat) (f : EngSt → EngSt) : (updEng s n f).links = s.links := rfl
@[simp] theorem updEng_host (s : State) (n : Nat) (f : EngSt → EngSt) : (updEng s n f).host = s.host := rfl
@[simp] theorem updEng_fab (s : State) (n : Nat) (f : EngSt → EngSt) : (updEng s n f).fab = s.fab := rfl
@[simp] theorem updEng_brdg (s : State) (n : Nat) (f : EngSt → EngSt) : (updEng s n f).brdg = s.brdg := rfl
@[simp] theorem updEng_evc (s : State) (n : Nat) (f : EngSt → EngSt) : (updEng s n f).evc = s.evc := rfl
@[simp] theorem updEng_err (s : State) (n : Nat) (f : EngSt → EngSt) : (updEng s n f).err = s.err := rfl
@[simp] theorem updEng_pwr (s : State) (n : Nat) (f : EngSt → EngSt) : (updEng s n f).pwr = s.pwr := rfl
@[simp] theorem updEng_time (s : State) (n : Nat) (f : EngSt → EngSt) : (updEng s n f).time = s.time := rfl
@[simp] theorem updEng_test (s : State) (n : Nat) (f : EngSt → EngSt) : (updEng s n f).test = s.test := rfl
@[simp] theorem updEng_lane_eq (s : State) (n : Nat) (f : EngSt → EngSt) (k : Nat) : lane (updEng s n f) k = lane s k := rfl
@[simp] theorem updEng_link_eq (s : State) (n : Nat) (f : EngSt → EngSt) (k : Nat) : link (updEng s n f) k = link s k := rfl
@[simp] theorem updEng_hl_eq (s : State) (n : Nat) (f : EngSt → EngSt) (k : Nat) : hl (updEng s n f) k = hl s k := rfl
@[simp] theorem updEng_fn_eq (s : State) (n : Nat) (f : EngSt → EngSt) (k : Nat) : fn (updEng s n f) k = fn s k := rfl
@[simp] theorem updEng_mbx_eq (s : State) (n : Nat) (f : EngSt → EngSt) (k : Nat) : mbx (updEng s n f) k = mbx s k := rfl
@[simp] theorem updEng_flowSt_eq (s : State) (n : Nat) (f : EngSt → EngSt) (k : Nat) : flowSt (updEng s n f) k = flowSt s k := rfl
@[simp] theorem updEng_sem_eq (s : State) (n : Nat) (f : EngSt → EngSt) (k : Nat) : sem (updEng s n f) k = sem s k := rfl
@[simp] theorem updEng_mg_eq (s : State) (n : Nat) (f : EngSt → EngSt) (k : Nat) : mg (updEng s n f) k = mg s k := rfl
@[simp] theorem updEng_dq_eq (s : State) (n : Nat) (f : EngSt → EngSt) (k : Nat) : dq (updEng s n f) k = dq s k := rfl
@[simp] theorem updEng_src_eq (s : State) (n : Nat) (f : EngSt → EngSt) (k : Nat) : src (updEng s n f) k = src s k := rfl
@[simp] theorem updEng_clus_eq (s : State) (n : Nat) (f : EngSt → EngSt) (k : Nat) : clus (updEng s n f) k = clus s k := rfl
@[simp] theorem updEng_svc_eq (s : State) (n : Nat) (f : EngSt → EngSt) (k : Nat) : svc (updEng s n f) k = svc s k := rfl
@[simp] theorem updEng_half_eq (s : State) (n : Nat) (f : EngSt → EngSt) (h : Half) : half (updEng s n f) h = half s h := by cases h <;> rfl

/-! ### updClus -/

@[simp] theorem updClus_pending (s : State) (n : Nat) (f : ClSt → ClSt) : (updClus s n f).pending = s.pending := rfl
@[simp] theorem updClus_out (s : State) (n : Nat) (f : ClSt → ClSt) : (updClus s n f).out = s.out := rfl
@[simp] theorem updClus_clk (s : State) (n : Nat) (f : ClSt → ClSt) : (updClus s n f).clk = s.clk := rfl
@[simp] theorem updClus_freeCtr (s : State) (n : Nat) (f : ClSt → ClSt) : (updClus s n f).freeCtr = s.freeCtr := rfl
@[simp] theorem updClus_nextId (s : State) (n : Nat) (f : ClSt → ClSt) : (updClus s n f).nextId = s.nextId := rfl
@[simp] theorem updClus_sys (s : State) (n : Nat) (f : ClSt → ClSt) : (updClus s n f).sys = s.sys := rfl
@[simp] theorem updClus_nv (s : State) (n : Nat) (f : ClSt → ClSt) : (updClus s n f).nv = s.nv := rfl
@[simp] theorem updClus_dict (s : State) (n : Nat) (f : ClSt → ClSt) : (updClus s n f).dict = s.dict := rfl
@[simp] theorem updClus_dictB (s : State) (n : Nat) (f : ClSt → ClSt) : (updClus s n f).dictB = s.dictB := rfl
@[simp] theorem updClus_cnt (s : State) (n : Nat) (f : ClSt → ClSt) : (updClus s n f).cnt = s.cnt := rfl
@[simp] theorem updClus_lanes (s : State) (n : Nat) (f : ClSt → ClSt) : (updClus s n f).lanes = s.lanes := rfl
@[simp] theorem updClus_links (s : State) (n : Nat) (f : ClSt → ClSt) : (updClus s n f).links = s.links := rfl
@[simp] theorem updClus_host (s : State) (n : Nat) (f : ClSt → ClSt) : (updClus s n f).host = s.host := rfl
@[simp] theorem updClus_fab (s : State) (n : Nat) (f : ClSt → ClSt) : (updClus s n f).fab = s.fab := rfl
@[simp] theorem updClus_brdg (s : State) (n : Nat) (f : ClSt → ClSt) : (updClus s n f).brdg = s.brdg := rfl
@[simp] theorem updClus_evc (s : State) (n : Nat) (f : ClSt → ClSt) : (updClus s n f).evc = s.evc := rfl
@[simp] theorem updClus_err (s : State) (n : Nat) (f : ClSt → ClSt) : (updClus s n f).err = s.err := rfl
@[simp] theorem updClus_pwr (s : State) (n : Nat) (f : ClSt → ClSt) : (updClus s n f).pwr = s.pwr := rfl
@[simp] theorem updClus_time (s : State) (n : Nat) (f : ClSt → ClSt) : (updClus s n f).time = s.time := rfl
@[simp] theorem updClus_test (s : State) (n : Nat) (f : ClSt → ClSt) : (updClus s n f).test = s.test := rfl
@[simp] theorem updClus_lane_eq (s : State) (n : Nat) (f : ClSt → ClSt) (k : Nat) : lane (updClus s n f) k = lane s k := rfl
@[simp] theorem updClus_link_eq (s : State) (n : Nat) (f : ClSt → ClSt) (k : Nat) : link (updClus s n f) k = link s k := rfl
@[simp] theorem updClus_hl_eq (s : State) (n : Nat) (f : ClSt → ClSt) (k : Nat) : hl (updClus s n f) k = hl s k := rfl
@[simp] theorem updClus_fn_eq (s : State) (n : Nat) (f : ClSt → ClSt) (k : Nat) : fn (updClus s n f) k = fn s k := rfl
@[simp] theorem updClus_mbx_eq (s : State) (n : Nat) (f : ClSt → ClSt) (k : Nat) : mbx (updClus s n f) k = mbx s k := rfl
@[simp] theorem updClus_flowSt_eq (s : State) (n : Nat) (f : ClSt → ClSt) (k : Nat) : flowSt (updClus s n f) k = flowSt s k := rfl
@[simp] theorem updClus_sem_eq (s : State) (n : Nat) (f : ClSt → ClSt) (k : Nat) : sem (updClus s n f) k = sem s k := rfl
@[simp] theorem updClus_mg_eq (s : State) (n : Nat) (f : ClSt → ClSt) (k : Nat) : mg (updClus s n f) k = mg s k := rfl
@[simp] theorem updClus_dq_eq (s : State) (n : Nat) (f : ClSt → ClSt) (k : Nat) : dq (updClus s n f) k = dq s k := rfl
@[simp] theorem updClus_src_eq (s : State) (n : Nat) (f : ClSt → ClSt) (k : Nat) : src (updClus s n f) k = src s k := rfl
@[simp] theorem updClus_eng_eq (s : State) (n : Nat) (f : ClSt → ClSt) (k : Nat) : eng (updClus s n f) k = eng s k := rfl
@[simp] theorem updClus_svc_eq (s : State) (n : Nat) (f : ClSt → ClSt) (k : Nat) : svc (updClus s n f) k = svc s k := rfl
@[simp] theorem updClus_half_eq (s : State) (n : Nat) (f : ClSt → ClSt) (h : Half) : half (updClus s n f) h = half s h := by cases h <;> rfl

/-! ### updSvc -/

@[simp] theorem updSvc_pending (s : State) (n : Nat) (f : SvSt → SvSt) : (updSvc s n f).pending = s.pending := rfl
@[simp] theorem updSvc_out (s : State) (n : Nat) (f : SvSt → SvSt) : (updSvc s n f).out = s.out := rfl
@[simp] theorem updSvc_clk (s : State) (n : Nat) (f : SvSt → SvSt) : (updSvc s n f).clk = s.clk := rfl
@[simp] theorem updSvc_freeCtr (s : State) (n : Nat) (f : SvSt → SvSt) : (updSvc s n f).freeCtr = s.freeCtr := rfl
@[simp] theorem updSvc_nextId (s : State) (n : Nat) (f : SvSt → SvSt) : (updSvc s n f).nextId = s.nextId := rfl
@[simp] theorem updSvc_sys (s : State) (n : Nat) (f : SvSt → SvSt) : (updSvc s n f).sys = s.sys := rfl
@[simp] theorem updSvc_nv (s : State) (n : Nat) (f : SvSt → SvSt) : (updSvc s n f).nv = s.nv := rfl
@[simp] theorem updSvc_dict (s : State) (n : Nat) (f : SvSt → SvSt) : (updSvc s n f).dict = s.dict := rfl
@[simp] theorem updSvc_dictB (s : State) (n : Nat) (f : SvSt → SvSt) : (updSvc s n f).dictB = s.dictB := rfl
@[simp] theorem updSvc_cnt (s : State) (n : Nat) (f : SvSt → SvSt) : (updSvc s n f).cnt = s.cnt := rfl
@[simp] theorem updSvc_lanes (s : State) (n : Nat) (f : SvSt → SvSt) : (updSvc s n f).lanes = s.lanes := rfl
@[simp] theorem updSvc_links (s : State) (n : Nat) (f : SvSt → SvSt) : (updSvc s n f).links = s.links := rfl
@[simp] theorem updSvc_host (s : State) (n : Nat) (f : SvSt → SvSt) : (updSvc s n f).host = s.host := rfl
@[simp] theorem updSvc_fab (s : State) (n : Nat) (f : SvSt → SvSt) : (updSvc s n f).fab = s.fab := rfl
@[simp] theorem updSvc_brdg (s : State) (n : Nat) (f : SvSt → SvSt) : (updSvc s n f).brdg = s.brdg := rfl
@[simp] theorem updSvc_evc (s : State) (n : Nat) (f : SvSt → SvSt) : (updSvc s n f).evc = s.evc := rfl
@[simp] theorem updSvc_err (s : State) (n : Nat) (f : SvSt → SvSt) : (updSvc s n f).err = s.err := rfl
@[simp] theorem updSvc_pwr (s : State) (n : Nat) (f : SvSt → SvSt) : (updSvc s n f).pwr = s.pwr := rfl
@[simp] theorem updSvc_time (s : State) (n : Nat) (f : SvSt → SvSt) : (updSvc s n f).time = s.time := rfl
@[simp] theorem updSvc_test (s : State) (n : Nat) (f : SvSt → SvSt) : (updSvc s n f).test = s.test := rfl
@[simp] theorem updSvc_lane_eq (s : State) (n : Nat) (f : SvSt → SvSt) (k : Nat) : lane (updSvc s n f) k = lane s k := rfl
@[simp] theorem updSvc_link_eq (s : State) (n : Nat) (f : SvSt → SvSt) (k : Nat) : link (updSvc s n f) k = link s k := rfl
@[simp] theorem updSvc_hl_eq (s : State) (n : Nat) (f : SvSt → SvSt) (k : Nat) : hl (updSvc s n f) k = hl s k := rfl
@[simp] theorem updSvc_fn_eq (s : State) (n : Nat) (f : SvSt → SvSt) (k : Nat) : fn (updSvc s n f) k = fn s k := rfl
@[simp] theorem updSvc_mbx_eq (s : State) (n : Nat) (f : SvSt → SvSt) (k : Nat) : mbx (updSvc s n f) k = mbx s k := rfl
@[simp] theorem updSvc_flowSt_eq (s : State) (n : Nat) (f : SvSt → SvSt) (k : Nat) : flowSt (updSvc s n f) k = flowSt s k := rfl
@[simp] theorem updSvc_sem_eq (s : State) (n : Nat) (f : SvSt → SvSt) (k : Nat) : sem (updSvc s n f) k = sem s k := rfl
@[simp] theorem updSvc_mg_eq (s : State) (n : Nat) (f : SvSt → SvSt) (k : Nat) : mg (updSvc s n f) k = mg s k := rfl
@[simp] theorem updSvc_dq_eq (s : State) (n : Nat) (f : SvSt → SvSt) (k : Nat) : dq (updSvc s n f) k = dq s k := rfl
@[simp] theorem updSvc_src_eq (s : State) (n : Nat) (f : SvSt → SvSt) (k : Nat) : src (updSvc s n f) k = src s k := rfl
@[simp] theorem updSvc_eng_eq (s : State) (n : Nat) (f : SvSt → SvSt) (k : Nat) : eng (updSvc s n f) k = eng s k := rfl
@[simp] theorem updSvc_clus_eq (s : State) (n : Nat) (f : SvSt → SvSt) (k : Nat) : clus (updSvc s n f) k = clus s k := rfl
@[simp] theorem updSvc_half_eq (s : State) (n : Nat) (f : SvSt → SvSt) (h : Half) : half (updSvc s n f) h = half s h := by cases h <;> rfl

/-! ### bumpN -/

@[simp] theorem bumpN_pending (s : State) (i j k : Nat) : (bumpN s i j k).pending = s.pending := rfl
@[simp] theorem bumpN_out (s : State) (i j k : Nat) : (bumpN s i j k).out = s.out := rfl
@[simp] theorem bumpN_clk (s : State) (i j k : Nat) : (bumpN s i j k).clk = s.clk := rfl
@[simp] theorem bumpN_freeCtr (s : State) (i j k : Nat) : (bumpN s i j k).freeCtr = s.freeCtr := rfl
@[simp] theorem bumpN_nextId (s : State) (i j k : Nat) : (bumpN s i j k).nextId = s.nextId := rfl
@[simp] theorem bumpN_sys (s : State) (i j k : Nat) : (bumpN s i j k).sys = s.sys := rfl
@[simp] theorem bumpN_nv (s : State) (i j k : Nat) : (bumpN s i j k).nv = s.nv := rfl
@[simp] theorem bumpN_dict (s : State) (i j k : Nat) : (bumpN s i j k).dict = s.dict := rfl
@[simp] theorem bumpN_dictB (s : State) (i j k : Nat) : (bumpN s i j k).dictB = s.dictB := rfl
@[simp] theorem bumpN_lanes (s : State) (i j k : Nat) : (bumpN s i j k).lanes = s.lanes := rfl
@[simp] theorem bumpN_links (s : State) (i j k : Nat) : (bumpN s i j k).links = s.links := rfl
@[simp] theorem bumpN_host (s : State) (i j k : Nat) : (bumpN s i j k).host = s.host := rfl
@[simp] theorem bumpN_fab (s : State) (i j k : Nat) : (bumpN s i j k).fab = s.fab := rfl
@[simp] theorem bumpN_brdg (s : State) (i j k : Nat) : (bumpN s i j k).brdg = s.brdg := rfl
@[simp] theorem bumpN_evc (s : State) (i j k : Nat) : (bumpN s i j k).evc = s.evc := rfl
@[simp] theorem bumpN_err (s : State) (i j k : Nat) : (bumpN s i j k).err = s.err := rfl
@[simp] theorem bumpN_eng (s : State) (i j k : Nat) : (bumpN s i j k).eng = s.eng := rfl
@[simp] theorem bumpN_pwr (s : State) (i j k : Nat) : (bumpN s i j k).pwr = s.pwr := rfl
@[simp] theorem bumpN_time (s : State) (i j k : Nat) : (bumpN s i j k).time = s.time := rfl
@[simp] theorem bumpN_test (s : State) (i j k : Nat) : (bumpN s i j k).test = s.test := rfl
@[simp] theorem bumpN_lane_eq (s : State) (i j k : Nat) (k : Nat) : lane (bumpN s i j k) k = lane s k := rfl
@[simp] theorem bumpN_link_eq (s : State) (i j k : Nat) (k : Nat) : link (bumpN s i j k) k = link s k := rfl
@[simp] theorem bumpN_hl_eq (s : State) (i j k : Nat) (k : Nat) : hl (bumpN s i j k) k = hl s k := rfl
@[simp] theorem bumpN_fn_eq (s : State) (i j k : Nat) (k : Nat) : fn (bumpN s i j k) k = fn s k := rfl
@[simp] theorem bumpN_mbx_eq (s : State) (i j k : Nat) (k : Nat) : mbx (bumpN s i j k) k = mbx s k := rfl
@[simp] theorem bumpN_flowSt_eq (s : State) (i j k : Nat) (k : Nat) : flowSt (bumpN s i j k) k = flowSt s k := rfl
@[simp] theorem bumpN_sem_eq (s : State) (i j k : Nat) (k : Nat) : sem (bumpN s i j k) k = sem s k := rfl
@[simp] theorem bumpN_mg_eq (s : State) (i j k : Nat) (k : Nat) : mg (bumpN s i j k) k = mg s k := rfl
@[simp] theorem bumpN_dq_eq (s : State) (i j k : Nat) (k : Nat) : dq (bumpN s i j k) k = dq s k := rfl
@[simp] theorem bumpN_src_eq (s : State) (i j k : Nat) (k : Nat) : src (bumpN s i j k) k = src s k := rfl
@[simp] theorem bumpN_eng_eq (s : State) (i j k : Nat) (k : Nat) : eng (bumpN s i j k) k = eng s k := rfl
@[simp] theorem bumpN_clus_eq (s : State) (i j k : Nat) (k : Nat) : clus (bumpN s i j k) k = clus s k := rfl
@[simp] theorem bumpN_svc_eq (s : State) (i j k : Nat) (k : Nat) : svc (bumpN s i j k) k = svc s k := rfl
@[simp] theorem bumpN_half_eq (s : State) (i j k : Nat) (h : Half) : half (bumpN s i j k) h = half s h := by cases h <;> rfl

/-! ### bump -/

@[simp] theorem bump_pending (s : State) (i j : Nat) : (bump s i j).pending = s.pending := rfl
@[simp] theorem bump_out (s : State) (i j : Nat) : (bump s i j).out = s.out := rfl
@[simp] theorem bump_clk (s : State) (i j : Nat) : (bump s i j).clk = s.clk := rfl
@[simp] theorem bump_freeCtr (s : State) (i j : Nat) : (bump s i j).freeCtr = s.freeCtr := rfl
@[simp] theorem bump_nextId (s : State) (i j : Nat) : (bump s i j).nextId = s.nextId := rfl
@[simp] theorem bump_sys (s : State) (i j : Nat) : (bump s i j).sys = s.sys := rfl
@[simp] theorem bump_nv (s : State) (i j : Nat) : (bump s i j).nv = s.nv := rfl
@[simp] theorem bump_dict (s : State) (i j : Nat) : (bump s i j).dict = s.dict := rfl
@[simp] theorem bump_dictB (s : State) (i j : Nat) : (bump s i j).dictB = s.dictB := rfl
@[simp] theorem bump_lanes (s : State) (i j : Nat) : (bump s i j).lanes = s.lanes := rfl
@[simp] theorem bump_links (s : State) (i j : Nat) : (bump s i j).links = s.links := rfl
@[simp] theorem bump_host (s : State) (i j : Nat) : (bump s i j).host = s.host := rfl
@[simp] theorem bump_fab (s : State) (i j : Nat) : (bump s i j).fab = s.fab := rfl
@[simp] theorem bump_brdg (s : State) (i j : Nat) : (bump s i j).brdg = s.brdg := rfl
@[simp] theorem bump_evc (s : State) (i j : Nat) : (bump s i j).evc = s.evc := rfl
@[simp] theorem bump_err (s : State) (i j : Nat) : (bump s i j).err = s.err := rfl
@[simp] theorem bump_eng (s : State) (i j : Nat) : (bump s i j).eng = s.eng := rfl
@[simp] theorem bump_pwr (s : State) (i j : Nat) : (bump s i j).pwr = s.pwr := rfl
@[simp] theorem bump_time (s : State) (i j : Nat) : (bump s i j).time = s.time := rfl
@[simp] theorem bump_test (s : State) (i j : Nat) : (bump s i j).test = s.test := rfl
@[simp] theorem bump_lane_eq (s : State) (i j : Nat) (k : Nat) : lane (bump s i j) k = lane s k := rfl
@[simp] theorem bump_link_eq (s : State) (i j : Nat) (k : Nat) : link (bump s i j) k = link s k := rfl
@[simp] theorem bump_hl_eq (s : State) (i j : Nat) (k : Nat) : hl (bump s i j) k = hl s k := rfl
@[simp] theorem bump_fn_eq (s : State) (i j : Nat) (k : Nat) : fn (bump s i j) k = fn s k := rfl
@[simp] theorem bump_mbx_eq (s : State) (i j : Nat) (k : Nat) : mbx (bump s i j) k = mbx s k := rfl
@[simp] theorem bump_flowSt_eq (s : State) (i j : Nat) (k : Nat) : flowSt (bump s i j) k = flowSt s k := rfl
@[simp] theorem bump_sem_eq (s : State) (i j : Nat) (k : Nat) : sem (bump s i j) k = sem s k := rfl
@[simp] theorem bump_mg_eq (s : State) (i j : Nat) (k : Nat) : mg (bump s i j) k = mg s k := rfl
@[simp] theorem bump_dq_eq (s : State) (i j : Nat) (k : Nat) : dq (bump s i j) k = dq s k := rfl
@[simp] theorem bump_src_eq (s : State) (i j : Nat) (k : Nat) : src (bump s i j) k = src s k := rfl
@[simp] theorem bump_eng_eq (s : State) (i j : Nat) (k : Nat) : eng (bump s i j) k = eng s k := rfl
@[simp] theorem bump_clus_eq (s : State) (i j : Nat) (k : Nat) : clus (bump s i j) k = clus s k := rfl
@[simp] theorem bump_svc_eq (s : State) (i j : Nat) (k : Nat) : svc (bump s i j) k = svc s k := rfl
@[simp] theorem bump_half_eq (s : State) (i j : Nat) (h : Half) : half (bump s i j) h = half s h := by cases h <;> rfl

/-! ### bumpR -/

@[simp] theorem bumpR_pending (s : State) (a : Nat) : (bumpR s a).pending = s.pending := rfl
@[simp] theorem bumpR_out (s : State) (a : Nat) : (bumpR s a).out = s.out := rfl
@[simp] theorem bumpR_clk (s : State) (a : Nat) : (bumpR s a).clk = s.clk := rfl
@[simp] theorem bumpR_freeCtr (s : State) (a : Nat) : (bumpR s a).freeCtr = s.freeCtr := rfl
@[simp] theorem bumpR_nextId (s : State) (a : Nat) : (bumpR s a).nextId = s.nextId := rfl
@[simp] theorem bumpR_sys (s : State) (a : Nat) : (bumpR s a).sys = s.sys := rfl
@[simp] theorem bumpR_nv (s : State) (a : Nat) : (bumpR s a).nv = s.nv := rfl
@[simp] theorem bumpR_dict (s : State) (a : Nat) : (bumpR s a).dict = s.dict := rfl
@[simp] theorem bumpR_dictB (s : State) (a : Nat) : (bumpR s a).dictB = s.dictB := rfl
@[simp] theorem bumpR_lanes (s : State) (a : Nat) : (bumpR s a).lanes = s.lanes := rfl
@[simp] theorem bumpR_links (s : State) (a : Nat) : (bumpR s a).links = s.links := rfl
@[simp] theorem bumpR_host (s : State) (a : Nat) : (bumpR s a).host = s.host := rfl
@[simp] theorem bumpR_fab (s : State) (a : Nat) : (bumpR s a).fab = s.fab := rfl
@[simp] theorem bumpR_brdg (s : State) (a : Nat) : (bumpR s a).brdg = s.brdg := rfl
@[simp] theorem bumpR_evc (s : State) (a : Nat) : (bumpR s a).evc = s.evc := rfl
@[simp] theorem bumpR_err (s : State) (a : Nat) : (bumpR s a).err = s.err := rfl
@[simp] theorem bumpR_eng (s : State) (a : Nat) : (bumpR s a).eng = s.eng := rfl
@[simp] theorem bumpR_pwr (s : State) (a : Nat) : (bumpR s a).pwr = s.pwr := rfl
@[simp] theorem bumpR_time (s : State) (a : Nat) : (bumpR s a).time = s.time := rfl
@[simp] theorem bumpR_test (s : State) (a : Nat) : (bumpR s a).test = s.test := rfl
@[simp] theorem bumpR_lane_eq (s : State) (a : Nat) (k : Nat) : lane (bumpR s a) k = lane s k := rfl
@[simp] theorem bumpR_link_eq (s : State) (a : Nat) (k : Nat) : link (bumpR s a) k = link s k := rfl
@[simp] theorem bumpR_hl_eq (s : State) (a : Nat) (k : Nat) : hl (bumpR s a) k = hl s k := rfl
@[simp] theorem bumpR_fn_eq (s : State) (a : Nat) (k : Nat) : fn (bumpR s a) k = fn s k := rfl
@[simp] theorem bumpR_mbx_eq (s : State) (a : Nat) (k : Nat) : mbx (bumpR s a) k = mbx s k := rfl
@[simp] theorem bumpR_flowSt_eq (s : State) (a : Nat) (k : Nat) : flowSt (bumpR s a) k = flowSt s k := rfl
@[simp] theorem bumpR_sem_eq (s : State) (a : Nat) (k : Nat) : sem (bumpR s a) k = sem s k := rfl
@[simp] theorem bumpR_mg_eq (s : State) (a : Nat) (k : Nat) : mg (bumpR s a) k = mg s k := rfl
@[simp] theorem bumpR_dq_eq (s : State) (a : Nat) (k : Nat) : dq (bumpR s a) k = dq s k := rfl
@[simp] theorem bumpR_src_eq (s : State) (a : Nat) (k : Nat) : src (bumpR s a) k = src s k := rfl
@[simp] theorem bumpR_eng_eq (s : State) (a : Nat) (k : Nat) : eng (bumpR s a) k = eng s k := rfl
@[simp] theorem bumpR_clus_eq (s : State) (a : Nat) (k : Nat) : clus (bumpR s a) k = clus s k := rfl
@[simp] theorem bumpR_svc_eq (s : State) (a : Nat) (k : Nat) : svc (bumpR s a) k = svc s k := rfl
@[simp] theorem bumpR_half_eq (s : State) (a : Nat) (h : Half) : half (bumpR s a) h = half s h := by cases h <;> rfl

/-! ### updHalf and updDict -/

@[simp] theorem updHalf_pending (s : State) (h : Half) (f : HalfSt → HalfSt) : (updHalf s h f).pending = s.pending := by cases h <;> rfl
@[simp] theorem updHalf_out (s : State) (h : Half) (f : HalfSt → HalfSt) : (updHalf s h f).out = s.out := by cases h <;> rfl
@[simp] theorem updHalf_clk (s : State) (h : Half) (f : HalfSt → HalfSt) : (updHalf s h f).clk = s.clk := by cases h <;> rfl
@[simp] theorem updHalf_freeCtr (s : State) (h : Half) (f : HalfSt → HalfSt) : (updHalf s h f).freeCtr = s.freeCtr := by cases h <;> rfl
@[simp] theorem updHalf_nextId (s : State) (h : Half) (f : HalfSt → HalfSt) : (updHalf s h f).nextId = s.nextId := by cases h <;> rfl
@[simp] theorem updHalf_nv (s : State) (h : Half) (f : HalfSt → HalfSt) : (updHalf s h f).nv = s.nv := by cases h <;> rfl
@[simp] theorem updHalf_dict (s : State) (h : Half) (f : HalfSt → HalfSt) : (updHalf s h f).dict = s.dict := by cases h <;> rfl
@[simp] theorem updHalf_dictB (s : State) (h : Half) (f : HalfSt → HalfSt) : (updHalf s h f).dictB = s.dictB := by cases h <;> rfl
@[simp] theorem updHalf_cnt (s : State) (h : Half) (f : HalfSt → HalfSt) : (updHalf s h f).cnt = s.cnt := by cases h <;> rfl
@[simp] theorem updHalf_lanes (s : State) (h : Half) (f : HalfSt → HalfSt) : (updHalf s h f).lanes = s.lanes := by cases h <;> rfl
@[simp] theorem updHalf_links (s : State) (h : Half) (f : HalfSt → HalfSt) : (updHalf s h f).links = s.links := by cases h <;> rfl
@[simp] theorem updHalf_host (s : State) (h : Half) (f : HalfSt → HalfSt) : (updHalf s h f).host = s.host := by cases h <;> rfl
@[simp] theorem updHalf_fab (s : State) (h : Half) (f : HalfSt → HalfSt) : (updHalf s h f).fab = s.fab := by cases h <;> rfl
@[simp] theorem updHalf_brdg (s : State) (h : Half) (f : HalfSt → HalfSt) : (updHalf s h f).brdg = s.brdg := by cases h <;> rfl
@[simp] theorem updHalf_evc (s : State) (h : Half) (f : HalfSt → HalfSt) : (updHalf s h f).evc = s.evc := by cases h <;> rfl
@[simp] theorem updHalf_err (s : State) (h : Half) (f : HalfSt → HalfSt) : (updHalf s h f).err = s.err := by cases h <;> rfl
@[simp] theorem updHalf_eng (s : State) (h : Half) (f : HalfSt → HalfSt) : (updHalf s h f).eng = s.eng := by cases h <;> rfl
@[simp] theorem updHalf_pwr (s : State) (h : Half) (f : HalfSt → HalfSt) : (updHalf s h f).pwr = s.pwr := by cases h <;> rfl
@[simp] theorem updHalf_time (s : State) (h : Half) (f : HalfSt → HalfSt) : (updHalf s h f).time = s.time := by cases h <;> rfl
@[simp] theorem updHalf_test (s : State) (h : Half) (f : HalfSt → HalfSt) : (updHalf s h f).test = s.test := by cases h <;> rfl
@[simp] theorem updDict_pending (s : State) (h : Half) (f : DictSt → DictSt) : (updDict s h f).pending = s.pending := by unfold updDict; split <;> rfl
@[simp] theorem updDict_out (s : State) (h : Half) (f : DictSt → DictSt) : (updDict s h f).out = s.out := by unfold updDict; split <;> rfl
@[simp] theorem updDict_clk (s : State) (h : Half) (f : DictSt → DictSt) : (updDict s h f).clk = s.clk := by unfold updDict; split <;> rfl
@[simp] theorem updDict_freeCtr (s : State) (h : Half) (f : DictSt → DictSt) : (updDict s h f).freeCtr = s.freeCtr := by unfold updDict; split <;> rfl
@[simp] theorem updDict_nextId (s : State) (h : Half) (f : DictSt → DictSt) : (updDict s h f).nextId = s.nextId := by unfold updDict; split <;> rfl
@[simp] theorem updDict_sys (s : State) (h : Half) (f : DictSt → DictSt) : (updDict s h f).sys = s.sys := by unfold updDict; split <;> rfl
@[simp] theorem updDict_nv (s : State) (h : Half) (f : DictSt → DictSt) : (updDict s h f).nv = s.nv := by unfold updDict; split <;> rfl
@[simp] theorem updDict_cnt (s : State) (h : Half) (f : DictSt → DictSt) : (updDict s h f).cnt = s.cnt := by unfold updDict; split <;> rfl
@[simp] theorem updDict_lanes (s : State) (h : Half) (f : DictSt → DictSt) : (updDict s h f).lanes = s.lanes := by unfold updDict; split <;> rfl
@[simp] theorem updDict_links (s : State) (h : Half) (f : DictSt → DictSt) : (updDict s h f).links = s.links := by unfold updDict; split <;> rfl
@[simp] theorem updDict_host (s : State) (h : Half) (f : DictSt → DictSt) : (updDict s h f).host = s.host := by unfold updDict; split <;> rfl
@[simp] theorem updDict_fab (s : State) (h : Half) (f : DictSt → DictSt) : (updDict s h f).fab = s.fab := by unfold updDict; split <;> rfl
@[simp] theorem updDict_brdg (s : State) (h : Half) (f : DictSt → DictSt) : (updDict s h f).brdg = s.brdg := by unfold updDict; split <;> rfl
@[simp] theorem updDict_evc (s : State) (h : Half) (f : DictSt → DictSt) : (updDict s h f).evc = s.evc := by unfold updDict; split <;> rfl
@[simp] theorem updDict_err (s : State) (h : Half) (f : DictSt → DictSt) : (updDict s h f).err = s.err := by unfold updDict; split <;> rfl
@[simp] theorem updDict_eng (s : State) (h : Half) (f : DictSt → DictSt) : (updDict s h f).eng = s.eng := by unfold updDict; split <;> rfl
@[simp] theorem updDict_pwr (s : State) (h : Half) (f : DictSt → DictSt) : (updDict s h f).pwr = s.pwr := by unfold updDict; split <;> rfl
@[simp] theorem updDict_time (s : State) (h : Half) (f : DictSt → DictSt) : (updDict s h f).time = s.time := by unfold updDict; split <;> rfl
@[simp] theorem updDict_test (s : State) (h : Half) (f : DictSt → DictSt) : (updDict s h f).test = s.test := by unfold updDict; split <;> rfl

@[simp] theorem updHalf_half (s : State) (h : Half) (f : HalfSt → HalfSt) : half (updHalf s h f) h = f (half s h) := by cases h <;> rfl
theorem updHalf_half_other (s : State) (h k : Half) (f : HalfSt → HalfSt) (hk : k ≠ h) : half (updHalf s h f) k = half s k := by
  cases h <;> cases k <;> first | rfl | exact absurd rfl hk

@[simp] theorem onlyIf_true (f : State → State) (s : State) : onlyIf true f s = f s := rfl
@[simp] theorem onlyIf_false (f : State → State) (s : State) : onlyIf false f s = s := rfl
@[simp] theorem forAll_nil {α : Type} (s : State) (f : State → α → State) : forAll s [] f = s := rfl
@[simp] theorem forAll_cons {α : Type} (s : State) (x : α) (l : List α) (f : State → α → State) :
    forAll s (x :: l) f = forAll (f s x) l f := rfl

/-- A fold of an operation keeps what each application keeps. -/
theorem forAll_keeps {α : Type} (P : State → Prop) (l : List α) (f : State → α → State)
    (hf : ∀ t x, P t → P (f t x)) : ∀ s, P s → P (forAll s l f) := by
  induction l with
  | nil => exact fun _ h => h
  | cons x l ih => exact fun s h => ih (f s x) (hf s x h)

end Sys2Proof.Machine
end

