-- ==== Sys2Proof/Laws/Tab.lean ====
section
/-! SUPPORT. The laws of the sparse tables: a read after a write, the canonical form every operation
keeps, and the same for the state's own tables. -/

namespace Sys2Proof.Machine

variable {α : Type} [DecidableEq α] {d : α}

/-- Weakening the bound below which no key stands. -/
theorem Tab.wfFrom_none {t : Tab α} {lo : Option Nat} (h : Tab.wfFrom d lo t = true) :
    Tab.wfFrom d none t = true := by
  cases t with
  | nil => rfl
  | cons p t => obtain ⟨j, v⟩ := p; cases lo <;> simp_all [Tab.wfFrom]

theorem Tab.wfFrom_mono {t : Tab α} {a b : Nat} (hab : a ≤ b) (h : Tab.wfFrom d (some b) t = true) :
    Tab.wfFrom d (some a) t = true := by
  cases t with
  | nil => rfl
  | cons p t =>
    obtain ⟨j, v⟩ := p
    simp only [Tab.wfFrom, Bool.and_eq_true, decide_eq_true_eq] at h ⊢
    exact ⟨⟨by omega, h.1.2⟩, h.2⟩

/-- A key below every listed one reads the default. -/
theorem Tab.get_below {t : Tab α} {k lo : Nat} (h : Tab.wfFrom d (some lo) t = true) (hk : k ≤ lo) :
    Tab.get d t k = d := by
  cases t with
  | nil => rfl
  | cons p t =>
    obtain ⟨j, v⟩ := p
    simp only [Tab.wfFrom, Bool.and_eq_true, decide_eq_true_eq] at h
    have h1 : ¬ j = k := by omega
    have h2 : k < j := by omega
    simp [Tab.get, h1, h2]

/-- The head of a table whose first key is `k`. -/
theorem Tab.wfFrom_cons {t : Tab α} {lo : Option Nat} {k : Nat} {v : α} (hk : ∀ l, lo = some l → l < k)
    (hv : v ≠ d) (h : Tab.wfFrom d (some k) t = true) : Tab.wfFrom d lo ((k, v) :: t) = true := by
  cases lo with
  | none => simp [Tab.wfFrom, hv, h]
  | some l => simp [Tab.wfFrom, hv, h, hk l rfl]

theorem Tab.wfFrom_set {t : Tab α} {lo : Option Nat} {k : Nat} {v : α}
    (h : Tab.wfFrom d lo t = true) (hk : ∀ l, lo = some l → l < k) :
    Tab.wfFrom d lo (Tab.set d t k v) = true := by
  induction t generalizing lo with
  | nil =>
    unfold Tab.set
    split
    · rfl
    · cases lo with
      | none => simp_all [Tab.wfFrom]
      | some l => have := hk l rfl; simp_all [Tab.wfFrom]
  | cons p t ih =>
    obtain ⟨j, w⟩ := p
    simp only [Tab.wfFrom, Bool.and_eq_true, decide_eq_true_eq] at h
    unfold Tab.set
    split
    · rename_i hjk
      split
      · cases lo with
        | none => exact Tab.wfFrom_none h.2
        | some l => exact Tab.wfFrom_mono (by have := hk l rfl; omega) h.2
      · rename_i hv
        subst hjk
        exact Tab.wfFrom_cons hk hv h.2
    · split
      · rename_i hkj
        split
        · simp only [Tab.wfFrom, Bool.and_eq_true, decide_eq_true_eq]; exact h
        · rename_i hv
          exact Tab.wfFrom_cons hk hv (Tab.wfFrom_cons (by simpa using hkj) h.1.2 h.2)
      · simp only [Tab.wfFrom, Bool.and_eq_true, decide_eq_true_eq]
        exact ⟨h.1, ih h.2 (by intro l hl; cases hl; omega)⟩

/-- A write keeps the canonical form. -/
theorem Tab.wf_set {t : Tab α} (k : Nat) (v : α) (h : Tab.wf d t = true) :
    Tab.wf d (Tab.set d t k v) = true := Tab.wfFrom_set h (by simp)

theorem Tab.wf_upd {t : Tab α} (k : Nat) (f : α → α) (h : Tab.wf d t = true) :
    Tab.wf d (Tab.upd d t k f) = true := Tab.wf_set k _ h

theorem Tab.get_set_from {t : Tab α} {lo : Option Nat} {k : Nat} {v : α} (h : Tab.wfFrom d lo t = true) (k' : Nat) :
    Tab.get d (Tab.set d t k v) k' = if k' = k then v else Tab.get d t k' := by
  induction t generalizing lo with
  | nil =>
    unfold Tab.set
    split
    · rename_i hv; simp [Tab.get, hv]
    · by_cases hk : k' = k
      · simp [Tab.get, hk]
      · have : ¬ k = k' := fun e => hk e.symm
        simp [Tab.get, hk, this]
  | cons p t ih =>
    obtain ⟨j, w⟩ := p
    simp only [Tab.wfFrom, Bool.and_eq_true, decide_eq_true_eq] at h
    unfold Tab.set
    split
    · rename_i hjk
      subst hjk
      split
      · rename_i hv
        by_cases hk : k' = j
        · subst hk; simp [Tab.get_below h.2 (Nat.le_refl _), hv]
        · have hk2 : ¬ j = k' := fun e => hk e.symm
          by_cases hlt : k' < j
          · simp [Tab.get, hk, hk2, hlt, Tab.get_below h.2 (Nat.le_of_lt hlt)]
          · simp [Tab.get, hk, hk2, hlt]
      · by_cases hk : k' = j
        · simp [Tab.get, hk]
        · have hk2 : ¬ j = k' := fun e => hk e.symm
          simp [Tab.get, hk, hk2]
    · rename_i hjk
      split
      · rename_i hkj
        split
        · rename_i hv
          by_cases hk : k' = k
          · subst hk; simp [Tab.get, hjk, hkj, hv]
          · simp [hk]
        · by_cases hk : k' = k
          · simp [Tab.get, hk]
          · have hk2 : ¬ k = k' := fun e => hk e.symm
            by_cases hlt : k' < k
            · have h1 : ¬ j = k' := by omega
              have h2 : k' < j := by omega
              simp [Tab.get, hk, hk2, hlt, h1, h2]
            · simp [Tab.get, hk, hk2, hlt]
      · rename_i hkj
        have ih' := ih h.2
        by_cases hj : j = k'
        · have : ¬ k' = k := by omega
          simp [Tab.get, hj, this]
        · by_cases hlt : k' < j
          · have : ¬ k' = k := by omega
            simp [Tab.get, hj, hlt, this]
          · simp [Tab.get, hj, hlt, ih']

/-- A read after a write: the value written at its key, every other key as before. -/
theorem Tab.get_set {t : Tab α} (h : Tab.wf d t = true) (k k' : Nat) (v : α) :
    Tab.get d (Tab.set d t k v) k' = if k' = k then v else Tab.get d t k' := Tab.get_set_from h k'

theorem Tab.get_upd {t : Tab α} (h : Tab.wf d t = true) (k k' : Nat) (f : α → α) :
    Tab.get d (Tab.upd d t k f) k' = if k' = k then f (Tab.get d t k) else Tab.get d t k' :=
  Tab.get_set_from h k'

theorem Tab.wfFrom_mapAll {t : Tab α} {lo : Option Nat} (f : Nat → α → α) (h : Tab.wfFrom d lo t = true) :
    Tab.wfFrom d lo (Tab.mapAll d f t) = true := by
  induction t generalizing lo with
  | nil => rfl
  | cons p t ih =>
    obtain ⟨j, v⟩ := p
    simp only [Tab.wfFrom, Bool.and_eq_true, decide_eq_true_eq] at h
    unfold Tab.mapAll
    split
    · cases lo with
      | none => exact ih (Tab.wfFrom_none h.2)
      | some l => exact ih (Tab.wfFrom_mono (by have := h.1.1; simp at this; omega) h.2)
    · rename_i hv
      simp only [Tab.wfFrom, Bool.and_eq_true, decide_eq_true_eq]
      exact ⟨⟨h.1.1, hv⟩, ih h.2⟩

theorem Tab.wf_mapAll {t : Tab α} (f : Nat → α → α) (h : Tab.wf d t = true) :
    Tab.wf d (Tab.mapAll d f t) = true := Tab.wfFrom_mapAll f h

theorem Tab.wfFrom_keep {t : Tab α} {lo : Option Nat} (p : Nat → α → Bool) (h : Tab.wfFrom d lo t = true) :
    Tab.wfFrom d lo (Tab.keep p t) = true := by
  induction t generalizing lo with
  | nil => rfl
  | cons q t ih =>
    obtain ⟨j, v⟩ := q
    simp only [Tab.wfFrom, Bool.and_eq_true, decide_eq_true_eq] at h
    unfold Tab.keep
    split
    · simp only [Tab.wfFrom, Bool.and_eq_true, decide_eq_true_eq]
      exact ⟨h.1, ih h.2⟩
    · cases lo with
      | none => exact ih (Tab.wfFrom_none h.2)
      | some l => exact ih (Tab.wfFrom_mono (by have := h.1.1; simp at this; omega) h.2)

theorem Tab.wf_keep {t : Tab α} (p : Nat → α → Bool) (h : Tab.wf d t = true) :
    Tab.wf d (Tab.keep p t) = true := Tab.wfFrom_keep p h

/-- The memory operations keep the canonical form: a run of bytes written, a range cleared. -/
theorem writeBytes_wf {b : Byte} (t : Tab Byte) (lo : Nat) (bs : List Byte) (h : Tab.wf b t = true) :
    Tab.wf b (writeBytes b t lo bs) = true := by
  induction bs generalizing t lo with
  | nil => exact h
  | cons x bs ih => exact ih _ _ (Tab.wf_set _ _ h)

theorem clearBytes_wf {b : Byte} (t : Tab Byte) (lo hi : Nat) (h : Tab.wf b t = true) :
    Tab.wf b (clearBytes t lo hi) = true := Tab.wf_keep _ h

/-- A byte outside a written run reads as before. -/
theorem get_writeBytes_outside {b : Byte} (t : Tab Byte) (lo : Nat) (bs : List Byte) (a : Nat)
    (h : Tab.wf b t = true) (ha : a < lo ∨ lo + bs.length ≤ a) :
    Tab.get b (writeBytes b t lo bs) a = Tab.get b t a := by
  induction bs generalizing t lo with
  | nil => rfl
  | cons x bs ih =>
    simp only [List.length_cons] at ha
    rw [writeBytes, ih _ _ (Tab.wf_set _ _ h) (by omega), Tab.get_set h]
    simp; omega

/-- Byte i of a written run reads the i-th byte. -/
theorem get_writeBytes_inside {b : Byte} (t : Tab Byte) (lo : Nat) (bs : List Byte) (i : Nat)
    (h : Tab.wf b t = true) (hi : i < bs.length) :
    Tab.get b (writeBytes b t lo bs) (lo + i) = bs[i] := by
  induction bs generalizing t lo i with
  | nil => simp at hi
  | cons x bs ih =>
    cases i with
    | zero =>
      rw [writeBytes, get_writeBytes_outside _ _ _ _ (Tab.wf_set _ _ h) (by omega), Tab.get_set h]
      simp
    | succ i =>
      have := ih (Tab.set b t lo x) (lo + 1) i (Tab.wf_set _ _ h) (by simpa using hi)
      rw [writeBytes, show lo + (i + 1) = lo + 1 + i by omega, this]
      simp

/-! ## The state's own tables -/

theorem lane_updLane {s : State} (h : Tab.wf LaneSt.reset s.lanes = true) (n k : Nat) (f : LaneSt → LaneSt) :
    lane (updLane s n f) k = if k = n then f (lane s n) else lane s k := Tab.get_upd h n k f
theorem link_updLink {s : State} (h : Tab.wf LlSt.reset s.links = true) (n k : Nat) (f : LlSt → LlSt) :
    link (updLink s n f) k = if k = n then f (link s n) else link s k := Tab.get_upd h n k f
theorem hl_updHl {s : State} (h : Tab.wf HlSt.reset s.host.hls = true) (n k : Nat) (f : HlSt → HlSt) :
    hl (updHl s n f) k = if k = n then f (hl s n) else hl s k := Tab.get_upd h n k f
theorem fn_updFn {s : State} (h : Tab.wf FnSt.reset s.host.fns = true) (n k : Nat) (f : FnSt → FnSt) :
    fn (updFn s n f) k = if k = n then f (fn s n) else fn s k := Tab.get_upd h n k f
theorem mbx_updMbx {s : State} (h : Tab.wf MbxSt.reset s.host.mbx = true) (n k : Nat) (f : MbxSt → MbxSt) :
    mbx (updMbx s n f) k = if k = n then f (mbx s n) else mbx s k := Tab.get_upd h n k f
theorem flowSt_updFlow {s : State} (h : Tab.wf FlowSt.reset s.fab.flows = true) (n k : Nat) (f : FlowSt → FlowSt) :
    flowSt (updFlow s n f) k = if k = n then f (flowSt s n) else flowSt s k := Tab.get_upd h n k f
theorem sem_updSem {s : State} (h : Tab.wf SemSt.reset s.brdg.sems = true) (n k : Nat) (f : SemSt → SemSt) :
    sem (updSem s n f) k = if k = n then f (sem s n) else sem s k := Tab.get_upd h n k f
theorem mg_updMg {s : State} (h : Tab.wf MgSt.reset s.brdg.mgs = true) (n k : Nat) (f : MgSt → MgSt) :
    mg (updMg s n f) k = if k = n then f (mg s n) else mg s k := Tab.get_upd h n k f
theorem dq_updDq {s : State} (h : Tab.wf DqSt.reset s.brdg.dqs = true) (n k : Nat) (f : DqSt → DqSt) :
    dq (updDq s n f) k = if k = n then f (dq s n) else dq s k := Tab.get_upd h n k f
theorem src_updSrc {s : State} (h : Tab.wf SrcSt.reset s.evc.srcs = true) (n k : Nat) (f : SrcSt → SrcSt) :
    src (updSrc s n f) k = if k = n then f (src s n) else src s k := Tab.get_upd h n k f
theorem eng_updEng {s : State} (h : Tab.wf EngSt.reset s.eng.engs = true) (n k : Nat) (f : EngSt → EngSt) :
    eng (updEng s n f) k = if k = n then f (eng s n) else eng s k := Tab.get_upd h n k f
theorem clus_updClus {s : State} (h : Tab.wf ClSt.reset s.eng.cls = true) (n k : Nat) (f : ClSt → ClSt) :
    clus (updClus s n f) k = if k = n then f (clus s n) else clus s k := Tab.get_upd h n k f
theorem svc_updSvc {s : State} (h : Tab.wf SvSt.reset s.eng.svs = true) (n k : Nat) (f : SvSt → SvSt) :
    svc (updSvc s n f) k = if k = n then f (svc s n) else svc s k := Tab.get_upd h n k f

theorem updLane_wf {s : State} (h : Tab.wf LaneSt.reset s.lanes = true) (n : Nat) (f : LaneSt → LaneSt) :
    Tab.wf LaneSt.reset (updLane s n f).lanes = true := Tab.wf_upd n f h
theorem updLink_wf {s : State} (h : Tab.wf LlSt.reset s.links = true) (n : Nat) (f : LlSt → LlSt) :
    Tab.wf LlSt.reset (updLink s n f).links = true := Tab.wf_upd n f h
theorem updHl_wf {s : State} (h : Tab.wf HlSt.reset s.host.hls = true) (n : Nat) (f : HlSt → HlSt) :
    Tab.wf HlSt.reset (updHl s n f).host.hls = true := Tab.wf_upd n f h
theorem updFn_wf {s : State} (h : Tab.wf FnSt.reset s.host.fns = true) (n : Nat) (f : FnSt → FnSt) :
    Tab.wf FnSt.reset (updFn s n f).host.fns = true := Tab.wf_upd n f h
theorem updMbx_wf {s : State} (h : Tab.wf MbxSt.reset s.host.mbx = true) (n : Nat) (f : MbxSt → MbxSt) :
    Tab.wf MbxSt.reset (updMbx s n f).host.mbx = true := Tab.wf_upd n f h
theorem updFlow_wf {s : State} (h : Tab.wf FlowSt.reset s.fab.flows = true) (n : Nat) (f : FlowSt → FlowSt) :
    Tab.wf FlowSt.reset (updFlow s n f).fab.flows = true := Tab.wf_upd n f h
theorem updSem_wf {s : State} (h : Tab.wf SemSt.reset s.brdg.sems = true) (n : Nat) (f : SemSt → SemSt) :
    Tab.wf SemSt.reset (updSem s n f).brdg.sems = true := Tab.wf_upd n f h
theorem updMg_wf {s : State} (h : Tab.wf MgSt.reset s.brdg.mgs = true) (n : Nat) (f : MgSt → MgSt) :
    Tab.wf MgSt.reset (updMg s n f).brdg.mgs = true := Tab.wf_upd n f h
theorem updDq_wf {s : State} (h : Tab.wf DqSt.reset s.brdg.dqs = true) (n : Nat) (f : DqSt → DqSt) :
    Tab.wf DqSt.reset (updDq s n f).brdg.dqs = true := Tab.wf_upd n f h
theorem updSrc_wf {s : State} (h : Tab.wf SrcSt.reset s.evc.srcs = true) (n : Nat) (f : SrcSt → SrcSt) :
    Tab.wf SrcSt.reset (updSrc s n f).evc.srcs = true := Tab.wf_upd n f h
theorem updEng_wf {s : State} (h : Tab.wf EngSt.reset s.eng.engs = true) (n : Nat) (f : EngSt → EngSt) :
    Tab.wf EngSt.reset (updEng s n f).eng.engs = true := Tab.wf_upd n f h
theorem updClus_wf {s : State} (h : Tab.wf ClSt.reset s.eng.cls = true) (n : Nat) (f : ClSt → ClSt) :
    Tab.wf ClSt.reset (updClus s n f).eng.cls = true := Tab.wf_upd n f h
theorem updSvc_wf {s : State} (h : Tab.wf SvSt.reset s.eng.svs = true) (n : Nat) (f : SvSt → SvSt) :
    Tab.wf SvSt.reset (updSvc s n f).eng.svs = true := Tab.wf_upd n f h

end Sys2Proof.Machine
end

