-- ==== Sys2Proof/Laws/Access.lean ====
section
/-! SUPPORT. What a register or object write does: where the path is open it is the operation itself, from
an unprivileged view it only leaves the denial (R320). -/

namespace Sys2Proof.Machine

theorem ownB_updDict (s : State) (h : Half) (f : DictSt → DictSt) : ownB (updDict s h f) = ownB s := by
  unfold updDict; split <;> rfl

/-- The instance a half reads after an instance has been changed. -/
theorem dictOf_updDict (s : State) (h k : Half) (f : DictSt → DictSt) :
    dictOf (updDict s h f) k =
      if (ownB s && h == .b) = (ownB s && k == .b) then f (dictOf s k) else dictOf s k := by
  unfold dictOf
  rw [ownB_updDict]
  unfold updDict
  cases ownB s <;> cases h <;> cases k <;> rfl

/-- A change of an instance that leaves its running values changes no running value. -/
theorem runTab_updDict (s : State) (h k : Half) (f : DictSt → DictSt) (h1 : ∀ d, (f d).run = d.run)
    (h2 : ∀ d, (f d).folWait = d.folWait) (h3 : ∀ d, (f d).folPrev = d.folPrev) :
    runTab (updDict s h f) k = runTab s k := by
  have hl : leadHalf (updDict s h f) = leadHalf s := by unfold updDict; split <;> rfl
  unfold runTab
  rw [dictOf_updDict, hl]
  split <;> simp only [h1, h2, h3]

theorem wakeBy_awake {s : State} (h : awake s) (c i : Nat) : wakeBy s c i = s := by
  simp [wakeBy, wakeCounts, h.1, h.2.1]

theorem accessWake_awake {s : State} (h : awake s) (p : Path) : accessWake s p = s := by
  cases p <;> simp only [accessWake, tlpWake, onlyIf, wakeBy_awake h] <;> split <;> rfl

theorem tlpWake_awake {s : State} (h : awake s) (m : Nat) : tlpWake s m = s := by
  simp only [tlpWake, onlyIf, wakeBy_awake h]; split <;> rfl

theorem regAct_open {s : State} {p : Path} {h : Half} (ho : regOpen s p h) (off : Nat) (f : State → State) :
    regAct s p off h f = f s := by
  obtain ⟨h1, h2, h3, h4, h5, h6⟩ := ho
  cases p <;> simp_all [regAct, regPath, accessWake_awake]

theorem objAct_open {s : State} {p : Path} {h : Half} {idx : Nat} (ho : objOpen s p idx h) (sub : Nat)
    (f : State → State) : objAct s p idx sub h f = f s := by
  obtain ⟨h1, h2, h3, h4, h5, h6, h7, h8⟩ := ho
  cases p <;> simp_all [objAct, objPath, accessWake_awake]

theorem regOrObj_open {s : State} {p : Path} {h : Half} {idx : Nat} (ho : wideOpen s p idx h) (off sub : Nat)
    (f : State → State) : regOrObj s p off idx sub h f = f s := by
  cases p with
  | reg m g => exact regAct_open ho _ _
  | mbx m => exact objAct_open ho _ _
  | field n => exact objAct_open ho _ _
  | steward g => exact objAct_open ho _ _

theorem regAct_denied {s : State} {p : Path} {h : Half} (ha : awake s) (hr : regPath p = true)
    (hl : pathLive s p = true) (hi : inService s (pathHalf s p) = true) (hp : pathPriv s p = false) (off : Nat)
    (f : State → State) : regAct s p off h f = deny s p (denyReg p off) := by
  cases p <;> simp_all [regAct, regPath, accessWake_awake]

theorem wideAct_open {s : State} {p : Path} {idx : Nat} (ho : instOpen s p idx) (sub : Nat)
    (f : State → Half → Wr) : wideAct s p idx sub f = (f s (servHalf s (pathHalf s p))).2 := by
  obtain ⟨h1, h2, h3⟩ := ho
  unfold wideAct; dsimp only
  rw [objAct_open h1, h2]
  have : ((half s (pathHalf s p)).role == Role.orphaned) = false := by simpa using h3
  rw [this]; rfl

theorem agAct_open {s : State} {p : Path} (ho : agOpen s p) (off sub : Nat) (f : State → Half → State) :
    agAct s p off sub f = f s (servHalf s (pathHalf s p)) := by
  obtain ⟨h1, h2⟩ := ho
  have hr : regPath p = true := h1.2.1
  unfold agAct
  cases p <;> simp_all [regPath, regAct_open h1, agServed]

end Sys2Proof.Machine
end

