-- ==== Sys2Proof/Laws/Engine.lean ====
section
/-! SUPPORT. What an engine's instruction does where the engine can execute it, and what writing its
destination register does (R244). -/

namespace Sys2Proof.Machine

theorem engRun_ready {s : State} {e : Nat} {own : EngWait → Bool} (h : engReadyFor s e own) (f : State → State) :
    engRun s e own f = .next (f s) := by
  obtain ⟨h1, h2, h3, h4, h5⟩ := h
  have h4' : (engRegion (eng s e).pc.toNat 4).isNone = false := by
    cases hh : engRegion (eng s e).pc.toNat 4 <;> simp_all
  simp only [engRun, h1, h2, h3, h4', h5]
  simp

theorem engDo_ready {s : State} {e : SE} (h : engReady s e.val) (f : State → State) :
    engDo s e f = .next (f s) := engRun_ready h f

/-- An instruction that may also wait: it runs on an engine that waits for nothing. -/
theorem engRun_fromReady {s : State} {e : Nat} {own : EngWait → Bool} (h : engReady s e) (ho : own .none = true)
    (f : State → State) : engRun s e own f = .next (f s) := by
  apply engRun_ready
  refine ⟨?_, h.2⟩
  have h1 := h.1
  unfold engCan at h1 ⊢
  simp only [Bool.and_eq_true, beq_iff_eq] at h1 ⊢
  obtain ⟨⟨⟨⟨a, b⟩, c⟩, d⟩, f⟩ := h1
  rw [c]
  exact ⟨⟨⟨⟨a, b⟩, ho⟩, d⟩, f⟩

/-- Writing the destination register and going on. -/
theorem engRd_wrote {s : State} {e : Nat} (hw : engWf s e) (r : Nat) (hr : r < 32) (v : W64) :
    wroteRd s (engRd s e r v) e r v := by
  obtain ⟨hw, hl⟩ := hw
  have hw2 : ∀ f, Tab.wf EngSt.reset (updEng s e f).eng.engs = true := fun f => Tab.wf_upd _ _ hw
  by_cases h0 : r = 0
  · subst h0
    refine ⟨fun h => absurd rfl h, rfl, ?_, ?_, ?_, rfl⟩
    · intro k hk; simp [engRd, setReg, engNext, engReg, eng_updEng hw]
    · simp [engRd, setReg, engNext, eng_updEng hw]
    · intro k hk; simp [engRd, setReg, engNext, eng_updEng hw, hk]
  · refine ⟨?_, rfl, ?_, ?_, ?_, ?_⟩
    · intro _
      simp [engRd, setReg, h0, engNext, engReg, eng_updEng hw, eng_updEng (hw2 _), List.getD_eq_getElem?_getD, hl, hr]
    · intro k hk
      have : r ≠ k := fun e => hk e.symm
      simp [engRd, setReg, h0, engNext, engReg, eng_updEng hw, eng_updEng (hw2 _), List.getD_eq_getElem?_getD, this]
    · simp [engRd, setReg, h0, engNext, eng_updEng hw, eng_updEng (hw2 _)]
    · intro k hk; simp [engRd, setReg, h0, engNext, eng_updEng hw, eng_updEng (hw2 _), hk]
    · simp [engRd, setReg, h0, engNext, updEng]

/-- A store of bytes that lie in one region: they stand there, every other mapped byte stays. -/
theorem engPut_bytes {s : State} {e a : Nat} {bs : List Byte} (hw : engMemWf s e)
    (hr : (engRegion a bs.length).isSome = true) (hpos : 0 < bs.length) : putBytes s (engPut s e a bs) e a bs := by
  obtain ⟨h1, h2, -, h4, h5⟩ := hw
  have hb : ∀ b, (engRegion b 1).isSome = true → b < 0x10000 ∨ 0x100000 ≤ b := by
    intro b h; unfold engRegion at h; split at h
    · omega
    · split at h
      · omega
      · split at h
        · omega
        · simp at h
  have ha : a + bs.length ≤ 0x10000 ∨ 0x100000 ≤ a := by
    unfold engRegion at hr; split at hr
    · omega
    · split at hr
      · omega
      · split at hr
        · omega
        · simp at hr
  by_cases hlt : a < 0x10000
  · have hal : a + bs.length ≤ 0x10000 := by omega
    refine ⟨fun i h => ?_, fun k b hbr hn => ?_⟩
    · have : a + i < 0x10000 := by omega
      simp [engByte, engBytes, engPut, hlt, this, readBytes, eng_updEng h1]
      exact get_writeBytes_inside _ _ _ _ h4 h
    · simp only [sameMem, hlt, if_true] at hn
      by_cases hb2 : b < 0x10000
      · by_cases hk : k = e
        · subst hk
          have ho : b < a ∨ a + bs.length ≤ b := by omega
          simp [engByte, engBytes, engPut, hlt, hb2, readBytes, eng_updEng h1]
          exact get_writeBytes_outside _ _ _ _ h4 ho
        · simp [engByte, engBytes, engPut, hlt, hb2, readBytes, eng_updEng h1, hk]
      · simp [engByte, engBytes, engPut, hlt, hb2, readBytes]
  · have hal : 0x100000 ≤ a := by omega
    refine ⟨fun i h => ?_, fun k b hbr hn => ?_⟩
    · have : ¬ a + i < 0x10000 := by omega
      have e2 : a + i - 0x100000 = a - 0x100000 + i := by omega
      simp [engByte, engBytes, engPut, hlt, this, readBytes, clus_updClus h2, e2]
      exact get_writeBytes_inside _ _ _ _ h5 h
    · simp only [sameMem, hlt, if_false] at hn
      by_cases hb2 : b < 0x10000
      · simp [engByte, engBytes, engPut, hlt, hb2, readBytes]
      · by_cases hk : k / 8 = e / 8
        · have hb3 := hb b hbr
          have ho : b - 0x100000 < a - 0x100000 ∨ a - 0x100000 + bs.length ≤ b - 0x100000 := by omega
          simp [engByte, engBytes, engPut, hlt, hb2, readBytes, clus_updClus h2, hk]
          exact get_writeBytes_outside _ _ _ _ h5 ho
        · simp [engByte, engBytes, engPut, hlt, hb2, readBytes, clus_updClus h2, hk]

/-- A store, a write of a register and the next instruction. -/
theorem engPut_rd {s : State} {e a : Nat} {bs : List Byte} (hw : engMemWf s e)
    (hr : (engRegion a bs.length).isSome = true) (hpos : 0 < bs.length) (r : Nat) (hr32 : r < 32) (v : W64) :
    let t := engRd (engPut s e a bs) e r v
    putBytes s t e a bs ∧ onlyEngine s t e ∧ (r ≠ 0 → engReg t e r = v) ∧
    (∀ k, k ≠ r → engReg t e k = engReg s e k) := by
  have hb := engPut_bytes hw hr hpos
  obtain ⟨h1, h2, h3, h4, h5⟩ := hw
  have hw2 : Tab.wf EngSt.reset (engPut s e a bs).eng.engs = true := by
    unfold engPut; split
    · exact updEng_wf h1 _ _
    · exact h1
  have hregs : ∀ k, (eng (engPut s e a bs) k).regs = (eng s k).regs := by
    intro k; unfold engPut; split
    · rw [eng_updEng h1]; split
      · next hk => subst hk; rfl
      · rfl
    · rfl
  have w := engRd_wrote (s := engPut s e a bs) (e := e) ⟨hw2, by rw [hregs]; exact h3⟩ r hr32 v
  obtain ⟨w1, w2, w3, w4, w5, w6⟩ := w
  have hmem : ∀ k b, engByte (engRd (engPut s e a bs) e r v) k b = engByte (engPut s e a bs) k b := by
    intro k b
    have hc : clus (engRd (engPut s e a bs) e r v) = clus (engPut s e a bs) := by
      funext c; unfold engRd setReg engNext; split <;> rfl
    have hm : (eng (engRd (engPut s e a bs) e r v) k).mem = (eng (engPut s e a bs) k).mem := by
      by_cases hk : k = e
      · subst hk; rw [w4]
      · rw [w5 k hk]
    simp only [engByte, engBytes, hc, hm]
  dsimp only
  refine ⟨⟨fun i h => ?_, fun k b h1 h2 => ?_⟩, ⟨?_, ?_, ?_, ?_⟩, w1, ?_⟩
  · rw [hmem]; exact hb.1 i h
  · rw [hmem]; exact hb.2 k b h1 h2
  · unfold engRd setReg engNext engPut; split <;> split <;> rfl
  · rw [w4]
    have : eng (engPut s e a bs) e = { eng s e with mem := (eng (engPut s e a bs) e).mem } := by
      unfold engPut; split
      · rw [eng_updEng h1]; simp
      · rfl
    rw [this]
  · intro k hk; rw [w5 k hk]; unfold engPut; split
    · rw [eng_updEng h1]; simp [hk]
    · rfl
  · intro c
    have hc : clus (engRd (engPut s e a bs) e r v) c = clus (engPut s e a bs) c := by
      unfold engRd setReg engNext; split <;> rfl
    rw [hc]; unfold engPut; split
    · rfl
    · rw [clus_updClus h2]; split
      · next hk => subst hk; rfl
      · rfl
  · intro k hk; rw [w3 k hk]; simp only [engReg, hregs]

/-- A 5-bit field names one of the 32 registers. -/
theorem opA_lt (x : EngWord) : opA x < 32 := Nat.mod_lt _ (by decide)

end Sys2Proof.Machine
end

