-- ==== Sys2Proof/Laws/Keeps.lean ====
section
/-! SUPPORT. What every step keeps, as a relation of two states: the queue, the cycles, the fuses, and the canonical
form of the tables; and that each way to change a part of the state keeps it. -/

namespace Sys2Proof.Machine

set_option linter.unusedVariables false
theorem fuseLe_refl (a : FuseSt) : fuseLe a a :=
  ⟨Nat.le_refl _, rfl, rfl, fun _ _ => rfl, fun _ h => h⟩

theorem fuseLe_trans {a b c : FuseSt} (h : fuseLe a b) (k : fuseLe b c) : fuseLe a c := by
  obtain ⟨a1, a2, a3, a4, a5⟩ := h
  obtain ⟨b1, b2, b3, b4, b5⟩ := k
  refine ⟨Nat.le_trans a1 b1, a2.trans b2, a3.trans b3, fun k hk => ?_, fun k hk => b5 k (a5 k hk)⟩
  have := a4 k hk
  rw [b4 k (by rw [this]; exact hk), this]

def Keeps (r t : State) : Prop :=
  t.pending = r.pending ∧ r.clk ≤ t.clk ∧ fuseLe r.nv.fuses t.nv.fuses ∧ (canonical r → canonical t)

theorem Keeps.rfl {s : State} : Keeps s s := ⟨Eq.refl _, Nat.le_refl _, fuseLe_refl _, fun h => h⟩

theorem Keeps.trans {r s t : State} (h : Keeps r s) (k : Keeps s t) : Keeps r t :=
  ⟨k.1.trans h.1, Nat.le_trans h.2.1 k.2.1, fuseLe_trans h.2.2.1 k.2.2.1, fun c => k.2.2.2 (h.2.2.2 c)⟩

/-- All that Keeps looks at. -/
structure View where
  a1 : List Instr
  a2 : Nat
  a3 : FuseSt
  b1 : Tab LaneSt
  b2 : Tab LlSt
  b3 : Tab HlSt
  b4 : Tab FnSt
  b5 : Tab MbxSt
  b6 : Tab (BitVec 128)
  b7 : Tab Bool
  b8 : Tab FlowSt
  b9 : Tab SemSt
  c1 : Tab MgSt
  c2 : Tab W64
  c3 : Tab DqSt
  c4 : Tab SrcSt
  c5 : Tab EngSt
  c6 : Tab ClSt
  c7 : Tab SvSt
  c8 : Tab Nat

def view (s : State) : View :=
  ⟨s.pending, s.clk, s.nv.fuses, s.lanes, s.links, s.host.hls, s.host.fns, s.host.mbx, s.host.msix, s.host.pba,
   s.fab.flows, s.brdg.sems, s.brdg.mgs, s.brdg.store, s.brdg.dqs, s.evc.srcs, s.eng.engs, s.eng.cls, s.eng.svs, s.cnt⟩

def canonV (v : View) : Prop :=
  (Tab.wf LaneSt.reset v.b1 = true ∧ Tab.wf LlSt.reset v.b2 = true ∧
  Tab.wf HlSt.reset v.b3 = true ∧ Tab.wf FnSt.reset v.b4 = true ∧
  Tab.wf MbxSt.reset v.b5 = true ∧ Tab.wf msixReset v.b6 = true ∧
  Tab.wf false v.b7 = true ∧ Tab.wf FlowSt.reset v.b8 = true ∧
  Tab.wf SemSt.reset v.b9 = true ∧ Tab.wf MgSt.reset v.c1 = true ∧
  Tab.wf (0 : W64) v.c2 = true ∧ Tab.wf DqSt.reset v.c3 = true ∧
  Tab.wf SrcSt.reset v.c4 = true ∧ Tab.wf EngSt.reset v.c5 = true ∧
  Tab.wf ClSt.reset v.c6 = true ∧ Tab.wf SvSt.reset v.c7 = true ∧
  Tab.wf 0 v.c8 = true) ∧
  (∀ e, (Tab.get EngSt.reset v.c5 e).regs.length = 32 ∧ Tab.wf (0 : Byte) (Tab.get EngSt.reset v.c5 e).mem = true) ∧
  (∀ c, Tab.wf (0 : Byte) (Tab.get ClSt.reset v.c6 c).mem = true)

theorem canonV_view (s : State) : canonical s = canonV (view s) := rfl

/-- A change that the view does not see. -/
theorem Keeps.same {r s t : State} (h : Keeps r s) (e : view t = view s) : Keeps r t := by
  refine ⟨?_, ?_, ?_, ?_⟩
  · have := congrArg View.a1 e; exact this.trans h.1
  · have := congrArg View.a2 e; exact (show t.clk = s.clk from this) ▸ h.2.1
  · have : t.nv.fuses = s.nv.fuses := congrArg View.a3 e
    rw [this]; exact h.2.2.1
  · intro c; rw [canonV_view, e, ← canonV_view]; exact h.2.2.2 c

/-- A change of tables alone. -/
theorem Keeps.tabs {r s t : State} (h : Keeps r s) (e1 : t.pending = s.pending) (e2 : t.clk = s.clk)
    (e3 : t.nv.fuses = s.nv.fuses) (e4 : canonical s → canonical t) : Keeps r t :=
  ⟨e1.trans h.1, e2 ▸ h.2.1, e3 ▸ h.2.2.1, fun c => e4 (h.2.2.2 c)⟩

def engGood (g : EngSt) : Prop := g.regs.length = 32 ∧ Tab.wf (0 : Byte) g.mem = true
def clGood (x : ClSt) : Prop := Tab.wf (0 : Byte) x.mem = true

theorem engGood_reset : engGood EngSt.reset := ⟨rfl, rfl⟩

theorem kforAll {α : Type} {r s : State} {l : List α} {f : State → α → State} (h : Keeps r s)
    (hf : ∀ u x, Keeps r u → Keeps r (f u x)) : Keeps r (forAll s l f) := by
  unfold forAll
  induction l generalizing s with
  | nil => exact h
  | cons x l ih => exact ih (hf s x h)

theorem onlyIf_kept {r s : State} {c : Bool} {f : State → State} (h : Keeps r s)
    (hf : ∀ u, Keeps r u → Keeps r (f u)) : Keeps r (onlyIf c f s) := by
  cases c
  · exact h
  · exact hf s h

theorem foldl_kept {α : Type} {r s : State} {l : List α} {f : State → α → State} (h : Keeps r s)
    (hf : ∀ u x, Keeps r u → Keeps r (f u x)) : Keeps r (l.foldl f s) := kforAll h hf

theorem foldlFst_kept {α β : Type} {r : State} {s : State × β} {l : List α} {f : State × β → α → State × β} (h : Keeps r s.1)
    (hf : ∀ u x, Keeps r u.1 → Keeps r (f u x).1) : Keeps r (l.foldl f s).1 := by
  induction l generalizing s with
  | nil => exact h
  | cons x l ih => exact ih (hf s x h)

theorem foldlSnd_kept {α β : Type} {r : State} {s : β × State} {l : List α} {f : β × State → α → β × State} (h : Keeps r s.2)
    (hf : ∀ u x, Keeps r u.2 → Keeps r (f u x).2) : Keeps r (l.foldl f s).2 := by
  induction l generalizing s with
  | nil => exact h
  | cons x l ih => exact ih (hf s x h)

theorem emit_kept {r s : State} {e : Emission} (h : Keeps r s) : Keeps r (emit s e) := h.same rfl
theorem updHalf_kept {r s : State} {k : Half} {f : HalfSt → HalfSt} (h : Keeps r s) :
    Keeps r (updHalf s k f) := by
  cases k <;> exact h.same rfl
theorem updSys_kept {r s : State} {f : SysSt → SysSt} (h : Keeps r s) : Keeps r (updSys s f) := h.same rfl
theorem updPwr_kept {r s : State} {f : PwrSt → PwrSt} (h : Keeps r s) : Keeps r (updPwr s f) := h.same rfl
theorem updTime_kept {r s : State} {f : TimeSt → TimeSt} (h : Keeps r s) : Keeps r (updTime s f) := h.same rfl
theorem updTest_kept {r s : State} {f : TestSt → TestSt} (h : Keeps r s) : Keeps r (updTest s f) := h.same rfl
theorem updDict_kept {r s : State} {k : Half} {f : DictSt → DictSt} (h : Keeps r s) :
    Keeps r (updDict s k f) := by
  unfold updDict; split <;> exact h.same rfl
theorem updBrine_kept {r s : State} {k : Half} {f : BrineSt → BrineSt} (h : Keeps r s) :
    Keeps r (updBrine s k f) := by
  cases k <;> exact h.same rfl

theorem updLane_kept {r s : State} {n : Nat} {f : LaneSt → LaneSt} (h : Keeps r s) : Keeps r (updLane s n f) :=
  h.tabs rfl rfl rfl fun c => by
    obtain ⟨⟨a1, a⟩, b⟩ := c; exact ⟨⟨Tab.wf_upd _ _ a1, a⟩, b⟩
theorem updLink_kept {r s : State} {n : Nat} {f : LlSt → LlSt} (h : Keeps r s) : Keeps r (updLink s n f) :=
  h.tabs rfl rfl rfl fun c => by
    obtain ⟨⟨a1, a2, a⟩, b⟩ := c; exact ⟨⟨a1, Tab.wf_upd _ _ a2, a⟩, b⟩
theorem updHl_kept {r s : State} {n : Nat} {f : HlSt → HlSt} (h : Keeps r s) : Keeps r (updHl s n f) :=
  h.tabs rfl rfl rfl fun c => by
    obtain ⟨⟨a1, a2, a3, a⟩, b⟩ := c; exact ⟨⟨a1, a2, Tab.wf_upd _ _ a3, a⟩, b⟩
theorem updFn_kept {r s : State} {n : Nat} {f : FnSt → FnSt} (h : Keeps r s) : Keeps r (updFn s n f) :=
  h.tabs rfl rfl rfl fun c => by
    obtain ⟨⟨a1, a2, a3, a4, a⟩, b⟩ := c; exact ⟨⟨a1, a2, a3, Tab.wf_upd _ _ a4, a⟩, b⟩
theorem updMbx_kept {r s : State} {n : Nat} {f : MbxSt → MbxSt} (h : Keeps r s) : Keeps r (updMbx s n f) :=
  h.tabs rfl rfl rfl fun c => by
    obtain ⟨⟨a1, a2, a3, a4, a5, a⟩, b⟩ := c; exact ⟨⟨a1, a2, a3, a4, Tab.wf_upd _ _ a5, a⟩, b⟩
theorem msixPut_kept {r s : State} {k : Nat} {v : BitVec 128} (h : Keeps r s) :
    Keeps r { s with host := { s.host with msix := Tab.set msixReset s.host.msix k v } } :=
  h.tabs rfl rfl rfl fun c => by
    obtain ⟨⟨a1, a2, a3, a4, a5, a6, a⟩, b⟩ := c; exact ⟨⟨a1, a2, a3, a4, a5, Tab.wf_set _ _ a6, a⟩, b⟩
theorem pbaPut_kept {r s : State} {k : Nat} {v : Bool} (h : Keeps r s) :
    Keeps r { s with host := { s.host with pba := Tab.set false s.host.pba k v } } :=
  h.tabs rfl rfl rfl fun c => by
    obtain ⟨⟨a1, a2, a3, a4, a5, a6, a7, a⟩, b⟩ := c; exact ⟨⟨a1, a2, a3, a4, a5, a6, Tab.wf_set _ _ a7, a⟩, b⟩
theorem updFlow_kept {r s : State} {n : Nat} {f : FlowSt → FlowSt} (h : Keeps r s) : Keeps r (updFlow s n f) :=
  h.tabs rfl rfl rfl fun c => by
    obtain ⟨⟨a1, a2, a3, a4, a5, a6, a7, a8, a⟩, b⟩ := c
    exact ⟨⟨a1, a2, a3, a4, a5, a6, a7, Tab.wf_upd _ _ a8, a⟩, b⟩
theorem updSem_kept {r s : State} {n : Nat} {f : SemSt → SemSt} (h : Keeps r s) : Keeps r (updSem s n f) :=
  h.tabs rfl rfl rfl fun c => by
    obtain ⟨⟨a1, a2, a3, a4, a5, a6, a7, a8, a9, a⟩, b⟩ := c
    exact ⟨⟨a1, a2, a3, a4, a5, a6, a7, a8, Tab.wf_upd _ _ a9, a⟩, b⟩
theorem updMg_kept {r s : State} {n : Nat} {f : MgSt → MgSt} (h : Keeps r s) : Keeps r (updMg s n f) :=
  h.tabs rfl rfl rfl fun c => by
    obtain ⟨⟨a1, a2, a3, a4, a5, a6, a7, a8, a9, b1, a⟩, b⟩ := c
    exact ⟨⟨a1, a2, a3, a4, a5, a6, a7, a8, a9, Tab.wf_upd _ _ b1, a⟩, b⟩
theorem updDq_kept {r s : State} {n : Nat} {f : DqSt → DqSt} (h : Keeps r s) : Keeps r (updDq s n f) :=
  h.tabs rfl rfl rfl fun c => by
    obtain ⟨⟨a1, a2, a3, a4, a5, a6, a7, a8, a9, b1, b2, b3, a⟩, b⟩ := c
    exact ⟨⟨a1, a2, a3, a4, a5, a6, a7, a8, a9, b1, b2, Tab.wf_upd _ _ b3, a⟩, b⟩
theorem updSrc_kept {r s : State} {n : Nat} {f : SrcSt → SrcSt} (h : Keeps r s) : Keeps r (updSrc s n f) :=
  h.tabs rfl rfl rfl fun c => by
    obtain ⟨⟨a1, a2, a3, a4, a5, a6, a7, a8, a9, b1, b2, b3, b4, a⟩, b⟩ := c
    exact ⟨⟨a1, a2, a3, a4, a5, a6, a7, a8, a9, b1, b2, b3, Tab.wf_upd _ _ b4, a⟩, b⟩
theorem updEng_kept {r s : State} {n : Nat} {f : EngSt → EngSt} (h : Keeps r s)
    (hf : ∀ g, engGood g → engGood (f g)) : Keeps r (updEng s n f) :=
  h.tabs rfl rfl rfl fun c => by
    obtain ⟨⟨a1, a2, a3, a4, a5, a6, a7, a8, a9, b1, b2, b3, b4, b5, a⟩, b, b'⟩ := c
    refine ⟨⟨a1, a2, a3, a4, a5, a6, a7, a8, a9, b1, b2, b3, b4, Tab.wf_upd _ _ b5, a⟩, fun e => ?_, b'⟩
    rw [eng_updEng b5]; split
    · rename_i he; exact hf _ (he ▸ b e)
    · exact b e
theorem updClus_kept {r s : State} {n : Nat} {f : ClSt → ClSt} (h : Keeps r s)
    (hf : ∀ g, clGood g → clGood (f g)) : Keeps r (updClus s n f) :=
  h.tabs rfl rfl rfl fun c => by
    obtain ⟨⟨a1, a2, a3, a4, a5, a6, a7, a8, a9, b1, b2, b3, b4, b5, b6, a⟩, b, b'⟩ := c
    refine ⟨⟨a1, a2, a3, a4, a5, a6, a7, a8, a9, b1, b2, b3, b4, b5, Tab.wf_upd _ _ b6, a⟩, b, fun e => ?_⟩
    rw [clus_updClus b6]; split
    · rename_i he; exact hf _ (he ▸ b' e)
    · exact b' e
theorem updSvc_kept {r s : State} {n : Nat} {f : SvSt → SvSt} (h : Keeps r s) : Keeps r (updSvc s n f) :=
  h.tabs rfl rfl rfl fun c => by
    obtain ⟨⟨a1, a2, a3, a4, a5, a6, a7, a8, a9, b1, b2, b3, b4, b5, b6, b7, a⟩, b⟩ := c
    exact ⟨⟨a1, a2, a3, a4, a5, a6, a7, a8, a9, b1, b2, b3, b4, b5, b6, Tab.wf_upd _ _ b7, a⟩, b⟩
theorem cnt_kept {r s : State} {t : Tab Nat} (h : Keeps r s) (ht : Tab.wf 0 s.cnt = true → Tab.wf 0 t = true) :
    Keeps r { s with cnt := t } :=
  h.tabs rfl rfl rfl fun c => by
    obtain ⟨⟨a1, a2, a3, a4, a5, a6, a7, a8, a9, b1, b2, b3, b4, b5, b6, b7, b8⟩, b⟩ := c
    exact ⟨⟨a1, a2, a3, a4, a5, a6, a7, a8, a9, b1, b2, b3, b4, b5, b6, b7, ht b8⟩, b⟩
theorem bumpN_kept {r s : State} {i j n : Nat} (h : Keeps r s) : Keeps r (bumpN s i j n) :=
  cnt_kept h fun c => Tab.wf_upd _ _ c
theorem bumpR_kept {r s : State} {i : Nat} (h : Keeps r s) : Keeps r (bumpR s i) :=
  cnt_kept h fun c => Tab.wf_upd _ _ c
theorem fresh_kept {r s : State} (h : Keeps r s) : Keeps r (fresh s).2 := h.same rfl
theorem takeFree_kept {r s : State} (h : Keeps r s) : Keeps r (takeFree s).2 := h.same rfl

theorem lit_kept {r s : State} {out : List Emission} {fc ni : Nat} {sys : SysSt} {nv : NvSt} {dict dictB : DictSt}
    {host : HostSt} {fab : FabSt} {brdg : BrdgSt} {evc : EvcSt} {err : ErrSt} {ea : EngAll} {pwr : PwrSt} {time : TimeSt}
    {test : TestSt} {cnt : Tab Nat} {lanes : Tab LaneSt} {links : Tab LlSt} (h : Keeps r s)
    (e0 : nv.fuses = s.nv.fuses) (e1 : cnt = s.cnt) (e2 : lanes = s.lanes) (e3 : links = s.links)
    (e4 : (host.hls, host.fns, host.mbx, host.msix, host.pba) = (s.host.hls, s.host.fns, s.host.mbx, s.host.msix, s.host.pba))
    (e5 : fab.flows = s.fab.flows)
    (e6 : (brdg.sems, brdg.mgs, brdg.store, brdg.dqs) = (s.brdg.sems, s.brdg.mgs, s.brdg.store, s.brdg.dqs))
    (e7 : evc.srcs = s.evc.srcs) (e8 : (ea.engs, ea.cls, ea.svs) = (s.eng.engs, s.eng.cls, s.eng.svs)) :
    Keeps r ⟨s.pending, out, s.clk, fc, ni, sys, nv, dict, dictB, cnt, lanes, links, host, fab, brdg, evc, err, ea, pwr,
      time, test⟩ := by
  refine h.same ?_
  simp only [Prod.mk.injEq] at e4 e6 e8
  simp only [view, e0, e1, e2, e3, e4, e5, e6, e7, e8]

theorem hostTabs_kept {r s : State} {m : Tab (BitVec 128)} {p : Tab Bool} (h : Keeps r s)
    (hm : Tab.wf msixReset s.host.msix = true → Tab.wf msixReset m = true)
    (hp : Tab.wf false s.host.pba = true → Tab.wf false p = true) :
    Keeps r { s with host := { s.host with msix := m, pba := p } } :=
  h.tabs rfl rfl rfl fun c => by
    obtain ⟨⟨a1, a2, a3, a4, a5, a6, a7, a⟩, b⟩ := c; exact ⟨⟨a1, a2, a3, a4, a5, hm a6, hp a7, a⟩, b⟩

theorem fuse_kept {r s : State} {f : FuseSt} (h : Keeps r s) (hf : fuseLe s.nv.fuses f) :
    Keeps r { s with nv := { s.nv with fuses := f } } :=
  h.trans ⟨rfl, Nat.le_refl _, hf, fun c => c⟩

/-- A state written out. -/
def KeepsL (r : State) (pe : List Instr) (out : List Emission) (clk fc ni : Nat) (sys : SysSt) (nv : NvSt) (dict dictB : DictSt)
    (cnt : Tab Nat) (lanes : Tab LaneSt) (links : Tab LlSt) (host : HostSt) (fab : FabSt) (brdg : BrdgSt) (evc : EvcSt)
    (err : ErrSt) (ea : EngAll) (pwr : PwrSt) (time : TimeSt) (test : TestSt) : Prop :=
  Keeps r ⟨pe, out, clk, fc, ni, sys, nv, dict, dictB, cnt, lanes, links, host, fab, brdg, evc, err, ea, pwr, time, test⟩

theorem lit_iff (r : State) (pe : List Instr) (out : List Emission) (clk fc ni : Nat) (sys : SysSt) (nv : NvSt) (dict dictB : DictSt)
    (cnt : Tab Nat) (lanes : Tab LaneSt) (links : Tab LlSt) (host : HostSt) (fab : FabSt) (brdg : BrdgSt) (evc : EvcSt)
    (err : ErrSt) (ea : EngAll) (pwr : PwrSt) (time : TimeSt) (test : TestSt) :
    Keeps r ⟨pe, out, clk, fc, ni, sys, nv, dict, dictB, cnt, lanes, links, host, fab, brdg, evc, err, ea, pwr, time, test⟩ =
    KeepsL r pe out clk fc ni sys nv dict dictB cnt lanes links host fab brdg evc err ea pwr time test := rfl

theorem litL_kept {r s : State} {out : List Emission} {fc ni : Nat} {sys : SysSt} {nv : NvSt} {dict dictB : DictSt}
    {host : HostSt} {fab : FabSt} {brdg : BrdgSt} {evc : EvcSt} {err : ErrSt} {ea : EngAll} {pwr : PwrSt} {time : TimeSt}
    {test : TestSt} {cnt : Tab Nat} {lanes : Tab LaneSt} {links : Tab LlSt} (h : Keeps r s)
    (e0 : nv.fuses = s.nv.fuses) (e1 : cnt = s.cnt) (e2 : lanes = s.lanes) (e3 : links = s.links)
    (e4 : (host.hls, host.fns, host.mbx, host.msix, host.pba) = (s.host.hls, s.host.fns, s.host.mbx, s.host.msix, s.host.pba))
    (e5 : fab.flows = s.fab.flows)
    (e6 : (brdg.sems, brdg.mgs, brdg.store, brdg.dqs) = (s.brdg.sems, s.brdg.mgs, s.brdg.store, s.brdg.dqs))
    (e7 : evc.srcs = s.evc.srcs) (e8 : (ea.engs, ea.cls, ea.svs) = (s.eng.engs, s.eng.cls, s.eng.svs)) :
    KeepsL r s.pending out s.clk fc ni sys nv dict dictB cnt lanes links host fab brdg evc err ea pwr time test :=
  lit_kept h e0 e1 e2 e3 e4 e5 e6 e7 e8

theorem updFab_kept {r s : State} {f : FabSt → FabSt} (h : Keeps r s) (e : (f s.fab).flows = s.fab.flows) :
    Keeps r (updFab s f) := lit_kept h rfl rfl rfl rfl rfl e rfl rfl rfl
theorem updBrdg_kept {r s : State} {f : BrdgSt → BrdgSt} (h : Keeps r s)
    (e : ((f s.brdg).sems, (f s.brdg).mgs, (f s.brdg).store, (f s.brdg).dqs) =
      (s.brdg.sems, s.brdg.mgs, s.brdg.store, s.brdg.dqs)) :
    Keeps r (updBrdg s f) := lit_kept h rfl rfl rfl rfl rfl rfl e rfl rfl
theorem updNv_kept {r s : State} {f : NvSt → NvSt} (h : Keeps r s) (e : (f s.nv).fuses = s.nv.fuses) :
    Keeps r (updNv s f) := lit_kept h e rfl rfl rfl rfl rfl rfl rfl rfl

end Sys2Proof.Machine
end

