-- ==== Sys2Proof/Laws/KeepsOps.lean ====
section
/-! SUPPORT. That each meaning keeps what every step keeps (Laws/Keeps.lean): the shared operations, the fabric and what leaves it. -/

namespace Sys2Proof.Machine

set_option linter.unusedVariables false
set_option linter.unusedSimpArgs false

/-! ### Ops -/

theorem tlpOut_kept {r s : State} {m : Nat} {x : HostTlp} (hs : Keeps r s) :
    Keeps r (tlpOut s m x) := by
  unfold tlpOut
  try dsimp only
  repeat' (first
    | with_reducible (
      first
      | assumption | apply emit_kept | apply updHl_kept)
    | (intro u hu; try dsimp only) | split)

theorem forAll_kept {α : Type} {r s : State} {l : List α} {f : State → α → State} (h : Keeps r s)
    (hf : ∀ u x, Keeps r u → Keeps r (f u x)) : Keeps r (forAll s l f) := kforAll h hf

theorem bump_kept {r s : State} {idx sub : Nat} (hs : Keeps r s) :
    Keeps r (bump s idx sub) := by
  unfold bump
  try dsimp only
  repeat' (first
    | with_reducible (
      first
      | assumption | apply bumpN_kept)
    | (intro u hu; try dsimp only) | split)

theorem setCs_kept {r s : State} {n off : Nat} {v : W32} (hs : Keeps r s) :
    Keeps r (setCs s n off v) := by
  unfold setCs
  try dsimp only
  repeat' (first
    | with_reducible (
      first
      | assumption | apply updFn_kept)
    | (intro u hu; try dsimp only) | split)

theorem avsStart_kept {r s : State} {rail : Bool} {mv : Nat} {use : AvsUse} {next : List (Bool × Nat)}
    (hs : Keeps r s) :
    Keeps r (avsStart s rail mv use next) := by
  unfold avsStart
  try dsimp only
  repeat' (first
    | with_reducible (
      first
      | assumption | apply emit_kept | apply updPwr_kept)
    | (intro u hu; try dsimp only) | split)

theorem avsBoth_kept {r s : State} {mv : Nat} {use : AvsUse} (hs : Keeps r s) :
    Keeps r (avsBoth s mv use) := by
  unfold avsBoth
  try dsimp only
  repeat' (first
    | with_reducible (
      first
      | assumption | apply avsStart_kept)
    | (intro u hu; try dsimp only) | split)

theorem wakeBy_kept {r s : State} {cause inst : Nat} (hs : Keeps r s) :
    Keeps r (wakeBy s cause inst) := by
  unfold wakeBy
  try dsimp only
  repeat' (first
    | with_reducible (
      first
      | assumption | apply updPwr_kept | apply onlyIf_kept | apply avsBoth_kept)
    | (intro u hu; try dsimp only) | split)

theorem wakeSrc_kept {r s : State} {cause inst : Nat} (hs : Keeps r s) :
    Keeps r (wakeSrc s cause inst) := by
  unfold wakeSrc
  try dsimp only
  repeat' (first
    | with_reducible (
      first
      | assumption | apply onlyIf_kept | apply wakeBy_kept)
    | (intro u hu; try dsimp only) | split)

theorem intxUpdate_kept {r s : State} {m : Nat} (hs : Keeps r s) : Keeps r (intxUpdate s m) := by
  unfold intxUpdate
  try dsimp only
  repeat' (first
    | with_reducible (
      first
      | assumption | apply tlpOut_kept | apply updHl_kept)
    | (intro u hu; try dsimp only) | split)

theorem pmEvent_kept {r s : State} {n : Nat} (hs : Keeps r s) : Keeps r (pmEvent s n) := by
  unfold pmEvent
  try dsimp only
  repeat' (first
    | with_reducible (
      first
      | assumption | apply tlpOut_kept | apply setCs_kept)
    | (intro u hu; try dsimp only) | split)

theorem arriveAdmitted_kept {r s : State} {n : Nat} (hs : Keeps r s) :
    Keeps r (arriveAdmitted s n) := by
  unfold arriveAdmitted
  try dsimp only
  repeat' (first
    | with_reducible (
      first
      | assumption | apply bump_kept | apply updSrc_kept | apply onlyIf_kept | apply intxUpdate_kept
        | apply pmEvent_kept | apply wakeBy_kept)
    | (intro u hu; try dsimp only) | split)

theorem arrive_kept {r s : State} {n : Nat} (hs : Keeps r s) : Keeps r (arrive s n) := by
  unfold arrive
  try dsimp only
  repeat' (first
    | with_reducible (
      first
      | assumption | apply arriveAdmitted_kept | apply bump_kept)
    | (intro u hu; try dsimp only) | split)

theorem raiseEv_kept {r s : State} {h1 : Half} {off inst : Nat} {da db : Nat} (hs :
    Keeps r s) :
    Keeps r (raiseEv s h1 off inst da db) := by
  unfold raiseEv
  try dsimp only
  repeat' (first
    | with_reducible (
      first
      | assumption | apply onlyIf_kept | apply bump_kept | apply arrive_kept)
    | (intro u hu; try dsimp only)
    | (simp only [lit_iff]; with_reducible refine litL_kept ?_ ?_ ?_ ?_ ?_ ?_ ?_ ?_ ?_ ?_)
    | (with_reducible rfl) | split)

theorem logRec_kept {r s : State} {h1 : Half} {r1 : LogRec} (hs : Keeps r s) :
    Keeps r (logRec s h1 r1) := by
  unfold logRec
  try dsimp only
  repeat' (first
    | with_reducible (
      first
      | assumption | apply bump_kept | apply onlyIf_kept | apply raiseEv_kept)
    | (intro u hu; try dsimp only)
    | (simp only [lit_iff]; with_reducible refine litL_kept ?_ ?_ ?_ ?_ ?_ ?_ ?_ ?_ ?_ ?_)
    | (with_reducible rfl) | split)

theorem logC_kept {r s : State} {h1 : Half} {code unit : Nat} {status : optParam Nat 0} {flow
    : optParam Nat 0} {tag addr addr2 : optParam Nat 0} {detail : optParam
    Nat 0} (hs : Keeps r s) :
    Keeps r (logC s h1 code unit status flow tag addr addr2 detail) := by
  unfold logC
  try dsimp only
  repeat' (first
    | with_reducible (
      first
      | assumption | apply logRec_kept)
    | (intro u hu; try dsimp only) | split)

theorem setPba_kept {r s : State} {n v : Nat} {b : Bool} (h : Keeps r s) : Keeps r (setPba s n v b) := by
  unfold setPba; split
  · exact pbaPut_kept h
  · exact setCs_kept h

theorem sendVec_kept {r s : State} {n v : Nat} (hs : Keeps r s) :
    Keeps r (sendVec s n v) := by
  unfold sendVec
  try dsimp only
  repeat' (first
    | with_reducible (
      first
      | assumption | apply bump_kept | apply tlpOut_kept)
    | (intro u hu; try dsimp only) | split)

theorem notify_kept {r s : State} {n : Nat} (hs : Keeps r s) : Keeps r (notify s n) := by
  unfold notify
  try dsimp only
  repeat' (first
    | with_reducible (
      first
      | assumption | apply updFn_kept | apply bump_kept | apply setPba_kept | apply sendVec_kept
        | apply intxUpdate_kept)
    | (intro u hu; try dsimp only) | split)

theorem fnEvent_kept {r s : State} {n i : Nat} (hs : Keeps r s) :
    Keeps r (fnEvent s n i) := by
  unfold fnEvent
  try dsimp only
  repeat' (first
    | with_reducible (
      first
      | assumption | apply updFn_kept | apply onlyIf_kept | apply notify_kept | apply pmEvent_kept)
    | (intro u hu; try dsimp only) | split)

theorem aerMark_kept {r s : State} {n b : Nat} {adv : Bool} (hs : Keeps r s) :
    Keeps r (aerMark s n b adv) := by
  unfold aerMark
  try dsimp only
  repeat' (first
    | with_reducible (
      first
      | assumption | apply setCs_kept | apply updFn_kept)
    | (intro u hu; try dsimp only)
    | (simp only [lit_iff]; with_reducible refine litL_kept ?_ ?_ ?_ ?_ ?_ ?_ ?_ ?_ ?_ ?_)
    | (with_reducible rfl) | split)

theorem aerUnc_kept {r s : State} {n b : Nat} (hs : Keeps r s) :
    Keeps r (aerUnc s n b) := by
  unfold aerUnc
  try dsimp only
  repeat' (first
    | with_reducible (
      first
      | assumption | apply aerMark_kept | apply onlyIf_kept | apply tlpOut_kept)
    | (intro u hu; try dsimp only) | split)

theorem aerCor_kept {r s : State} {n b : Nat} (hs : Keeps r s) :
    Keeps r (aerCor s n b) := by
  unfold aerCor
  try dsimp only
  repeat' (first
    | with_reducible (
      first
      | assumption | apply setCs_kept | apply onlyIf_kept | apply tlpOut_kept)
    | (intro u hu; try dsimp only) | split)

theorem aerAdv_kept {r s : State} {n b : Nat} (hs : Keeps r s) :
    Keeps r (aerAdv s n b) := by
  unfold aerAdv
  try dsimp only
  repeat' (first
    | with_reducible (
      first
      | assumption | apply aerUnc_kept | apply aerCor_kept | apply aerMark_kept)
    | (intro u hu; try dsimp only) | split)

theorem aerUR_kept {r s : State} {n : Nat} (hs : Keeps r s) : Keeps r (aerUR s n) := by
  unfold aerUR
  try dsimp only
  repeat' (first
    | with_reducible (
      first
      | assumption | apply aerUnc_kept)
    | (intro u hu; try dsimp only) | split)

theorem aerCA_kept {r s : State} {n : Nat} (hs : Keeps r s) : Keeps r (aerCA s n) := by
  unfold aerCA
  try dsimp only
  repeat' (first
    | with_reducible (
      first
      | assumption | apply aerUnc_kept)
    | (intro u hu; try dsimp only) | split)

theorem aerURc_kept {r s : State} {n : Nat} (hs : Keeps r s) : Keeps r (aerURc s n) := by
  unfold aerURc
  try dsimp only
  repeat' (first
    | with_reducible (
      first
      | assumption | apply aerAdv_kept)
    | (intro u hu; try dsimp only) | split)

theorem aerCAc_kept {r s : State} {n : Nat} (hs : Keeps r s) : Keeps r (aerCAc s n) := by
  unfold aerCAc
  try dsimp only
  repeat' (first
    | with_reducible (
      first
      | assumption | apply aerAdv_kept)
    | (intro u hu; try dsimp only) | split)

theorem aerPoison_kept {r s : State} {n : Nat} (hs : Keeps r s) : Keeps r (aerPoison s n) := by
  unfold aerPoison
  try dsimp only
  repeat' (first
    | with_reducible (
      first
      | assumption | apply aerUnc_kept)
    | (intro u hu; try dsimp only) | split)

theorem aerCTO_kept {r s : State} {n : Nat} (hs : Keeps r s) : Keeps r (aerCTO s n) := by
  unfold aerCTO
  try dsimp only
  repeat' (first
    | with_reducible (
      first
      | assumption | apply aerUnc_kept)
    | (intro u hu; try dsimp only) | split)

theorem aerUnexp_kept {r s : State} {n : Nat} (hs : Keeps r s) : Keeps r (aerUnexp s n) := by
  unfold aerUnexp
  try dsimp only
  repeat' (first
    | with_reducible (
      first
      | assumption | apply aerAdv_kept)
    | (intro u hu; try dsimp only) | split)

theorem aerCorrInternal_kept {r s : State} (hs : Keeps r s) : Keeps r (aerCorrInternal s) := by
  unfold aerCorrInternal
  try dsimp only
  repeat' (first
    | with_reducible (
      first
      | assumption | apply aerCor_kept | refine kforAll ?_ ?_)
    | (intro u x hu; try dsimp only) | (intro u hu; try dsimp only) | split)

theorem aerUncInternal_kept {r s : State} (hs : Keeps r s) : Keeps r (aerUncInternal s) := by
  unfold aerUncInternal
  try dsimp only
  repeat' (first
    | with_reducible (
      first
      | assumption | apply aerUnc_kept | refine kforAll ?_ ?_)
    | (intro u x hu; try dsimp only) | (intro u hu; try dsimp only) | split)

theorem alertOn_kept {r s : State} {i : Nat} (hs : Keeps r s) : Keeps r (alertOn s i) := by
  unfold alertOn
  try dsimp only
  repeat' (first
    | with_reducible (
      first
      | assumption | apply updSys_kept)
    | (intro u hu; try dsimp only) | split)

theorem alertOff_kept {r s : State} {i : Nat} (hs : Keeps r s) : Keeps r (alertOff s i) := by
  unfold alertOff
  try dsimp only
  repeat' (first
    | with_reducible (
      first
      | assumption | apply updSys_kept)
    | (intro u hu; try dsimp only) | split)

theorem tpAct_kept {r s : State} {i : Nat} (hs : Keeps r s) : Keeps r (tpAct s i) := by
  unfold tpAct
  try dsimp only
  repeat' (first
    | with_reducible (
      first
      | assumption | apply updTest_kept)
    | (intro u hu; try dsimp only) | split)

theorem everyNth_kept {r s : State} {i : Nat} (hs : Keeps r s) : Keeps r (everyNth s i).2 := by
  unfold everyNth
  try dsimp only
  repeat' (first
    | with_reducible (
      first
      | assumption | apply updTest_kept | apply tpAct_kept)
    | (intro u hu; try dsimp only) | split)

theorem tick_kept {r s : State} (h : Keeps r s) : Keeps r (tick s) := by
  refine h.trans ⟨rfl, Nat.le_succ _, fuseLe_refl _, ?_⟩
  intro c
  have e : (tick s).eng.engs = s.eng.engs ∧ (tick s).eng.cls = s.eng.cls ∧ (tick s).eng.svs = s.eng.svs := by
    unfold tick; dsimp only; split <;> exact ⟨rfl, rfl, rfl⟩
  obtain ⟨e1, e2, e3⟩ := e
  unfold canonical tablesWf enginesWf eng clus at *
  rw [e1, e2, e3]; exact c

/-! ### Fabric -/

theorem updTxn_kept {r s : State} {id : Nat} {f : Txn → Txn} (hs : Keeps r s) :
    Keeps r (updTxn s id f) := by
  unfold updTxn
  try dsimp only
  repeat' (first
    | with_reducible (
      first
      | assumption | apply updFab_kept)
    | (intro u hu; try dsimp only) | (with_reducible rfl) | split)

theorem updReq_kept {r s : State} {id : Nat} {f : Req → Req} (hs : Keeps r s) :
    Keeps r (updReq s id f) := by
  unfold updReq
  try dsimp only
  repeat' (first
    | with_reducible (
      first
      | assumption | apply updFab_kept)
    | (intro u hu; try dsimp only) | (with_reducible rfl) | split)

theorem dropReq_kept {r s : State} {id : Nat} (hs : Keeps r s) : Keeps r (dropReq s id) := by
  unfold dropReq
  try dsimp only
  repeat' (first
    | with_reducible (
      first
      | assumption | apply updFab_kept)
    | (intro u hu; try dsimp only) | (with_reducible rfl) | split)

theorem dropTxn_kept {r s : State} {id : Nat} (hs : Keeps r s) : Keeps r (dropTxn s id) := by
  unfold dropTxn
  try dsimp only
  repeat' (first
    | with_reducible (
      first
      | assumption | apply updFab_kept)
    | (intro u hu; try dsimp only) | (with_reducible rfl) | split)

theorem addTxn_kept {r s : State} {t : Txn} (hs : Keeps r s) : Keeps r (addTxn s t) := by
  unfold addTxn
  try dsimp only
  repeat' (first
    | with_reducible (
      first
      | assumption | apply updFab_kept | apply onlyIf_kept | apply bump_kept)
    | (intro u hu; try dsimp only)
    | (simp only [lit_iff]; with_reducible refine litL_kept ?_ ?_ ?_ ?_ ?_ ?_ ?_ ?_ ?_ ?_)
    | (with_reducible rfl) | split)

theorem sendCpl_kept {r s : State} {r1 : Req} {status : Nat} {data : List Byte} {off : Nat} {remain :
    Nat} {ch : Half} (hs : Keeps r s) :
    Keeps r (sendCpl s r1 status data off remain ch) := by
  unfold sendCpl
  try dsimp only
  repeat' (first
    | with_reducible (
      first
      | assumption | apply addTxn_kept | apply updReq_kept)
    | (intro u hu; try dsimp only) | split)

theorem quarantine_kept {r s : State} {side : TagSide} {tag us : Nat} (hs : Keeps r s) :
    Keeps r (quarantine s side tag us) := by
  unfold quarantine
  try dsimp only
  repeat' (first
    | with_reducible (
      first
      | assumption | apply updFab_kept)
    | (intro u hu; try dsimp only) | (with_reducible rfl) | split)

theorem holdBack_kept {r s : State} {t : Txn} (hs : Keeps r s) : Keeps r (holdBack s t) := by
  unfold holdBack
  try dsimp only
  repeat' (first
    | with_reducible (
      first
      | assumption | apply updFlow_kept | apply bump_kept | apply emit_kept | apply updLink_kept)
    | (intro u hu; try dsimp only) | split)

theorem letGo_kept {r s : State} {f : Nat} (hs : Keeps r s) : Keeps r (letGo s f) := by
  unfold letGo
  try dsimp only
  repeat' (first
    | with_reducible (
      first
      | assumption | apply updFlow_kept | apply emit_kept | apply updLink_kept | refine kforAll ?_ ?_)
    | (intro u x hu; try dsimp only) | (intro u hu; try dsimp only) | split)

theorem countFrozen_kept {r s : State} {h1 : Half} {k : Kind} (hs : Keeps r s) :
    Keeps r (countFrozen s h1 k) := by
  unfold countFrozen
  try dsimp only
  repeat' (first
    | with_reducible (
      first
      | assumption | apply bump_kept)
    | (intro u hu; try dsimp only) | split)

/-! ### Accept -/

theorem bumpFn_kept {r s : State} {n k : Nat} (hs : Keeps r s) :
    Keeps r (bumpFn s n k) := by
  unfold bumpFn
  try dsimp only
  repeat' (first
    | with_reducible (
      first
      | assumption | apply bump_kept)
    | (intro u hu; try dsimp only) | split)

theorem gateCount_kept {r s : State} {h1 : Half} {e : End} {k : Kind} {g : Gate} (hs : Keeps r s) :
    Keeps r (gateCount s h1 e k g) := by
  unfold gateCount
  try dsimp only
  repeat' (first
    | with_reducible (
      first
      | assumption | apply bumpFn_kept | apply countFrozen_kept | apply bump_kept)
    | (intro u hu; try dsimp only) | split)

theorem droppedMark_kept {r s : State} {m : TMark} {status : Nat} (hs : Keeps r s) :
    Keeps r (droppedMark s m status) := by
  unfold droppedMark
  try dsimp only
  repeat' (first
    | with_reducible (
      first
      | assumption | apply updDq_kept | apply updMg_kept)
    | (intro u hu; try dsimp only) | split)

theorem submitP_kept {r s : State} {t : Txn} (hs : Keeps r s) : Keeps r (submitP s t) := by
  unfold submitP
  try dsimp only
  repeat' (first
    | with_reducible (
      first
      | assumption | apply addTxn_kept | apply droppedMark_kept | apply gateCount_kept)
    | (intro u hu; try dsimp only) | split)

theorem submitNp_kept {r s : State} {who : Requester} {t : Txn} {len : Nat} {parts : List ReqPart} {o
    : optParam ReqOpts ReqOpts.plain} (hs : Keeps r s) :
    Keeps r (submitNp s who t len parts o).2 := by
  unfold submitNp
  try dsimp only
  repeat' (first
    | with_reducible (
      first
      | assumption | apply updFab_kept | apply addTxn_kept | refine kforAll ?_ ?_)
    | (intro u x hu; try dsimp only) | (intro u hu; try dsimp only)
    | (simp only [lit_iff]; with_reducible refine litL_kept ?_ ?_ ?_ ?_ ?_ ?_ ?_ ?_ ?_ ?_)
    | (with_reducible rfl) | split)

theorem reserve_kept {r s : State} {id : Nat} (hs : Keeps r s) : Keeps r (reserve s id) := by
  unfold reserve
  try dsimp only
  repeat' (first
    | with_reducible (
      first
      | assumption | apply updFab_kept)
    | (intro u hu; try dsimp only) | (with_reducible rfl) | split)

/-! ### Dma -/

theorem dqHalt_kept {r s : State} {q status : Nat} (hs : Keeps r s) :
    Keeps r (dqHalt s q status) := by
  unfold dqHalt
  try dsimp only
  repeat' (first
    | with_reducible (
      first
      | assumption | apply updFab_kept | apply updDq_kept | apply arrive_kept | apply bump_kept)
    | (intro u hu; try dsimp only) | (with_reducible rfl) | split)

theorem dqFetch_kept {r s : State} {q : Nat} (hs : Keeps r s) : Keeps r (dqFetch s q) := by
  unfold dqFetch
  try dsimp only
  repeat' (first
    | with_reducible (
      first
      | assumption | apply dqHalt_kept | apply updDq_kept | apply submitNp_kept)
    | (intro u hu; try dsimp only) | split)

theorem updJob_kept {r s : State} {q n : Nat} {f : DqJob → DqJob} (hs : Keeps r s) :
    Keeps r (updJob s q n f) := by
  unfold updJob
  try dsimp only
  repeat' (first
    | with_reducible (
      first
      | assumption | apply updDq_kept)
    | (intro u hu; try dsimp only) | split)

theorem dqFail_kept {r s : State} {q n status : Nat} (hs : Keeps r s) :
    Keeps r (dqFail s q n status) := by
  unfold dqFail
  try dsimp only
  repeat' (first
    | with_reducible (
      first
      | assumption | apply updJob_kept)
    | (intro u hu; try dsimp only) | split)

theorem dqNextRead_kept {r s : State} {q : Nat} {j : DqJob} (hs : Keeps r s) :
    Keeps r (dqNextRead s q j) := by
  unfold dqNextRead
  try dsimp only
  repeat' (first
    | with_reducible (
      first
      | assumption | apply submitNp_kept | apply dqFail_kept | apply gateCount_kept)
    | (intro u hu; try dsimp only) | split)

theorem dqBegin_kept {r s : State} {q : Nat} {j : DqJob} (hs : Keeps r s) :
    Keeps r (dqBegin s q j) := by
  unfold dqBegin
  try dsimp only
  repeat' (first
    | with_reducible (
      first
      | assumption | apply updJob_kept | apply dqNextRead_kept)
    | (intro u hu; try dsimp only) | split)

theorem dqWrites_kept {r s : State} {q : Nat} {j : DqJob} {data : List Byte} (hs : Keeps r s) :
    Keeps r (dqWrites s q j data) := by
  unfold dqWrites
  try dsimp only
  repeat' (first
    | with_reducible (
      first
      | assumption | apply submitP_kept | apply updJob_kept | refine kforAll ?_ ?_)
    | (intro u x hu; try dsimp only) | (intro u hu; try dsimp only) | split)

theorem dqRecord1_kept {r s : State} {q : Nat} (hs : Keeps r s) : Keeps r (dqRecord1 s q) := by
  unfold dqRecord1
  try dsimp only
  repeat' (first
    | with_reducible (
      first
      | assumption | apply submitP_kept | apply updDq_kept | apply dqHalt_kept)
    | (intro u hu; try dsimp only) | split)

theorem dqBegins_kept {r s : State} {q : Nat} (hs : Keeps r s) : Keeps r (dqBegins s q) := by
  unfold dqBegins
  try dsimp only
  repeat' (first
    | with_reducible (
      first
      | assumption | apply dqBegin_kept | refine kforAll ?_ ?_)
    | (intro u x hu; try dsimp only) | (intro u hu; try dsimp only) | split)

theorem dqAdvance_kept {r s : State} {q : Nat} (hs : Keeps r s) : Keeps r (dqAdvance s q) := by
  unfold dqAdvance
  try dsimp only
  repeat' (first
    | with_reducible (
      first
      | assumption | apply dqFetch_kept | apply dqBegins_kept | apply dqRecord1_kept | refine kforAll ?_ ?_)
    | (intro u x hu; try dsimp only) | (intro u hu; try dsimp only) | split)

theorem dqOnDesc_kept {r s : State} {q first : Nat} {res : Except Nat (List Byte)} (hs : Keeps
    r s) :
    Keeps r (dqOnDesc s q first res) := by
  unfold dqOnDesc
  try dsimp only
  repeat' (first
    | with_reducible (
      first
      | assumption | apply dqAdvance_kept | apply dqFail_kept | apply updJob_kept | refine kforAll ?_ ?_)
    | (intro u x hu; try dsimp only) | (intro u hu; try dsimp only) | split)

theorem dqOnData_kept {r s : State} {q n : Nat} {res : Except Nat (List Byte)} (hs : Keeps r
    s) :
    Keeps r (dqOnData s q n res) := by
  unfold dqOnData
  try dsimp only
  repeat' (first
    | with_reducible (
      first
      | assumption | apply dqAdvance_kept | apply dqFail_kept | apply dqWrites_kept | apply updJob_kept
        | apply dqNextRead_kept)
    | (intro u hu; try dsimp only) | split)

theorem dqOnWrite_kept {r s : State} {q n : Nat} (hs : Keeps r s) :
    Keeps r (dqOnWrite s q n) := by
  unfold dqOnWrite
  try dsimp only
  repeat' (first
    | with_reducible (
      first
      | assumption | apply dqAdvance_kept | apply updJob_kept)
    | (intro u hu; try dsimp only) | split)

theorem dqOnRecord_kept {r s : State} {q : Nat} {irq : Bool} (hs : Keeps r s) :
    Keeps r (dqOnRecord s q irq) := by
  unfold dqOnRecord
  try dsimp only
  repeat' (first
    | with_reducible (
      first
      | assumption | apply onlyIf_kept | apply arrive_kept)
    | (intro u hu; try dsimp only) | split)

/-! ### Mirror -/

theorem storePut_kept {r s : State} {h1 : Half} {w : Nat} {v : W64} (h : Keeps r s) :
    Keeps r (storePut s h1 w v) := by
  unfold storePut
  exact h.tabs rfl rfl rfl fun c => by
    obtain ⟨⟨a1, a2, a3, a4, a5, a6, a7, a8, a9, b1, b2, a⟩, b⟩ := c
    exact ⟨⟨a1, a2, a3, a4, a5, a6, a7, a8, a9, b1, Tab.wf_set _ _ b2, a⟩, b⟩

theorem mgSkip_kept {r s : State} {g : Nat} (hs : Keeps r s) : Keeps r (mgSkip s g) := by
  unfold mgSkip
  try dsimp only
  repeat' (first
    | with_reducible (
      first
      | assumption | apply bump_kept | apply onlyIf_kept | apply raiseEv_kept | apply updMg_kept)
    | (intro u hu; try dsimp only) | split)

theorem mgPassDone_kept {r s : State} {g : Nat} (hs : Keeps r s) : Keeps r (mgPassDone s g) := by
  unfold mgPassDone
  try dsimp only
  repeat' (first
    | with_reducible (
      first
      | assumption | apply updMg_kept)
    | (intro u hu; try dsimp only) | split)

theorem mgStart_kept {r s : State} {g : Nat} (hs : Keeps r s) : Keeps r (mgStart s g) := by
  unfold mgStart
  try dsimp only
  repeat' (first
    | with_reducible (
      first
      | assumption | apply updMg_kept)
    | (intro u hu; try dsimp only) | split)

theorem mgWrite_kept {r s : State} {g : Nat} {m : TMark} {off : Nat} {data : List Byte} (hs : Keeps r
    s) :
    Keeps r (mgWrite s g m off data) := by
  unfold mgWrite
  try dsimp only
  repeat' (first
    | with_reducible (
      first
      | assumption | apply submitP_kept)
    | (intro u hu; try dsimp only) | split)

theorem mgPassUp_kept {r s : State} {g : Nat} (hs : Keeps r s) : Keeps r (mgPassUp s g) := by
  unfold mgPassUp
  try dsimp only
  repeat' (first
    | with_reducible (
      first
      | assumption | apply mgStart_kept | apply mgWrite_kept | refine kforAll ?_ ?_)
    | (intro u x hu; try dsimp only) | (intro u hu; try dsimp only) | split)

theorem mgPassDown_kept {r s : State} {g : Nat} (hs : Keeps r s) : Keeps r (mgPassDown s g) := by
  unfold mgPassDown
  try dsimp only
  repeat' (first
    | with_reducible (
      first
      | assumption | apply mgStart_kept | apply updMg_kept | apply submitNp_kept)
    | (intro u hu; try dsimp only) | split)

theorem mgReadErr_kept {r s : State} {g status : Nat} (hs : Keeps r s) :
    Keeps r (mgReadErr s g status) := by
  unfold mgReadErr
  try dsimp only
  repeat' (first
    | with_reducible (
      first
      | assumption | apply raiseEv_kept | apply bump_kept | apply updMg_kept)
    | (intro u hu; try dsimp only) | split)

theorem mgOnRead_kept {r s : State} {g : Nat} {res : Except Nat (List Byte)} (hs : Keeps r s) :
    Keeps r (mgOnRead s g res) := by
  unfold mgOnRead
  try dsimp only
  repeat' (first
    | with_reducible (
      first
      | assumption | apply mgReadErr_kept | apply updMg_kept | apply addTxn_kept | refine kforAll ?_ ?_)
    | (intro u x hu; try dsimp only) | (intro u hu; try dsimp only) | split)

theorem mgRestart_kept {r s : State} {g : Nat} (hs : Keeps r s) : Keeps r (mgRestart s g) := by
  unfold mgRestart
  try dsimp only
  repeat' (first
    | with_reducible (
      first
      | assumption | apply updFab_kept | apply updMg_kept)
    | (intro u hu; try dsimp only) | (with_reducible rfl) | split)

theorem budgetPut_kept {r s : State} {m v : Nat} (hs : Keeps r s) :
    Keeps r (budgetPut s m v) := by
  unfold budgetPut
  try dsimp only
  repeat' (first
    | with_reducible (
      first
      | assumption | apply updBrdg_kept)
    | (intro u hu; try dsimp only) | (with_reducible rfl) | split)

theorem budgetPay_kept {r s : State} {m n : Nat} (hs : Keeps r s) :
    Keeps r (budgetPay s m n) := by
  unfold budgetPay
  try dsimp only
  repeat' (first
    | with_reducible (
      first
      | assumption | apply budgetPut_kept)
    | (intro u hu; try dsimp only) | split)

theorem mirrorServed_kept {r s : State} {m g : Nat} (hs : Keeps r s) :
    Keeps r (mirrorServed s m g) := by
  unfold mirrorServed
  try dsimp only
  repeat' (first
    | with_reducible (
      first
      | assumption | apply updBrdg_kept)
    | (intro u hu; try dsimp only) | (with_reducible rfl) | split)

/-! ### Deliver -/

theorem pfDrop_kept {r s : State} {id : Nat} (hs : Keeps r s) : Keeps r (pfDrop s id) := by
  unfold pfDrop
  try dsimp only
  repeat' (first
    | with_reducible (
      first
      | assumption | apply updBrdg_kept)
    | (intro u hu; try dsimp only) | (with_reducible rfl) | split)

theorem pfUpd_kept {r s : State} {id : Nat} {f : PfUnit → PfUnit} (hs : Keeps r s) :
    Keeps r (pfUpd s id f) := by
  unfold pfUpd
  try dsimp only
  repeat' (first
    | with_reducible (
      first
      | assumption | apply updBrdg_kept)
    | (intro u hu; try dsimp only) | (with_reducible rfl) | split)

theorem seDiscard_kept {r s : State} {n off : Nat} (hs : Keeps r s) :
    Keeps r (seDiscard s n off) := by
  unfold seDiscard
  try dsimp only
  repeat' (first
    | with_reducible (
      first
      | assumption | apply raiseEv_kept | apply fnEvent_kept)
    | (intro u hu; try dsimp only) | split)

theorem seToSlot_kept {r s : State} {u : PfUnit} {data : List Byte} (hs : Keeps r s) :
    Keeps r (seToSlot s u data) := by
  unfold seToSlot
  try dsimp only
  repeat' (first
    | with_reducible (
      first
      | assumption | apply bump_kept | apply logC_kept | apply seDiscard_kept | apply updFn_kept)
    | (intro u hu; try dsimp only) | split)

theorem pfDiscard_kept {r s : State} {u : PfUnit} (hs : Keeps r s) : Keeps r (pfDiscard s u) := by
  unfold pfDiscard
  try dsimp only
  repeat' (first
    | with_reducible (
      first
      | assumption | apply bump_kept | apply pfDrop_kept | apply seToSlot_kept | apply pfUpd_kept)
    | (intro u hu; try dsimp only) | split)

theorem pfDiscardAll_kept {r s : State} {p : PfUnit → Bool} (hs : Keeps r s) :
    Keeps r (pfDiscardAll s p) := by
  unfold pfDiscardAll
  try dsimp only
  repeat' (first
    | with_reducible (
      first
      | assumption | apply pfDiscard_kept | refine kforAll ?_ ?_)
    | (intro u hu; try dsimp only) | split)

theorem pfFlowWrite_kept {r s : State} {f : Nat} (hs : Keeps r s) : Keeps r (pfFlowWrite s f) := by
  unfold pfFlowWrite
  try dsimp only
  repeat' (first
    | with_reducible (
      first
      | assumption | apply pfDiscardAll_kept)
    | (intro u hu; try dsimp only) | split)

theorem pfLost_kept {r s : State} {u : PfUnit} {why : Nat} (hs : Keeps r s) :
    Keeps r (pfLost s u why) := by
  unfold pfLost
  try dsimp only
  repeat' (first
    | with_reducible (
      first
      | assumption | apply bump_kept | apply logC_kept)
    | (intro u hu; try dsimp only) | split)

theorem pfInvalidate_kept {r s : State} {p : PfUnit → Bool} {why : Nat} (hs : Keeps r s) :
    Keeps r (pfInvalidate s p why) := by
  unfold pfInvalidate
  try dsimp only
  repeat' (first
    | with_reducible (
      first
      | assumption | apply pfLost_kept | apply pfDrop_kept | apply pfUpd_kept | refine kforAll ?_ ?_)
    | (intro u x hu; try dsimp only) | (intro u hu; try dsimp only) | split)

theorem slotInvalidate_kept {r s : State} {n why : Nat} (hs : Keeps r s) :
    Keeps r (slotInvalidate s n why) := by
  unfold slotInvalidate
  try dsimp only
  repeat' (first
    | with_reducible (
      first
      | assumption | apply bump_kept | apply logC_kept | apply updFn_kept)
    | (intro u hu; try dsimp only) | split)

theorem undeliverable_kept {r s : State} {r1 : Req} {status : Nat} (hs : Keeps r s) :
    Keeps r (undeliverable s r1 status) := by
  unfold undeliverable
  try dsimp only
  repeat' (first
    | with_reducible (
      first
      | assumption | apply bumpR_kept | apply bump_kept | apply raiseEv_kept | apply logC_kept)
    | (intro u hu; try dsimp only) | split)

theorem closeReq_kept {r s : State} {r1 : Req} (hs : Keeps r s) : Keeps r (closeReq s r1) := by
  unfold closeReq
  try dsimp only
  repeat' (first
    | with_reducible (
      first
      | assumption | apply dropReq_kept | apply dropTxn_kept | refine kforAll ?_ ?_)
    | (intro u x hu; try dsimp only) | (intro u hu; try dsimp only) | split)

theorem endReq_kept {r s : State} {r1 : Req} {status : Nat} {ch : Half} (hs : Keeps r s) :
    Keeps r (endReq s r1 status ch) := by
  unfold endReq
  try dsimp only
  repeat' (first
    | with_reducible (
      first
      | assumption | apply undeliverable_kept | apply sendCpl_kept | apply closeReq_kept)
    | (intro u hu; try dsimp only) | split)

theorem deliverPlain_kept {r s : State} {r1 : Req} {ch : Half} (hs : Keeps r s) :
    Keeps r (deliverPlain s r1 ch) := by
  unfold deliverPlain
  try dsimp only
  repeat' (first
    | with_reducible (
      first
      | assumption | apply dropReq_kept | apply undeliverable_kept | apply sendCpl_kept | apply endReq_kept
        | apply updReq_kept)
    | (intro u hu; try dsimp only) | split)

theorem deliverSplit_kept {r s : State} {r1 : Req} {ch : Half} (hs : Keeps r s) :
    Keeps r (deliverSplit s r1 ch) := by
  unfold deliverSplit
  try dsimp only
  repeat' (first
    | with_reducible (
      first
      | assumption | apply bump_kept | apply logC_kept | apply endReq_kept | apply dropReq_kept
        | apply undeliverable_kept | apply sendCpl_kept)
    | (intro u hu; try dsimp only) | split)

theorem updPart_kept {r s : State} {rid i : Nat} {f : ReqPart → ReqPart} (hs : Keeps r s) :
    Keeps r (updPart s rid i f) := by
  unfold updPart
  try dsimp only
  repeat' (first
    | with_reducible (
      first
      | assumption | apply updReq_kept)
    | (intro u hu; try dsimp only) | split)

theorem demandPart_kept {r s : State} {r1 : Req} {i : Nat} {p : ReqPart} {u : PfUnit} (hs : Keeps r s)
    :
    Keeps r (demandPart s r1 i p u) := by
  unfold demandPart
  try dsimp only
  repeat' (first
    | with_reducible (
      first
      | assumption | apply addTxn_kept | apply updPart_kept)
    | (intro u hu; try dsimp only) | split)

theorem pfServe_kept {r s : State} {u : PfUnit} {data : Option (List Byte)} (hs : Keeps r s) :
    Keeps r (pfServe s u data).1 := by
  unfold pfServe
  try dsimp only
  repeat' (first
    | with_reducible (
      first
      | assumption | apply updPart_kept | apply demandPart_kept | refine kforAll ?_ ?_)
    | (intro u x hu; try dsimp only) | (intro u hu; try dsimp only) | split)

theorem deliverOut_kept {r s : State} {rid : Nat} {ch : Half} (hs : Keeps r s) :
    Keeps r (deliverOut s rid ch) := by
  unfold deliverOut
  try dsimp only
  repeat' (first
    | with_reducible (
      first
      | assumption | apply deliverSplit_kept | apply deliverPlain_kept)
    | (intro u hu; try dsimp only) | split)

theorem pfArrive_kept {r s : State} {uid : Nat} {res : Except Nat (List Byte)} {se : Bool} {ch : Half}
    (hs : Keeps r s) :
    Keeps r (pfArrive s uid res se ch) := by
  unfold pfArrive
  try dsimp only
  repeat' (first
    | with_reducible (
      first
      | assumption | apply pfServe_kept | apply pfDrop_kept | apply bump_kept | apply deliverOut_kept
        | apply onlyIf_kept | apply pfLost_kept | apply seToSlot_kept | apply pfUpd_kept | refine kforAll ?_ ?_)
    | (intro u x hu; try dsimp only) | (intro u hu; try dsimp only) | split)

theorem deliver_kept {r s : State} {rid : Nat} {ch : Half} (hs : Keeps r s) :
    Keeps r (deliver s rid ch) := by
  unfold deliver
  try dsimp only
  repeat' (first
    | with_reducible (
      first
      | assumption | apply deliverOut_kept | apply dropReq_kept | apply undeliverable_kept | apply sendCpl_kept
        | apply endReq_kept | apply dqOnDesc_kept | apply closeReq_kept | apply dqOnData_kept | apply mgOnRead_kept
        | apply pfArrive_kept)
    | (intro u hu; try dsimp only) | split)

theorem failPart_kept {r s : State} {rid i status : Nat} {ch : Half} (hs : Keeps r s)
    :
    Keeps r (failPart s rid i status ch) := by
  unfold failPart
  try dsimp only
  repeat' (first
    | with_reducible (
      first
      | assumption | apply updPart_kept | apply dropTxn_kept | apply deliver_kept | refine kforAll ?_ ?_)
    | (intro u x hu; try dsimp only) | (intro u hu; try dsimp only) | split)

theorem gotPart_kept {r s : State} {rid i : Nat} {data : List Byte} {se : Bool} {ch : Half}
    (hs : Keeps r s) :
    Keeps r (gotPart s rid i data se ch) := by
  unfold gotPart
  try dsimp only
  repeat' (first
    | with_reducible (
      first
      | assumption | apply deliver_kept | apply updPart_kept)
    | (intro u hu; try dsimp only) | split)

theorem failReq_kept {r s : State} {rid status : Nat} {ch : Half} (hs : Keeps r s) :
    Keeps r (failReq s rid status ch) := by
  unfold failReq
  try dsimp only
  repeat' (first
    | with_reducible (
      first
      | assumption | apply failPart_kept)
    | (intro u hu; try dsimp only) | split)

theorem endTxn_kept {r s : State} {t : Txn} {status : Nat} (hs : Keeps r s) :
    Keeps r (endTxn s t status) := by
  unfold endTxn
  try dsimp only
  repeat' (first
    | with_reducible (
      first
      | assumption | apply dropTxn_kept | apply failPart_kept | apply droppedMark_kept | apply dqAdvance_kept
        | apply updFab_kept | apply bump_kept | apply logC_kept | refine kforAll ?_ ?_)
    | (intro u x hu; try dsimp only) | (intro u hu; try dsimp only) | (with_reducible rfl) | split)

theorem endAll_kept {r s : State} {p : Txn → Bool} {status : Nat} {c : State → Txn → State} (hs :
    Keeps r s) (hc : ∀ v0 v1, Keeps r v0 → Keeps r (c v0 v1)) :
    Keeps r (endAll s p status c) := by
  unfold endAll
  try dsimp only
  repeat' (first
    | with_reducible (
      first
      | assumption | apply endTxn_kept | refine kforAll ?_ ?_ | refine hc _ _ ?_)
    | (intro u x hu; try dsimp only) | (intro u hu; try dsimp only) | split)

theorem onesTxn_kept {r s : State} {t : Txn} (hs : Keeps r s) : Keeps r (onesTxn s t) := by
  unfold onesTxn
  try dsimp only
  repeat' (first
    | with_reducible (
      first
      | assumption | apply dropTxn_kept | apply gotPart_kept | apply droppedMark_kept)
    | (intro u hu; try dsimp only) | split)

/-! ### Egress -/

theorem delivered_kept {r s : State} {t : Txn} (hs : Keeps r s) : Keeps r (delivered s t) := by
  unfold delivered
  try dsimp only
  repeat' (first
    | with_reducible (
      first
      | assumption | apply updFlow_kept)
    | (intro u hu; try dsimp only) | split)

theorem commitP_kept {r s : State} {t : Txn} (hs : Keeps r s) : Keeps r (commitP s t) := by
  unfold commitP
  try dsimp only
  repeat' (first
    | with_reducible (
      first
      | assumption | apply delivered_kept | apply dropTxn_kept | apply dqOnWrite_kept | apply dqOnRecord_kept)
    | (intro u hu; try dsimp only) | split)

theorem clusterServe_kept {r s : State} {c : Nat} {t : Txn} (hs : Keeps r s) :
    Keeps r (clusterServe s c t) := by
  unfold clusterServe
  try dsimp only
  repeat' (first
    | with_reducible (
      first
      | assumption | apply commitP_kept | apply updClus_kept | apply delivered_kept | apply dropTxn_kept
        | apply gotPart_kept)
    | ((with_reducible show clGood _); first | exact hu | exact writeBytes_wf _ _ _ hu)
    | (intro u hu; try dsimp only) | split)

theorem pickTag_kept {r s : State} {side : TagSide} {sp : Nat × Nat × Nat} (hs : Keeps r s) :
    Keeps r (pickTag s side sp).2 := by
  unfold pickTag
  try dsimp only
  repeat' (first
    | with_reducible (
      first
      | assumption | apply takeFree_kept)
    | (intro u hu; try dsimp only) | split)

theorem takeTag_kept {r s : State} {side : TagSide} {tag : Nat} {t : Txn} {n : Nat} (hs : Keeps r s) :
    Keeps r (takeTag s side tag t n) := by
  unfold takeTag
  try dsimp only
  repeat' (first
    | with_reducible (
      first
      | assumption | apply updFab_kept)
    | (intro u hu; try dsimp only) | (with_reducible rfl) | split)

theorem hostWriteOut_kept {r s : State} {n : Nat} {t : Txn} (hs : Keeps r s) :
    Keeps r (hostWriteOut s n t) := by
  unfold hostWriteOut
  try dsimp only
  repeat' (first
    | with_reducible (
      first
      | assumption | apply tlpOut_kept | refine kforAll ?_ ?_)
    | (intro u x hu; try dsimp only) | (intro u hu; try dsimp only) | split)

theorem hostCplOut_forAll_kept {α β : Type} {r : State} {s : State × β} {l : List α} {f : State × β → α → State × β}
    (h : Keeps r s.1) (hf : ∀ u x, Keeps r u.1 → Keeps r (f u x).1) : Keeps r (hostCplOut.forAll s l f).1 :=
  foldlFst_kept h hf

theorem hostCplOut_kept {r s : State} {n : Nat} {t : Txn} (hs : Keeps r s) : Keeps r (hostCplOut s n t) := by
  unfold hostCplOut
  try dsimp only
  split
  · split
    · split
      · exact tlpOut_kept hs
      · exact hostCplOut_forAll_kept hs fun u x hu => tlpOut_kept hu
    · split
      · exact hostCplOut_forAll_kept hs fun u x hu => tlpOut_kept hu
      · split
        · exact tlpOut_kept (aerURc_kept hs)
        · exact tlpOut_kept (aerCAc_kept hs)
  · exact hs

theorem hostCommit_kept {r s : State} {id : Nat} (hs : Keeps r s) : Keeps r (hostCommit s id) := by
  unfold hostCommit
  try dsimp only
  repeat' (first
    | with_reducible (
      first
      | assumption | apply hostCplOut_kept | apply dropTxn_kept | apply commitP_kept | apply hostWriteOut_kept
        | apply endTxn_kept | apply gateCount_kept | apply bump_kept | apply takeTag_kept | apply delivered_kept
        | apply tlpOut_kept)
    | (intro u hu; try dsimp only) | split)
  all_goals
    first
    | (rename_i heq; have e := congrArg Prod.snd heq; dsimp only at e; rw [← e]; exact pickTag_kept hs)
    | (rename_i heq _; have e := congrArg Prod.snd heq; dsimp only at e; rw [← e]; exact pickTag_kept hs)
    | (rename_i heq _ _; have e := congrArg Prod.snd heq; dsimp only at e; rw [← e]; exact pickTag_kept hs)
    | (rename_i heq _ _ _; have e := congrArg Prod.snd heq; dsimp only at e; rw [← e]; exact pickTag_kept hs)
    | (rename_i heq _ _ _ _; have e := congrArg Prod.snd heq; dsimp only at e; rw [← e]; exact pickTag_kept hs)

theorem settleTxn_kept {r s : State} {id : Nat} (hs : Keeps r s) : Keeps r (settleTxn s id) := by
  unfold settleTxn
  try dsimp only
  repeat' (first
    | with_reducible (
      first
      | assumption | apply clusterServe_kept | apply hostCommit_kept)
    | (intro u hu; try dsimp only) | split)

theorem settle_kept {r s : State} (hs : Keeps r s) : Keeps r (settle s) := by
  unfold settle
  try dsimp only
  repeat' (first
    | with_reducible (
      first
      | assumption | apply settleTxn_kept | refine kforAll ?_ ?_)
    | (intro u x hu; try dsimp only) | (intro u hu; try dsimp only) | split)

theorem sendPkt_kept {r s : State} {l : Nat} {p : Pkt} {txn : Nat} {src : Option End} (hs : Keeps r s)
    :
    Keeps r (sendPkt s l p txn src) := by
  unfold sendPkt
  try dsimp only
  repeat' (first
    | with_reducible (
      first
      | assumption | apply updLink_kept | apply emit_kept | apply bumpR_kept)
    | (intro u hu; try dsimp only) | split)

theorem linkSend_kept {r s : State} {l : Nat} {p : Pkt} {txn : Nat} {src : Option End} (hs : Keeps r
    s) :
    Keeps r (linkSend s l p txn src) := by
  unfold linkSend
  try dsimp only
  repeat' (first
    | with_reducible (
      first
      | assumption | apply sendPkt_kept | apply updLink_kept)
    | (intro u hu; try dsimp only) | split)

theorem drainOwed_kept {r s : State} {l : Nat} (hs : Keeps r s) : Keeps r (drainOwed s l) := by
  unfold drainOwed
  try dsimp only
  repeat' (first
    | with_reducible (
      first
      | assumption | apply updLink_kept | apply onlyIf_kept | apply updFab_kept | apply sendPkt_kept
        | refine kforAll ?_ ?_)
    | (intro u x hu; try dsimp only) | (intro u hu; try dsimp only) | (with_reducible rfl) | split)

theorem linkCpl_kept {r s : State} {l : Nat} {req : Pkt} {status : Nat} (hs : Keeps r s) :
    Keeps r (linkCpl s l req status) := by
  unfold linkCpl
  try dsimp only
  repeat' (first
    | with_reducible (
      first
      | assumption | apply linkSend_kept)
    | (intro u hu; try dsimp only) | split)

theorem gateTxn_kept {r s : State} {t : Txn} (hs : Keeps r s) :
    ∀ u, gateTxn s t = some u → Keeps r u := by
  intro u hu; unfold gateTxn at hu
  try dsimp only at hu
  repeat' (split at hu)
  all_goals (try (first | cases hu | injection hu with hu; subst hu))
  all_goals (try dsimp only)
  all_goals   repeat' (first
    | with_reducible (
      first
      | assumption | apply endTxn_kept | apply gateCount_kept | apply onesTxn_kept)
    | (intro u hu; try dsimp only) | split)

theorem startPacket_kept {r s : State} {l : Nat} {t : Txn} (hs : Keeps r s) :
    Keeps r (startPacket s l t) := by
  unfold startPacket
  try dsimp only
  repeat' (first
    | with_reducible (
      first
      | assumption | apply commitP_kept | apply updLink_kept | apply takeTag_kept | apply delivered_kept
        | apply dropTxn_kept | apply sendPkt_kept | apply updTxn_kept)
    | (intro u hu; try dsimp only) | split)
  all_goals
    rename_i heq
    have e := congrArg Prod.snd heq
    dsimp only at e
    rw [← e]
    exact pickTag_kept hs

theorem creditBlock_kept {r s : State} {l : Nat} {np : Bool} (hs : Keeps r s) :
    Keeps r (creditBlock s l np) := by
  unfold creditBlock
  try dsimp only
  repeat' (first
    | with_reducible (
      first
      | assumption | apply emit_kept)
    | (intro u hu; try dsimp only) | split)

theorem advance_kept {r s : State} {l : Nat} {np : Bool} {c n : Nat} (hs : Keeps r s) :
    Keeps r (advance s l np c n) := by
  unfold advance
  try dsimp only
  repeat' (first
    | with_reducible (
      first
      | assumption | apply creditBlock_kept | apply updLink_kept)
    | (intro u hu; try dsimp only) | split)

theorem leftIngress_kept {r s : State} {t : Txn} (hs : Keeps r s) : Keeps r (leftIngress s t) := by
  unfold leftIngress
  try dsimp only
  repeat' (first
    | with_reducible (
      first
      | assumption | apply advance_kept)
    | (intro u hu; try dsimp only) | split)

end Sys2Proof.Machine
end

