-- ==== Sys2Proof/Laws/KeepsTraffic.lean ====
section
/-! SUPPORT. That each meaning keeps what every step keeps (Laws/Keeps.lean): crossing, requests of hosts, containment, local traffic and its commands. -/

namespace Sys2Proof.Machine

set_option linter.unusedVariables false
set_option linter.unusedSimpArgs false

/-! ### Crossing -/

theorem takeBytes_kept {r s : State} {t : Txn} {room : Nat} (hs : Keeps r s) :
    Keeps r (takeBytes s t room).2 := by
  unfold takeBytes
  try dsimp only
  repeat' (first
    | with_reducible (
      first
      | assumption | apply updTxn_kept | apply mirrorServed_kept | apply budgetPay_kept | apply leftIngress_kept)
    | (intro u hu; try dsimp only) | split)

theorem fillCell_kept {r s : State} {n : Nat} {t : Txn} {k : Nat} (hs : Keeps r s) :
    Keeps r (fillCell n s t k).2 := by
  induction n generalizing s t k with
  | zero => exact hs
  | succ n ih =>
    unfold fillCell
    dsimp only
    have h2 : Keeps r (takeBytes s t k).2 := takeBytes_kept hs
    split
    · exact hs
    · split
      · split
        · exact h2
        · exact ih h2
      · exact h2

theorem arriveBytes_kept {r s : State} {ps : List (Nat × Nat)} (hs : Keeps r s) :
    Keeps r (arriveBytes s ps) := by
  unfold arriveBytes
  try dsimp only
  repeat' (first
    | with_reducible (
      first
      | assumption | apply settle_kept | apply updTxn_kept | refine kforAll ?_ ?_)
    | (intro u x hu; try dsimp only) | (intro u hu; try dsimp only) | split)

theorem putCell_kept {r s : State} {h1 : Half} {t : Txn} {ps : List (Nat × Nat)} {pl : CellPlace} (hs
    : Keeps r s) :
    Keeps r (putCell s h1 t ps pl) := by
  unfold putCell
  try dsimp only
  repeat' (first
    | with_reducible (
      first
      | assumption | apply updFab_kept)
    | (intro u hu; try dsimp only)
    | (simp only [lit_iff]; with_reducible refine litL_kept ?_ ?_ ?_ ?_ ?_ ?_ ?_ ?_ ?_ ?_)
    | (with_reducible rfl) | split)

theorem cannotPlace_kept {r s : State} {t : Txn} (hs : Keeps r s) : Keeps r (cannotPlace s t) := by
  unfold cannotPlace
  try dsimp only
  repeat' (first
    | with_reducible (
      first
      | assumption | apply endTxn_kept | apply countFrozen_kept | apply holdBack_kept)
    | (intro u hu; try dsimp only) | split)

theorem crossIngress_kept {r s : State} {t : Txn} {outFree : Bool} (hs : Keeps r s) :
    Keeps r (crossIngress s t outFree) := by
  unfold crossIngress
  try dsimp only
  repeat' (first
    | with_reducible (
      first
      | assumption | apply fillCell_kept | apply arriveBytes_kept | apply putCell_kept | apply cannotPlace_kept)
    | (intro u hu; try dsimp only) | split)

theorem tryLetGo_kept {r s : State} {h1 : Half} {f cls : Nat} (hs : Keeps r s) :
    Keeps r (tryLetGo s h1 f cls) := by
  unfold tryLetGo
  try dsimp only
  repeat' (first
    | with_reducible (
      first
      | assumption | apply letGo_kept)
    | (intro u hu; try dsimp only) | split)

theorem crossVat_kept {r s : State} {c : Cell} (hs : Keeps r s) : Keeps r (crossVat s c) := by
  unfold crossVat
  try dsimp only
  repeat' (first
    | with_reducible (
      first
      | assumption | apply updFab_kept | apply tryLetGo_kept | apply arriveBytes_kept)
    | (intro u hu; try dsimp only) | (with_reducible rfl) | split)

theorem dieArrive_kept {r s : State} {c : Cell} {outFree : Bool} (hs : Keeps r s) :
    Keeps r (dieArrive s c outFree) := by
  unfold dieArrive
  try dsimp only
  repeat' (first
    | with_reducible (
      first
      | assumption | apply updFab_kept | apply arriveBytes_kept)
    | (intro u hu; try dsimp only) | (with_reducible rfl) | split)

theorem poisonTxn_kept {r s : State} {id : Nat} (hs : Keeps r s) : Keeps r (poisonTxn s id) := by
  unfold poisonTxn
  try dsimp only
  repeat' (first
    | with_reducible (
      first
      | assumption | apply updTxn_kept | apply dropTxn_kept | apply closeReq_kept | refine kforAll ?_ ?_)
    | (intro u x hu; try dsimp only) | (intro u hu; try dsimp only) | split)

theorem flowFails_kept {r s : State} {h1 : Half} {f word : Nat} (hs : Keeps r s) :
    Keeps r (flowFails s h1 f word) := by
  unfold flowFails
  try dsimp only
  repeat' (first
    | with_reducible (
      first
      | assumption | apply endAll_kept | apply updFlow_kept | apply bump_kept | apply aerUncInternal_kept
        | apply raiseEv_kept | apply logC_kept)
    | (intro u x hu; try dsimp only) | (intro u hu; try dsimp only) | split)

theorem stateWordFails_kept {r s : State} {h1 : Half} {f w : Nat} (hs : Keeps r s) :
    Keeps r (stateWordFails s h1 f w) := by
  unfold stateWordFails
  try dsimp only
  repeat' (first
    | with_reducible (
      first
      | assumption | apply updFlow_kept | apply bump_kept)
    | (intro u hu; try dsimp only) | split)

theorem meetEcc_kept {r s : State} {h1 : Half} {f : Nat} {parts : List (Nat × Nat)} {fromVat : Bool}
    {e : EccFault} (hs : Keeps r s) :
    Keeps r (meetEcc s h1 f parts fromVat e) := by
  unfold meetEcc
  try dsimp only
  repeat' (first
    | with_reducible (
      first
      | assumption | apply bump_kept | apply aerCorrInternal_kept | apply poisonTxn_kept | apply aerUncInternal_kept
        | apply raiseEv_kept | apply logC_kept | apply flowFails_kept | apply stateWordFails_kept)
    | (intro u hu; try dsimp only) | split)

theorem drr_kept {r s : State} {n : Nat} {h1 : Half} {o : Nat} {c : List Cell} (hs : Keeps r s) :
    Keeps r (drr n s h1 o c).2 := by
  induction n generalizing s with
  | zero => exact hs
  | succ n ih =>
    unfold drr
    dsimp only
    repeat' (first
      | exact hs
      | with_reducible apply ih
      | with_reducible apply updFlow_kept
      | with_reducible apply updFab_kept
      | ((with_reducible show _ = _); rfl)
      | split)

theorem slotChoice_kept {r s : State} {h1 : Half} {port : Nat} {owner : Option Nat} (hs : Keeps r s) :
    Keeps r (slotChoice s h1 port owner).2 := by
  unfold slotChoice
  try dsimp only
  repeat' (first
    | with_reducible (
      first
      | assumption | apply drr_kept)
    | (intro u hu; try dsimp only) | split)

/-! ### HostTraffic -/

theorem wakeArrival_kept {r s : State} {cause inst : Nat} (hs : Keeps r s) :
    Keeps r (wakeArrival s cause inst) := by
  unfold wakeArrival
  try dsimp only
  repeat' (first
    | with_reducible (
      first
      | assumption | apply wakeBy_kept)
    | (intro u hu; try dsimp only) | split)

theorem countIn_kept {r s : State} {n w : Nat} (hs : Keeps r s) :
    Keeps r (countIn s n w) := by
  unfold countIn
  try dsimp only
  repeat' (first
    | with_reducible (
      first
      | assumption | apply bumpR_kept)
    | (intro u hu; try dsimp only) | split)

theorem stampIn_kept {r s : State} {h1 : Half} {f : Nat} {dalfel : Bool} {seq : Nat} (hs : Keeps r s)
    :
    Keeps r (stampIn s h1 f dalfel seq) := by
  unfold stampIn
  try dsimp only
  repeat' (first
    | with_reducible (
      first
      | assumption | apply bump_kept | apply raiseEv_kept | apply updTime_kept)
    | (intro u hu; try dsimp only) | split)

theorem hostRefuse_kept {r s : State} {m n tag : Nat} {st : HostStatus} {len : Nat}
    (hs : Keeps r s) :
    Keeps r (hostRefuse s m n tag st len) := by
  unfold hostRefuse
  try dsimp only
  repeat' (first
    | with_reducible (
      first
      | assumption | apply aerURc_kept | apply aerCAc_kept | apply tlpOut_kept)
    | (intro u hu; try dsimp only) | split)

theorem hostMiss_kept {r s : State} {n off : Nat} (hs : Keeps r s) :
    Keeps r (hostMiss s n off) := by
  unfold hostMiss
  try dsimp only
  repeat' (first
    | with_reducible (
      first
      | assumption | apply bump_kept | apply logC_kept)
    | (intro u hu; try dsimp only) | split)

theorem waitVc0_kept {r s : State} {m : Nat} {i : Instr} (hs : Keeps r s) :
    Keeps r (waitVc0 s m i) := by
  unfold waitVc0
  try dsimp only
  repeat' (first
    | with_reducible (
      first
      | assumption | apply updHl_kept)
    | (intro u hu; try dsimp only) | split)

theorem vc1Count_kept {r s : State} {vc1 : Bool} {cls : Nat} (hs : Keeps r s) :
    Keeps r (vc1Count s vc1 cls) := by
  unfold vc1Count
  try dsimp only
  repeat' (first
    | with_reducible (
      first
      | assumption | apply onlyIf_kept | apply bump_kept)
    | (intro u hu; try dsimp only) | split)

theorem splitWrite_kept {r s : State} {n w off : Nat} {bs : List Byte} {addr : Nat}
    {r1 : HostReq} (hs : Keeps r s) :
    Keeps r (splitWrite s n w off bs addr r1) := by
  unfold splitWrite
  try dsimp only
  repeat' (first
    | with_reducible (
      first
      | assumption | apply submitP_kept | apply bump_kept | apply logC_kept | apply updFab_kept
        | refine kforAll ?_ ?_)
    | (intro u x hu; try dsimp only) | (intro u hu; try dsimp only)
    | (simp only [lit_iff]; with_reducible refine litL_kept ?_ ?_ ?_ ?_ ?_ ?_ ?_ ?_ ?_ ?_)
    | (with_reducible rfl) | split)

theorem runWrite_kept {r s : State} {n w off : Nat} {bs : List Byte} {addr : Nat} {r1
    : HostReq} (hs : Keeps r s) :
    Keeps r (runWrite s n w off bs addr r1) := by
  unfold runWrite
  try dsimp only
  repeat' (first
    | with_reducible (
      first
      | assumption | apply splitWrite_kept | apply bump_kept | apply logC_kept | apply submitP_kept)
    | (intro u hu; try dsimp only) | split)

theorem windowWrite_kept {r s : State} {n off : Nat} {r1 : HostReq} (hs : Keeps r s) :
    Keeps r (windowWrite s n off r1) := by
  unfold windowWrite
  try dsimp only
  repeat' (first
    | with_reducible (
      first
      | assumption | apply aerUR_kept | apply hostMiss_kept | apply countIn_kept | apply onlyIf_kept
        | apply aerPoison_kept | apply vc1Count_kept | apply bump_kept | apply raiseEv_kept | apply logC_kept
        | apply stampIn_kept | apply pfFlowWrite_kept | apply submitP_kept | apply runWrite_kept
        | refine kforAll ?_ ?_)
    | (intro u x hu; try dsimp only) | (intro u hu; try dsimp only) | split)

theorem hostGated_kept {r s : State} {n : Nat} {r1 : HostReq} {len : Nat} {t : Txn} {g : Gate} (hs :
    Keeps r s) :
    Keeps r (hostGated s n r1 len t g) := by
  unfold hostGated
  try dsimp only
  repeat' (first
    | with_reducible (
      first
      | assumption | apply gateCount_kept | apply tlpOut_kept | apply hostRefuse_kept)
    | (intro u hu; try dsimp only) | split)

theorem zeroRead_kept {r s : State} {n w off : Nat} {r1 : HostReq} (hs : Keeps r s) :
    Keeps r (zeroRead s n w off r1) := by
  unfold zeroRead
  try dsimp only
  repeat' (first
    | with_reducible (
      first
      | assumption | apply submitNp_kept | apply hostGated_kept)
    | (intro u hu; try dsimp only) | split)

theorem splitRead_kept {r s : State} {n w : Nat} {off len : Nat} {r1 : HostReq} (hs :
    Keeps r s) :
    Keeps r (splitRead s n w off len r1) := by
  unfold splitRead
  try dsimp only
  repeat' (first
    | with_reducible (
      first
      | assumption | apply bump_kept | apply logC_kept | apply hostRefuse_kept | apply submitNp_kept)
    | (intro u hu; try dsimp only) | split)

theorem pfRestart_kept {r s : State} {n w off : Nat} (hs : Keeps r s) :
    Keeps r (pfRestart s n w off) := by
  unfold pfRestart
  try dsimp only
  repeat' (first
    | with_reducible (
      first
      | assumption | apply pfDiscardAll_kept)
    | (intro u hu; try dsimp only) | split)

theorem pfPiece_kept {r s : State} {rid n : Nat} {w off : Nat} {base a : Nat}
    {k : Nat} (hs : Keeps r s) :
    Keeps r (pfPiece s rid n w off base a k).2 := by
  unfold pfPiece
  try dsimp only
  repeat' (first
    | with_reducible (
      first
      | assumption | apply bump_kept | apply updFn_kept | apply pfDrop_kept | apply pfUpd_kept)
    | (intro u hu; try dsimp only) | split)

theorem pfAhead_kept {r s : State} {n w last : Nat} {r1 : HostReq} (hs : Keeps r s) :
    Keeps r (pfAhead s n w last r1) := by
  unfold pfAhead
  try dsimp only
  repeat' (first
    | with_reducible (
      first
      | assumption | apply bump_kept | apply updBrdg_kept | apply submitNp_kept | apply updReq_kept
        | apply updFab_kept | refine kforAll ?_ ?_)
    | (intro u x hu; try dsimp only) | (intro u hu; try dsimp only)
    | (simp only [lit_iff]; with_reducible refine litL_kept ?_ ?_ ?_ ?_ ?_ ?_ ?_ ?_ ?_ ?_)
    | (with_reducible rfl) | split)

theorem pfRead_kept {r s : State} {n w : Nat} {off len : Nat} {r1 : HostReq} (hs :
    Keeps r s) :
    Keeps r (pfRead s n w off len r1) := by
  unfold pfRead
  try dsimp only
  repeat' (first
    | with_reducible (
      first
      | assumption | apply pfRestart_kept | apply pfPiece_kept | apply submitNp_kept | apply deliver_kept
        | apply pfAhead_kept | apply foldlSnd_kept)
    | (intro u x hu; try dsimp only) | (intro u hu; try dsimp only) | split)

theorem windowRead_kept {r s : State} {n off : Nat} {r1 : HostReq} (hs : Keeps r s) :
    Keeps r (windowRead s n off r1) := by
  unfold windowRead
  try dsimp only
  repeat' (first
    | with_reducible (
      first
      | assumption | apply hostRefuse_kept | apply hostMiss_kept | apply countIn_kept | apply stampIn_kept
        | apply vc1Count_kept | apply zeroRead_kept | apply bump_kept | apply logC_kept | apply splitRead_kept
        | apply pfRead_kept | apply submitNp_kept | apply hostGated_kept)
    | (intro u hu; try dsimp only) | split)

theorem windowAtomic_kept {r s : State} {n off : Nat} {r1 : HostReq} {op : AtomicOp} (hs :
    Keeps r s) :
    Keeps r (windowAtomic s n off r1 op) := by
  unfold windowAtomic
  try dsimp only
  repeat' (first
    | with_reducible (
      first
      | assumption | apply hostRefuse_kept | apply hostMiss_kept | apply countIn_kept | apply stampIn_kept
        | apply vc1Count_kept | apply bump_kept | apply logC_kept | apply pfFlowWrite_kept | apply submitNp_kept
        | apply hostGated_kept)
    | (intro u hu; try dsimp only) | split)

/-! ### Sem -/

theorem semGrant_kept {r s : State} {n l rid : Nat} (hs : Keeps r s) :
    Keeps r (semGrant s n l rid) := by
  unfold semGrant
  try dsimp only
  repeat' (first
    | with_reducible (
      first
      | assumption | apply updSem_kept | apply gotPart_kept | apply bump_kept)
    | (intro u hu; try dsimp only) | split)

theorem semServe_kept {r s : State} {k n : Nat} (hs : Keeps r s) : Keeps r (semServe k s n) := by
  induction k generalizing s with
  | zero => exact hs
  | succ k ih =>
    unfold semServe
    dsimp only
    split
    · split
      · exact ih (semGrant_kept (updSem_kept hs))
      · exact hs
    · exact hs

theorem semArrive_kept {r s : State} {n l rid : Nat} (hs : Keeps r s) :
    Keeps r (semArrive s n l rid) := by
  unfold semArrive
  try dsimp only
  repeat' (first
    | with_reducible (
      first
      | assumption | apply gotPart_kept | apply bump_kept | apply failPart_kept | apply semGrant_kept
        | apply updSem_kept)
    | (intro u hu; try dsimp only) | split)

theorem semRelease_kept {r s : State} {n l : Nat} (hs : Keeps r s) :
    Keeps r (semRelease s n l) := by
  unfold semRelease
  try dsimp only
  repeat' (first
    | with_reducible (
      first
      | assumption | apply updSem_kept)
    | (intro u hu; try dsimp only) | split)

theorem semFree_kept {r s : State} {n l : Nat} (hs : Keeps r s) :
    Keeps r (semFree s n l) := by
  unfold semFree
  try dsimp only
  repeat' (first
    | with_reducible (
      first
      | assumption | apply semServe_kept | apply updSem_kept)
    | (intro u hu; try dsimp only) | split)

theorem semForced_kept {r s : State} {n l reason : Nat} (hs : Keeps r s) :
    Keeps r (semForced s n l reason) := by
  unfold semForced
  try dsimp only
  repeat' (first
    | with_reducible (
      first
      | assumption | apply raiseEv_kept | apply bump_kept)
    | (intro u hu; try dsimp only) | split)

theorem semDropLink_kept {r s : State} {l : Nat} (hs : Keeps r s) : Keeps r (semDropLink s l) := by
  unfold semDropLink
  try dsimp only
  repeat' (first
    | with_reducible (
      first
      | assumption | apply updSem_kept | apply semServe_kept | apply onlyIf_kept | apply semForced_kept
        | refine kforAll ?_ ?_)
    | (intro u x hu; try dsimp only) | (intro u hu; try dsimp only) | split)

theorem semDisable_kept {r s : State} {n : Nat} (hs : Keeps r s) : Keeps r (semDisable s n) := by
  unfold semDisable
  try dsimp only
  repeat' (first
    | with_reducible (
      first
      | assumption | apply semForced_kept | apply updSem_kept | apply failPart_kept | refine kforAll ?_ ?_)
    | (intro u x hu; try dsimp only) | (intro u hu; try dsimp only) | split)

/-! ### Contain -/

theorem updWorker_kept {r s : State} {d : Nat} {f : Nat × Bool × Bool × Bool → Nat × Bool × Bool ×
    Bool} (hs : Keeps r s) :
    Keeps r (updWorker s d f) := by
  unfold updWorker
  try dsimp only
  repeat' (first
    | with_reducible (
      first
      | assumption | apply updSys_kept)
    | (intro u hu; try dsimp only) | split)

theorem cplUndeliverable_kept {r s : State} {t : Txn} (hs : Keeps r s) :
    Keeps r (cplUndeliverable s t) := by
  unfold cplUndeliverable
  try dsimp only
  repeat' (first
    | with_reducible (
      first
      | assumption | apply dropTxn_kept | apply undeliverable_kept | apply bump_kept | apply raiseEv_kept
        | apply logC_kept)
    | (intro u hu; try dsimp only) | split)

theorem dropAnswers_kept {r s : State} {l : Nat} (hs : Keeps r s) : Keeps r (dropAnswers s l) := by
  unfold dropAnswers
  try dsimp only
  repeat' (first
    | with_reducible (
      first
      | assumption | apply cplUndeliverable_kept | apply updFab_kept | refine kforAll ?_ ?_)
    | (intro u hu; try dsimp only) | (with_reducible rfl) | split)

theorem dropLocked_kept {r s : State} {l : Nat} (hs : Keeps r s) : Keeps r (dropLocked s l) := by
  unfold dropLocked
  try dsimp only
  repeat' (first
    | with_reducible (
      first
      | assumption | apply dropTxn_kept | apply dropReq_kept | refine kforAll ?_ ?_)
    | (intro u x hu; try dsimp only) | (intro u hu; try dsimp only) | split)

theorem markOld_kept {r s : State} {l : Nat} (hs : Keeps r s) : Keeps r (markOld s l) := by
  unfold markOld
  try dsimp only
  repeat' (first
    | with_reducible (
      first
      | assumption | apply updFab_kept)
    | (intro u hu; try dsimp only) | (with_reducible rfl) | split)

theorem endOld_kept {r s : State} {l : Nat} (hs : Keeps r s) : Keeps r (endOld s l) := by
  unfold endOld
  try dsimp only
  repeat' (first
    | with_reducible (
      first
      | assumption | apply quarantine_kept | apply failPart_kept | apply countFrozen_kept | refine kforAll ?_ ?_)
    | (intro u x hu; try dsimp only) | (intro u hu; try dsimp only) | split)

theorem onesSent_kept {r s : State} {l : Nat} (hs : Keeps r s) : Keeps r (onesSent s l) := by
  unfold onesSent
  try dsimp only
  repeat' (first
    | with_reducible (
      first
      | assumption | apply quarantine_kept | apply gotPart_kept | apply bump_kept | refine kforAll ?_ ?_)
    | (intro u x hu; try dsimp only) | (intro u hu; try dsimp only) | split)

theorem onesHeld_kept {r s : State} {l : Nat} (hs : Keeps r s) : Keeps r (onesHeld s l) := by
  unfold onesHeld
  try dsimp only
  repeat' (first
    | with_reducible (
      first
      | assumption | apply onesTxn_kept | apply bump_kept | refine kforAll ?_ ?_)
    | (intro u x hu; try dsimp only) | (intro u hu; try dsimp only) | split)

theorem freezeLink_kept {r s : State} {l cause : Nat} (hs : Keeps r s) :
    Keeps r (freezeLink s l cause) := by
  unfold freezeLink
  try dsimp only
  repeat' (first
    | with_reducible (
      first
      | assumption | apply updLink_kept | apply raiseEv_kept | apply fnEvent_kept | apply bump_kept | apply logC_kept
        | apply semDropLink_kept | apply dropLocked_kept | apply dropAnswers_kept | apply markOld_kept
        | apply onlyIf_kept | refine kforAll ?_ ?_)
    | (intro u x hu; try dsimp only) | (intro u hu; try dsimp only) | split)

theorem loseLink_kept {r s : State} {l : Nat} (hs : Keeps r s) : Keeps r (loseLink s l) := by
  unfold loseLink
  try dsimp only
  repeat' (first
    | with_reducible (
      first
      | assumption | apply updLink_kept | apply raiseEv_kept | apply logC_kept | apply fnEvent_kept
        | apply onesHeld_kept | apply onesSent_kept | apply semDropLink_kept | apply dropAnswers_kept
        | refine kforAll ?_ ?_)
    | (intro u x hu; try dsimp only) | (intro u hu; try dsimp only) | split)

theorem loseWorker_kept {r s : State} {d : Nat} (hs : Keeps r s) : Keeps r (loseWorker s d) := by
  unfold loseWorker
  try dsimp only
  repeat' (first
    | with_reducible (
      first
      | assumption | apply updWorker_kept | apply raiseEv_kept | apply logC_kept | apply fnEvent_kept
        | apply onesHeld_kept | apply onesSent_kept | apply semDropLink_kept | apply dropAnswers_kept
        | apply updLink_kept | refine kforAll ?_ ?_)
    | (intro u x hu; try dsimp only) | (intro u hu; try dsimp only) | split)

theorem contain_kept {r s : State} {l cause : Nat} (hs : Keeps r s) :
    Keeps r (contain s l cause) := by
  unfold contain
  try dsimp only
  repeat' (first
    | with_reducible (
      first
      | assumption | apply loseWorker_kept | apply loseLink_kept | apply freezeLink_kept)
    | (intro u hu; try dsimp only) | split)

theorem portIdle_kept {r s : State} {p : Nat} (hs : Keeps r s) : Keeps r (portIdle s p) := by
  unfold portIdle
  try dsimp only
  repeat' (first
    | with_reducible (
      first
      | assumption | apply updSys_kept)
    | (intro u hu; try dsimp only) | split)

theorem sendDown_kept {r s : State} {l reason : Nat} (hs : Keeps r s) :
    Keeps r (sendDown s l reason) := by
  unfold sendDown
  try dsimp only
  repeat' (first
    | with_reducible (
      first
      | assumption | apply emit_kept | refine kforAll ?_ ?_)
    | (intro u x hu; try dsimp only) | (intro u hu; try dsimp only) | split)

theorem resetLanes_kept {r s : State} {l : Nat} (hs : Keeps r s) : Keeps r (resetLanes s l) := by
  unfold resetLanes
  try dsimp only
  repeat' (first
    | with_reducible (
      first
      | assumption | apply updLane_kept | refine kforAll ?_ ?_)
    | (intro u x hu; try dsimp only) | (intro u hu; try dsimp only) | split)

theorem toDetect_kept {r s : State} {l : Nat} (hs : Keeps r s) : Keeps r (toDetect s l) := by
  unfold toDetect
  try dsimp only
  repeat' (first
    | with_reducible (
      first
      | assumption | apply portIdle_kept | apply updLink_kept | apply resetLanes_kept)
    | (intro u hu; try dsimp only) | split)

theorem bondResend_kept {r s : State} {l : Nat} {lost : List Replay} (hs : Keeps r s) :
    Keeps r (bondResend s l lost) := by
  unfold bondResend
  try dsimp only
  repeat' (first
    | with_reducible (
      first
      | assumption | apply linkSend_kept | refine kforAll ?_ ?_)
    | (intro u x hu; try dsimp only) | (intro u hu; try dsimp only) | split)

theorem dropLinkLayer_kept {r s : State} {l : Nat} (hs : Keeps r s) :
    Keeps r (dropLinkLayer s l) := by
  unfold dropLinkLayer
  try dsimp only
  repeat' (first
    | with_reducible (
      first
      | assumption | apply updLink_kept | apply updFab_kept)
    | (intro u hu; try dsimp only) | (with_reducible rfl) | split)

theorem abandonPasses_kept {r s : State} {l : Nat} (hs : Keeps r s) :
    Keeps r (abandonPasses s l) := by
  unfold abandonPasses
  try dsimp only
  repeat' (first
    | with_reducible (
      first
      | assumption | apply updMg_kept | refine kforAll ?_ ?_)
    | (intro u x hu; try dsimp only) | (intro u hu; try dsimp only) | split)

theorem downWake_kept {r s : State} {l : Nat} (hs : Keeps r s) : Keeps r (downWake s l) := by
  unfold downWake
  try dsimp only
  repeat' (first
    | with_reducible (
      first
      | assumption | apply wakeBy_kept)
    | (intro u hu; try dsimp only) | split)

theorem leaveActive_kept {r s : State} {l reason : Nat} {txRuns : optParam Bool Bool.true} (hs
    : Keeps r s) :
    Keeps r (leaveActive s l reason txRuns) := by
  unfold leaveActive
  try dsimp only
  repeat' (first
    | with_reducible (
      first
      | assumption | apply onlyIf_kept | apply sendDown_kept | apply toDetect_kept | apply dropLinkLayer_kept
        | apply updLink_kept | apply bumpR_kept | apply bondResend_kept | apply contain_kept | apply downWake_kept
        | apply abandonPasses_kept)
    | (intro u hu; try dsimp only) | split)

theorem hierarchyCheck_kept {r s : State} (hs : Keeps r s) : Keeps r (hierarchyCheck s) := by
  unfold hierarchyCheck
  try dsimp only
  repeat' (first
    | with_reducible (
      first
      | assumption | apply raiseEv_kept | apply updHalf_kept)
    | (intro u hu; try dsimp only) | split)

theorem insertWorker_kept {r s : State} {d : Nat} (hs : Keeps r s) :
    Keeps r (insertWorker s d) := by
  unfold insertWorker
  try dsimp only
  repeat' (first
    | with_reducible (
      first
      | assumption | apply hierarchyCheck_kept | apply updWorker_kept | apply raiseEv_kept)
    | (intro u hu; try dsimp only) | split)

theorem insertLink_kept {r s : State} {l : Nat} (hs : Keeps r s) : Keeps r (insertLink s l) := by
  unfold insertLink
  try dsimp only
  repeat' (first
    | with_reducible (
      first
      | assumption | apply updLink_kept | apply insertWorker_kept | apply raiseEv_kept | apply fnEvent_kept
        | refine kforAll ?_ ?_)
    | (intro u x hu; try dsimp only) | (intro u hu; try dsimp only) | split)

theorem managerConflict_kept {r s : State} {l : Nat} (hs : Keeps r s) :
    Keeps r (managerConflict s l) := by
  unfold managerConflict
  try dsimp only
  repeat' (first
    | with_reducible (
      first
      | assumption | apply raiseEv_kept | apply updHalf_kept | apply loseWorker_kept | refine kforAll ?_ ?_)
    | (intro u hu; try dsimp only) | split)

theorem tetherCheck_kept {r s : State} {l : Nat} (hs : Keeps r s) : Keeps r (tetherCheck s l) := by
  unfold tetherCheck
  try dsimp only
  repeat' (first
    | with_reducible (
      first
      | assumption | apply raiseEv_kept)
    | (intro u hu; try dsimp only) | split)

theorem releaseRefused_kept {r s : State} {h1 : Half} {unit reason : Nat} (hs : Keeps r s) :
    Keeps r (releaseRefused s h1 unit reason) := by
  unfold releaseRefused
  try dsimp only
  repeat' (first
    | with_reducible (
      first
      | assumption | apply raiseEv_kept | apply bump_kept | apply logC_kept)
    | (intro u hu; try dsimp only) | split)

theorem releaseLink_kept {r s : State} {l : Nat} (hs : Keeps r s) : Keeps r (releaseLink s l) := by
  unfold releaseLink
  try dsimp only
  repeat' (first
    | with_reducible (
      first
      | assumption | apply releaseRefused_kept | apply endOld_kept | apply updLink_kept | apply raiseEv_kept
        | apply logC_kept | apply settle_kept)
    | (intro u hu; try dsimp only) | split)

theorem releaseWorker_kept {r s : State} {d : Nat} (hs : Keeps r s) :
    Keeps r (releaseWorker s d) := by
  unfold releaseWorker
  try dsimp only
  repeat' (first
    | with_reducible (
      first
      | assumption | apply releaseRefused_kept | apply updWorker_kept | apply updLink_kept | apply logC_kept)
    | (intro u hu; try dsimp only) | split)

theorem freezeExpires_kept {r s : State} {l : Nat} (hs : Keeps r s) :
    Keeps r (freezeExpires s l) := by
  unfold freezeExpires
  try dsimp only
  repeat' (first
    | with_reducible (
      first
      | assumption | apply updLink_kept | apply endAll_kept | apply countFrozen_kept | apply endOld_kept
        | apply raiseEv_kept | apply logC_kept)
    | (intro u x hu; try dsimp only) | (intro u hu; try dsimp only) | split)

/-! ### C0 -/

theorem c0Judge_kept {r s : State} {level : Nat} (hs : Keeps r s) : Keeps r (c0Judge s level) := by
  unfold c0Judge
  try dsimp only
  repeat' (first
    | with_reducible (
      first
      | assumption | apply raiseEv_kept | apply bump_kept | apply updFlow_kept | apply updFab_kept
        | refine kforAll ?_ ?_)
    | (intro u x hu; try dsimp only) | (intro u hu; try dsimp only) | (with_reducible rfl) | split)

/-! ### LocalTraffic -/

theorem creditBack_kept {r s : State} {l : Nat} {p : Pkt} (hs : Keeps r s) :
    Keeps r (creditBack s l p) := by
  unfold creditBack
  try dsimp only
  repeat' (first
    | with_reducible (
      first
      | assumption | apply advance_kept)
    | (intro u hu; try dsimp only) | split)

theorem turnAway_kept {r s : State} {l : Nat} {p : Pkt} {status : Nat} (hs : Keeps r s) :
    Keeps r (turnAway s l p status) := by
  unfold turnAway
  try dsimp only
  repeat' (first
    | with_reducible (
      first
      | assumption | apply creditBack_kept | apply linkCpl_kept)
    | (intro u hu; try dsimp only) | split)

theorem sendAck_kept {r s : State} {l : Nat} {nak : Bool} (hs : Keeps r s) :
    Keeps r (sendAck s l nak) := by
  unfold sendAck
  try dsimp only
  repeat' (first
    | with_reducible (
      first
      | assumption | apply emit_kept | apply updLink_kept)
    | (intro u hu; try dsimp only) | split)

theorem fatal_kept {r s : State} {l cause : Nat} (hs : Keeps r s) :
    Keeps r (fatal s l cause) := by
  unfold fatal
  try dsimp only
  repeat' (first
    | with_reducible (
      first
      | assumption | apply freezeLink_kept)
    | (intro u hu; try dsimp only) | split)

theorem onMalformed_kept {r s : State} {l : Nat} {p : Pkt} (hs : Keeps r s) :
    Keeps r (onMalformed s l p) := by
  unfold onMalformed
  try dsimp only
  repeat' (first
    | with_reducible (
      first
      | assumption | apply bumpR_kept | apply updLink_kept | apply turnAway_kept | apply fatal_kept)
    | (intro u hu; try dsimp only) | split)

theorem refuseNp_kept {r s : State} {l : Nat} {p : Pkt} {status : Nat} (hs : Keeps r s) :
    Keeps r (refuseNp s l p status) := by
  unfold refuseNp
  try dsimp only
  repeat' (first
    | with_reducible (
      first
      | assumption | apply submitNp_kept | apply creditBack_kept | apply endReq_kept)
    | (intro u hu; try dsimp only) | split)

theorem giveNp_kept {r s : State} {l : Nat} {p : Pkt} {t : Txn} {len : Nat} {parts : List ReqPart} {o
    : ReqOpts} (hs : Keeps r s) :
    Keeps r (giveNp s l p t len parts o) := by
  unfold giveNp
  try dsimp only
  repeat' (first
    | with_reducible (
      first
      | assumption | apply submitNp_kept | apply refuseNp_kept | apply gateCount_kept | apply creditBack_kept
        | apply deliver_kept)
    | (intro u hu; try dsimp only) | split)

theorem sizeRefused_kept {r s : State} {l : Nat} {p : Pkt} {e : Nat} (hs : Keeps r s) :
    Keeps r (sizeRefused s l p e) := by
  unfold sizeRefused
  try dsimp only
  repeat' (first
    | with_reducible (
      first
      | assumption | apply bump_kept | apply logC_kept | apply refuseNp_kept | apply creditBack_kept)
    | (intro u hu; try dsimp only) | split)

theorem outWrite_kept {r s : State} {l : Nat} {p : Pkt} {e : Nat} (hs : Keeps r s) :
    Keeps r (outWrite s l p e) := by
  unfold outWrite
  try dsimp only
  repeat' (first
    | with_reducible (
      first
      | assumption | apply sizeRefused_kept | apply submitP_kept | apply creditBack_kept | apply bump_kept
        | apply logC_kept | apply updFab_kept | refine kforAll ?_ ?_)
    | (intro u x hu; try dsimp only) | (intro u hu; try dsimp only)
    | (simp only [lit_iff]; with_reducible refine litL_kept ?_ ?_ ?_ ?_ ?_ ?_ ?_ ?_ ?_ ?_)
    | (with_reducible rfl) | split)

theorem outRead_kept {r s : State} {l : Nat} {p : Pkt} {e : Nat} (hs : Keeps r s) :
    Keeps r (outRead s l p e) := by
  unfold outRead
  try dsimp only
  repeat' (first
    | with_reducible (
      first
      | assumption | apply sizeRefused_kept | apply giveNp_kept | apply refuseNp_kept | apply bump_kept
        | apply logC_kept)
    | (intro u hu; try dsimp only) | split)

theorem outAtomic_kept {r s : State} {l : Nat} {p : Pkt} {e : Nat} (hs : Keeps r s) :
    Keeps r (outAtomic s l p e) := by
  unfold outAtomic
  try dsimp only
  repeat' (first
    | with_reducible (
      first
      | assumption | apply sizeRefused_kept | apply refuseNp_kept | apply giveNp_kept)
    | (intro u hu; try dsimp only) | split)

theorem outAcquire_kept {r s : State} {l : Nat} {p : Pkt} {e : Nat} (hs : Keeps r s) :
    Keeps r (outAcquire s l p e) := by
  unfold outAcquire
  try dsimp only
  repeat' (first
    | with_reducible (
      first
      | assumption | apply refuseNp_kept | apply giveNp_kept | apply submitNp_kept | apply semArrive_kept
        | apply leftIngress_kept | apply dropTxn_kept)
    | (intro u hu; try dsimp only) | split)

theorem outRelease_kept {r s : State} {l : Nat} {p : Pkt} {e : Nat} (hs : Keeps r s) :
    Keeps r (outRelease s l p e) := by
  unfold outRelease
  try dsimp only
  repeat' (first
    | with_reducible (
      first
      | assumption | apply creditBack_kept | apply semRelease_kept | apply bump_kept | apply logC_kept)
    | (intro u hu; try dsimp only) | split)

theorem outEngine_kept {r s : State} {l : Nat} {p : Pkt} (hs : Keeps r s) :
    Keeps r (outEngine s l p) := by
  unfold outEngine
  try dsimp only
  repeat' (first
    | with_reducible (
      first
      | assumption | apply submitP_kept | apply giveNp_kept)
    | (intro u hu; try dsimp only) | split)

theorem outRequest_kept {r s : State} {l : Nat} {p : Pkt} (hs : Keeps r s) :
    Keeps r (outRequest s l p) := by
  unfold outRequest
  try dsimp only
  repeat' (first
    | with_reducible (
      first
      | assumption | apply outEngine_kept | apply refuseNp_kept | apply bump_kept | apply creditBack_kept
        | apply bumpR_kept | apply outWrite_kept | apply outRead_kept | apply outAtomic_kept | apply outAcquire_kept
        | apply outRelease_kept)
    | (intro u hu; try dsimp only) | split)

theorem rxState_kept {r s : State} {l : Nat} {p : Pkt} (hs : Keeps r s) :
    Keeps r (rxState s l p) := by
  unfold rxState
  try dsimp only
  repeat' (first
    | with_reducible (
      first
      | assumption | apply creditBack_kept | apply bump_kept | apply addTxn_kept)
    | (intro u hu; try dsimp only) | split)

theorem lateCheck_kept {r s : State} {l : Nat} {p : Pkt} (hs : Keeps r s) :
    Keeps r (lateCheck s l p) := by
  unfold lateCheck
  try dsimp only
  repeat' (first
    | with_reducible (
      first
      | assumption | apply bumpR_kept | apply updLink_kept)
    | (intro u hu; try dsimp only) | split)

theorem rxRequest_kept {r s : State} {l : Nat} {p : Pkt} (hs : Keeps r s) :
    Keeps r (rxRequest s l p) := by
  unfold rxRequest
  try dsimp only
  repeat' (first
    | with_reducible (
      first
      | assumption | apply turnAway_kept | apply bump_kept | apply lateCheck_kept | apply onlyIf_kept
        | apply bumpR_kept | apply stampIn_kept | apply addTxn_kept | apply rxState_kept | apply outRequest_kept)
    | (intro u hu; try dsimp only) | split)

theorem freeTag_kept {r s : State} {side : TagSide} {tag : Nat} (hs : Keeps r s) :
    Keeps r (freeTag s side tag) := by
  unfold freeTag
  try dsimp only
  repeat' (first
    | with_reducible (
      first
      | assumption | apply updFab_kept)
    | (intro u hu; try dsimp only) | (with_reducible rfl) | split)

theorem matchCpl_kept {r s : State} {l : Nat} {p : Pkt} {u : TagUse} (hs : Keeps r s) :
    Keeps r (matchCpl s l p u) := by
  unfold matchCpl
  try dsimp only
  repeat' (first
    | with_reducible (
      first
      | assumption | apply onlyIf_kept | apply bumpR_kept | apply freeTag_kept | apply bump_kept | apply failPart_kept
        | apply gotPart_kept)
    | (intro u hu; try dsimp only) | split)

theorem pingAnswer_kept {r s : State} {l : Nat} {u : TagUse} (hs : Keeps r s) :
    Keeps r (pingAnswer s l u) := by
  unfold pingAnswer
  try dsimp only
  repeat' (first
    | with_reducible (
      first
      | assumption | apply updLink_kept | apply freeTag_kept)
    | (intro u hu; try dsimp only) | split)

theorem cplNow_kept {r s : State} {l : Nat} {p : Pkt} (hs : Keeps r s) :
    Keeps r (cplNow s l p) := by
  unfold cplNow
  try dsimp only
  repeat' (first
    | with_reducible (
      first
      | assumption | apply pingAnswer_kept | apply bump_kept | apply matchCpl_kept | apply logC_kept)
    | (intro u hu; try dsimp only) | split)

theorem rxCpl_kept {r s : State} {l : Nat} {p : Pkt} (hs : Keeps r s) : Keeps r (rxCpl s l p) := by
  unfold rxCpl
  try dsimp only
  repeat' (first
    | with_reducible (
      first
      | assumption | apply everyNth_kept | apply updTest_kept | apply cplNow_kept)
    | (intro u hu; try dsimp only) | split)

theorem rxCapAnn_kept {r s : State} {l : Nat} {p : Pkt} (hs : Keeps r s) :
    Keeps r (rxCapAnn s l p) := by
  unfold rxCapAnn
  try dsimp only
  repeat' (first
    | with_reducible (
      first
      | assumption | apply updLink_kept | apply c0Judge_kept)
    | (intro u hu; try dsimp only) | split)

theorem rxPing_kept {r s : State} {l : Nat} {p : Pkt} (hs : Keeps r s) :
    Keeps r (rxPing s l p) := by
  unfold rxPing
  try dsimp only
  repeat' (first
    | with_reducible (
      first
      | assumption | apply linkSend_kept)
    | (intro u hu; try dsimp only) | split)

theorem rxUnits_kept {r s : State} {l : Nat} {p : Pkt} (hs : Keeps r s) :
    Keeps r (rxUnits s l p) := by
  unfold rxUnits
  try dsimp only
  repeat' (first
    | with_reducible (
      first
      | assumption | apply updLink_kept | apply fatal_kept)
    | (intro u hu; try dsimp only) | split)

theorem rxInOrder_kept {r s : State} {l : Nat} {p : Pkt} (hs : Keeps r s) :
    Keeps r (rxInOrder s l p) := by
  unfold rxInOrder
  try dsimp only
  repeat' (first
    | with_reducible (
      first
      | assumption | apply rxPing_kept | apply rxUnits_kept | apply onMalformed_kept | apply turnAway_kept
        | apply bump_kept | apply rxCapAnn_kept | apply rxCpl_kept | apply rxRequest_kept)
    | (intro u hu; try dsimp only) | split)

theorem rxPacket_kept {r s : State} {l : Nat} {p : Pkt} (hs : Keeps r s) :
    Keeps r (rxPacket s l p) := by
  unfold rxPacket
  try dsimp only
  repeat' (first
    | with_reducible (
      first
      | assumption | apply bump_kept | apply wakeArrival_kept | apply sendAck_kept | apply bumpR_kept
        | apply updLink_kept | apply rxInOrder_kept)
    | (intro u hu; try dsimp only) | split)

theorem rxAs_kept {r : State} {t : Nat} {s : State} {l : Nat} {p : Pkt} (hs : Keeps r s) :
    Keeps r (rxAs t s l p) := by
  unfold rxAs
  try dsimp only
  repeat' (first
    | with_reducible (
      first
      | assumption | apply onlyIf_kept | apply rxPacket_kept)
    | (intro u hu; try dsimp only) | split)

theorem execDalfelWrite_kept {r : State} {l : LL} {p : Pkt} {s : State} (hs : Keeps r s) :
    ∃ u, execDalfelWrite l p s = .next u ∧ Keeps r u := by
  unfold execDalfelWrite
  try dsimp only
  repeat' (first
    | with_reducible (
      first
      | assumption | apply rxAs_kept)
    | (intro u hu; try dsimp only) | split | (with_reducible refine ⟨_, rfl, ?_⟩))

theorem execDalfelRead_kept {r : State} {l : LL} {p : Pkt} {s : State} (hs : Keeps r s) :
    ∃ u, execDalfelRead l p s = .next u ∧ Keeps r u := by
  unfold execDalfelRead
  try dsimp only
  repeat' (first
    | with_reducible (
      first
      | assumption | apply rxAs_kept)
    | (intro u hu; try dsimp only) | split | (with_reducible refine ⟨_, rfl, ?_⟩))

theorem execDalfelCpl_kept {r : State} {l : LL} {p : Pkt} {s : State} (hs : Keeps r s) :
    ∃ u, execDalfelCpl l p s = .next u ∧ Keeps r u := by
  unfold execDalfelCpl
  try dsimp only
  repeat' (first
    | with_reducible (
      first
      | assumption | apply rxAs_kept)
    | (intro u hu; try dsimp only) | split | (with_reducible refine ⟨_, rfl, ?_⟩))

theorem execDoorbell_kept {r : State} {l : LL} {p : Pkt} {s : State} (hs : Keeps r s) :
    ∃ u, execDoorbell l p s = .next u ∧ Keeps r u := by
  unfold execDoorbell
  try dsimp only
  repeat' (first
    | with_reducible (
      first
      | assumption | apply rxAs_kept)
    | (intro u hu; try dsimp only) | split | (with_reducible refine ⟨_, rfl, ?_⟩))

theorem execState_kept {r : State} {l : LL} {p : Pkt} {s : State} (hs : Keeps r s) :
    ∃ u, execState l p s = .next u ∧ Keeps r u := by
  unfold execState
  try dsimp only
  repeat' (first
    | with_reducible (
      first
      | assumption | apply rxAs_kept)
    | (intro u hu; try dsimp only) | split | (with_reducible refine ⟨_, rfl, ?_⟩))

theorem execAtomic_kept {r : State} {l : LL} {p : Pkt} {s : State} (hs : Keeps r s) :
    ∃ u, execAtomic l p s = .next u ∧ Keeps r u := by
  unfold execAtomic
  try dsimp only
  repeat' (first
    | with_reducible (
      first
      | assumption | apply rxAs_kept)
    | (intro u hu; try dsimp only) | split | (with_reducible refine ⟨_, rfl, ?_⟩))

theorem execLockAcq_kept {r : State} {l : LL} {p : Pkt} {s : State} (hs : Keeps r s) :
    ∃ u, execLockAcq l p s = .next u ∧ Keeps r u := by
  unfold execLockAcq
  try dsimp only
  repeat' (first
    | with_reducible (
      first
      | assumption | apply rxAs_kept)
    | (intro u hu; try dsimp only) | split | (with_reducible refine ⟨_, rfl, ?_⟩))

theorem execLockRel_kept {r : State} {l : LL} {p : Pkt} {s : State} (hs : Keeps r s) :
    ∃ u, execLockRel l p s = .next u ∧ Keeps r u := by
  unfold execLockRel
  try dsimp only
  repeat' (first
    | with_reducible (
      first
      | assumption | apply rxAs_kept)
    | (intro u hu; try dsimp only) | split | (with_reducible refine ⟨_, rfl, ?_⟩))

theorem execCapAnn_kept {r : State} {l : LL} {p : Pkt} {s : State} (hs : Keeps r s) :
    ∃ u, execCapAnn l p s = .next u ∧ Keeps r u := by
  unfold execCapAnn
  try dsimp only
  repeat' (first
    | with_reducible (
      first
      | assumption | apply rxAs_kept)
    | (intro u hu; try dsimp only) | split | (with_reducible refine ⟨_, rfl, ?_⟩))

theorem execPing_kept {r : State} {l : LL} {p : Pkt} {s : State} (hs : Keeps r s) :
    ∃ u, execPing l p s = .next u ∧ Keeps r u := by
  unfold execPing
  try dsimp only
  repeat' (first
    | with_reducible (
      first
      | assumption | apply onlyIf_kept | apply rxPacket_kept)
    | (intro u hu; try dsimp only) | split | (with_reducible refine ⟨_, rfl, ?_⟩))

/-! ### FabricCmd -/

theorem serveTlp_kept {r s : State} {n off : Nat} {a6 : Instr} (hs : Keeps r s) :
    Keeps r (serveTlp s n off a6) := by
  unfold serveTlp
  try dsimp only
  repeat' (first
    | with_reducible (
      first
      | assumption | apply windowWrite_kept | apply windowRead_kept | apply windowAtomic_kept)
    | (intro u hu; try dsimp only) | split)

theorem unclaimed_kept {r s : State} {m : Nat} {a4 : Instr} (hs : Keeps r s) :
    Keeps r (unclaimed s m a4) := by
  unfold unclaimed
  try dsimp only
  repeat' (first
    | with_reducible (
      first
      | assumption | apply aerUR_kept | apply hostRefuse_kept)
    | (intro u hu; try dsimp only) | split)

theorem vc0Moves_kept {r s : State} {m : Nat} (hs : Keeps r s) : Keeps r (vc0Moves s m) := by
  unfold vc0Moves
  try dsimp only
  repeat' (first
    | with_reducible (
      first
      | assumption | apply bumpN_kept | apply updHl_kept)
    | (intro u hu; try dsimp only) | split)

theorem retryVc0_kept {r s : State} {k m : Nat} (hs : Keeps r s) : Keeps r (retryVc0 k s m) := by
  induction k generalizing s with
  | zero => exact hs
  | succ k ih =>
    unfold retryVc0
    dsimp only
    split
    · exact vc0Moves_kept hs
    · have hp := fun f => updHl_kept (n := m) (f := f) hs
      split
      · exact ih (hp _)
      · split
        · split
          · exact ih (serveTlp_kept (hp _))
          · exact hs
        · exact ih (unclaimed_kept (hp _))

theorem retryHalf_kept {r s : State} {h1 : Half} (hs : Keeps r s) : Keeps r (retryHalf s h1) := by
  unfold retryHalf
  try dsimp only
  repeat' (first
    | with_reducible (
      first
      | assumption | apply retryVc0_kept | refine kforAll ?_ ?_)
    | (intro u x hu; try dsimp only) | (intro u hu; try dsimp only) | split)

theorem pressIngress_kept {r s : State} {h1 : Half} {t : Txn} {outFree : Bool} {ecc : EccFault} (hs :
    Keeps r s) :
    Keeps r (pressIngress s h1 t outFree ecc) := by
  unfold pressIngress
  try dsimp only
  repeat' (first
    | with_reducible (
      first
      | assumption | apply meetEcc_kept | apply retryHalf_kept | apply crossIngress_kept)
    | (intro u hu; try dsimp only) | split)

theorem pressVat_kept {r s : State} {h1 : Half} {c : Cell} {outFree : Bool} {ecc : EccFault} (hs :
    Keeps r s) :
    Keeps r (pressVat s h1 c outFree ecc) := by
  unfold pressVat
  try dsimp only
  repeat' (first
    | with_reducible (
      first
      | assumption | apply meetEcc_kept | apply crossVat_kept)
    | (intro u hu; try dsimp only) | split)

theorem execPressCellCross_kept {r : State} {h1 : Half} {id : Nat} {outFree : Bool} {ecc : EccFault} {s : State}
    (hs : Keeps r s) :
    ∃ u, execPressCellCross h1 id outFree ecc s = .next u ∧ Keeps r u := by
  unfold execPressCellCross
  try dsimp only
  repeat' (first
    | with_reducible (
      first
      | assumption | apply onlyIf_kept | apply pressIngress_kept | apply pressVat_kept)
    | (intro u hu; try dsimp only) | split | (with_reducible refine ⟨_, rfl, ?_⟩))

theorem slotCell_kept {r s : State} {h1 : Half} {port : Nat} {owner : Option Nat} (hs : Keeps r s) :
    Keeps r (slotCell s h1 port owner).1 := by
  unfold slotCell
  try dsimp only
  repeat' (first
    | with_reducible (
      first
      | assumption | apply slotChoice_kept | apply crossVat_kept)
    | (intro u hu; try dsimp only) | split)

theorem execCalendarSlot_kept {r : State} {h1 : Half} {port : PP} {owner : Option FlowNo} {s : State} (hs :
    Keeps r s) :
    ∃ u, execCalendarSlot h1 port owner s = .next u ∧ Keeps r u := by
  unfold execCalendarSlot
  try dsimp only
  repeat' (first
    | with_reducible (
      first
      | assumption | apply onlyIf_kept | apply tpAct_kept | apply bump_kept | apply slotCell_kept | apply drr_kept
        | apply crossVat_kept | refine kforAll ?_ ?_)
    | (intro u hu; try dsimp only) | split | (with_reducible refine ⟨_, rfl, ?_⟩))

theorem execDieLinkCellArrive_kept {r : State} {h1 : Half} {cell : Nat} {s : State} (hs : Keeps r s) :
    ∃ u, execDieLinkCellArrive h1 cell s = .next u ∧ Keeps r u := by
  unfold execDieLinkCellArrive
  try dsimp only
  repeat' (first
    | with_reducible (
      first
      | assumption | apply dieArrive_kept)
    | (intro u hu; try dsimp only) | split | (with_reducible refine ⟨_, rfl, ?_⟩))

theorem execCplSpaceReserved_kept {r : State} {id : Nat} {s : State} (hs : Keeps r s) :
    ∃ u, execCplSpaceReserved id s = .next u ∧ Keeps r u := by
  unfold execCplSpaceReserved
  try dsimp only
  repeat' (first
    | with_reducible (
      first
      | assumption | apply reserve_kept | apply semArrive_kept | apply leftIngress_kept | apply dropTxn_kept)
    | (intro u hu; try dsimp only) | split | (with_reducible refine ⟨_, rfl, ?_⟩))

theorem execFenceRelease_kept {r : State} {id : Nat} {s : State} (hs : Keeps r s) :
    ∃ u, execFenceRelease id s = .next u ∧ Keeps r u := by
  unfold execFenceRelease
  try dsimp only
  repeat' (first
    | with_reducible (
      first
      | assumption | apply settle_kept | apply updTxn_kept)
    | (intro u hu; try dsimp only) | split | (with_reducible refine ⟨_, rfl, ?_⟩))

theorem doorbellAt_kept {r s : State} {h1 : Half} {n : Nat} {admitted : Bool} (hs : Keeps r s) :
    Keeps r (doorbellAt s h1 n admitted) := by
  unfold doorbellAt
  try dsimp only
  repeat' (first
    | with_reducible (
      first
      | assumption | apply bump_kept | apply arrive_kept)
    | (intro u hu; try dsimp only) | split)

theorem execFlowDoorbellRaise_kept {r : State} {id : Nat} {s : State} (hs : Keeps r s) :
    ∃ u, execFlowDoorbellRaise id s = .next u ∧ Keeps r u := by
  unfold execFlowDoorbellRaise
  try dsimp only
  repeat' (first
    | with_reducible (
      first
      | assumption | apply leftIngress_kept | apply dropTxn_kept | apply doorbellAt_kept)
    | (intro u hu; try dsimp only) | split | (with_reducible refine ⟨_, rfl, ?_⟩))

theorem setLevel_kept {r s : State} {n : Nat} {v : Bool} (hs : Keeps r s) :
    Keeps r (setLevel s n v) := by
  unfold setLevel
  try dsimp only
  repeat' (first
    | with_reducible (
      first
      | assumption | apply updSrc_kept | apply onlyIf_kept | apply arriveAdmitted_kept | apply bump_kept
        | apply pmEvent_kept | apply intxUpdate_kept | apply wakeBy_kept | apply updEng_kept)
    | ((with_reducible show engGood _); first | exact hu | exact ⟨hu.1, hu.2⟩ | exact ⟨List.length_set.trans hu.1, hu.2⟩ | exact ⟨hu.1, writeBytes_wf _ _ _ hu.2⟩)
    | (intro u hu; try dsimp only) | split)

theorem storeIn_kept {r s : State} {g w : Nat} {v : W64} (hs : Keeps r s) :
    Keeps r (storeIn s g w v) := by
  unfold storeIn
  try dsimp only
  repeat' (first
    | with_reducible (
      first
      | assumption | apply storePut_kept | apply bump_kept | apply updMg_kept | apply setLevel_kept
        | refine kforAll ?_ ?_)
    | (intro u x hu; try dsimp only) | (intro u hu; try dsimp only) | split)

theorem execStateValueCommit_kept {r : State} {id : Nat} {s : State} (hs : Keeps r s) :
    ∃ u, execStateValueCommit id s = .next u ∧ Keeps r u := by
  unfold execStateValueCommit
  try dsimp only
  repeat' (first
    | with_reducible (
      first
      | assumption | apply leftIngress_kept | apply dropTxn_kept | apply storeIn_kept | apply bump_kept)
    | (intro u hu; try dsimp only) | split | (with_reducible refine ⟨_, rfl, ?_⟩))

theorem execZeroLenReadFlush_kept {r : State} {id : Nat} {s : State} (hs : Keeps r s) :
    ∃ u, execZeroLenReadFlush id s = .next u ∧ Keeps r u := by
  unfold execZeroLenReadFlush
  try dsimp only
  repeat' (first
    | with_reducible (
      first
      | assumption | apply gotPart_kept | apply dropTxn_kept)
    | (intro u hu; try dsimp only) | split | (with_reducible refine ⟨_, rfl, ?_⟩))

theorem execShaperRelease_kept {r : State} {f : FlowNo} {s : State} (hs : Keeps r s) :
    ∃ u, execShaperRelease f s = .next u ∧ Keeps r u := by
  unfold execShaperRelease
  try dsimp only
  repeat' (first
    | with_reducible (
      first
      | assumption | apply updTxn_kept | apply updFlow_kept)
    | (intro u hu; try dsimp only) | split | (with_reducible refine ⟨_, rfl, ?_⟩))

theorem execLinkShaperPacketStart_kept {r : State} {l : LL} {id : Nat} {s : State} (hs : Keeps r s) :
    ∃ u, execLinkShaperPacketStart l id s = .next u ∧ Keeps r u := by
  unfold execLinkShaperPacketStart
  try dsimp only
  refine ⟨_, rfl, ?_⟩
  split
  · exact hs
  · split
    · exact hs
    · split
      · rename_i hq
        have hg := gateTxn_kept hs _ hq
        repeat' (first | assumption | split)
      · repeat' (first
    | with_reducible (
      first
      | assumption | apply updFlow_kept | apply updLink_kept | apply startPacket_kept)
    | (intro u hu; try dsimp only) | split)

theorem execEgressPacketStart_kept {r : State} {l : LL} {id : Nat} {s : State} (hs : Keeps r s) :
    ∃ u, execEgressPacketStart l id s = .next u ∧ Keeps r u := by
  unfold execEgressPacketStart
  try dsimp only
  refine ⟨_, rfl, ?_⟩
  split
  · exact hs
  · split
    · exact hs
    · split
      · rename_i hq
        have hg := gateTxn_kept hs _ hq
        repeat' (first | assumption | split)
      · repeat' (first
    | with_reducible (
      first
      | assumption | apply startPacket_kept)
    | (intro u hu; try dsimp only) | split)

theorem execCreditWaitTimeout_kept {r : State} {l : LL} {id : Nat} {s : State} (hs : Keeps r s) :
    ∃ u, execCreditWaitTimeout l id s = .next u ∧ Keeps r u := by
  unfold execCreditWaitTimeout
  try dsimp only
  repeat' (first
    | with_reducible (
      first
      | assumption | apply updLink_kept)
    | (intro u hu; try dsimp only) | split | (with_reducible refine ⟨_, rfl, ?_⟩))

theorem moveCell_kept {r s : State} {id : Nat} {pl : CellPlace} (hs : Keeps r s) :
    Keeps r (moveCell s id pl) := by
  unfold moveCell
  try dsimp only
  repeat' (first
    | with_reducible (
      first
      | assumption | apply updFab_kept)
    | (intro u hu; try dsimp only) | (with_reducible rfl) | split)

theorem brineMoved_kept {r s : State} {h1 : Half} {ch : Nat} (hs : Keeps r s) :
    Keeps r (brineMoved s h1 ch) := by
  unfold brineMoved
  try dsimp only
  repeat' (first
    | with_reducible (
      first
      | assumption | apply updBrine_kept)
    | (intro u hu; try dsimp only) | split)

theorem execBrineSegmentWrite_kept {r : State} {f : FlowNo} {s : State} (hs : Keeps r s) :
    ∃ u, execBrineSegmentWrite f s = .next u ∧ Keeps r u := by
  unfold execBrineSegmentWrite
  try dsimp only
  repeat' (first
    | with_reducible (
      first
      | assumption | apply bump_kept | apply holdBack_kept | apply brineMoved_kept | apply updFlow_kept
        | apply moveCell_kept)
    | (intro u hu; try dsimp only) | split | (with_reducible refine ⟨_, rfl, ?_⟩))

theorem brineEcc_kept {r s : State} {c : Cell} {ch : Nat} {ecc : MemEcc} (hs : Keeps r s) :
    Keeps r (brineEcc s c ch ecc) := by
  unfold brineEcc
  try dsimp only
  repeat' (first
    | with_reducible (
      first
      | assumption | apply bump_kept | apply aerCorrInternal_kept | apply poisonTxn_kept | apply aerUncInternal_kept
        | apply raiseEv_kept | apply logC_kept)
    | (intro u hu; try dsimp only) | split)

theorem tailJoins_kept {r s : State} {h1 : Half} {f : Nat} (hs : Keeps r s) :
    Keeps r (tailJoins s h1 f) := by
  unfold tailJoins
  try dsimp only
  repeat' (first
    | with_reducible (
      first
      | assumption | apply updFab_kept)
    | (intro u hu; try dsimp only) | (with_reducible rfl) | split)

theorem execBrineSegmentRead_kept {r : State} {f : FlowNo} {ecc : MemEcc} {s : State} (hs : Keeps r s) :
    ∃ u, execBrineSegmentRead f ecc s = .next u ∧ Keeps r u := by
  unfold execBrineSegmentRead
  try dsimp only
  repeat' (first
    | with_reducible (
      first
      | assumption | apply brineMoved_kept | apply moveCell_kept | apply tryLetGo_kept | apply tailJoins_kept
        | apply brineEcc_kept)
    | (intro u hu; try dsimp only) | split | (with_reducible refine ⟨_, rfl, ?_⟩))

theorem chanWindow_kept {r s : State} {h1 : Half} {ch : Nat} (hs : Keeps r s) :
    Keeps r (chanWindow s h1 ch) := by
  unfold chanWindow
  try dsimp only
  repeat' (first
    | with_reducible (
      first
      | assumption | apply updBrine_kept | apply raiseEv_kept | apply bump_kept)
    | (intro u hu; try dsimp only) | split)

theorem execBrineMonitorWindow_kept {r : State} {h1 : Half} {s : State} (hs : Keeps r s) :
    ∃ u, execBrineMonitorWindow h1 s = .next u ∧ Keeps r u := by
  unfold execBrineMonitorWindow
  try dsimp only
  repeat' (first
    | with_reducible (
      first
      | assumption | apply onlyIf_kept | apply updBrine_kept | apply chanWindow_kept | refine kforAll ?_ ?_)
    | (intro u x hu; try dsimp only) | (intro u hu; try dsimp only) | split
    | (with_reducible refine ⟨_, rfl, ?_⟩))

theorem brineLost_kept {r s : State} {h1 : Half} (hs : Keeps r s) : Keeps r (brineLost s h1) := by
  unfold brineLost
  try dsimp only
  repeat' (first
    | with_reducible (
      first
      | assumption | apply endTxn_kept | apply logC_kept | apply tailJoins_kept | refine kforAll ?_ ?_)
    | (intro u x hu; try dsimp only) | (intro u hu; try dsimp only) | split)

theorem execBrineTrainingDone_kept {r : State} {h1 : Half} {failed : Option (Fin 8)} {s : State} (hs : Keeps r
    s) :
    ∃ u, execBrineTrainingDone h1 failed s = .next u ∧ Keeps r u := by
  unfold execBrineTrainingDone
  try dsimp only
  repeat' (first
    | with_reducible (
      first
      | assumption | apply updBrine_kept | apply brineLost_kept | apply raiseEv_kept)
    | (intro u hu; try dsimp only) | split | (with_reducible refine ⟨_, rfl, ?_⟩))

theorem execBrineTrackingPass_kept {r : State} {_c : BC} {s : State} (hs : Keeps r s) :
    ∃ u, execBrineTrackingPass _c s = .next u ∧ Keeps r u := by
  unfold execBrineTrackingPass
  try dsimp only
  repeat' (first
    | with_reducible (
      first
      | assumption)
    | (intro u hu; try dsimp only) | split | (with_reducible refine ⟨_, rfl, ?_⟩))

theorem execSemaphoreUnitFree_kept {r : State} {n : Sem} {l : LL} {s : State} (hs : Keeps r s) :
    ∃ u, execSemaphoreUnitFree n l s = .next u ∧ Keeps r u := by
  unfold execSemaphoreUnitFree
  try dsimp only
  repeat' (first
    | with_reducible (
      first
      | assumption | apply semFree_kept)
    | (intro u hu; try dsimp only) | split | (with_reducible refine ⟨_, rfl, ?_⟩))

theorem execAcquireTimeout_kept {r : State} {n : Sem} {l : LL} {s : State} (hs : Keeps r s) :
    ∃ u, execAcquireTimeout n l s = .next u ∧ Keeps r u := by
  unfold execAcquireTimeout
  try dsimp only
  repeat' (first
    | with_reducible (
      first
      | assumption | apply failPart_kept | apply bump_kept | apply updSem_kept)
    | (intro u hu; try dsimp only) | split | (with_reducible refine ⟨_, rfl, ?_⟩))

theorem execHoldLimitExpiry_kept {r : State} {n : Sem} {l : LL} {s : State} (hs : Keeps r s) :
    ∃ u, execHoldLimitExpiry n l s = .next u ∧ Keeps r u := by
  unfold execHoldLimitExpiry
  try dsimp only
  repeat' (first
    | with_reducible (
      first
      | assumption | apply semFree_kept | apply semRelease_kept | apply semForced_kept)
    | (intro u hu; try dsimp only) | split | (with_reducible refine ⟨_, rfl, ?_⟩))

/-! ### Access -/

theorem tlpWake_kept {r s : State} {m : Nat} (hs : Keeps r s) : Keeps r (tlpWake s m) := by
  unfold tlpWake
  try dsimp only
  repeat' (first
    | with_reducible (
      first
      | assumption | apply onlyIf_kept | apply wakeBy_kept)
    | (intro u hu; try dsimp only) | split)

theorem accessWake_kept {r s : State} {a2 : Path} (hs : Keeps r s) : Keeps r (accessWake s a2) := by
  unfold accessWake
  try dsimp only
  repeat' (first
    | with_reducible (
      first
      | assumption | apply tlpWake_kept | apply wakeBy_kept)
    | (intro u hu; try dsimp only) | split)

theorem deny_kept {r s : State} {p : Path} {code : Nat} (hs : Keeps r s) :
    Keeps r (deny s p code) := by
  unfold deny
  try dsimp only
  repeat' (first
    | with_reducible (
      first
      | assumption | apply updDict_kept)
    | (intro u hu; try dsimp only) | split)

theorem regAct_kept {r s : State} {p : Path} {off : Nat} {h1 : Half} {f : State → State} (hs : Keeps r
    s) (hf : ∀ v0, Keeps r v0 → Keeps r (f v0)) :
    Keeps r (regAct s p off h1 f) := by
  unfold regAct
  try dsimp only
  repeat' (first
    | with_reducible (
      first
      | assumption | apply accessWake_kept | apply deny_kept | refine hf _ ?_)
    | (intro u hu; try dsimp only) | split)

theorem objAct_kept {r s : State} {p : Path} {idx sub : Nat} {h1 : Half} {f : State → State}
    (hs : Keeps r s) (hf : ∀ v0, Keeps r v0 → Keeps r (f v0)) :
    Keeps r (objAct s p idx sub h1 f) := by
  unfold objAct
  try dsimp only
  repeat' (first
    | with_reducible (
      first
      | assumption | apply accessWake_kept | apply deny_kept | refine hf _ ?_)
    | (intro u hu; try dsimp only) | split)

theorem sealTouch_kept {r s : State} {h1 : Half} {changed : Bool} (hs : Keeps r s) :
    Keeps r (sealTouch s h1 changed) := by
  unfold sealTouch
  try dsimp only
  repeat' (first
    | with_reducible (
      first
      | assumption | apply updDict_kept)
    | (intro u hu; try dsimp only) | split)

theorem regOrObj_kept {r s : State} {p : Path} {off idx sub : Nat} {h1 : Half} {f :
    State → State} (hs : Keeps r s) (hf : ∀ v0, Keeps r v0 → Keeps r (f v0)) :
    Keeps r (regOrObj s p off idx sub h1 f) := by
  unfold regOrObj
  try dsimp only
  repeat' (first
    | with_reducible (
      first
      | assumption | apply regAct_kept | apply objAct_kept)
    | (intro u hu; try dsimp only) | split)

end Sys2Proof.Machine
end

