-- ==== Sys2Proof/Laws/KeepsEng.lean ====
section
/-! SUPPORT. That each meaning keeps what every step keeps (Laws/Keeps.lean): event sources, services, engines, images and loads. -/

namespace Sys2Proof.Machine

set_option linter.unusedVariables false
set_option linter.unusedSimpArgs false

/-! ### Evt -/

theorem offerDrop_kept {r s : State} {e : Nat} (hs : Keeps r s) : Keeps r (offerDrop s e) := by
  unfold offerDrop
  try dsimp only
  repeat' (first
    | with_reducible (
      first
      | assumption | apply updSrc_kept | apply updEng_kept)
    | ((with_reducible show engGood _); first | exact hu | exact ⟨hu.1, hu.2⟩ | exact ⟨List.length_set.trans hu.1, hu.2⟩ | exact ⟨hu.1, writeBytes_wf _ _ _ hu.2⟩)
    | (intro u hu; try dsimp only) | split)

theorem offerTo_kept {r s : State} {n e : Nat} (hs : Keeps r s) :
    Keeps r (offerTo s n e) := by
  unfold offerTo
  try dsimp only
  repeat' (first
    | with_reducible (
      first
      | assumption | apply updSrc_kept | apply updEng_kept | apply offerDrop_kept)
    | ((with_reducible show engGood _); first | exact hu | exact ⟨hu.1, hu.2⟩ | exact ⟨List.length_set.trans hu.1, hu.2⟩ | exact ⟨hu.1, writeBytes_wf _ _ _ hu.2⟩)
    | (intro u hu; try dsimp only) | split)

theorem srcRoute_kept {r s : State} {n : Nat} {own : optParam (Option Nat) Option.none} (hs : Keeps r
    s) :
    Keeps r (srcRoute s n own) := by
  unfold srcRoute
  try dsimp only
  repeat' (first
    | with_reducible (
      first
      | assumption | apply offerTo_kept | apply updSrc_kept)
    | (intro u hu; try dsimp only) | split)

theorem execSourceOffer_kept {r : State} {n : ES} {s : State} (hs : Keeps r s) :
    ∃ u, execSourceOffer n s = .next u ∧ Keeps r u := by
  unfold execSourceOffer
  try dsimp only
  repeat' (first
    | with_reducible (
      first
      | assumption | apply srcRoute_kept)
    | (intro u hu; try dsimp only) | split | (with_reducible refine ⟨_, rfl, ?_⟩))

theorem execCoalescingHoldEnd_kept {r : State} {n : ES} {s : State} (hs : Keeps r s) :
    ∃ u, execCoalescingHoldEnd n s = .next u ∧ Keeps r u := by
  unfold execCoalescingHoldEnd
  try dsimp only
  repeat' (first
    | with_reducible (
      first
      | assumption | apply updSrc_kept | apply offerTo_kept)
    | (intro u hu; try dsimp only) | split | (with_reducible refine ⟨_, rfl, ?_⟩))

theorem enterWait_kept {r s : State} {e : Nat} (hs : Keeps r s) : Keeps r (enterWait s e) := by
  unfold enterWait
  try dsimp only
  repeat' (first
    | with_reducible (
      first
      | assumption | apply updEng_kept | apply offerTo_kept | apply updSrc_kept | refine kforAll ?_ ?_)
    | ((with_reducible show engGood _); first | exact hu | exact ⟨hu.1, hu.2⟩ | exact ⟨List.length_set.trans hu.1, hu.2⟩ | exact ⟨hu.1, writeBytes_wf _ _ _ hu.2⟩)
    | (intro u x hu; try dsimp only) | (intro u hu; try dsimp only) | split)

theorem offerTake_kept {r s : State} {e : Nat} {o : Offer} {ret : W64} (hs : Keeps r s) :
    Keeps r (offerTake s e o ret) := by
  unfold offerTake
  try dsimp only
  repeat' (first
    | with_reducible (
      first
      | assumption | apply updSrc_kept | apply updEng_kept)
    | ((with_reducible show engGood _); first | exact hu | exact ⟨hu.1, hu.2⟩ | exact ⟨List.length_set.trans hu.1, hu.2⟩ | exact ⟨hu.1, writeBytes_wf _ _ _ hu.2⟩)
    | (intro u hu; try dsimp only) | split)

theorem srcLeave_kept {r s : State} {n : Nat} (hs : Keeps r s) : Keeps r (srcLeave s n) := by
  unfold srcLeave
  try dsimp only
  repeat' (first
    | with_reducible (
      first
      | assumption | apply updSrc_kept)
    | (intro u hu; try dsimp only) | split)

theorem engDropEvents_kept {r s : State} {e : Nat} (hs : Keeps r s) :
    Keeps r (engDropEvents s e) := by
  unfold engDropEvents
  try dsimp only
  repeat' (first
    | with_reducible (
      first
      | assumption | apply offerDrop_kept | apply updEng_kept | apply srcLeave_kept | refine kforAll ?_ ?_)
    | ((with_reducible show engGood _); first | exact hu | exact ⟨hu.1, hu.2⟩ | exact ⟨List.length_set.trans hu.1, hu.2⟩ | exact ⟨hu.1, writeBytes_wf _ _ _ hu.2⟩)
    | (intro u x hu; try dsimp only) | (intro u hu; try dsimp only) | split)

theorem setMask_kept {r s : State} {n : Nat} {v : Bool} (hs : Keeps r s) :
    Keeps r (setMask s n v) := by
  unfold setMask
  try dsimp only
  repeat' (first
    | with_reducible (
      first
      | assumption | apply updSrc_kept | apply bump_kept | apply offerDrop_kept | apply onlyIf_kept)
    | (intro u hu; try dsimp only) | split)

theorem execEvcSrcMask_kept {r : State} {p : Path} {n : ES} {v : Bool} {s : State} (hs : Keeps r s) :
    ∃ u, execEvcSrcMask p n v s = .next u ∧ Keeps r u := by
  unfold execEvcSrcMask
  try dsimp only
  repeat' (first
    | with_reducible (
      first
      | assumption | apply regOrObj_kept | apply setMask_kept)
    | (intro u hu; try dsimp only) | split | (with_reducible refine ⟨_, rfl, ?_⟩))

theorem formMessage_kept {r s : State} {n : Nat} (hs : Keeps r s) : Keeps r (formMessage s n) := by
  unfold formMessage
  try dsimp only
  repeat' (first
    | with_reducible (
      first
      | assumption | apply updSrc_kept | apply addTxn_kept)
    | (intro u hu; try dsimp only) | split)

theorem execHostMessageForm_kept {r : State} {n : ES} {s : State} (hs : Keeps r s) :
    ∃ u, execHostMessageForm n s = .next u ∧ Keeps r u := by
  unfold execHostMessageForm
  try dsimp only
  repeat' (first
    | with_reducible (
      first
      | assumption | apply onlyIf_kept | apply formMessage_kept)
    | (intro u hu; try dsimp only) | split | (with_reducible refine ⟨_, rfl, ?_⟩))

theorem startHoldoff_kept {r s : State} {n : Nat} (hs : Keeps r s) :
    Keeps r (startHoldoff s n) := by
  unfold startHoldoff
  try dsimp only
  repeat' (first
    | with_reducible (
      first
      | assumption)
    | (intro u hu; try dsimp only)
    | (simp only [lit_iff]; with_reducible refine litL_kept ?_ ?_ ?_ ?_ ?_ ?_ ?_ ?_ ?_ ?_)
    | (with_reducible rfl) | split)

theorem messageOutcome_kept {r s : State} {n k : Nat} (hs : Keeps r s) :
    Keeps r (messageOutcome s n k) := by
  unfold messageOutcome
  try dsimp only
  repeat' (first
    | with_reducible (
      first
      | assumption | apply updSrc_kept | apply updFn_kept | apply intxUpdate_kept | apply bump_kept
        | apply setPba_kept | apply startHoldoff_kept | apply sendVec_kept)
    | (intro u hu; try dsimp only) | split)

theorem execHostMessageCommit_kept {r : State} {n : ES} {s : State} (hs : Keeps r s) :
    ∃ u, execHostMessageCommit n s = .next u ∧ Keeps r u := by
  unfold execHostMessageCommit
  try dsimp only
  repeat' (first
    | with_reducible (
      first
      | assumption | apply messageOutcome_kept | apply dropTxn_kept)
    | (intro u hu; try dsimp only) | split | (with_reducible refine ⟨_, rfl, ?_⟩))

theorem execHoldoffEnd_kept {r : State} {g : SG} {s : State} (hs : Keeps r s) :
    ∃ u, execHoldoffEnd g s = .next u ∧ Keeps r u := by
  unfold execHoldoffEnd
  try dsimp only
  repeat' (first
    | with_reducible (
      first
      | assumption | apply onlyIf_kept | apply formMessage_kept | refine kforAll ?_ ?_)
    | (intro u x hu; try dsimp only) | (intro u hu; try dsimp only)
    | (simp only [lit_iff]; with_reducible refine litL_kept ?_ ?_ ?_ ?_ ?_ ?_ ?_ ?_ ?_ ?_)
    | (with_reducible rfl) | split | (with_reducible refine ⟨_, rfl, ?_⟩))

theorem evcReinit_kept {r s : State} {m : Nat} (hs : Keeps r s) : Keeps r (evcReinit s m) := by
  unfold evcReinit
  try dsimp only
  repeat' (first
    | with_reducible (
      first
      | assumption | apply updSrc_kept | apply updFab_kept | apply updFn_kept | refine kforAll ?_ ?_)
    | (intro u x hu; try dsimp only) | (intro u hu; try dsimp only) | (with_reducible rfl) | split)

theorem evcCut_kept {r s : State} {h1 : Half} (hs : Keeps r s) : Keeps r (evcCut s h1) := by
  unfold evcCut
  try dsimp only
  repeat' (first
    | with_reducible (
      first
      | assumption | apply updSrc_kept | apply offerDrop_kept | apply intxUpdate_kept | refine kforAll ?_ ?_)
    | (intro u x hu; try dsimp only) | (intro u hu; try dsimp only) | split)

theorem claimRead_kept {r s : State} {n : Nat} (hs : Keeps r s) : Keeps r (claimRead s n).2 := by
  unfold claimRead
  try dsimp only
  repeat' (first
    | with_reducible (
      first
      | assumption | apply updSrc_kept | apply intxUpdate_kept)
    | (intro u hu; try dsimp only) | split)

theorem execEvcFnClaim_kept {r : State} {m : HL} {f : Fn} {tag : BitVec 14} {s0 : State} (hs0 : Keeps r s0) :
    ∃ u, execEvcFnClaim m f tag s0 = .next u ∧ Keeps r u := by
  unfold execEvcFnClaim
  try dsimp only
  repeat' (first
    | with_reducible (
      first
      | assumption | apply tlpWake_kept | apply hostRefuse_kept | apply claimRead_kept | apply tlpOut_kept)
    | (intro u hu; try dsimp only) | split | (with_reducible refine ⟨_, rfl, ?_⟩))

theorem fnDone_kept {r s : State} {n k : Nat} (hs : Keeps r s) :
    Keeps r (fnDone s n k) := by
  unfold fnDone
  try dsimp only
  repeat' (first
    | with_reducible (
      first
      | assumption | apply intxUpdate_kept | apply updSrc_kept)
    | (intro u hu; try dsimp only) | split)

theorem execEvcFnDone_kept {r : State} {m : HL} {f : Fn} {n : BitVec 14} {s0 : State} (hs0 : Keeps r s0) :
    ∃ u, execEvcFnDone m f n s0 = .next u ∧ Keeps r u := by
  unfold execEvcFnDone
  try dsimp only
  repeat' (first
    | with_reducible (
      first
      | assumption | apply tlpWake_kept | apply fnDone_kept)
    | (intro u hu; try dsimp only) | split | (with_reducible refine ⟨_, rfl, ?_⟩))

theorem fnEvtClr_kept {r s : State} {n : Nat} {v : W32} (hs : Keeps r s) :
    Keeps r (fnEvtClr s n v) := by
  unfold fnEvtClr
  try dsimp only
  repeat' (first
    | with_reducible (
      first
      | assumption | apply intxUpdate_kept | apply updFn_kept)
    | (intro u hu; try dsimp only) | split)

theorem execEvcFnEvt_kept {r : State} {m : HL} {f : Fn} {v : W32} {s0 : State} (hs0 : Keeps r s0) :
    ∃ u, execEvcFnEvt m f v s0 = .next u ∧ Keeps r u := by
  unfold execEvcFnEvt
  try dsimp only
  repeat' (first
    | with_reducible (
      first
      | assumption | apply tlpWake_kept | apply fnEvtClr_kept)
    | (intro u hu; try dsimp only) | split | (with_reducible refine ⟨_, rfl, ?_⟩))

theorem fnEvtEn_kept {r s : State} {n : Nat} {v : W32} (hs : Keeps r s) :
    Keeps r (fnEvtEn s n v) := by
  unfold fnEvtEn
  try dsimp only
  repeat' (first
    | with_reducible (
      first
      | assumption | apply updFn_kept | apply intxUpdate_kept | apply onlyIf_kept | apply notify_kept)
    | (intro u hu; try dsimp only) | split)

theorem execEvcFnEvtEn_kept {r : State} {m : HL} {f : Fn} {v : W32} {s0 : State} (hs0 : Keeps r s0) :
    ∃ u, execEvcFnEvtEn m f v s0 = .next u ∧ Keeps r u := by
  unfold execEvcFnEvtEn
  try dsimp only
  repeat' (first
    | with_reducible (
      first
      | assumption | apply tlpWake_kept | apply fnEvtEn_kept)
    | (intro u hu; try dsimp only) | split | (with_reducible refine ⟨_, rfl, ?_⟩))

theorem fnDbell_kept {r s : State} {n k : Nat} (hs : Keeps r s) :
    Keeps r (fnDbell s n k) := by
  unfold fnDbell
  try dsimp only
  repeat' (first
    | with_reducible (
      first
      | assumption | apply doorbellAt_kept)
    | (intro u hu; try dsimp only) | split)

theorem execEvcFnDbell_kept {r : State} {m : HL} {f : Fn} {n : BitVec 14} {s0 : State} (hs0 : Keeps r s0) :
    ∃ u, execEvcFnDbell m f n s0 = .next u ∧ Keeps r u := by
  unfold execEvcFnDbell
  try dsimp only
  repeat' (first
    | with_reducible (
      first
      | assumption | apply tlpWake_kept | apply fnDbell_kept)
    | (intro u hu; try dsimp only) | split | (with_reducible refine ⟨_, rfl, ?_⟩))

theorem execEvcDbell_kept {r : State} {p : Path} {h1 : Half} {n : BitVec 14} {s : State} (hs : Keeps r s) :
    ∃ u, execEvcDbell p h1 n s = .next u ∧ Keeps r u := by
  unfold execEvcDbell
  try dsimp only
  repeat' (first
    | with_reducible (
      first
      | assumption | apply regAct_kept | apply doorbellAt_kept)
    | (intro u hu; try dsimp only) | split | (with_reducible refine ⟨_, rfl, ?_⟩))

theorem erecPop_kept {r s : State} {h1 : Half} (hs : Keeps r s) : Keeps r (erecPop s h1) := by
  unfold erecPop
  try dsimp only
  repeat' (first
    | with_reducible (
      first
      | assumption)
    | (intro u hu; try dsimp only)
    | (simp only [lit_iff]; with_reducible refine litL_kept ?_ ?_ ?_ ?_ ?_ ?_ ?_ ?_ ?_ ?_)
    | (with_reducible rfl) | split)

theorem execEvcErecPop_kept {r : State} {p : Path} {h1 : Half} {s : State} (hs : Keeps r s) :
    ∃ u, execEvcErecPop p h1 s = .next u ∧ Keeps r u := by
  unfold execEvcErecPop
  try dsimp only
  repeat' (first
    | with_reducible (
      first
      | assumption | apply regAct_kept | apply erecPop_kept)
    | (intro u hu; try dsimp only) | split | (with_reducible refine ⟨_, rfl, ?_⟩))

/-! ### Steward -/

theorem pathGone_kept {r s : State} {h1 : Half} {id : Nat} (hs : Keeps r s) :
    Keeps r (pathGone s h1 id) := by
  unfold pathGone
  try dsimp only
  repeat' (first
    | with_reducible (
      first
      | assumption | apply updDict_kept)
    | (intro u hu; try dsimp only) | split)

theorem mbxDone_kept {r s : State} {m : Nat} (hs : Keeps r s) : Keeps r (mbxDone s m) := by
  unfold mbxDone
  try dsimp only
  repeat' (first
    | with_reducible (
      first
      | assumption | apply onlyIf_kept | apply fnEvent_kept)
    | (intro u hu; try dsimp only) | split)

theorem mbxStewardDown_kept {r s : State} {h1 : Half} (hs : Keeps r s) :
    Keeps r (mbxStewardDown s h1) := by
  unfold mbxStewardDown
  try dsimp only
  repeat' (first
    | with_reducible (
      first
      | assumption | apply mbxDone_kept | apply updMbx_kept | refine kforAll ?_ ?_)
    | (intro u x hu; try dsimp only) | (intro u hu; try dsimp only) | split)

theorem sessEnd_kept {r s : State} {h1 : Half} {n : Nat} (hs : Keeps r s) :
    Keeps r (sessEnd s h1 n) := by
  unfold sessEnd
  try dsimp only
  repeat' (first
    | with_reducible (
      first
      | assumption | apply pathGone_kept | apply updDict_kept)
    | (intro u hu; try dsimp only) | split)

theorem sessionsEnd_kept {r s : State} {h1 : Half} (hs : Keeps r s) :
    Keeps r (sessionsEnd s h1) := by
  unfold sessionsEnd
  try dsimp only
  repeat' (first
    | with_reducible (
      first
      | assumption | apply sessEnd_kept | refine kforAll ?_ ?_)
    | (intro u x hu; try dsimp only) | (intro u hu; try dsimp only) | split)

theorem stewardHalt_kept {r s : State} {h1 : Half} (hs : Keeps r s) :
    Keeps r (stewardHalt s h1) := by
  unfold stewardHalt
  try dsimp only
  repeat' (first
    | with_reducible (
      first
      | assumption | apply alertOn_kept | apply updHalf_kept | apply mbxStewardDown_kept | apply sessionsEnd_kept)
    | (intro u hu; try dsimp only) | split)

/-! ### Svc -/

theorem engPut_kept {r s : State} {e a : Nat} {bs : List Byte} (hs : Keeps r s) :
    Keeps r (engPut s e a bs) := by
  unfold engPut
  try dsimp only
  repeat' (first
    | with_reducible (
      first
      | assumption | apply updEng_kept | apply updClus_kept)
    | ((with_reducible show engGood _); first | exact hu | exact ⟨hu.1, hu.2⟩ | exact ⟨List.length_set.trans hu.1, hu.2⟩ | exact ⟨hu.1, writeBytes_wf _ _ _ hu.2⟩)
    | ((with_reducible show clGood _); first | exact hu | exact writeBytes_wf _ _ _ hu)
    | (intro u hu; try dsimp only) | split)

theorem flowAssign_kept {r s : State} {h1 : Half} {f : Nat} (hs : Keeps r s) :
    Keeps r (flowAssign s h1 f) := by
  unfold flowAssign
  try dsimp only
  repeat' (first
    | with_reducible (
      first
      | assumption | apply onlyIf_kept | apply bump_kept | apply updFlow_kept)
    | (intro u hu; try dsimp only) | split)

theorem flowIdle_kept {r s : State} {f : Nat} (hs : Keeps r s) : Keeps r (flowIdle s f) := by
  unfold flowIdle
  try dsimp only
  repeat' (first
    | with_reducible (
      first
      | assumption | apply flowAssign_kept)
    | (intro u hu; try dsimp only) | split)

theorem svDeal_kept {r s : State} {v : Nat} (hs : Keeps r s) : Keeps r (svDeal s v) := by
  unfold svDeal
  try dsimp only
  repeat' (first
    | with_reducible (
      first
      | assumption | apply onlyIf_kept | apply raiseEv_kept | apply updSvc_kept | apply flowIdle_kept
        | refine kforAll ?_ ?_)
    | (intro u hu; try dsimp only) | split)

theorem recordCa_kept {r s : State} {r1 : InRec} (hs : Keeps r s) : Keeps r (recordCa s r1) := by
  unfold recordCa
  try dsimp only
  repeat' (first
    | with_reducible (
      first
      | assumption | apply failPart_kept)
    | (intro u hu; try dsimp only) | split)

theorem dqDropped_kept {r s : State} {r1 : InRec} (hs : Keeps r s) : Keeps r (dqDropped s r1) := by
  unfold dqDropped
  try dsimp only
  repeat' (first
    | with_reducible (
      first
      | assumption | apply dqHalt_kept)
    | (intro u hu; try dsimp only) | split)

theorem dropRecords_kept {r s : State} {e : Nat} (hs : Keeps r s) : Keeps r (dropRecords s e) := by
  unfold dropRecords
  try dsimp only
  repeat' (first
    | with_reducible (
      first
      | assumption | apply updEng_kept | apply dqDropped_kept | apply bump_kept | apply recordCa_kept
        | refine kforAll ?_ ?_)
    | ((with_reducible show engGood _); first | exact hu | exact ⟨hu.1, hu.2⟩ | exact ⟨List.length_set.trans hu.1, hu.2⟩ | exact ⟨hu.1, writeBytes_wf _ _ _ hu.2⟩)
    | (intro u x hu; try dsimp only) | (intro u hu; try dsimp only) | split)

theorem engForget_kept {r s : State} {e : Nat} (hs : Keeps r s) : Keeps r (engForget s e) := by
  unfold engForget
  try dsimp only
  repeat' (first
    | with_reducible (
      first
      | assumption | apply undeliverable_kept | apply dropTxn_kept | refine kforAll ?_ ?_)
    | (intro u x hu; try dsimp only) | (intro u hu; try dsimp only) | split)

theorem engHalt_kept {r s : State} {e code : Nat} (hs : Keeps r s) :
    Keeps r (engHalt s e code) := by
  unfold engHalt
  try dsimp only
  repeat' (first
    | with_reducible (
      first
      | assumption | apply raiseEv_kept | apply bump_kept | apply updEng_kept | apply engForget_kept
        | apply dropRecords_kept | apply engDropEvents_kept | apply stewardHalt_kept | apply svDeal_kept)
    | ((with_reducible show engGood _); first | exact hu | exact ⟨hu.1, hu.2⟩ | exact ⟨List.length_set.trans hu.1, hu.2⟩ | exact ⟨hu.1, writeBytes_wf _ _ _ hu.2⟩)
    | (intro u hu; try dsimp only) | split)

theorem engFault_kept {r s : State} {e code : Nat} {info : W64} (hs : Keeps r s) :
    Keeps r (engFault s e code info) := by
  unfold engFault
  try dsimp only
  repeat' (first
    | with_reducible (
      first
      | assumption | apply updEng_kept | apply engHalt_kept)
    | ((with_reducible show engGood _); first | exact hu | exact ⟨hu.1, hu.2⟩ | exact ⟨List.length_set.trans hu.1, hu.2⟩ | exact ⟨hu.1, writeBytes_wf _ _ _ hu.2⟩)
    | (intro u hu; try dsimp only) | split)

theorem recPut_kept {r s : State} {e off : Nat} {bs : List Byte} {r1 : InRec} (hs : Keeps r s)
    :
    Keeps r (recPut s e off bs r1) := by
  unfold recPut
  try dsimp only
  repeat' (first
    | with_reducible (
      first
      | assumption | apply engPut_kept | apply updEng_kept)
    | ((with_reducible show engGood _); first | exact hu | exact ⟨hu.1, hu.2⟩ | exact ⟨List.length_set.trans hu.1, hu.2⟩ | exact ⟨hu.1, writeBytes_wf _ _ _ hu.2⟩)
    | (intro u hu; try dsimp only) | split)

/-! ### EngIsa -/

theorem setReg_kept {r s : State} {e r1 : Nat} {v : W64} (hs : Keeps r s) :
    Keeps r (setReg s e r1 v) := by
  unfold setReg
  try dsimp only
  repeat' (first
    | with_reducible (
      first
      | assumption | apply updEng_kept)
    | ((with_reducible show engGood _); first | exact hu | exact ⟨hu.1, hu.2⟩ | exact ⟨List.length_set.trans hu.1, hu.2⟩ | exact ⟨hu.1, writeBytes_wf _ _ _ hu.2⟩)
    | (intro u hu; try dsimp only) | split)

theorem engNext_kept {r s : State} {e : Nat} (hs : Keeps r s) : Keeps r (engNext s e) := by
  unfold engNext
  try dsimp only
  repeat' (first
    | with_reducible (
      first
      | assumption | apply updEng_kept)
    | ((with_reducible show engGood _); first | exact hu | exact ⟨hu.1, hu.2⟩ | exact ⟨List.length_set.trans hu.1, hu.2⟩ | exact ⟨hu.1, writeBytes_wf _ _ _ hu.2⟩)
    | (intro u hu; try dsimp only) | split)

theorem engRd_kept {r s : State} {e r1 : Nat} {v : W64} (hs : Keeps r s) :
    Keeps r (engRd s e r1 v) := by
  unfold engRd
  try dsimp only
  repeat' (first
    | with_reducible (
      first
      | assumption | apply engNext_kept | apply setReg_kept)
    | (intro u hu; try dsimp only) | split)

theorem engJump_kept {r s : State} {e : Nat} {pc : W64} (hs : Keeps r s) :
    Keeps r (engJump s e pc) := by
  unfold engJump
  try dsimp only
  repeat' (first
    | with_reducible (
      first
      | assumption | apply updEng_kept)
    | ((with_reducible show engGood _); first | exact hu | exact ⟨hu.1, hu.2⟩ | exact ⟨List.length_set.trans hu.1, hu.2⟩ | exact ⟨hu.1, writeBytes_wf _ _ _ hu.2⟩)
    | (intro u hu; try dsimp only) | split)

theorem engRun_kept {r s : State} {e : Nat} {own : EngWait → Bool} {f : State → State} (hs : Keeps r
    s) (hf : ∀ v0, Keeps r v0 → Keeps r (f v0)) :
    ∃ u, engRun s e own f = .next u ∧ Keeps r u := by
  unfold engRun
  try dsimp only
  repeat' (first
    | with_reducible (
      first
      | assumption | apply engFault_kept | apply updEng_kept | refine hf _ ?_)
    | ((with_reducible show engGood _); first | exact hu | exact ⟨hu.1, hu.2⟩ | exact ⟨List.length_set.trans hu.1, hu.2⟩ | exact ⟨hu.1, writeBytes_wf _ _ _ hu.2⟩)
    | (intro u hu; try dsimp only) | split | (with_reducible refine ⟨_, rfl, ?_⟩))

theorem engDo_kept {r s : State} {e : SE} {f : State → State} (hs : Keeps r s) (hf : ∀ v0, Keeps r v0
    → Keeps r (f v0)) :
    ∃ u, engDo s e f = .next u ∧ Keeps r u := by
  unfold engDo
  try dsimp only
  repeat' (first
    | with_reducible (
      first
      | assumption | apply engRun_kept)
    | (intro u hu; try dsimp only) | split)

theorem engIllegal_kept {r s : State} {e op : Nat} {x : EngWord} (hs : Keeps r s) :
    Keeps r (engIllegal s e op x) := by
  unfold engIllegal
  try dsimp only
  repeat' (first
    | with_reducible (
      first
      | assumption | apply engFault_kept)
    | (intro u hu; try dsimp only) | split)

theorem engR_kept {r s : State} {e : SE} {op : Nat} {x : EngWord} {f : W64 → W64 → W64} (hs : Keeps r
    s) :
    ∃ u, engR s e op x f = .next u ∧ Keeps r u := by
  unfold engR
  try dsimp only
  repeat' (first
    | with_reducible (
      first
      | assumption | apply engDo_kept | apply engIllegal_kept | apply engRd_kept)
    | (intro u hu; try dsimp only) | split)

theorem engI_kept {r s : State} {e : SE} {x : EngWord} {f : W64 → W64} (hs : Keeps r s) :
    ∃ u, engI s e x f = .next u ∧ Keeps r u := by
  unfold engI
  try dsimp only
  repeat' (first
    | with_reducible (
      first
      | assumption | apply engDo_kept | apply engRd_kept)
    | (intro u hu; try dsimp only) | split)

theorem execEngAdd_kept {r : State} {e : SE} {x : BitVec 26} {s : State} (hs : Keeps r s) :
    ∃ u, execEngAdd e x s = .next u ∧ Keeps r u := by
  unfold execEngAdd
  try dsimp only
  repeat' (first
    | with_reducible (
      first
      | assumption | apply engR_kept)
    | (intro u hu; try dsimp only) | split)

theorem execEngSub_kept {r : State} {e : SE} {x : BitVec 26} {s : State} (hs : Keeps r s) :
    ∃ u, execEngSub e x s = .next u ∧ Keeps r u := by
  unfold execEngSub
  try dsimp only
  repeat' (first
    | with_reducible (
      first
      | assumption | apply engR_kept)
    | (intro u hu; try dsimp only) | split)

theorem execEngAnd_kept {r : State} {e : SE} {x : BitVec 26} {s : State} (hs : Keeps r s) :
    ∃ u, execEngAnd e x s = .next u ∧ Keeps r u := by
  unfold execEngAnd
  try dsimp only
  repeat' (first
    | with_reducible (
      first
      | assumption | apply engR_kept)
    | (intro u hu; try dsimp only) | split)

theorem execEngOr_kept {r : State} {e : SE} {x : BitVec 26} {s : State} (hs : Keeps r s) :
    ∃ u, execEngOr e x s = .next u ∧ Keeps r u := by
  unfold execEngOr
  try dsimp only
  repeat' (first
    | with_reducible (
      first
      | assumption | apply engR_kept)
    | (intro u hu; try dsimp only) | split)

theorem execEngXor_kept {r : State} {e : SE} {x : BitVec 26} {s : State} (hs : Keeps r s) :
    ∃ u, execEngXor e x s = .next u ∧ Keeps r u := by
  unfold execEngXor
  try dsimp only
  repeat' (first
    | with_reducible (
      first
      | assumption | apply engR_kept)
    | (intro u hu; try dsimp only) | split)

theorem execEngSll_kept {r : State} {e : SE} {x : BitVec 26} {s : State} (hs : Keeps r s) :
    ∃ u, execEngSll e x s = .next u ∧ Keeps r u := by
  unfold execEngSll
  try dsimp only
  repeat' (first
    | with_reducible (
      first
      | assumption | apply engR_kept)
    | (intro u hu; try dsimp only) | split)

theorem execEngSrl_kept {r : State} {e : SE} {x : BitVec 26} {s : State} (hs : Keeps r s) :
    ∃ u, execEngSrl e x s = .next u ∧ Keeps r u := by
  unfold execEngSrl
  try dsimp only
  repeat' (first
    | with_reducible (
      first
      | assumption | apply engR_kept)
    | (intro u hu; try dsimp only) | split)

theorem execEngSra_kept {r : State} {e : SE} {x : BitVec 26} {s : State} (hs : Keeps r s) :
    ∃ u, execEngSra e x s = .next u ∧ Keeps r u := by
  unfold execEngSra
  try dsimp only
  repeat' (first
    | with_reducible (
      first
      | assumption | apply engR_kept)
    | (intro u hu; try dsimp only) | split)

theorem execEngMul_kept {r : State} {e : SE} {x : BitVec 26} {s : State} (hs : Keeps r s) :
    ∃ u, execEngMul e x s = .next u ∧ Keeps r u := by
  unfold execEngMul
  try dsimp only
  repeat' (first
    | with_reducible (
      first
      | assumption | apply engR_kept)
    | (intro u hu; try dsimp only) | split)

theorem execEngSlt_kept {r : State} {e : SE} {x : BitVec 26} {s : State} (hs : Keeps r s) :
    ∃ u, execEngSlt e x s = .next u ∧ Keeps r u := by
  unfold execEngSlt
  try dsimp only
  repeat' (first
    | with_reducible (
      first
      | assumption | apply engR_kept)
    | (intro u hu; try dsimp only) | split)

theorem execEngSltu_kept {r : State} {e : SE} {x : BitVec 26} {s : State} (hs : Keeps r s) :
    ∃ u, execEngSltu e x s = .next u ∧ Keeps r u := by
  unfold execEngSltu
  try dsimp only
  repeat' (first
    | with_reducible (
      first
      | assumption | apply engR_kept)
    | (intro u hu; try dsimp only) | split)

theorem execEngHash_kept {r : State} {e : SE} {x : BitVec 26} {s : State} (hs : Keeps r s) :
    ∃ u, execEngHash e x s = .next u ∧ Keeps r u := by
  unfold execEngHash
  try dsimp only
  repeat' (first
    | with_reducible (
      first
      | assumption | apply engR_kept)
    | (intro u hu; try dsimp only) | split)

theorem execEngCrc_kept {r : State} {e : SE} {x : BitVec 26} {s : State} (hs : Keeps r s) :
    ∃ u, execEngCrc e x s = .next u ∧ Keeps r u := by
  unfold execEngCrc
  try dsimp only
  repeat' (first
    | with_reducible (
      first
      | assumption | apply engDo_kept | apply engIllegal_kept | apply engRd_kept)
    | (intro u hu; try dsimp only) | split)

theorem execEngAddi_kept {r : State} {e : SE} {x : BitVec 26} {s : State} (hs : Keeps r s) :
    ∃ u, execEngAddi e x s = .next u ∧ Keeps r u := by
  unfold execEngAddi
  try dsimp only
  repeat' (first
    | with_reducible (
      first
      | assumption | apply engI_kept)
    | (intro u hu; try dsimp only) | split)

theorem execEngAndi_kept {r : State} {e : SE} {x : BitVec 26} {s : State} (hs : Keeps r s) :
    ∃ u, execEngAndi e x s = .next u ∧ Keeps r u := by
  unfold execEngAndi
  try dsimp only
  repeat' (first
    | with_reducible (
      first
      | assumption | apply engI_kept)
    | (intro u hu; try dsimp only) | split)

theorem execEngOri_kept {r : State} {e : SE} {x : BitVec 26} {s : State} (hs : Keeps r s) :
    ∃ u, execEngOri e x s = .next u ∧ Keeps r u := by
  unfold execEngOri
  try dsimp only
  repeat' (first
    | with_reducible (
      first
      | assumption | apply engI_kept)
    | (intro u hu; try dsimp only) | split)

theorem execEngXori_kept {r : State} {e : SE} {x : BitVec 26} {s : State} (hs : Keeps r s) :
    ∃ u, execEngXori e x s = .next u ∧ Keeps r u := by
  unfold execEngXori
  try dsimp only
  repeat' (first
    | with_reducible (
      first
      | assumption | apply engI_kept)
    | (intro u hu; try dsimp only) | split)

theorem execEngSlli_kept {r : State} {e : SE} {x : BitVec 26} {s : State} (hs : Keeps r s) :
    ∃ u, execEngSlli e x s = .next u ∧ Keeps r u := by
  unfold execEngSlli
  try dsimp only
  repeat' (first
    | with_reducible (
      first
      | assumption | apply engI_kept)
    | (intro u hu; try dsimp only) | split)

theorem execEngSrli_kept {r : State} {e : SE} {x : BitVec 26} {s : State} (hs : Keeps r s) :
    ∃ u, execEngSrli e x s = .next u ∧ Keeps r u := by
  unfold execEngSrli
  try dsimp only
  repeat' (first
    | with_reducible (
      first
      | assumption | apply engI_kept)
    | (intro u hu; try dsimp only) | split)

theorem execEngSrai_kept {r : State} {e : SE} {x : BitVec 26} {s : State} (hs : Keeps r s) :
    ∃ u, execEngSrai e x s = .next u ∧ Keeps r u := by
  unfold execEngSrai
  try dsimp only
  repeat' (first
    | with_reducible (
      first
      | assumption | apply engI_kept)
    | (intro u hu; try dsimp only) | split)

theorem execEngLui_kept {r : State} {e : SE} {x : BitVec 26} {s : State} (hs : Keeps r s) :
    ∃ u, execEngLui e x s = .next u ∧ Keeps r u := by
  unfold execEngLui
  try dsimp only
  repeat' (first
    | with_reducible (
      first
      | assumption | apply engDo_kept | apply engIllegal_kept | apply engRd_kept)
    | (intro u hu; try dsimp only) | split)

theorem execEngCsrr_kept {r : State} {e : SE} {x : BitVec 26} {s : State} (hs : Keeps r s) :
    ∃ u, execEngCsrr e x s = .next u ∧ Keeps r u := by
  unfold execEngCsrr
  try dsimp only
  repeat' (first
    | with_reducible (
      first
      | assumption | apply engDo_kept | apply engRd_kept | apply engIllegal_kept)
    | (intro u hu; try dsimp only) | split)

theorem execEngCsrw_kept {r : State} {e : SE} {x : BitVec 26} {s : State} (hs : Keeps r s) :
    ∃ u, execEngCsrw e x s = .next u ∧ Keeps r u := by
  unfold execEngCsrw
  try dsimp only
  repeat' (first
    | with_reducible (
      first
      | assumption | apply engDo_kept | apply engIllegal_kept | apply engNext_kept | apply updEng_kept)
    | ((with_reducible show engGood _); first | exact hu | exact ⟨hu.1, hu.2⟩ | exact ⟨List.length_set.trans hu.1, hu.2⟩ | exact ⟨hu.1, writeBytes_wf _ _ _ hu.2⟩)
    | (intro u hu; try dsimp only) | split)

theorem execEngWait_kept {r : State} {e : SE} {x : BitVec 26} {s : State} (hs : Keeps r s) :
    ∃ u, execEngWait e x s = .next u ∧ Keeps r u := by
  unfold execEngWait
  try dsimp only
  repeat' (first
    | with_reducible (
      first
      | assumption | apply engDo_kept | apply engIllegal_kept | apply engNext_kept | apply enterWait_kept)
    | (intro u hu; try dsimp only) | split)

theorem execEngEoi_kept {r : State} {e : SE} {x : BitVec 26} {s : State} (hs : Keeps r s) :
    ∃ u, execEngEoi e x s = .next u ∧ Keeps r u := by
  unfold execEngEoi
  try dsimp only
  repeat' (first
    | with_reducible (
      first
      | assumption | apply engDo_kept | apply engIllegal_kept | apply updEng_kept | apply srcRoute_kept
        | apply srcLeave_kept | apply engNext_kept | apply engFault_kept | apply bump_kept)
    | ((with_reducible show engGood _); first | exact hu | exact ⟨hu.1, hu.2⟩ | exact ⟨List.length_set.trans hu.1, hu.2⟩ | exact ⟨hu.1, writeBytes_wf _ _ _ hu.2⟩)
    | (intro u hu; try dsimp only) | split)

theorem enterHandler_kept {r s : State} {e : Nat} {o : Offer} {ret : W64} (hs : Keeps r s) :
    Keeps r (enterHandler s e o ret) := by
  unfold enterHandler
  try dsimp only
  repeat' (first
    | with_reducible (
      first
      | assumption | apply offerTake_kept | apply engFault_kept)
    | (intro u hu; try dsimp only) | split)

theorem execEngReti_kept {r : State} {e : SE} {x : BitVec 26} {s : State} (hs : Keeps r s) :
    ∃ u, execEngReti e x s = .next u ∧ Keeps r u := by
  unfold execEngReti
  try dsimp only
  repeat' (first
    | with_reducible (
      first
      | assumption | apply engDo_kept | apply engIllegal_kept | apply updEng_kept | apply enterHandler_kept)
    | ((with_reducible show engGood _); first | exact hu | exact ⟨hu.1, hu.2⟩ | exact ⟨List.length_set.trans hu.1, hu.2⟩ | exact ⟨hu.1, writeBytes_wf _ _ _ hu.2⟩)
    | (intro u hu; try dsimp only) | split)

theorem execOfferAccept_kept {r : State} {e : SE} {s : State} (hs : Keeps r s) :
    ∃ u, execOfferAccept e s = .next u ∧ Keeps r u := by
  unfold execOfferAccept
  try dsimp only
  repeat' (first
    | with_reducible (
      first
      | assumption | apply enterHandler_kept)
    | (intro u hu; try dsimp only) | split | (with_reducible refine ⟨_, rfl, ?_⟩))

theorem execEngFence_kept {r : State} {e : SE} {x : BitVec 26} {s : State} (hs : Keeps r s) :
    ∃ u, execEngFence e x s = .next u ∧ Keeps r u := by
  unfold execEngFence
  try dsimp only
  repeat' (first
    | with_reducible (
      first
      | assumption | apply engRun_kept | apply engIllegal_kept | apply engNext_kept | apply updEng_kept)
    | ((with_reducible show engGood _); first | exact hu | exact ⟨hu.1, hu.2⟩ | exact ⟨List.length_set.trans hu.1, hu.2⟩ | exact ⟨hu.1, writeBytes_wf _ _ _ hu.2⟩)
    | (intro u hu; try dsimp only) | split)

theorem execFenceComplete_kept {r : State} {e : SE} {s : State} (hs : Keeps r s) :
    ∃ u, execFenceComplete e s = .next u ∧ Keeps r u := by
  unfold execFenceComplete
  try dsimp only
  repeat' (first
    | with_reducible (
      first
      | assumption | apply engNext_kept)
    | (intro u hu; try dsimp only) | split | (with_reducible refine ⟨_, rfl, ?_⟩))

theorem execEngBreak_kept {r : State} {e : SE} {x : BitVec 26} {s : State} (hs : Keeps r s) :
    ∃ u, execEngBreak e x s = .next u ∧ Keeps r u := by
  unfold execEngBreak
  try dsimp only
  repeat' (first
    | with_reducible (
      first
      | assumption | apply engDo_kept | apply engIllegal_kept | apply engFault_kept)
    | (intro u hu; try dsimp only) | split)

theorem execReservedOpcode_kept {r : State} {e : SE} {w : W32} {s : State} (hs : Keeps r s) :
    ∃ u, execReservedOpcode e w s = .next u ∧ Keeps r u := by
  unfold execReservedOpcode
  try dsimp only
  repeat' (first
    | with_reducible (
      first
      | assumption | apply engDo_kept | apply engFault_kept)
    | (intro u hu; try dsimp only) | split | (with_reducible refine ⟨_, rfl, ?_⟩))

theorem engLoad_kept {r s : State} {e : SE} {x : EngWord} {n : Nat} {ecc : MemEcc} (hs : Keeps r s) :
    ∃ u, engLoad s e x n ecc = .next u ∧ Keeps r u := by
  unfold engLoad
  try dsimp only
  repeat' (first
    | with_reducible (
      first
      | assumption | apply engDo_kept | apply engFault_kept | apply engRd_kept | apply aerCorrInternal_kept
        | apply bump_kept)
    | (intro u hu; try dsimp only) | split)

theorem engStore_kept {r s : State} {e : SE} {x : EngWord} {n : Nat} (hs : Keeps r s) :
    ∃ u, engStore s e x n = .next u ∧ Keeps r u := by
  unfold engStore
  try dsimp only
  repeat' (first
    | with_reducible (
      first
      | assumption | apply engDo_kept | apply engFault_kept | apply engNext_kept | apply engPut_kept)
    | (intro u hu; try dsimp only) | split)

theorem execEngLd_kept {r : State} {e : SE} {x : BitVec 26} {ecc : MemEcc} {s : State} (hs : Keeps r s) :
    ∃ u, execEngLd e x ecc s = .next u ∧ Keeps r u := by
  unfold execEngLd
  try dsimp only
  repeat' (first
    | with_reducible (
      first
      | assumption | apply engLoad_kept)
    | (intro u hu; try dsimp only) | split)

theorem execEngLw_kept {r : State} {e : SE} {x : BitVec 26} {ecc : MemEcc} {s : State} (hs : Keeps r s) :
    ∃ u, execEngLw e x ecc s = .next u ∧ Keeps r u := by
  unfold execEngLw
  try dsimp only
  repeat' (first
    | with_reducible (
      first
      | assumption | apply engLoad_kept)
    | (intro u hu; try dsimp only) | split)

theorem execEngLh_kept {r : State} {e : SE} {x : BitVec 26} {ecc : MemEcc} {s : State} (hs : Keeps r s) :
    ∃ u, execEngLh e x ecc s = .next u ∧ Keeps r u := by
  unfold execEngLh
  try dsimp only
  repeat' (first
    | with_reducible (
      first
      | assumption | apply engLoad_kept)
    | (intro u hu; try dsimp only) | split)

theorem execEngLb_kept {r : State} {e : SE} {x : BitVec 26} {ecc : MemEcc} {s : State} (hs : Keeps r s) :
    ∃ u, execEngLb e x ecc s = .next u ∧ Keeps r u := by
  unfold execEngLb
  try dsimp only
  repeat' (first
    | with_reducible (
      first
      | assumption | apply engLoad_kept)
    | (intro u hu; try dsimp only) | split)

theorem execEngSd_kept {r : State} {e : SE} {x : BitVec 26} {s : State} (hs : Keeps r s) :
    ∃ u, execEngSd e x s = .next u ∧ Keeps r u := by
  unfold execEngSd
  try dsimp only
  repeat' (first
    | with_reducible (
      first
      | assumption | apply engStore_kept)
    | (intro u hu; try dsimp only) | split)

theorem execEngSw_kept {r : State} {e : SE} {x : BitVec 26} {s : State} (hs : Keeps r s) :
    ∃ u, execEngSw e x s = .next u ∧ Keeps r u := by
  unfold execEngSw
  try dsimp only
  repeat' (first
    | with_reducible (
      first
      | assumption | apply engStore_kept)
    | (intro u hu; try dsimp only) | split)

theorem execEngSh_kept {r : State} {e : SE} {x : BitVec 26} {s : State} (hs : Keeps r s) :
    ∃ u, execEngSh e x s = .next u ∧ Keeps r u := by
  unfold execEngSh
  try dsimp only
  repeat' (first
    | with_reducible (
      first
      | assumption | apply engStore_kept)
    | (intro u hu; try dsimp only) | split)

theorem execEngSb_kept {r : State} {e : SE} {x : BitVec 26} {s : State} (hs : Keeps r s) :
    ∃ u, execEngSb e x s = .next u ∧ Keeps r u := by
  unfold execEngSb
  try dsimp only
  repeat' (first
    | with_reducible (
      first
      | assumption | apply engStore_kept)
    | (intro u hu; try dsimp only) | split)

theorem engAtomic_kept {r s : State} {e : SE} {op : Nat} {x : EngWord} {f : Nat → Nat → Nat → Nat} (hs
    : Keeps r s) :
    ∃ u, engAtomic s e op x f = .next u ∧ Keeps r u := by
  unfold engAtomic
  try dsimp only
  repeat' (first
    | with_reducible (
      first
      | assumption | apply engDo_kept | apply engIllegal_kept | apply engFault_kept | apply engRd_kept
        | apply engPut_kept)
    | (intro u hu; try dsimp only) | split)

theorem execEngAadd_kept {r : State} {e : SE} {x : BitVec 26} {s : State} (hs : Keeps r s) :
    ∃ u, execEngAadd e x s = .next u ∧ Keeps r u := by
  unfold execEngAadd
  try dsimp only
  repeat' (first
    | with_reducible (
      first
      | assumption | apply engAtomic_kept)
    | (intro u hu; try dsimp only) | split)

theorem execEngAswp_kept {r : State} {e : SE} {x : BitVec 26} {s : State} (hs : Keeps r s) :
    ∃ u, execEngAswp e x s = .next u ∧ Keeps r u := by
  unfold execEngAswp
  try dsimp only
  repeat' (first
    | with_reducible (
      first
      | assumption | apply engAtomic_kept)
    | (intro u hu; try dsimp only) | split)

theorem execEngAcas_kept {r : State} {e : SE} {x : BitVec 26} {s : State} (hs : Keeps r s) :
    ∃ u, execEngAcas e x s = .next u ∧ Keeps r u := by
  unfold execEngAcas
  try dsimp only
  repeat' (first
    | with_reducible (
      first
      | assumption | apply engAtomic_kept)
    | (intro u hu; try dsimp only) | split)

theorem engBranch_kept {r s : State} {e : SE} {x : EngWord} {c : W64 → W64 → Bool} (hs : Keeps r s) :
    ∃ u, engBranch s e x c = .next u ∧ Keeps r u := by
  unfold engBranch
  try dsimp only
  repeat' (first
    | with_reducible (
      first
      | assumption | apply engDo_kept | apply engJump_kept | apply engNext_kept)
    | (intro u hu; try dsimp only) | split)

theorem execEngBeq_kept {r : State} {e : SE} {x : BitVec 26} {s : State} (hs : Keeps r s) :
    ∃ u, execEngBeq e x s = .next u ∧ Keeps r u := by
  unfold execEngBeq
  try dsimp only
  repeat' (first
    | with_reducible (
      first
      | assumption | apply engBranch_kept)
    | (intro u hu; try dsimp only) | split)

theorem execEngBne_kept {r : State} {e : SE} {x : BitVec 26} {s : State} (hs : Keeps r s) :
    ∃ u, execEngBne e x s = .next u ∧ Keeps r u := by
  unfold execEngBne
  try dsimp only
  repeat' (first
    | with_reducible (
      first
      | assumption | apply engBranch_kept)
    | (intro u hu; try dsimp only) | split)

theorem execEngBlt_kept {r : State} {e : SE} {x : BitVec 26} {s : State} (hs : Keeps r s) :
    ∃ u, execEngBlt e x s = .next u ∧ Keeps r u := by
  unfold execEngBlt
  try dsimp only
  repeat' (first
    | with_reducible (
      first
      | assumption | apply engBranch_kept)
    | (intro u hu; try dsimp only) | split)

theorem execEngBge_kept {r : State} {e : SE} {x : BitVec 26} {s : State} (hs : Keeps r s) :
    ∃ u, execEngBge e x s = .next u ∧ Keeps r u := by
  unfold execEngBge
  try dsimp only
  repeat' (first
    | with_reducible (
      first
      | assumption | apply engBranch_kept)
    | (intro u hu; try dsimp only) | split)

theorem execEngBltu_kept {r : State} {e : SE} {x : BitVec 26} {s : State} (hs : Keeps r s) :
    ∃ u, execEngBltu e x s = .next u ∧ Keeps r u := by
  unfold execEngBltu
  try dsimp only
  repeat' (first
    | with_reducible (
      first
      | assumption | apply engBranch_kept)
    | (intro u hu; try dsimp only) | split)

theorem execEngBgeu_kept {r : State} {e : SE} {x : BitVec 26} {s : State} (hs : Keeps r s) :
    ∃ u, execEngBgeu e x s = .next u ∧ Keeps r u := by
  unfold execEngBgeu
  try dsimp only
  repeat' (first
    | with_reducible (
      first
      | assumption | apply engBranch_kept)
    | (intro u hu; try dsimp only) | split)

theorem execEngJal_kept {r : State} {e : SE} {x : BitVec 26} {s : State} (hs : Keeps r s) :
    ∃ u, execEngJal e x s = .next u ∧ Keeps r u := by
  unfold execEngJal
  try dsimp only
  repeat' (first
    | with_reducible (
      first
      | assumption | apply engDo_kept | apply engJump_kept | apply setReg_kept)
    | (intro u hu; try dsimp only) | split)

theorem execEngJalr_kept {r : State} {e : SE} {x : BitVec 26} {s : State} (hs : Keeps r s) :
    ∃ u, execEngJalr e x s = .next u ∧ Keeps r u := by
  unfold execEngJalr
  try dsimp only
  repeat' (first
    | with_reducible (
      first
      | assumption | apply engDo_kept | apply engJump_kept | apply setReg_kept)
    | (intro u hu; try dsimp only) | split)

/-! ### EngCmd -/

theorem updRec_kept {r s : State} {e a : Nat} {f : InRec → InRec} (hs : Keeps r s) :
    Keeps r (updRec s e a f) := by
  unfold updRec
  try dsimp only
  repeat' (first
    | with_reducible (
      first
      | assumption | apply updEng_kept)
    | ((with_reducible show engGood _); first | exact hu | exact ⟨hu.1, hu.2⟩ | exact ⟨List.length_set.trans hu.1, hu.2⟩ | exact ⟨hu.1, writeBytes_wf _ _ _ hu.2⟩)
    | (intro u hu; try dsimp only) | split)

theorem execEngQpop_kept {r : State} {e : SE} {x : BitVec 26} {s : State} (hs : Keeps r s) :
    ∃ u, execEngQpop e x s = .next u ∧ Keeps r u := by
  unfold execEngQpop
  try dsimp only
  repeat' (first
    | with_reducible (
      first
      | assumption | apply engDo_kept | apply engIllegal_kept | apply engRd_kept | apply updRec_kept)
    | (intro u hu; try dsimp only) | split)

theorem finishRec_kept {r s : State} {e : Nat} {r1 : InRec} (hs : Keeps r s) :
    Keeps r (finishRec s e r1) := by
  unfold finishRec
  try dsimp only
  repeat' (first
    | with_reducible (
      first
      | assumption | apply onlyIf_kept | apply bump_kept | apply recordCa_kept | apply updEng_kept | apply updRec_kept)
    | ((with_reducible show engGood _); first | exact hu | exact ⟨hu.1, hu.2⟩ | exact ⟨List.length_set.trans hu.1, hu.2⟩ | exact ⟨hu.1, writeBytes_wf _ _ _ hu.2⟩)
    | (intro u hu; try dsimp only) | split)

theorem execEngQdone_kept {r : State} {e : SE} {x : BitVec 26} {s : State} (hs : Keeps r s) :
    ∃ u, execEngQdone e x s = .next u ∧ Keeps r u := by
  unfold execEngQdone
  try dsimp only
  repeat' (first
    | with_reducible (
      first
      | assumption | apply engDo_kept | apply engIllegal_kept | apply engFault_kept | apply engNext_kept
        | apply finishRec_kept)
    | (intro u hu; try dsimp only) | split)

theorem execEngReply_kept {r : State} {e : SE} {x : BitVec 26} {s : State} (hs : Keeps r s) :
    ∃ u, execEngReply e x s = .next u ∧ Keeps r u := by
  unfold execEngReply
  try dsimp only
  repeat' (first
    | with_reducible (
      first
      | assumption | apply engDo_kept | apply engIllegal_kept | apply engFault_kept | apply engNext_kept
        | apply updRec_kept | apply bump_kept | apply gotPart_kept | apply failPart_kept)
    | (intro u hu; try dsimp only) | split)

theorem setSlot_kept {r s : State} {e i : Nat} {x : Slot} (hs : Keeps r s) :
    Keeps r (setSlot s e i x) := by
  unfold setSlot
  try dsimp only
  repeat' (first
    | with_reducible (
      first
      | assumption | apply updEng_kept)
    | ((with_reducible show engGood _); first | exact hu | exact ⟨hu.1, hu.2⟩ | exact ⟨List.length_set.trans hu.1, hu.2⟩ | exact ⟨hu.1, writeBytes_wf _ _ _ hu.2⟩)
    | (intro u hu; try dsimp only) | split)

theorem pickSlot_kept {r s : State} {e : Nat} (hs : Keeps r s) : Keeps r (pickSlot s e).2 := by
  unfold pickSlot
  try dsimp only
  repeat' (first
    | with_reducible (
      first
      | assumption | apply takeFree_kept)
    | (intro u hu; try dsimp only) | split)

theorem slotEnd_kept {r s : State} {e i flow : Nat} {nf : Bool} {st : Nat} (hs : Keeps
    r s) :
    Keeps r (slotEnd s e i flow nf st) := by
  unfold slotEnd
  try dsimp only
  repeat' (first
    | with_reducible (
      first
      | assumption | apply setSlot_kept)
    | (intro u hu; try dsimp only) | split)

theorem moveWrite_kept {r s : State} {e i ra : Nat} {w : W64} (hs : Keeps r s) :
    Keeps r (moveWrite s e i ra w) := by
  unfold moveWrite
  try dsimp only
  repeat' (first
    | with_reducible (
      first
      | assumption | apply submitP_kept | apply setSlot_kept)
    | (intro u hu; try dsimp only) | split)

theorem moveReq_kept {r s : State} {e i : Nat} {op : TOp} {ra len : Nat} {data : List
    Byte} {w : W64} (hs : Keeps r s) :
    Keeps r (moveReq s e i op ra len data w) := by
  unfold moveReq
  try dsimp only
  repeat' (first
    | with_reducible (
      first
      | assumption | apply setSlot_kept | apply submitNp_kept | apply slotEnd_kept | apply gateCount_kept
        | apply engPut_kept)
    | (intro u hu; try dsimp only) | split)

theorem engMove_kept {r s : State} {e : SE} {op : Nat} {x : EngWord} {bad : Nat → W64 → Bool} {len :
    W64 → Nat} {go : State → Nat → Nat → W64 → State} (hs : Keeps r s) (hgo : ∀ v0 v1 v2 v3, Keeps r v0 → Keeps
    r (go v0 v1 v2 v3)) :
    ∃ u, engMove s e op x bad len go = .next u ∧ Keeps r u := by
  unfold engMove
  apply engRun_kept hs
  intro u hu
  dsimp only
  split
  · exact engIllegal_kept hu
  · split
    · exact engFault_kept hu
    · split
      · exact engFault_kept hu
      · split
        · exact updEng_kept hu fun g hg => ⟨hg.1, hg.2⟩
        · rename_i i t1 hq
          have e := congrArg Prod.snd hq
          dsimp only at e
          have ht : Keeps r t1 := by rw [← e]; exact pickSlot_kept hu
          split
          · exact engRd_kept ht
          · split
            · exact slotEnd_kept (engRd_kept ht)
            · exact hgo _ _ _ _ (engRd_kept ht)

theorem execEngMvr_kept {r : State} {e : SE} {x : BitVec 26} {s : State} (hs : Keeps r s) :
    ∃ u, execEngMvr e x s = .next u ∧ Keeps r u := by
  unfold execEngMvr
  try dsimp only
  repeat' (first
    | with_reducible (
      first
      | assumption | apply engMove_kept | apply moveReq_kept)
    | (intro u x hu; try dsimp only) | (intro u hu; try dsimp only) | split)

theorem execEngMvw_kept {r : State} {e : SE} {x : BitVec 26} {s : State} (hs : Keeps r s) :
    ∃ u, execEngMvw e x s = .next u ∧ Keeps r u := by
  unfold execEngMvw
  try dsimp only
  repeat' (first
    | with_reducible (
      first
      | assumption | apply engMove_kept | apply moveWrite_kept)
    | (intro u x hu; try dsimp only) | (intro u hu; try dsimp only) | split)

theorem execEngMva_kept {r : State} {e : SE} {x : BitVec 26} {s : State} (hs : Keeps r s) :
    ∃ u, execEngMva e x s = .next u ∧ Keeps r u := by
  unfold execEngMva
  try dsimp only
  repeat' (first
    | with_reducible (
      first
      | assumption | apply engMove_kept | apply moveReq_kept)
    | (intro u x hu; try dsimp only) | (intro u hu; try dsimp only) | split)

theorem engWake_kept {r s : State} {e : Nat} (hs : Keeps r s) : Keeps r (engWake s e) := by
  unfold engWake
  try dsimp only
  repeat' (first
    | with_reducible (
      first
      | assumption | apply updEng_kept)
    | ((with_reducible show engGood _); first | exact hu | exact ⟨hu.1, hu.2⟩ | exact ⟨List.length_set.trans hu.1, hu.2⟩ | exact ⟨hu.1, writeBytes_wf _ _ _ hu.2⟩)
    | (intro u hu; try dsimp only) | split)

theorem execMoveComplete_kept {r : State} {e : SE} {slot : Fin 16} {s : State} (hs : Keeps r s) :
    ∃ u, execMoveComplete e slot s = .next u ∧ Keeps r u := by
  unfold execMoveComplete
  try dsimp only
  repeat' (first
    | with_reducible (
      first
      | assumption | apply engWake_kept | apply slotEnd_kept | apply dropTxn_kept | apply engPut_kept)
    | (intro u hu; try dsimp only) | split | (with_reducible refine ⟨_, rfl, ?_⟩))

theorem execEngMwait_kept {r : State} {e : SE} {x : BitVec 26} {s : State} (hs : Keeps r s) :
    ∃ u, execEngMwait e x s = .next u ∧ Keeps r u := by
  unfold execEngMwait
  try dsimp only
  repeat' (first
    | with_reducible (
      first
      | assumption | apply engRun_kept | apply engIllegal_kept | apply updEng_kept | apply engRd_kept
        | apply setSlot_kept)
    | ((with_reducible show engGood _); first | exact hu | exact ⟨hu.1, hu.2⟩ | exact ⟨List.length_set.trans hu.1, hu.2⟩ | exact ⟨hu.1, writeBytes_wf _ _ _ hu.2⟩)
    | (intro u hu; try dsimp only) | split)

theorem execEngDbell_kept {r : State} {e : SE} {x : BitVec 26} {s : State} (hs : Keeps r s) :
    ∃ u, execEngDbell e x s = .next u ∧ Keeps r u := by
  unfold execEngDbell
  try dsimp only
  repeat' (first
    | with_reducible (
      first
      | assumption | apply engDo_kept | apply engIllegal_kept | apply engNext_kept | apply addTxn_kept
        | apply doorbellAt_kept)
    | (intro u hu; try dsimp only) | split)

theorem execEngCtxr_kept {r : State} {e : SE} {x : BitVec 26} {s : State} (hs : Keeps r s) :
    ∃ u, execEngCtxr e x s = .next u ∧ Keeps r u := by
  unfold execEngCtxr
  try dsimp only
  repeat' (first
    | with_reducible (
      first
      | assumption | apply engDo_kept | apply engIllegal_kept | apply engFault_kept | apply engRd_kept)
    | (intro u hu; try dsimp only) | split)

theorem execEngCtxw_kept {r : State} {e : SE} {x : BitVec 26} {s : State} (hs : Keeps r s) :
    ∃ u, execEngCtxw e x s = .next u ∧ Keeps r u := by
  unfold execEngCtxw
  try dsimp only
  repeat' (first
    | with_reducible (
      first
      | assumption | apply engDo_kept | apply engIllegal_kept | apply engFault_kept | apply engNext_kept
        | apply updFlow_kept)
    | (intro u hu; try dsimp only) | split)

theorem seenOnce_kept {r s : State} {f bitv : Nat} {idx sub : Nat} (hs : Keeps r s) :
    Keeps r (seenOnce s f bitv idx sub) := by
  unfold seenOnce
  try dsimp only
  repeat' (first
    | with_reducible (
      first
      | assumption | apply bump_kept | apply updFlow_kept)
    | (intro u hu; try dsimp only) | split)

theorem eventSent_kept {r s : State} {f e : Nat} (hs : Keeps r s) :
    Keeps r (eventSent s f e) := by
  unfold eventSent
  try dsimp only
  repeat' (first
    | with_reducible (
      first
      | assumption | apply updFlow_kept | apply updSvc_kept)
    | (intro u hu; try dsimp only) | split)

theorem deliverTxn_kept {r s : State} {e off : Nat} {t : Txn} (hs : Keeps r s) :
    Keeps r (deliverTxn s e off t) := by
  unfold deliverTxn
  try dsimp only
  repeat' (first
    | with_reducible (
      first
      | assumption | apply eventSent_kept | apply recPut_kept | apply commitP_kept | apply updTxn_kept
        | apply delivered_kept | apply dropTxn_kept)
    | (intro u hu; try dsimp only) | split)

theorem deliverDq_kept {r s : State} {e off : Nat} {q f : Nat} (hs : Keeps r s) :
    Keeps r (deliverDq s e off q f) := by
  unfold deliverDq
  try dsimp only
  repeat' (first
    | with_reducible (
      first
      | assumption | apply updDq_kept | apply eventSent_kept | apply recPut_kept)
    | (intro u hu; try dsimp only) | split)

theorem execServiceEventDeliver_kept {r : State} {f : FlowNo} {s : State} (hs : Keeps r s) :
    ∃ u, execServiceEventDeliver f s = .next u ∧ Keeps r u := by
  unfold execServiceEventDeliver
  try dsimp only
  repeat' (first
    | with_reducible (
      first
      | assumption | apply flowIdle_kept | apply seenOnce_kept | apply deliverTxn_kept | apply deliverDq_kept)
    | (intro u hu; try dsimp only) | split | (with_reducible refine ⟨_, rfl, ?_⟩))

theorem execFlowIdlePoint_kept {r : State} {f : FlowNo} {s : State} (hs : Keeps r s) :
    ∃ u, execFlowIdlePoint f s = .next u ∧ Keeps r u := by
  unfold execFlowIdlePoint
  try dsimp only
  repeat' (first
    | with_reducible (
      first
      | assumption | apply flowIdle_kept)
    | (intro u hu; try dsimp only) | split | (with_reducible refine ⟨_, rfl, ?_⟩))

theorem hotEngine_kept {r s : State} {h1 : Half} {n total e : Nat} (hs : Keeps r s) :
    Keeps r (hotEngine s h1 n total e) := by
  unfold hotEngine
  try dsimp only
  repeat' (first
    | with_reducible (
      first
      | assumption | apply updEng_kept | apply bump_kept | apply raiseEv_kept)
    | ((with_reducible show engGood _); first | exact hu | exact ⟨hu.1, hu.2⟩ | exact ⟨List.length_set.trans hu.1, hu.2⟩ | exact ⟨hu.1, writeBytes_wf _ _ _ hu.2⟩)
    | (intro u hu; try dsimp only) | split)

theorem execEngineHotWindow_kept {r : State} {h1 : Half} {s : State} (hs : Keeps r s) :
    ∃ u, execEngineHotWindow h1 s = .next u ∧ Keeps r u := by
  unfold execEngineHotWindow
  try dsimp only
  repeat' (first
    | with_reducible (
      first
      | assumption | apply updSvc_kept | apply hotEngine_kept | refine kforAll ?_ ?_)
    | (intro u x hu; try dsimp only) | (intro u hu; try dsimp only) | split
    | (with_reducible refine ⟨_, rfl, ?_⟩))

theorem seClear_kept {r s : State} {e : Nat} (hs : Keeps r s) : Keeps r (seClear s e) := by
  unfold seClear
  try dsimp only
  repeat' (first
    | with_reducible (
      first
      | assumption | apply updEng_kept)
    | ((with_reducible show engGood _); first | exact hu | exact ⟨hu.1, hu.2⟩ | exact ⟨List.length_set.trans hu.1, hu.2⟩ | exact ⟨hu.1, writeBytes_wf _ _ _ hu.2⟩)
    | (intro u hu; try dsimp only) | split)

theorem execSeCntClr_kept {r : State} {p : Path} {e : SE} {s : State} (hs : Keeps r s) :
    ∃ u, execSeCntClr p e s = .next u ∧ Keeps r u := by
  unfold execSeCntClr
  try dsimp only
  repeat' (first
    | with_reducible (
      first
      | assumption | apply regAct_kept | apply seClear_kept)
    | (intro u hu; try dsimp only) | split | (with_reducible refine ⟨_, rfl, ?_⟩))

theorem memSelSet_kept {r s : State} {p : Path} {v : Nat} (hs : Keeps r s) :
    Keeps r (memSelSet s p v) := by
  unfold memSelSet
  try dsimp only
  repeat' (first
    | with_reducible (
      first
      | assumption)
    | (intro u hu; try dsimp only)
    | (simp only [lit_iff]; with_reducible refine litL_kept ?_ ?_ ?_ ?_ ?_ ?_ ?_ ?_ ?_ ?_)
    | (with_reducible rfl) | split)

theorem execSeMemSel_kept {r : State} {p : Path} {v : BitVec 8} {s : State} (hs : Keeps r s) :
    ∃ u, execSeMemSel p v s = .next u ∧ Keeps r u := by
  unfold execSeMemSel
  try dsimp only
  repeat' (first
    | with_reducible (
      first
      | assumption | apply regAct_kept | apply memSelSet_kept)
    | (intro u hu; try dsimp only) | split | (with_reducible refine ⟨_, rfl, ?_⟩))

theorem windowPut_kept {r s : State} {e off : Nat} {w : W32} (hs : Keeps r s) :
    Keeps r (windowPut s e off w) := by
  unfold windowPut
  try dsimp only
  repeat' (first
    | with_reducible (
      first
      | assumption | apply bump_kept | apply engPut_kept)
    | (intro u hu; try dsimp only) | split)

theorem execEngineMemoryWindowWrite_kept {r : State} {p : Path} {off : BitVec 21} {w : W32} {s : State} (hs :
    Keeps r s) :
    ∃ u, execEngineMemoryWindowWrite p off w s = .next u ∧ Keeps r u := by
  unfold execEngineMemoryWindowWrite
  try dsimp only
  repeat' (first
    | with_reducible (
      first
      | assumption | apply regAct_kept | apply windowPut_kept)
    | (intro u hu; try dsimp only) | split | (with_reducible refine ⟨_, rfl, ?_⟩))

/-! ### Image -/

theorem updFlash_kept {r s : State} {h1 : Half} {f : FlashSt → FlashSt} (hs : Keeps r s) :
    Keeps r (updFlash s h1 f) := by
  unfold updFlash
  try dsimp only
  repeat' (first
    | with_reducible (
      first
      | assumption | apply updNv_kept)
    | (intro u hu; try dsimp only) | (with_reducible rfl) | split)

theorem setSlotState_kept {r s : State} {h1 : Half} {sl : Nat} {st : SlotState} {att : optParam Nat 0}
    (hs : Keeps r s) :
    Keeps r (setSlotState s h1 sl st att) := by
  unfold setSlotState
  try dsimp only
  repeat' (first
    | with_reducible (
      first
      | assumption | apply updFlash_kept | refine kforAll ?_ ?_)
    | (intro u x hu; try dsimp only) | (intro u hu; try dsimp only) | split)

/-! ### Load -/

theorem engQuit_kept {r s : State} {e : Nat} (hs : Keeps r s) : Keeps r (engQuit s e) := by
  unfold engQuit
  try dsimp only
  repeat' (first
    | with_reducible (
      first
      | assumption | apply engForget_kept | apply dropRecords_kept | apply engDropEvents_kept | apply updFab_kept
        | apply updEng_kept)
    | ((with_reducible show engGood _); first | exact hu | exact ⟨hu.1, hu.2⟩ | exact ⟨List.length_set.trans hu.1, hu.2⟩ | exact ⟨hu.1, writeBytes_wf _ _ _ hu.2⟩)
    | (intro u hu; try dsimp only) | (with_reducible rfl) | split)

theorem clusterLoad_kept {r s : State} {c : Nat} (hs : Keeps r s) : Keeps r (clusterLoad s c) := by
  unfold clusterLoad
  try dsimp only
  repeat' (first
    | with_reducible (
      first
      | assumption | apply updClus_kept | apply updEng_kept | apply engQuit_kept | refine kforAll ?_ ?_)
    | ((with_reducible show engGood _); first | exact hu | exact ⟨hu.1, hu.2⟩ | exact ⟨List.length_set.trans hu.1, hu.2⟩ | exact ⟨hu.1, writeBytes_wf _ _ _ hu.2⟩)
    | ((with_reducible show clGood _); first | exact hu | exact writeBytes_wf _ _ _ hu)
    | (intro u x hu; try dsimp only) | (intro u hu; try dsimp only) | split)

theorem engStart_kept {r s : State} {v : Nat} {p : Program} {e : Nat} (hs : Keeps r s) :
    Keeps r (engStart s v p e) := by
  unfold engStart
  dsimp only
  exact updEng_kept hs fun g hg => ⟨by simp, writeBytes_wf _ _ _ rfl⟩

theorem svcHashFail_kept {r s : State} {h1 : Half} (hs : Keeps r s) :
    Keeps r (svcHashFail s h1) := by
  unfold svcHashFail
  try dsimp only
  repeat' (first
    | with_reducible (
      first
      | assumption | apply updHalf_kept)
    | (intro u hu; try dsimp only) | split)

theorem clusterMem_wf {s : State} {v c : Nat} {p : Program} (h : Tab.wf (0 : Byte) (clus s c).mem = true) :
    Tab.wf (0 : Byte) (clusterMem s v c p) = true := by
  unfold clusterMem; exact writeBytes_wf _ _ _ (Tab.wf_keep _ h)

/-- As `updClus_kept`, where what is written is good because the state is. -/
theorem updClus_kept' {r s : State} {n : Nat} {f : ClSt → ClSt} (h : Keeps r s)
    (hf : canonical s → ∀ g, clGood g → clGood (f g)) : Keeps r (updClus s n f) :=
  h.tabs rfl rfl rfl fun c => (updClus_kept (r := s) Keeps.rfl (hf c)).2.2.2 c

theorem clusterLoaded_kept {r s : State} {c : Nat} (hs : Keeps r s) : Keeps r (clusterLoaded s c) := by
  unfold clusterLoaded
  dsimp only
  have h1 : Keeps r (updClus s c fun x => { x with loading := false }) := updClus_kept hs fun g hg => hg
  have hq := kforAll (l := clusterEngs c) (f := fun u e => updEng u e fun g => { g with loading := false, st := .notLoaded }) h1
    fun u x hu => updEng_kept hu fun g hg => ⟨hg.1, hg.2⟩
  split
  · exact hq
  · split
    · exact updClus_kept hq fun g hg => hg
    · split
      · exact svcHashFail_kept (updClus_kept hq fun g hg => hg)
      · refine svDeal_kept (kforAll ?_ fun u x hu => engStart_kept hu)
        exact updClus_kept' h1 fun c g hg => clusterMem_wf (c.2.2 _)

theorem execClusterDrained_kept {r : State} {c : EC} {s : State} (hs : Keeps r s) :
    ∃ u, execClusterDrained c s = .next u ∧ Keeps r u := by
  unfold execClusterDrained
  try dsimp only
  repeat' (first
    | with_reducible (
      first
      | assumption | apply clusterLoad_kept)
    | (intro u hu; try dsimp only) | split | (with_reducible refine ⟨_, rfl, ?_⟩))

theorem execClusterLoadComplete_kept {r : State} {c : EC} {s : State} (hs : Keeps r s) :
    ∃ u, execClusterLoadComplete c s = .next u ∧ Keeps r u := by
  unfold execClusterLoadComplete
  try dsimp only
  repeat' (first
    | with_reducible (
      first
      | assumption | apply clusterLoaded_kept)
    | (intro u hu; try dsimp only) | split | (with_reducible refine ⟨_, rfl, ?_⟩))

theorem engRestart_kept {r s : State} {e : Nat} (hs : Keeps r s) : Keeps r (engRestart s e) := by
  unfold engRestart
  try dsimp only
  repeat' (first
    | with_reducible (
      first
      | assumption | apply svDeal_kept | apply engStart_kept | apply engQuit_kept | apply svcHashFail_kept)
    | (intro u hu; try dsimp only) | split)

theorem execEngineRestart_kept {r : State} {p : Path} {e : SE} {s : State} (hs : Keeps r s) :
    ∃ u, execEngineRestart p e s = .next u ∧ Keeps r u := by
  unfold execEngineRestart
  try dsimp only
  repeat' (first
    | with_reducible (
      first
      | assumption | apply objAct_kept | apply engRestart_kept)
    | (intro u hu; try dsimp only) | split | (with_reducible refine ⟨_, rfl, ?_⟩))

theorem svcCut_kept {r s : State} {h1 : Half} {was : List Nat} (hs : Keeps r s) :
    Keeps r (svcCut s h1 was) := by
  unfold svcCut
  try dsimp only
  repeat' (first
    | with_reducible (
      first
      | assumption | apply clusterLoad_kept | apply svDeal_kept | apply flowIdle_kept | refine kforAll ?_ ?_)
    | (intro u x hu; try dsimp only) | (intro u hu; try dsimp only) | split)

end Sys2Proof.Machine
end

