-- ==== Sys2Proof/Laws/KeepsHost.lean ====
section
/-! SUPPORT. That each meaning keeps what every step keeps (Laws/Keeps.lean): windows, configuration space and host links. -/

namespace Sys2Proof.Machine

set_option linter.unusedVariables false
set_option linter.unusedSimpArgs false

/-! ### WinCmd -/

theorem execPrefetchLifetimeExpiry_kept {r : State} {m : HL} {f : Fn} {w : Fin 8} {unit : Nat} {s : State} (hs :
    Keeps r s) :
    ∃ u, execPrefetchLifetimeExpiry m f w unit s = .next u ∧ Keeps r u := by
  unfold execPrefetchLifetimeExpiry
  try dsimp only
  repeat' (first
    | with_reducible (
      first
      | assumption | apply pfDiscard_kept)
    | (intro u hu; try dsimp only) | split | (with_reducible refine ⟨_, rfl, ?_⟩))

theorem execSlotHoldExpiry_kept {r : State} {m : HL} {f : Fn} {s : State} (hs : Keeps r s) :
    ∃ u, execSlotHoldExpiry m f s = .next u ∧ Keeps r u := by
  unfold execSlotHoldExpiry
  try dsimp only
  repeat' (first
    | with_reducible (
      first
      | assumption | apply bump_kept | apply logC_kept | apply updFn_kept)
    | (intro u hu; try dsimp only) | split | (with_reducible refine ⟨_, rfl, ?_⟩))

theorem slotFree_kept {r s : State} {n : Nat} (hs : Keeps r s) : Keeps r (slotFree s n) := by
  unfold slotFree
  try dsimp only
  repeat' (first
    | with_reducible (
      first
      | assumption | apply bump_kept | apply updFn_kept)
    | (intro u hu; try dsimp only) | split)

theorem execWinSlotFree_kept {r : State} {p : Path} {m : HL} {f : Fn} {s : State} (hs : Keeps r s) :
    ∃ u, execWinSlotFree p m f s = .next u ∧ Keeps r u := by
  unfold execWinSlotFree
  try dsimp only
  repeat' (first
    | with_reducible (
      first
      | assumption | apply regAct_kept | apply slotFree_kept)
    | (intro u hu; try dsimp only) | split | (with_reducible refine ⟨_, rfl, ?_⟩))

theorem moveTimeout_kept {r s : State} {e : SE} {k : Nat} (hs : Keeps r s) :
    Keeps r (moveTimeout s e k) := by
  unfold moveTimeout
  try dsimp only
  repeat' (first
    | with_reducible (
      first
      | assumption | apply failReq_kept)
    | (intro u hu; try dsimp only) | split)

theorem execCompletionTimeout_kept {r : State} {side : TagSide} {tag : BitVec 14} {s : State} (hs : Keeps r s) :
    ∃ u, execCompletionTimeout side tag s = .next u ∧ Keeps r u := by
  unfold execCompletionTimeout
  try dsimp only
  repeat' (first
    | with_reducible (
      first
      | assumption | apply moveTimeout_kept | apply quarantine_kept | apply bump_kept | apply aerCTO_kept
        | apply failPart_kept)
    | (intro u hu; try dsimp only) | split | (with_reducible refine ⟨_, rfl, ?_⟩))

theorem execQuarantineEnd_kept {r : State} {side : TagSide} {tag : BitVec 14} {s : State} (hs : Keeps r s) :
    ∃ u, execQuarantineEnd side tag s = .next u ∧ Keeps r u := by
  unfold execQuarantineEnd
  try dsimp only
  repeat' (first
    | with_reducible (
      first
      | assumption | apply updFab_kept)
    | (intro u hu; try dsimp only) | (with_reducible rfl) | split | (with_reducible refine ⟨_, rfl, ?_⟩))

theorem mgBoundary_kept {r s : State} {g : Nat} {pass : State → Nat → State} (hs : Keeps r s) (hpass :
    ∀ v0 v1, Keeps r v0 → Keeps r (pass v0 v1)) :
    Keeps r (mgBoundary s g pass) := by
  unfold mgBoundary
  try dsimp only
  repeat' (first
    | with_reducible (
      first
      | assumption | apply updMg_kept | apply mgSkip_kept | refine hpass _ _ ?_)
    | (intro u hu; try dsimp only) | split)

theorem execMirrorBoundaryUp_kept {r : State} {g : MG} {s : State} (hs : Keeps r s) :
    ∃ u, execMirrorBoundaryUp g s = .next u ∧ Keeps r u := by
  unfold execMirrorBoundaryUp
  try dsimp only
  repeat' (first
    | with_reducible (
      first
      | assumption | apply mgBoundary_kept | apply mgPassUp_kept)
    | (intro u hu; try dsimp only) | split | (with_reducible refine ⟨_, rfl, ?_⟩))

theorem execMirrorPassEnd_kept {r : State} {g : MG} {s : State} (hs : Keeps r s) :
    ∃ u, execMirrorPassEnd g s = .next u ∧ Keeps r u := by
  unfold execMirrorPassEnd
  try dsimp only
  repeat' (first
    | with_reducible (
      first
      | assumption | apply mgPassDone_kept)
    | (intro u hu; try dsimp only) | split | (with_reducible refine ⟨_, rfl, ?_⟩))

theorem execMirrorBoundaryDown_kept {r : State} {g : MG} {s : State} (hs : Keeps r s) :
    ∃ u, execMirrorBoundaryDown g s = .next u ∧ Keeps r u := by
  unfold execMirrorBoundaryDown
  try dsimp only
  repeat' (first
    | with_reducible (
      first
      | assumption | apply mgBoundary_kept | apply mgPassDown_kept)
    | (intro u hu; try dsimp only) | split | (with_reducible refine ⟨_, rfl, ?_⟩))

theorem execDownwardPassAcked_kept {r : State} {g : MG} {s : State} (hs : Keeps r s) :
    ∃ u, execDownwardPassAcked g s = .next u ∧ Keeps r u := by
  unfold execDownwardPassAcked
  try dsimp only
  repeat' (first
    | with_reducible (
      first
      | assumption | apply mgPassDone_kept | apply mgWrite_kept)
    | (intro u hu; try dsimp only) | split | (with_reducible refine ⟨_, rfl, ?_⟩))

theorem execFlowMgRestart_kept {r : State} {p : Path} {g : MG} {s : State} (hs : Keeps r s) :
    ∃ u, execFlowMgRestart p g s = .next u ∧ Keeps r u := by
  unfold execFlowMgRestart
  try dsimp only
  repeat' (first
    | with_reducible (
      first
      | assumption | apply regOrObj_kept | apply mgRestart_kept)
    | (intro u hu; try dsimp only) | split | (with_reducible refine ⟨_, rfl, ?_⟩))

theorem execMirrorBudgetRefill_kept {r : State} {m : HL} {s : State} (hs : Keeps r s) :
    ∃ u, execMirrorBudgetRefill m s = .next u ∧ Keeps r u := by
  unfold execMirrorBudgetRefill
  try dsimp only
  repeat' (first
    | with_reducible (
      first
      | assumption | apply budgetPut_kept)
    | (intro u hu; try dsimp only) | split | (with_reducible refine ⟨_, rfl, ?_⟩))

theorem dqProd_kept {r s : State} {q v : Nat} (hs : Keeps r s) :
    Keeps r (dqProd s q v) := by
  unfold dqProd
  try dsimp only
  repeat' (first
    | with_reducible (
      first
      | assumption | apply dqAdvance_kept | apply updDq_kept)
    | (intro u hu; try dsimp only) | split)

theorem execFlowDqProd_kept {r : State} {p : Path} {q : DQ} {v : BitVec 16} {s : State} (hs : Keeps r s) :
    ∃ u, execFlowDqProd p q v s = .next u ∧ Keeps r u := by
  unfold execFlowDqProd
  try dsimp only
  repeat' (first
    | with_reducible (
      first
      | assumption | apply dqProd_kept | apply regAct_kept)
    | (intro u hu; try dsimp only) | split | (with_reducible refine ⟨_, rfl, ?_⟩))

theorem dqRestart_kept {r s : State} {q : Nat} (hs : Keeps r s) : Keeps r (dqRestart s q) := by
  unfold dqRestart
  try dsimp only
  repeat' (first
    | with_reducible (
      first
      | assumption | apply dqAdvance_kept | apply updDq_kept)
    | (intro u hu; try dsimp only) | split)

theorem execFlowDqRestart_kept {r : State} {p : Path} {q : DQ} {s : State} (hs : Keeps r s) :
    ∃ u, execFlowDqRestart p q s = .next u ∧ Keeps r u := by
  unfold execFlowDqRestart
  try dsimp only
  repeat' (first
    | with_reducible (
      first
      | assumption | apply regAct_kept | apply dqRestart_kept)
    | (intro u hu; try dsimp only) | split | (with_reducible refine ⟨_, rfl, ?_⟩))

theorem flowSelSet_kept {r s : State} {p : Path} {f : Nat} (hs : Keeps r s) :
    Keeps r (flowSelSet s p f) := by
  unfold flowSelSet
  try dsimp only
  repeat' (first
    | with_reducible (
      first
      | assumption | apply updBrdg_kept)
    | (intro u hu; try dsimp only) | (with_reducible rfl) | split)

theorem execFlowSel_kept {r : State} {p : Path} {f : BitVec 14} {s : State} (hs : Keeps r s) :
    ∃ u, execFlowSel p f s = .next u ∧ Keeps r u := by
  unfold execFlowSel
  try dsimp only
  repeat' (first
    | with_reducible (
      first
      | assumption | apply regAct_kept | apply flowSelSet_kept)
    | (intro u hu; try dsimp only) | split | (with_reducible refine ⟨_, rfl, ?_⟩))

/-! ### CfgSpace -/

theorem csBit_kept {r s : State} {n off i : Nat} {b : Bool} (hs : Keeps r s) :
    Keeps r (csBit s n off i b) := by
  unfold csBit
  try dsimp only
  repeat' (first
    | with_reducible (
      first
      | assumption | apply setCs_kept)
    | (intro u hu; try dsimp only) | split)

/-! ### HostCmd -/

theorem refuseFn_kept {r s : State} {n st : Nat} (hs : Keeps r s) :
    Keeps r (refuseFn s n st) := by
  unfold refuseFn
  try dsimp only
  repeat' (first
    | with_reducible (
      first
      | assumption | apply endAll_kept | apply gateCount_kept)
    | (intro u x hu; try dsimp only) | (intro u hu; try dsimp only) | split)

theorem sweepPending_kept {r s : State} {n : Nat} (hs : Keeps r s) :
    Keeps r (sweepPending s n) := by
  unfold sweepPending
  try dsimp only
  repeat' (first
    | with_reducible (
      first
      | assumption | apply sendVec_kept | apply setPba_kept | refine kforAll ?_ ?_)
    | (intro u x hu; try dsimp only) | (intro u hu; try dsimp only) | split)

theorem masterBack_kept {r s : State} {n : Nat} (hs : Keeps r s) : Keeps r (masterBack s n) := by
  unfold masterBack
  try dsimp only
  repeat' (first
    | with_reducible (
      first
      | assumption | apply updFn_kept | apply notify_kept | apply messageOutcome_kept | apply sweepPending_kept
        | apply dqAdvance_kept | refine kforAll ?_ ?_)
    | (intro u x hu; try dsimp only) | (intro u hu; try dsimp only) | split)

theorem setBme_kept {r s : State} {n : Nat} {b : Bool} (hs : Keeps r s) :
    Keeps r (setBme s n b) := by
  unfold setBme
  try dsimp only
  repeat' (first
    | with_reducible (
      first
      | assumption | apply csBit_kept | apply refuseFn_kept | apply masterBack_kept)
    | (intro u hu; try dsimp only) | split)

theorem setD3_kept {r s : State} {n : Nat} {d3 : Bool} (hs : Keeps r s) :
    Keeps r (setD3 s n d3) := by
  unfold setD3
  try dsimp only
  repeat' (first
    | with_reducible (
      first
      | assumption | apply setCs_kept | apply refuseFn_kept | apply masterBack_kept)
    | (intro u hu; try dsimp only) | split)

theorem msixOff_kept {r s : State} {n : Nat} (hs : Keeps r s) : Keeps r (msixOff s n) := by
  unfold msixOff
  try dsimp only
  repeat' (first
    | with_reducible (
      first
      | assumption | apply updFn_kept | apply csBit_kept | apply updSrc_kept | apply intxUpdate_kept
        | refine kforAll ?_ ?_)
    | (intro u x hu; try dsimp only) | (intro u hu; try dsimp only) | split)

theorem sendLtr_kept {r s : State} {m : Nat} (hs : Keeps r s) : Keeps r (sendLtr s m) := by
  unfold sendLtr
  try dsimp only
  repeat' (first
    | with_reducible (
      first
      | assumption | apply tlpOut_kept)
    | (intro u hu; try dsimp only) | split)

theorem endSent_kept {r s : State} {p : TagUse → Bool} {m : Nat} (hs : Keeps r s) :
    Keeps r (endSent s p m) := by
  unfold endSent
  try dsimp only
  repeat' (first
    | with_reducible (
      first
      | assumption | apply quarantine_kept | apply failPart_kept | apply bumpR_kept | refine kforAll ?_ ?_)
    | (intro u x hu; try dsimp only) | (intro u hu; try dsimp only) | split)

theorem dropHostCpls_kept {r s : State} {m : Nat} (hs : Keeps r s) :
    Keeps r (dropHostCpls s m) := by
  unfold dropHostCpls
  try dsimp only
  repeat' (first
    | with_reducible (
      first
      | assumption | apply onlyIf_kept | apply bumpR_kept | apply cplUndeliverable_kept | apply updFab_kept
        | refine kforAll ?_ ?_)
    | (intro u x hu; try dsimp only) | (intro u hu; try dsimp only) | (with_reducible rfl) | split)

theorem mirrorReinit_kept {r s : State} {m : Nat} (hs : Keeps r s) :
    Keeps r (mirrorReinit s m) := by
  unfold mirrorReinit
  try dsimp only
  repeat' (first
    | with_reducible (
      first
      | assumption | apply updMg_kept | refine kforAll ?_ ?_)
    | (intro u x hu; try dsimp only) | (intro u hu; try dsimp only) | split)

theorem mbxReinit_kept {r s : State} {m : Nat} (hs : Keeps r s) : Keeps r (mbxReinit s m) := by
  unfold mbxReinit
  try dsimp only
  repeat' (first
    | with_reducible (
      first
      | assumption | apply updDict_kept | apply updMbx_kept)
    | (intro u hu; try dsimp only) | split)

theorem startSwitch_kept {r s : State} {m : Nat} (hs : Keeps r s) : Keeps r (startSwitch s m) := by
  unfold startSwitch
  try dsimp only
  repeat' (first
    | with_reducible (
      first
      | assumption | apply updFn_kept | refine kforAll ?_ ?_)
    | (intro u x hu; try dsimp only) | (intro u hu; try dsimp only) | split)

theorem hlReinit_kept {r s : State} {m i : Nat} (hs : Keeps r s) :
    Keeps r (hlReinit s m i) := by
  unfold hlReinit
  dsimp only
  refine vc0Moves_kept (updHl_kept (hostTabs_kept ?_ (fun c => Tab.wf_keep _ c) (fun c => Tab.wf_keep _ c)))
  repeat' (first
    | with_reducible (
      first
      | assumption | apply bumpR_kept | apply updHl_kept | apply startSwitch_kept | apply endSent_kept
        | apply slotInvalidate_kept | apply updFn_kept | apply pathGone_kept | apply refuseFn_kept
        | apply dropHostCpls_kept | apply pfInvalidate_kept | apply mbxReinit_kept | apply mirrorReinit_kept
        | apply evcReinit_kept | refine kforAll ?_ ?_)
    | (intro u x hu; try dsimp only) | (intro u hu; try dsimp only) | split)

theorem execPerstNAssert_kept {r : State} {p : HP} {s0 : State} (hs0 : Keeps r s0) :
    ∃ u, execPerstNAssert p s0 = .next u ∧ Keeps r u := by
  unfold execPerstNAssert
  try dsimp only
  repeat' (first
    | with_reducible (
      first
      | assumption | apply onlyIf_kept | apply wakeSrc_kept | apply updSys_kept | apply hlReinit_kept
        | refine kforAll ?_ ?_)
    | (intro u x hu; try dsimp only) | (intro u hu; try dsimp only) | split
    | (with_reducible refine ⟨_, rfl, ?_⟩))

theorem execPerstNDeassert_kept {r : State} {p : HP} {s : State} (hs : Keeps r s) :
    ∃ u, execPerstNDeassert p s = .next u ∧ Keeps r u := by
  unfold execPerstNDeassert
  try dsimp only
  repeat' (first
    | with_reducible (
      first
      | assumption | apply updSys_kept | apply updPwr_kept | apply wakeSrc_kept)
    | (intro u hu; try dsimp only) | split | (with_reducible refine ⟨_, rfl, ?_⟩))

theorem execHotReset_kept {r : State} {m : HL} {s : State} (hs : Keeps r s) :
    ∃ u, execHotReset m s = .next u ∧ Keeps r u := by
  unfold execHotReset
  try dsimp only
  repeat' (first
    | with_reducible (
      first
      | assumption | apply onlyIf_kept | apply hlReinit_kept)
    | (intro u hu; try dsimp only) | split | (with_reducible refine ⟨_, rfl, ?_⟩))

theorem execDlActiveExit_kept {r : State} {m : HL} {s : State} (hs : Keeps r s) :
    ∃ u, execDlActiveExit m s = .next u ∧ Keeps r u := by
  unfold execDlActiveExit
  try dsimp only
  repeat' (first
    | with_reducible (
      first
      | assumption | apply onlyIf_kept | apply hlReinit_kept)
    | (intro u hu; try dsimp only) | split | (with_reducible refine ⟨_, rfl, ?_⟩))

theorem execDlActiveEnter_kept {r : State} {m : HL} {flit : Bool} {rate : BitVec 3} {width : BitVec 5} {reversed
    : Bool} {vc1 : Bool} {s : State} (hs : Keeps r s) :
    ∃ u, execDlActiveEnter m flit rate width reversed vc1 s = .next u ∧ Keeps r u := by
  unfold execDlActiveEnter
  try dsimp only
  repeat' (first
    | with_reducible (
      first
      | assumption | apply onlyIf_kept | apply updPwr_kept | apply updHl_kept | apply tlpOut_kept)
    | (intro u hu; try dsimp only) | split | (with_reducible refine ⟨_, rfl, ?_⟩))

theorem execHostLinkRateChange_kept {r : State} {m : HL} {rate : BitVec 3} {width : BitVec 5} {s : State} (hs :
    Keeps r s) :
    ∃ u, execHostLinkRateChange m rate width s = .next u ∧ Keeps r u := by
  unfold execHostLinkRateChange
  try dsimp only
  repeat' (first
    | with_reducible (
      first
      | assumption | apply onlyIf_kept | apply updHl_kept)
    | (intro u hu; try dsimp only) | split | (with_reducible refine ⟨_, rfl, ?_⟩))

theorem execL0sIdleTimer_kept {r : State} {m : HL} {s : State} (hs : Keeps r s) :
    ∃ u, execL0sIdleTimer m s = .next u ∧ Keeps r u := by
  unfold execL0sIdleTimer
  try dsimp only
  repeat' (first
    | with_reducible (
      first
      | assumption | apply onlyIf_kept | apply updHl_kept)
    | (intro u hu; try dsimp only) | split | (with_reducible refine ⟨_, rfl, ?_⟩))

theorem execAspmL1IdleTimer_kept {r : State} {m : HL} {s : State} (hs : Keeps r s) :
    ∃ u, execAspmL1IdleTimer m s = .next u ∧ Keeps r u := by
  unfold execAspmL1IdleTimer
  try dsimp only
  repeat' (first
    | with_reducible (
      first
      | assumption | apply onlyIf_kept | apply updHl_kept)
    | (intro u hu; try dsimp only) | split | (with_reducible refine ⟨_, rfl, ?_⟩))

theorem execL0pEvaluation_kept {r : State} {m : HL} {bytesPer100us : Nat} {s : State} (hs : Keeps r s) :
    ∃ u, execL0pEvaluation m bytesPer100us s = .next u ∧ Keeps r u := by
  unfold execL0pEvaluation
  try dsimp only
  repeat' (first
    | with_reducible (
      first
      | assumption | apply updHl_kept)
    | (intro u hu; try dsimp only) | split | (with_reducible refine ⟨_, rfl, ?_⟩))

theorem execHostInitiatedExit_kept {r : State} {m : HL} {s : State} (hs : Keeps r s) :
    ∃ u, execHostInitiatedExit m s = .next u ∧ Keeps r u := by
  unfold execHostInitiatedExit
  try dsimp only
  repeat' (first
    | with_reducible (
      first
      | assumption | apply onlyIf_kept | apply wakeArrival_kept | apply updHl_kept)
    | (intro u hu; try dsimp only) | split | (with_reducible refine ⟨_, rfl, ?_⟩))

theorem protEvt_kept {r s : State} {n : Nat} (hs : Keeps r s) : Keeps r (protEvt s n) := by
  unfold protEvt
  try dsimp only
  repeat' (first
    | with_reducible (
      first
      | assumption | apply updHl_kept)
    | (intro u hu; try dsimp only) | split)

theorem pausePair_kept {r s : State} {a o : Nat} (hs : Keeps r s) :
    Keeps r (pausePair s a o) := by
  unfold pausePair
  try dsimp only
  repeat' (first
    | with_reducible (
      first
      | assumption | apply updDq_kept | apply updMg_kept | refine kforAll ?_ ?_)
    | (intro u x hu; try dsimp only) | (intro u hu; try dsimp only) | split)

theorem endOfHost_kept {r s : State} {a : Nat} (hs : Keeps r s) : Keeps r (endOfHost s a) := by
  unfold endOfHost
  try dsimp only
  repeat' (first
    | with_reducible (
      first
      | assumption | apply endSent_kept | apply endAll_kept | apply bumpFn_kept)
    | (intro u x hu; try dsimp only) | (intro u hu; try dsimp only) | split)

theorem becomeActive_kept {r s : State} {a o : Nat} (hs : Keeps r s) :
    Keeps r (becomeActive s a o) := by
  unfold becomeActive
  try dsimp only
  repeat' (first
    | with_reducible (
      first
      | assumption | apply updFn_kept | apply updFab_kept | apply protEvt_kept | apply bumpFn_kept
        | apply pausePair_kept | apply settle_kept | apply fnEvent_kept | apply raiseEv_kept)
    | (intro u hu; try dsimp only) | (with_reducible rfl) | split)

theorem pairNoHost_kept {r s : State} {a o : Nat} (hs : Keeps r s) :
    Keeps r (pairNoHost s a o) := by
  unfold pairNoHost
  try dsimp only
  repeat' (first
    | with_reducible (
      first
      | assumption | apply updFn_kept | apply pausePair_kept | apply fnEvent_kept | apply raiseEv_kept)
    | (intro u hu; try dsimp only) | split)

theorem switchTo_kept {r s : State} {n : Nat} (hs : Keeps r s) : Keeps r (switchTo s n) := by
  unfold switchTo
  try dsimp only
  repeat' (first
    | with_reducible (
      first
      | assumption | apply updFn_kept)
    | (intro u hu; try dsimp only) | split)

theorem execSwitchRequest_kept {r : State} {p : Path} {m : HL} {f : Fn} {v : Bool} {s : State} (hs : Keeps r s)
    :
    ∃ u, execSwitchRequest p m f v s = .next u ∧ Keeps r u := by
  unfold execSwitchRequest
  try dsimp only
  repeat' (first
    | with_reducible (
      first
      | assumption | apply objAct_kept | apply onlyIf_kept | apply switchTo_kept)
    | (intro u hu; try dsimp only) | split | (with_reducible refine ⟨_, rfl, ?_⟩))

theorem execProtectionSwitchOver_kept {r : State} {m : HL} {f : Fn} {s : State} (hs : Keeps r s) :
    ∃ u, execProtectionSwitchOver m f s = .next u ∧ Keeps r u := by
  unfold execProtectionSwitchOver
  try dsimp only
  repeat' (first
    | with_reducible (
      first
      | assumption | apply endOfHost_kept | apply becomeActive_kept | apply pairNoHost_kept)
    | (intro u hu; try dsimp only) | split | (with_reducible refine ⟨_, rfl, ?_⟩))

theorem execPairMemberEligible_kept {r : State} {m : HL} {f : Fn} {s : State} (hs : Keeps r s) :
    ∃ u, execPairMemberEligible m f s = .next u ∧ Keeps r u := by
  unfold execPairMemberEligible
  try dsimp only
  repeat' (first
    | with_reducible (
      first
      | assumption | apply becomeActive_kept)
    | (intro u hu; try dsimp only) | split | (with_reducible refine ⟨_, rfl, ?_⟩))

theorem execBusMasterEnableClear_kept {r : State} {m : HL} {f : Fn} {s0 : State} (hs0 : Keeps r s0) :
    ∃ u, execBusMasterEnableClear m f s0 = .next u ∧ Keeps r u := by
  unfold execBusMasterEnableClear
  try dsimp only
  repeat' (first
    | with_reducible (
      first
      | assumption | apply tlpWake_kept | apply onlyIf_kept | apply setBme_kept)
    | (intro u hu; try dsimp only) | split | (with_reducible refine ⟨_, rfl, ?_⟩))

theorem execBusMasterEnableSet_kept {r : State} {m : HL} {f : Fn} {s0 : State} (hs0 : Keeps r s0) :
    ∃ u, execBusMasterEnableSet m f s0 = .next u ∧ Keeps r u := by
  unfold execBusMasterEnableSet
  try dsimp only
  repeat' (first
    | with_reducible (
      first
      | assumption | apply tlpWake_kept | apply onlyIf_kept | apply setBme_kept)
    | (intro u hu; try dsimp only) | split | (with_reducible refine ⟨_, rfl, ?_⟩))

theorem execMemorySpaceEnableClear_kept {r : State} {m : HL} {f : Fn} {s0 : State} (hs0 : Keeps r s0) :
    ∃ u, execMemorySpaceEnableClear m f s0 = .next u ∧ Keeps r u := by
  unfold execMemorySpaceEnableClear
  try dsimp only
  repeat' (first
    | with_reducible (
      first
      | assumption | apply tlpWake_kept | apply onlyIf_kept | apply csBit_kept)
    | (intro u hu; try dsimp only) | split | (with_reducible refine ⟨_, rfl, ?_⟩))

theorem execMsixDisable_kept {r : State} {m : HL} {f : Fn} {s0 : State} (hs0 : Keeps r s0) :
    ∃ u, execMsixDisable m f s0 = .next u ∧ Keeps r u := by
  unfold execMsixDisable
  try dsimp only
  repeat' (first
    | with_reducible (
      first
      | assumption | apply tlpWake_kept | apply onlyIf_kept | apply msixOff_kept)
    | (intro u hu; try dsimp only) | split | (with_reducible refine ⟨_, rfl, ?_⟩))

theorem clearMask_kept {r s : State} {n : Nat} {v : Option Nat} (hs : Keeps r s) :
    Keeps r (clearMask s n v) := by
  unfold clearMask
  dsimp only
  split
  · exact csBit_kept hs
  · split
    · exact msixPut_kept hs
    · exact csBit_kept hs

theorem execMsixVectorUnmask_kept {r : State} {m : HL} {f : Fn} {v : Option (Fin 2048)} {s0 : State} (hs0 :
    Keeps r s0) :
    ∃ u, execMsixVectorUnmask m f v s0 = .next u ∧ Keeps r u := by
  unfold execMsixVectorUnmask
  try dsimp only
  repeat' (first
    | with_reducible (
      first
      | assumption | apply tlpWake_kept | apply onlyIf_kept | apply sweepPending_kept | apply clearMask_kept)
    | (intro u hu; try dsimp only) | split | (with_reducible refine ⟨_, rfl, ?_⟩))

theorem execD3hotEntry_kept {r : State} {m : HL} {f : Fn} {s0 : State} (hs0 : Keeps r s0) :
    ∃ u, execD3hotEntry m f s0 = .next u ∧ Keeps r u := by
  unfold execD3hotEntry
  try dsimp only
  repeat' (first
    | with_reducible (
      first
      | assumption | apply tlpWake_kept | apply onlyIf_kept | apply setD3_kept)
    | (intro u hu; try dsimp only) | split | (with_reducible refine ⟨_, rfl, ?_⟩))

theorem execD3hotExit_kept {r : State} {m : HL} {f : Fn} {s0 : State} (hs0 : Keeps r s0) :
    ∃ u, execD3hotExit m f s0 = .next u ∧ Keeps r u := by
  unfold execD3hotExit
  try dsimp only
  repeat' (first
    | with_reducible (
      first
      | assumption | apply tlpWake_kept | apply onlyIf_kept | apply setD3_kept)
    | (intro u hu; try dsimp only) | split | (with_reducible refine ⟨_, rfl, ?_⟩))

theorem execLtrMechanismEnable_kept {r : State} {m : HL} {s0 : State} (hs0 : Keeps r s0) :
    ∃ u, execLtrMechanismEnable m s0 = .next u ∧ Keeps r u := by
  unfold execLtrMechanismEnable
  try dsimp only
  repeat' (first
    | with_reducible (
      first
      | assumption | apply tlpWake_kept | apply onlyIf_kept | apply sendLtr_kept | apply csBit_kept)
    | (intro u hu; try dsimp only) | split | (with_reducible refine ⟨_, rfl, ?_⟩))

theorem execPmeTurnOff_kept {r : State} {m : HL} {s0 : State} (hs0 : Keeps r s0) :
    ∃ u, execPmeTurnOff m s0 = .next u ∧ Keeps r u := by
  unfold execPmeTurnOff
  try dsimp only
  repeat' (first
    | with_reducible (
      first
      | assumption | apply tlpWake_kept | apply onlyIf_kept | apply tlpOut_kept | apply updHl_kept)
    | (intro u hu; try dsimp only) | split | (with_reducible refine ⟨_, rfl, ?_⟩))

theorem csEffect_kept {r s : State} {n off : Nat} {new : W32} (hs : Keeps r s) :
    Keeps r (csEffect s n off new) := by
  unfold csEffect
  try dsimp only
  repeat' (first
    | with_reducible (
      first
      | assumption | apply intxUpdate_kept | apply setBme_kept | apply setCs_kept | apply setD3_kept
        | apply sweepPending_kept | apply onlyIf_kept | apply sendLtr_kept | apply msixOff_kept)
    | (intro u hu; try dsimp only) | split)

theorem execConfigRequest_kept {r : State} {m : HL} {c : CfgReq} {s0 : State} (hs0 : Keeps r s0) :
    ∃ u, execConfigRequest m c s0 = .next u ∧ Keeps r u := by
  unfold execConfigRequest
  try dsimp only
  repeat' (first
    | with_reducible (
      first
      | assumption | apply tlpWake_kept | apply tlpOut_kept | apply hostRefuse_kept | apply csEffect_kept)
    | (intro u hu; try dsimp only) | split | (with_reducible refine ⟨_, rfl, ?_⟩))

/-! ### HostMsg -/

theorem hostCplMatch_kept {r s : State} {m : Nat} {c : HostCpl} {u : TagUse} (hs : Keeps r s) :
    Keeps r (hostCplMatch s m c u) := by
  unfold hostCplMatch
  try dsimp only
  repeat' (first
    | with_reducible (
      first
      | assumption | apply bump_kept | apply freeTag_kept | apply updFab_kept | apply onlyIf_kept
        | apply aerPoison_kept | apply failPart_kept | apply gotPart_kept)
    | (intro u hu; try dsimp only) | (with_reducible rfl) | split)

theorem hostCplNow_kept {r s : State} {m : Nat} {c : HostCpl} (hs : Keeps r s) :
    Keeps r (hostCplNow s m c) := by
  unfold hostCplNow
  try dsimp only
  repeat' (first
    | with_reducible (
      first
      | assumption | apply hostCplMatch_kept | apply bump_kept | apply logC_kept | apply aerUnexp_kept)
    | (intro u hu; try dsimp only) | split)

theorem hostCplIn_kept {r s : State} {m : Nat} {c : HostCpl} (hs : Keeps r s) :
    Keeps r (hostCplIn s m c) := by
  unfold hostCplIn
  try dsimp only
  repeat' (first
    | with_reducible (
      first
      | assumption | apply updTest_kept | apply everyNth_kept | apply hostCplNow_kept)
    | (intro u hu; try dsimp only) | split)

theorem execHostCompletion_kept {r : State} {m : HL} {c : HostCpl} {s0 : State} (hs0 : Keeps r s0) :
    ∃ u, execHostCompletion m c s0 = .next u ∧ Keeps r u := by
  unfold execHostCompletion
  try dsimp only
  repeat' (first
    | with_reducible (
      first
      | assumption | apply tlpWake_kept | apply onlyIf_kept | apply hostCplIn_kept)
    | (intro u hu; try dsimp only) | split | (with_reducible refine ⟨_, rfl, ?_⟩))

theorem execSplitWriteCommitted_kept {r : State} {id : Nat} {s : State} (hs : Keeps r s) :
    ∃ u, execSplitWriteCommitted id s = .next u ∧ Keeps r u := by
  unfold execSplitWriteCommitted
  try dsimp only
  repeat' (first
    | with_reducible (
      first
      | assumption | apply updFab_kept | apply bump_kept | apply logC_kept)
    | (intro u hu; try dsimp only) | (with_reducible rfl) | split | (with_reducible refine ⟨_, rfl, ?_⟩))

theorem execIoRequest_kept {r : State} {m : HL} {tag : BitVec 14} {s0 : State} (hs0 : Keeps r s0) :
    ∃ u, execIoRequest m tag s0 = .next u ∧ Keeps r u := by
  unfold execIoRequest
  try dsimp only
  repeat' (first
    | with_reducible (
      first
      | assumption | apply tlpWake_kept | apply onlyIf_kept | apply hostRefuse_kept)
    | (intro u hu; try dsimp only) | split | (with_reducible refine ⟨_, rfl, ?_⟩))

theorem execMrdlk_kept {r : State} {m : HL} {tag : BitVec 14} {s0 : State} (hs0 : Keeps r s0) :
    ∃ u, execMrdlk m tag s0 = .next u ∧ Keeps r u := by
  unfold execMrdlk
  try dsimp only
  repeat' (first
    | with_reducible (
      first
      | assumption | apply tlpWake_kept | apply onlyIf_kept | apply hostRefuse_kept)
    | (intro u hu; try dsimp only) | split | (with_reducible refine ⟨_, rfl, ?_⟩))

theorem execVendorDefinedType0_kept {r : State} {m : HL} {s0 : State} (hs0 : Keeps r s0) :
    ∃ u, execVendorDefinedType0 m s0 = .next u ∧ Keeps r u := by
  unfold execVendorDefinedType0
  try dsimp only
  repeat' (first
    | with_reducible (
      first
      | assumption | apply tlpWake_kept | apply onlyIf_kept | apply aerUR_kept)
    | (intro u hu; try dsimp only) | split | (with_reducible refine ⟨_, rfl, ?_⟩))

theorem execVendorDefinedType1_kept {r : State} {m : HL} {s0 : State} (hs0 : Keeps r s0) :
    ∃ u, execVendorDefinedType1 m s0 = .next u ∧ Keeps r u := by
  unfold execVendorDefinedType1
  try dsimp only
  repeat' (first
    | with_reducible (
      first
      | assumption | apply tlpWake_kept)
    | (intro u hu; try dsimp only) | split | (with_reducible refine ⟨_, rfl, ?_⟩))

theorem execExpansionRomRead_kept {r : State} {m : HL} {addr : W32} {len : Nat} {tag : BitVec 14} {s0 : State}
    (hs0 : Keeps r s0) :
    ∃ u, execExpansionRomRead m addr len tag s0 = .next u ∧ Keeps r u := by
  unfold execExpansionRomRead
  try dsimp only
  repeat' (first
    | with_reducible (
      first
      | assumption | apply tlpWake_kept | apply tlpOut_kept | apply hostRefuse_kept)
    | (intro u hu; try dsimp only) | split | (with_reducible refine ⟨_, rfl, ?_⟩))

theorem badAccess_kept {r s : State} {m : Nat} (hs : Keeps r s) : Keeps r (badAccess s m) := by
  unfold badAccess
  try dsimp only
  repeat' (first
    | with_reducible (
      first
      | assumption | apply bumpR_kept)
    | (intro u hu; try dsimp only) | split)

theorem execExpansionRomWrite_kept {r : State} {m : HL} {addr : W32} {s0 : State} (hs0 : Keeps r s0) :
    ∃ u, execExpansionRomWrite m addr s0 = .next u ∧ Keeps r u := by
  unfold execExpansionRomWrite
  try dsimp only
  repeat' (first
    | with_reducible (
      first
      | assumption | apply tlpWake_kept | apply badAccess_kept | apply aerUR_kept)
    | (intro u hu; try dsimp only) | split | (with_reducible refine ⟨_, rfl, ?_⟩))

theorem mbxSubmit_kept {r s : State} {m len : Nat} (hs : Keeps r s) :
    Keeps r (mbxSubmit s m len) := by
  unfold mbxSubmit
  try dsimp only
  repeat' (first
    | with_reducible (
      first
      | assumption | apply updMbx_kept)
    | (intro u hu; try dsimp only) | split)

theorem mbxReqPut_kept {r s : State} {m off : Nat} {bs : List Byte} (hs : Keeps r s) :
    Keeps r (mbxReqPut s m off bs) := by
  unfold mbxReqPut
  try dsimp only
  repeat' (first
    | with_reducible (
      first
      | assumption | apply onlyIf_kept | apply updMbx_kept)
    | (intro u hu; try dsimp only) | split)

theorem mbxAckNow_kept {r s : State} {m : Nat} (hs : Keeps r s) : Keeps r (mbxAckNow s m) := by
  unfold mbxAckNow
  try dsimp only
  repeat' (first
    | with_reducible (
      first
      | assumption | apply updMbx_kept)
    | (intro u hu; try dsimp only) | split)

theorem execMbxSubmit_kept {r : State} {m : HL} {len : BitVec 12} {s0 : State} (hs0 : Keeps r s0) :
    ∃ u, execMbxSubmit m len s0 = .next u ∧ Keeps r u := by
  unfold execMbxSubmit
  try dsimp only
  repeat' (first
    | with_reducible (
      first
      | assumption | apply tlpWake_kept | apply onlyIf_kept | apply mbxSubmit_kept)
    | (intro u hu; try dsimp only) | split | (with_reducible refine ⟨_, rfl, ?_⟩))

theorem execMbxReqWrite_kept {r : State} {m : HL} {off : BitVec 11} {data : List Byte} {s0 : State} (hs0 : Keeps
    r s0) :
    ∃ u, execMbxReqWrite m off data s0 = .next u ∧ Keeps r u := by
  unfold execMbxReqWrite
  try dsimp only
  repeat' (first
    | with_reducible (
      first
      | assumption | apply tlpWake_kept | apply onlyIf_kept | apply mbxReqPut_kept | apply badAccess_kept)
    | (intro u hu; try dsimp only) | split | (with_reducible refine ⟨_, rfl, ?_⟩))

theorem execMbxAck_kept {r : State} {m : HL} {v : Bool} {s0 : State} (hs0 : Keeps r s0) :
    ∃ u, execMbxAck m v s0 = .next u ∧ Keeps r u := by
  unfold execMbxAck
  try dsimp only
  repeat' (first
    | with_reducible (
      first
      | assumption | apply tlpWake_kept | apply onlyIf_kept | apply mbxAckNow_kept)
    | (intro u hu; try dsimp only) | split | (with_reducible refine ⟨_, rfl, ?_⟩))

theorem execMbxResponse_kept {r : State} {m : HL} {s : State} (hs : Keeps r s) :
    ∃ u, execMbxResponse m s = .next u ∧ Keeps r u := by
  unfold execMbxResponse
  try dsimp only
  repeat' (first
    | with_reducible (
      first
      | assumption | apply mbxDone_kept | apply updMbx_kept)
    | (intro u hu; try dsimp only) | split | (with_reducible refine ⟨_, rfl, ?_⟩))

end Sys2Proof.Machine
end

