-- ==== Sys2Proof/Laws/KeepsSys.lean ====
section
/-! SUPPORT. That each meaning keeps what every step keeps (Laws/Keeps.lean): power, time, upgrade, test, cuts, lanes and links. -/

namespace Sys2Proof.Machine

set_option linter.unusedVariables false
set_option linter.unusedSimpArgs false

/-! ### Power -/

theorem putCount_kept {r s : State} {idx sub v : Nat} (hs : Keeps r s) :
    Keeps r (putCount s idx sub v) := by
  unfold putCount; exact cnt_kept hs fun c => Tab.wf_set _ _ c

theorem levelHold_kept {r s : State} (hs : Keeps r s) : Keeps r (levelHold s) := by
  unfold levelHold
  try dsimp only
  repeat' (first
    | with_reducible (
      first
      | assumption | apply updPwr_kept | apply raiseEv_kept)
    | (intro u hu; try dsimp only) | split)

theorem levelGo_kept {r s : State} (hs : Keeps r s) : Keeps r (levelGo s) := by
  unfold levelGo
  try dsimp only
  repeat' (first
    | with_reducible (
      first
      | assumption | apply levelHold_kept | apply updPwr_kept | apply avsBoth_kept)
    | (intro u hu; try dsimp only) | split)

theorem levelDone_kept {r s : State} (hs : Keeps r s) : Keeps r (levelDone s) := by
  unfold levelDone
  try dsimp only
  repeat' (first
    | with_reducible (
      first
      | assumption | apply levelGo_kept | apply raiseEv_kept | apply updPwr_kept)
    | (intro u hu; try dsimp only) | split)

theorem execLevelSwitchPoint_kept {r s : State} (hs : Keeps r s) :
    ∃ u, execLevelSwitchPoint s = .next u ∧ Keeps r u := by
  unfold execLevelSwitchPoint
  try dsimp only
  repeat' (first
    | with_reducible (
      first
      | assumption | apply c0Judge_kept | apply updPwr_kept | apply levelDone_kept | apply avsBoth_kept)
    | (intro u hu; try dsimp only) | split | (with_reducible refine ⟨_, rfl, ?_⟩))

theorem execTempThresholdCross_kept {r : State} {h1 : Half} {tj : Int} {s : State} (hs : Keeps r s) :
    ∃ u, execTempThresholdCross h1 tj s = .next u ∧ Keeps r u := by
  unfold execTempThresholdCross
  try dsimp only
  repeat' (first
    | with_reducible (
      first
      | assumption | apply levelGo_kept | apply updPwr_kept)
    | (intro u hu; try dsimp only) | split | (with_reducible refine ⟨_, rfl, ?_⟩))

theorem avsAcked_kept {r s : State} {r1 : AvsReq} (hs : Keeps r s) : Keeps r (avsAcked s r1) := by
  unfold avsAcked
  try dsimp only
  repeat' (first
    | with_reducible (
      first
      | assumption | apply updPwr_kept | apply onlyIf_kept | apply alertOff_kept | apply avsStart_kept
        | apply levelDone_kept)
    | (intro u hu; try dsimp only) | split)

theorem execAvsStatusPoll_kept {r s : State} (hs : Keeps r s) :
    ∃ u, execAvsStatusPoll s = .next u ∧ Keeps r u := by
  unfold execAvsStatusPoll
  try dsimp only
  repeat' (first
    | with_reducible (
      first
      | assumption | apply emit_kept)
    | (intro u hu; try dsimp only) | split | (with_reducible refine ⟨_, rfl, ?_⟩))

theorem avsAgain_kept {r s : State} {r1 : AvsReq} {tries : Nat} (hs : Keeps r s) :
    Keeps r (avsAgain s r1 tries) := by
  unfold avsAgain
  try dsimp only
  repeat' (first
    | with_reducible (
      first
      | assumption | apply emit_kept | apply updPwr_kept)
    | (intro u hu; try dsimp only) | split)

theorem avsFailed_kept {r s : State} {r1 : AvsReq} {k : Nat} (hs : Keeps r s) :
    Keeps r (avsFailed s r1 k) := by
  unfold avsFailed
  try dsimp only
  repeat' (first
    | with_reducible (
      first
      | assumption | apply raiseEv_kept | apply alertOn_kept | apply updPwr_kept)
    | (intro u hu; try dsimp only) | split)

theorem avsLevelFail_kept {r s : State} {r1 : AvsReq} (hs : Keeps r s) :
    Keeps r (avsLevelFail s r1) := by
  unfold avsLevelFail
  try dsimp only
  repeat' (first
    | with_reducible (
      first
      | assumption | apply avsFailed_kept | apply updPwr_kept | apply avsBoth_kept)
    | (intro u hu; try dsimp only) | split)

theorem execAvsRequestTimeout_kept {r : State} {rail : Bool} {s : State} (hs : Keeps r s) :
    ∃ u, execAvsRequestTimeout rail s = .next u ∧ Keeps r u := by
  unfold execAvsRequestTimeout
  try dsimp only
  repeat' (first
    | with_reducible (
      first
      | assumption | apply avsAgain_kept | apply avsLevelFail_kept | apply updPwr_kept | apply avsFailed_kept)
    | (intro u hu; try dsimp only) | split | (with_reducible refine ⟨_, rfl, ?_⟩))

theorem sleepRefuse_kept {r s : State} {code inst v : Nat} (hs : Keeps r s) :
    Keeps r (sleepRefuse s code inst v) := by
  unfold sleepRefuse
  try dsimp only
  repeat' (first
    | with_reducible (
      first
      | assumption | apply updPwr_kept | apply raiseEv_kept | apply bump_kept)
    | (intro u hu; try dsimp only) | split)

theorem sleepRequest_kept {r s : State} {h1 : Half} {v : Nat} (hs : Keeps r s) :
    Keeps r (sleepRequest s h1 v) := by
  unfold sleepRequest
  try dsimp only
  repeat' (first
    | with_reducible (
      first
      | assumption | apply onlyIf_kept | apply wakeBy_kept | apply updPwr_kept | apply raiseEv_kept | apply bump_kept)
    | (intro u hu; try dsimp only) | split)

theorem execPwrSleep_kept {r : State} {p : Path} {v : BitVec 2} {s : State} (hs : Keeps r s) :
    ∃ u, execPwrSleep p v s = .next u ∧ Keeps r u := by
  unfold execPwrSleep
  try dsimp only
  repeat' (first
    | with_reducible (
      first
      | assumption | apply regOrObj_kept | apply sleepRequest_kept)
    | (intro u hu; try dsimp only) | split | (with_reducible refine ⟨_, rfl, ?_⟩))

theorem tcFire_kept {r s : State} {n : Nat} (hs : Keeps r s) : Keeps r (tcFire s n) := by
  unfold tcFire
  try dsimp only
  repeat' (first
    | with_reducible (
      first
      | assumption | apply updTime_kept | apply wakeSrc_kept | apply raiseEv_kept)
    | (intro u hu; try dsimp only) | split)

theorem tcConvert_kept {r s : State} (hs : Keeps r s) : Keeps r (tcConvert s) := by
  unfold tcConvert
  try dsimp only
  repeat' (first
    | with_reducible (
      first
      | assumption | apply tcFire_kept | refine kforAll ?_ ?_)
    | (intro u hu; try dsimp only) | split)

theorem deepEntry_kept {r s : State} {v : Nat} (hs : Keeps r s) : Keeps r (deepEntry s v) := by
  unfold deepEntry
  try dsimp only
  repeat' (first
    | with_reducible (
      first
      | assumption | apply tcConvert_kept | apply updTime_kept | apply leaveActive_kept | apply updPwr_kept
        | apply updBrine_kept | apply avsBoth_kept | refine kforAll ?_ ?_)
    | (intro u x hu; try dsimp only) | (intro u hu; try dsimp only) | split)

theorem sleepCommit_kept {r s : State} {v : Nat} (hs : Keeps r s) : Keeps r (sleepCommit s v) := by
  unfold sleepCommit
  try dsimp only
  repeat' (first
    | with_reducible (
      first
      | assumption | apply updPwr_kept | apply deepEntry_kept)
    | (intro u hu; try dsimp only) | split)

theorem execSleepEntryCheck_kept {r s : State} (hs : Keeps r s) :
    ∃ u, execSleepEntryCheck s = .next u ∧ Keeps r u := by
  unfold execSleepEntryCheck
  try dsimp only
  repeat' (first
    | with_reducible (
      first
      | assumption | apply sleepRefuse_kept | apply sleepCommit_kept)
    | (intro u hu; try dsimp only) | split | (with_reducible refine ⟨_, rfl, ?_⟩))

theorem execS1IdleTimer_kept {r s : State} (hs : Keeps r s) :
    ∃ u, execS1IdleTimer s = .next u ∧ Keeps r u := by
  unfold execS1IdleTimer
  try dsimp only
  repeat' (first
    | with_reducible (
      first
      | assumption | apply sleepCommit_kept)
    | (intro u hu; try dsimp only) | split | (with_reducible refine ⟨_, rfl, ?_⟩))

theorem sleepAbort_kept {r s : State} {rail : Bool} {v : Nat} (hs : Keeps r s) :
    Keeps r (sleepAbort s rail v) := by
  unfold sleepAbort
  try dsimp only
  repeat' (first
    | with_reducible (
      first
      | assumption | apply updPwr_kept | apply updBrine_kept | apply avsBoth_kept | apply raiseEv_kept
        | apply bump_kept)
    | (intro u hu; try dsimp only) | split)

theorem residence_kept {r s : State} (hs : Keeps r s) : Keeps r (residence s) := by
  unfold residence
  try dsimp only
  repeat' (first
    | with_reducible (
      first
      | assumption | apply updPwr_kept | apply bumpN_kept)
    | (intro u hu; try dsimp only) | split)

theorem sleepEnter_kept {r s : State} {v : Nat} (hs : Keeps r s) : Keeps r (sleepEnter s v) := by
  unfold sleepEnter
  try dsimp only
  repeat' (first
    | with_reducible (
      first
      | assumption | apply updPwr_kept | apply bump_kept | apply residence_kept | apply wakeBy_kept)
    | (intro u hu; try dsimp only) | split)

theorem execSleepEntryComplete_kept {r s : State} (hs : Keeps r s) :
    ∃ u, execSleepEntryComplete s = .next u ∧ Keeps r u := by
  unfold execSleepEntryComplete
  try dsimp only
  repeat' (first
    | with_reducible (
      first
      | assumption | apply sleepEnter_kept | apply sleepAbort_kept)
    | (intro u hu; try dsimp only) | split | (with_reducible refine ⟨_, rfl, ?_⟩))

theorem execWake_kept {r : State} {c : WakeCause} {s : State} (hs : Keeps r s) :
    ∃ u, execWake c s = .next u ∧ Keeps r u := by
  unfold execWake
  try dsimp only
  repeat' (first
    | with_reducible (
      first
      | assumption | apply onlyIf_kept | apply wakeSrc_kept)
    | (intro u hu; try dsimp only) | split | (with_reducible refine ⟨_, rfl, ?_⟩))

theorem execWakeNDriveEnd_kept {r s : State} (hs : Keeps r s) :
    ∃ u, execWakeNDriveEnd s = .next u ∧ Keeps r u := by
  unfold execWakeNDriveEnd
  try dsimp only
  repeat' (first
    | with_reducible (
      first
      | assumption | apply updPwr_kept)
    | (intro u hu; try dsimp only) | split | (with_reducible refine ⟨_, rfl, ?_⟩))

/-! ### TimeCmd -/

theorem timeSet_kept {r s : State} {sec ns frac : Nat} (hs : Keeps r s) :
    Keeps r (timeSet s sec ns frac) := by
  unfold timeSet
  try dsimp only
  repeat' (first
    | with_reducible (
      first
      | assumption | apply updTime_kept | apply tcFire_kept | refine kforAll ?_ ?_)
    | (intro u hu; try dsimp only) | split)

theorem timeAdd_kept {r s : State} {d : Int} (hs : Keeps r s) : Keeps r (timeAdd s d) := by
  unfold timeAdd
  try dsimp only
  repeat' (first
    | with_reducible (
      first
      | assumption | apply timeSet_kept)
    | (intro u hu; try dsimp only) | split)

theorem timeStepped_kept {r s : State} {k : Nat} (hs : Keeps r s) : Keeps r (timeStepped s k) := by
  unfold timeStepped
  try dsimp only
  repeat' (first
    | with_reducible (
      first
      | assumption | apply raiseEv_kept)
    | (intro u hu; try dsimp only) | split)

theorem timeLoad_kept {r s : State} (hs : Keeps r s) : Keeps r (timeLoad s) := by
  unfold timeLoad
  try dsimp only
  repeat' (first
    | with_reducible (
      first
      | assumption | apply timeSet_kept | apply timeStepped_kept | apply updTime_kept)
    | (intro u hu; try dsimp only) | split)

theorem timeStep_kept {r s : State} (hs : Keeps r s) : Keeps r (timeStep s) := by
  unfold timeStep
  try dsimp only
  repeat' (first
    | with_reducible (
      first
      | assumption | apply timeStepped_kept | apply timeAdd_kept)
    | (intro u hu; try dsimp only) | split)

theorem execTimeLoad_kept {r : State} {p : Path} {s : State} (hs : Keeps r s) :
    ∃ u, execTimeLoad p s = .next u ∧ Keeps r u := by
  unfold execTimeLoad
  try dsimp only
  repeat' (first
    | with_reducible (
      first
      | assumption | apply regAct_kept | apply timeLoad_kept)
    | (intro u hu; try dsimp only) | split | (with_reducible refine ⟨_, rfl, ?_⟩))

theorem execTimeStep_kept {r : State} {p : Path} {s : State} (hs : Keeps r s) :
    ∃ u, execTimeStep p s = .next u ∧ Keeps r u := by
  unfold execTimeStep
  try dsimp only
  repeat' (first
    | with_reducible (
      first
      | assumption | apply regAct_kept | apply timeStep_kept)
    | (intro u hu; try dsimp only) | split | (with_reducible refine ⟨_, rfl, ?_⟩))

theorem execTcMatch_kept {r : State} {n : Fin 4} {s : State} (hs : Keeps r s) :
    ∃ u, execTcMatch n s = .next u ∧ Keeps r u := by
  unfold execTcMatch
  try dsimp only
  repeat' (first
    | with_reducible (
      first
      | assumption | apply tcFire_kept)
    | (intro u hu; try dsimp only) | split | (with_reducible refine ⟨_, rfl, ?_⟩))

theorem execTimeAlignCheck_kept {r s : State} (hs : Keeps r s) :
    ∃ u, execTimeAlignCheck s = .next u ∧ Keeps r u := by
  unfold execTimeAlignCheck
  try dsimp only
  repeat' (first
    | with_reducible (
      first
      | assumption | apply bump_kept | apply updTime_kept)
    | (intro u hu; try dsimp only) | split | (with_reducible refine ⟨_, rfl, ?_⟩))

theorem execSecondsRollover_kept {r s : State} (hs : Keeps r s) :
    ∃ u, execSecondsRollover s = .next u ∧ Keeps r u := by
  unfold execSecondsRollover
  try dsimp only
  repeat' (first
    | with_reducible (
      first
      | assumption | apply emit_kept | apply updTime_kept)
    | (intro u hu; try dsimp only) | split | (with_reducible refine ⟨_, rfl, ?_⟩))

theorem execPpsOutHighTimeEnd_kept {r s : State} (hs : Keeps r s) :
    ∃ u, execPpsOutHighTimeEnd s = .next u ∧ Keeps r u := by
  unfold execPpsOutHighTimeEnd
  try dsimp only
  repeat' (first
    | with_reducible (
      first
      | assumption | apply emit_kept | apply updTime_kept)
    | (intro u hu; try dsimp only) | split | (with_reducible refine ⟨_, rfl, ?_⟩))

theorem foldBytes_wf {l : List (Nat × Nat)} {f : Nat → Nat} : ∀ {m : Tab Byte}, Tab.wf (0 : Byte) m = true →
    Tab.wf (0 : Byte) (l.foldl (fun m w => writeBytes 0 m (f w.1) (bytesLE 8 w.2)) m) = true := by
  induction l with
  | nil => intro m h; exact h
  | cons x l ih => intro m h; exact ih (writeBytes_wf _ _ _ h)

theorem measure_kept {r s : State} {kind : Nat} {time : W64} {off : Int} {delay : Nat} (hs : Keeps r s) :
    Keeps r (measure s kind time off delay) := by
  unfold measure
  split
  · exact hs
  · refine raiseEv_kept (updTime_kept (updClus_kept hs fun g hg => ?_))
    unfold clGood at hg ⊢
    dsimp only
    with_reducible apply foldBytes_wf (f := servoOff)
    exact hg

theorem execPpsInEdge_kept {r : State} {highNs : Nat} {s : State} (hs : Keeps r s) :
    ∃ u, execPpsInEdge highNs s = .next u ∧ Keeps r u := by
  unfold execPpsInEdge
  try dsimp only
  repeat' (first
    | with_reducible (
      first
      | assumption | apply bump_kept | apply updTime_kept | apply measure_kept)
    | (intro u hu; try dsimp only) | split | (with_reducible refine ⟨_, rfl, ?_⟩))

theorem execPpsInLost_kept {r s : State} (hs : Keeps r s) :
    ∃ u, execPpsInLost s = .next u ∧ Keeps r u := by
  unfold execPpsInLost
  try dsimp only
  repeat' (first
    | with_reducible (
      first
      | assumption | apply raiseEv_kept | apply updTime_kept)
    | (intro u hu; try dsimp only) | split | (with_reducible refine ⟨_, rfl, ?_⟩))

theorem execPtmDialogue_kept {r s : State} (hs : Keeps r s) :
    ∃ u, execPtmDialogue s = .next u ∧ Keeps r u := by
  unfold execPtmDialogue
  try dsimp only
  repeat' (first
    | with_reducible (
      first
      | assumption | apply tlpOut_kept | apply updTime_kept)
    | (intro u hu; try dsimp only) | split | (with_reducible refine ⟨_, rfl, ?_⟩))

theorem execPtmResponse_kept {r : State} {answer : Option (BitVec 64 × BitVec 32)} {s : State} (hs : Keeps r s)
    :
    ∃ u, execPtmResponse answer s = .next u ∧ Keeps r u := by
  unfold execPtmResponse
  try dsimp only
  repeat' (first
    | with_reducible (
      first
      | assumption | apply updTime_kept | apply bump_kept | apply measure_kept)
    | (intro u hu; try dsimp only) | split | (with_reducible refine ⟨_, rfl, ?_⟩))

theorem servoLock_kept {r s : State} (hs : Keeps r s) : Keeps r (servoLock s) := by
  unfold servoLock
  try dsimp only
  repeat' (first
    | with_reducible (
      first
      | assumption | apply raiseEv_kept | apply updTime_kept)
    | (intro u hu; try dsimp only) | split)

theorem servoUnlock_kept {r s : State} (hs : Keeps r s) : Keeps r (servoUnlock s) := by
  unfold servoUnlock
  try dsimp only
  repeat' (first
    | with_reducible (
      first
      | assumption | apply raiseEv_kept | apply updTime_kept)
    | (intro u hu; try dsimp only) | split)

theorem servoAct_kept {r s : State} {c : Nat} (hs : Keeps r s) : Keeps r (servoAct s c) := by
  unfold servoAct
  try dsimp only
  repeat' (first
    | with_reducible (
      first
      | assumption | apply raiseEv_kept | apply bump_kept | apply updTime_kept | apply timeStepped_kept
        | apply timeAdd_kept | apply servoLock_kept | apply servoUnlock_kept)
    | (intro u hu; try dsimp only) | split)

theorem execServoPoll_kept {r s : State} (hs : Keeps r s) :
    ∃ u, execServoPoll s = .next u ∧ Keeps r u := by
  unfold execServoPoll
  try dsimp only
  repeat' (first
    | with_reducible (
      first
      | assumption | apply updTime_kept | apply servoAct_kept)
    | (intro u hu; try dsimp only) | split | (with_reducible refine ⟨_, rfl, ?_⟩))

theorem execCalibrationCapture_kept {r s : State} (hs : Keeps r s) :
    ∃ u, execCalibrationCapture s = .next u ∧ Keeps r u := by
  unfold execCalibrationCapture
  try dsimp only
  repeat' (first
    | with_reducible (
      first
      | assumption | apply updTime_kept)
    | (intro u hu; try dsimp only) | split | (with_reducible refine ⟨_, rfl, ?_⟩))

theorem tsrPop_kept {r s : State} {h1 : Half} (hs : Keeps r s) : Keeps r (tsrPop s h1) := by
  unfold tsrPop
  try dsimp only
  repeat' (first
    | with_reducible (
      first
      | assumption | apply updTime_kept)
    | (intro u hu; try dsimp only) | split)

theorem execTimeTsrPop_kept {r : State} {p : Path} {h1 : Half} {s : State} (hs : Keeps r s) :
    ∃ u, execTimeTsrPop p h1 s = .next u ∧ Keeps r u := by
  unfold execTimeTsrPop
  try dsimp only
  repeat' (first
    | with_reducible (
      first
      | assumption | apply regAct_kept | apply tsrPop_kept)
    | (intro u hu; try dsimp only) | split | (with_reducible refine ⟨_, rfl, ?_⟩))

theorem execRindLost_kept {r : State} {powerLost : Bool} {s : State} (hs : Keeps r s) :
    ∃ u, execRindLost powerLost s = .next u ∧ Keeps r u := by
  unfold execRindLost
  try dsimp only
  repeat' (first
    | with_reducible (
      first
      | assumption | apply updTime_kept | apply updPwr_kept)
    | (intro u hu; try dsimp only) | split | (with_reducible refine ⟨_, rfl, ?_⟩))

/-! ### Upgrade -/

theorem updUp_kept {r s : State} {h1 : Half} {f : UpSt → UpSt} (hs : Keeps r s) :
    Keeps r (updUp s h1 f) := by
  unfold updUp
  try dsimp only
  repeat' (first
    | with_reducible (
      first
      | assumption | apply updNv_kept)
    | (intro u hu; try dsimp only) | (with_reducible rfl) | split)

theorem slotOp_kept {r s : State} {h1 : Half} {v : Nat} {f : State → Wr} (hs : Keeps r s) (hf : ∀ v0,
    Keeps r v0 → Keeps r (f v0).2) :
    Keeps r (slotOp s h1 v f).2 := by
  unfold slotOp
  try dsimp only
  repeat' (first
    | with_reducible (
      first
      | assumption | refine hf _ ?_)
    | (intro u hu; try dsimp only) | split)

theorem eraseWr_kept {r s : State} {h1 : Half} {v : Nat} (hs : Keeps r s) :
    Keeps r (eraseWr s h1 v).2 := by
  unfold eraseWr
  try dsimp only
  repeat' (first
    | with_reducible (
      first
      | assumption | apply slotOp_kept | apply updUp_kept)
    | (intro u hu; try dsimp only) | split)

theorem baseWr_kept {r s : State} {h1 : Half} {v : Nat} (hs : Keeps r s) :
    Keeps r (baseWr s h1 v).2 := by
  unfold baseWr
  try dsimp only
  repeat' (first
    | with_reducible (
      first
      | assumption | apply updUp_kept)
    | (intro u hu; try dsimp only) | split)

theorem programSlot_kept {r s : State} {h1 : Half} {sl off : Nat} {bs : List Byte} (hs : Keeps
    r s) :
    Keeps r (programSlot s h1 sl off bs) := by
  unfold programSlot
  try dsimp only
  repeat' (first
    | with_reducible (
      first
      | assumption | apply updFlash_kept | apply setSlotState_kept | refine kforAll ?_ ?_)
    | (intro u x hu; try dsimp only) | (intro u hu; try dsimp only) | split)

theorem windowWr_kept {r s : State} {h1 : Half} {off : Nat} {bs : List Byte} (hs : Keeps r s) :
    Keeps r (windowWr s h1 off bs).2 := by
  unfold windowWr
  try dsimp only
  repeat' (first
    | with_reducible (
      first
      | assumption | apply programSlot_kept)
    | (intro u hu; try dsimp only) | split)

theorem verifyWr_kept {r s : State} {h1 : Half} {v : Nat} (hs : Keeps r s) :
    Keeps r (verifyWr s h1 v).2 := by
  unfold verifyWr
  try dsimp only
  repeat' (first
    | with_reducible (
      first
      | assumption | apply slotOp_kept | apply updUp_kept)
    | (intro u hu; try dsimp only) | split)

theorem activateWr_kept {r s : State} {h1 : Half} {v : Nat} (hs : Keeps r s) :
    Keeps r (activateWr s h1 v).2 := by
  unfold activateWr
  try dsimp only
  repeat' (first
    | with_reducible (
      first
      | assumption | apply slotOp_kept | apply updFlash_kept | apply updUp_kept | refine kforAll ?_ ?_)
    | (intro u x hu; try dsimp only) | (intro u hu; try dsimp only) | split)

theorem confirmWr_kept {r s : State} {h1 : Half} {v : Nat} (hs : Keeps r s) :
    Keeps r (confirmWr s h1 v).2 := by
  unfold confirmWr
  try dsimp only
  repeat' (first
    | with_reducible (
      first
      | assumption | apply setSlotState_kept)
    | (intro u hu; try dsimp only) | split)

theorem outdated_kept {r s : State} {h1 : Half} (hs : Keeps r s) : Keeps r (outdated s h1) := by
  unfold outdated
  try dsimp only
  repeat' (first
    | with_reducible (
      first
      | assumption | apply updFlash_kept | refine kforAll ?_ ?_)
    | (intro u x hu; try dsimp only) | (intro u hu; try dsimp only) | split)

theorem commitWr_kept {r s : State} {h1 : Half} {v : Nat} (hs : Keeps r s) :
    Keeps r (commitWr s h1 v).2 := by
  unfold commitWr
  dsimp only
  repeat' split
  all_goals first
    | exact hs
    | exact outdated_kept (fuse_kept hs ⟨Nat.le_max_left _ _, rfl, rfl, fun _ _ => rfl, fun _ h => h⟩)

theorem fuseWr_kept {r s : State} {h1 : Half} {k off : Nat} {hash : List Byte} (hs : Keeps r
    s) :
    Keeps r (fuseWr s h1 k off hash).2 := by
  unfold fuseWr
  dsimp only
  split
  · exact hs
  · split
    · exact hs
    · rename_i hc
      refine fuse_kept hs ⟨Nat.le_refl _, by simp, rfl, fun j hj => ?_, fun _ h => h⟩
      have hk : s.nv.fuses.keys.getD k [] = [] := by
        simp only [Bool.or_eq_true, not_or] at hc
        have := hc.2
        simpa using this
      have : j ≠ k := by rintro rfl; exact hj hk
      simp [List.getD_eq_getElem?_getD, List.getElem?_set, Ne.symm this]

theorem revokeWr_kept {r s : State} {h1 : Half} {k : Nat} (hs : Keeps r s) :
    Keeps r (revokeWr s h1 k).2 := by
  unfold revokeWr
  dsimp only
  split
  · exact hs
  · split
    · exact hs
    · refine fuse_kept hs ⟨Nat.le_refl _, rfl, by simp, fun _ _ => rfl, fun j hj => ?_⟩
      simp only [List.getD_eq_getElem?_getD, List.getElem?_set] at hj ⊢
      split
      · split
        · rfl
        · rename_i e hl; subst e; simp only [List.getElem?_eq_none (Nat.le_of_not_lt hl)] at hj; exact hj
      · exact hj

theorem keyWr_kept {r s : State} {h1 : Half} {off : Nat} {bs : List Byte} (hs : Keeps r s) :
    Keeps r (keyWr s h1 off bs).2 := by
  unfold keyWr
  try dsimp only
  repeat' (first
    | with_reducible (
      first
      | assumption | apply updFlash_kept | refine kforAll ?_ ?_)
    | (intro u x hu; try dsimp only) | (intro u hu; try dsimp only) | split)

theorem wideAct_kept {r s : State} {p : Path} {idx sub : Nat} {f : State → Half → Wr} (hs :
    Keeps r s) (hf : ∀ v0 v1, Keeps r v0 → Keeps r (f v0 v1).2) :
    Keeps r (wideAct s p idx sub f) := by
  unfold wideAct
  try dsimp only
  repeat' (first
    | with_reducible (
      first
      | assumption | apply objAct_kept | refine hf _ _ ?_)
    | (intro u hu; try dsimp only) | split)

theorem execErase_kept {r : State} {p : Path} {v : Byte} {s : State} (hs : Keeps r s) :
    ∃ u, execErase p v s = .next u ∧ Keeps r u := by
  unfold execErase
  try dsimp only
  repeat' (first
    | with_reducible (
      first
      | assumption | apply wideAct_kept | apply eraseWr_kept)
    | (intro u x hu; try dsimp only) | (intro u hu; try dsimp only) | split
    | (with_reducible refine ⟨_, rfl, ?_⟩))

theorem eraseDone_kept {r s : State} {h1 : Half} (hs : Keeps r s) :
    ∀ u, eraseDone s h1 = some u → Keeps r u := by
  intro u hu; unfold eraseDone at hu
  try dsimp only at hu
  repeat' (split at hu)
  all_goals (try (first | cases hu | injection hu with hu; subst hu))
  all_goals (try dsimp only)
  all_goals   repeat' (first
    | with_reducible (
      first
      | assumption | apply updFlash_kept | apply updUp_kept | apply setSlotState_kept | refine kforAll ?_ ?_)
    | (intro u x hu; try dsimp only) | (intro u hu; try dsimp only) | split)

theorem execEraseComplete_kept {r s : State} (hs : Keeps r s) :
    ∃ u, execEraseComplete s = .next u ∧ Keeps r u := by
  refine ⟨_, rfl, ?_⟩
  cases h1 : eraseDone s (leadHalf s) with
  | some u => exact eraseDone_kept hs _ h1
  | none =>
    cases h2 : eraseDone s .b with
    | some u => simp only [h1, h2, Option.orElse, Option.getD]; exact eraseDone_kept hs _ h2
    | none => simp only [h1, h2, Option.orElse, Option.getD]; exact hs

theorem execImageWindowWrite_kept {r : State} {p : Path} {off : BitVec 16} {data : List Byte} {s : State} (hs :
    Keeps r s) :
    ∃ u, execImageWindowWrite p off data s = .next u ∧ Keeps r u := by
  unfold execImageWindowWrite
  try dsimp only
  repeat' (first
    | with_reducible (
      first
      | assumption | apply wideAct_kept | apply windowWr_kept)
    | (intro u x hu; try dsimp only) | (intro u hu; try dsimp only) | split
    | (with_reducible refine ⟨_, rfl, ?_⟩))

theorem execVerify_kept {r : State} {p : Path} {v : Byte} {s : State} (hs : Keeps r s) :
    ∃ u, execVerify p v s = .next u ∧ Keeps r u := by
  unfold execVerify
  try dsimp only
  repeat' (first
    | with_reducible (
      first
      | assumption | apply wideAct_kept | apply verifyWr_kept)
    | (intro u x hu; try dsimp only) | (intro u hu; try dsimp only) | split
    | (with_reducible refine ⟨_, rfl, ?_⟩))

theorem verifyDone_kept {r s : State} {h1 : Half} (hs : Keeps r s) :
    ∀ u, verifyDone s h1 = some u → Keeps r u := by
  intro u hu; unfold verifyDone at hu
  try dsimp only at hu
  repeat' (split at hu)
  all_goals (try (first | cases hu | injection hu with hu; subst hu))
  all_goals (try dsimp only)
  all_goals   repeat' (first
    | with_reducible (
      first
      | assumption | apply updUp_kept | apply setSlotState_kept)
    | (intro u hu; try dsimp only) | split)

theorem execVerifyComplete_kept {r s : State} (hs : Keeps r s) :
    ∃ u, execVerifyComplete s = .next u ∧ Keeps r u := by
  refine ⟨_, rfl, ?_⟩
  cases h1 : verifyDone s (leadHalf s) with
  | some u => exact verifyDone_kept hs _ h1
  | none =>
    cases h2 : verifyDone s .b with
    | some u => simp only [h1, h2, Option.orElse, Option.getD]; exact verifyDone_kept hs _ h2
    | none => simp only [h1, h2, Option.orElse, Option.getD]; exact hs

theorem execActivate_kept {r : State} {p : Path} {v : Byte} {s : State} (hs : Keeps r s) :
    ∃ u, execActivate p v s = .next u ∧ Keeps r u := by
  unfold execActivate
  try dsimp only
  repeat' (first
    | with_reducible (
      first
      | assumption | apply wideAct_kept | apply activateWr_kept)
    | (intro u x hu; try dsimp only) | (intro u hu; try dsimp only) | split
    | (with_reducible refine ⟨_, rfl, ?_⟩))

theorem execConfirm_kept {r : State} {p : Path} {v : Byte} {s : State} (hs : Keeps r s) :
    ∃ u, execConfirm p v s = .next u ∧ Keeps r u := by
  unfold execConfirm
  try dsimp only
  repeat' (first
    | with_reducible (
      first
      | assumption | apply wideAct_kept | apply confirmWr_kept)
    | (intro u x hu; try dsimp only) | (intro u hu; try dsimp only) | split
    | (with_reducible refine ⟨_, rfl, ?_⟩))

theorem execCommit_kept {r : State} {p : Path} {v : Byte} {s : State} (hs : Keeps r s) :
    ∃ u, execCommit p v s = .next u ∧ Keeps r u := by
  unfold execCommit
  try dsimp only
  repeat' (first
    | with_reducible (
      first
      | assumption | apply wideAct_kept | apply commitWr_kept)
    | (intro u x hu; try dsimp only) | (intro u hu; try dsimp only) | split
    | (with_reducible refine ⟨_, rfl, ?_⟩))

theorem execFuseKeySlot_kept {r : State} {p : Path} {k : Fin 4} {off : BitVec 16} {hash : List Byte} {s : State}
    (hs : Keeps r s) :
    ∃ u, execFuseKeySlot p k off hash s = .next u ∧ Keeps r u := by
  unfold execFuseKeySlot
  try dsimp only
  repeat' (first
    | with_reducible (
      first
      | assumption | apply wideAct_kept | apply fuseWr_kept)
    | (intro u x hu; try dsimp only) | (intro u hu; try dsimp only) | split
    | (with_reducible refine ⟨_, rfl, ?_⟩))

theorem execRevokeKeySlot_kept {r : State} {p : Path} {v : Byte} {s : State} (hs : Keeps r s) :
    ∃ u, execRevokeKeySlot p v s = .next u ∧ Keeps r u := by
  unfold execRevokeKeySlot
  try dsimp only
  repeat' (first
    | with_reducible (
      first
      | assumption | apply wideAct_kept | apply revokeWr_kept)
    | (intro u x hu; try dsimp only) | (intro u hu; try dsimp only) | split
    | (with_reducible refine ⟨_, rfl, ?_⟩))

theorem execDeviceKeyWrite_kept {r : State} {p : Path} {off : BitVec 16} {data : List Byte} {s : State} (hs :
    Keeps r s) :
    ∃ u, execDeviceKeyWrite p off data s = .next u ∧ Keeps r u := by
  unfold execDeviceKeyWrite
  try dsimp only
  repeat' (first
    | with_reducible (
      first
      | assumption | apply deny_kept | apply regAct_kept | apply keyWr_kept | apply wideAct_kept)
    | (intro u x hu; try dsimp only) | (intro u hu; try dsimp only) | split
    | (with_reducible refine ⟨_, rfl, ?_⟩))

/-! ### TestCmd -/

theorem updBist_kept {r s : State} {h1 : Half} {f : BistSt → BistSt} (hs : Keeps r s) :
    Keeps r (updBist s h1 f) := by
  unfold updBist
  try dsimp only
  repeat' (first
    | with_reducible (
      first
      | assumption | apply updTest_kept)
    | (intro u hu; try dsimp only) | split)

theorem bistGo_kept {r s : State} {h1 : Half} {blocks : Nat} (hs : Keeps r s) :
    Keeps r (bistGo s h1 blocks) := by
  unfold bistGo
  try dsimp only
  repeat' (first
    | with_reducible (
      first
      | assumption | apply updBist_kept)
    | (intro u hu; try dsimp only) | split)

theorem bistWrite_kept {r s : State} {h1 : Half} {v : Nat} (hs : Keeps r s) :
    Keeps r (bistWrite s h1 v) := by
  unfold bistWrite
  try dsimp only
  repeat' (first
    | with_reducible (
      first
      | assumption | apply bistGo_kept | apply updBist_kept)
    | (intro u hu; try dsimp only) | split)

theorem execBistStart_kept {r : State} {p : Path} {h1 : Half} {blocks : BitVec 5} {s : State} (hs : Keeps r s) :
    ∃ u, execBistStart p h1 blocks s = .next u ∧ Keeps r u := by
  unfold execBistStart
  try dsimp only
  repeat' (first
    | with_reducible (
      first
      | assumption | apply regOrObj_kept | apply bistGo_kept)
    | (intro u hu; try dsimp only) | split | (with_reducible refine ⟨_, rfl, ?_⟩))

theorem zeroFlows_kept {r s : State} {h1 : Half} (hs : Keeps r s) : Keeps r (zeroFlows s h1) := by
  unfold zeroFlows
  try dsimp only
  repeat' (first
    | with_reducible (
      first
      | assumption | apply updDict_kept)
    | (intro u hu; try dsimp only) | split)

theorem get_mapAll_all {α : Type} [DecidableEq α] {d : α} {P : α → Prop} {f : Nat → α → α} (hd : P d)
    (hf : ∀ k v, P v → P (f k v)) (t : Tab α) (ht : ∀ x ∈ t, P x.2) : ∀ k, P (Tab.get d (Tab.mapAll d f t) k) := by
  intro k
  induction t with
  | nil => exact hd
  | cons x t ih =>
    obtain ⟨j, v⟩ := x
    have hv : P v := ht (j, v) (List.mem_cons_self ..)
    have ih' := ih fun x hx => ht x (List.mem_cons_of_mem _ hx)
    unfold Tab.mapAll
    split
    · exact ih'
    · unfold Tab.get
      split
      · exact hf j v hv
      · split
        · exact hd
        · exact ih'

theorem mem_of_get {α : Type} [DecidableEq α] {d : α} {P : α → Prop} {t : Tab α} (hw : Tab.wf d t = true)
    (h : ∀ k, P (Tab.get d t k)) : ∀ x ∈ t, P x.2 := by
  suffices H : ∀ lo, Tab.wfFrom d lo t = true → (∀ k, (∀ l, lo = some l → l < k) → P (Tab.get d t k)) → ∀ x ∈ t, P x.2 from
    H none hw fun k _ => h k
  clear hw h
  induction t with
  | nil => intro _ _ _ x hx; cases hx
  | cons y t ih =>
    obtain ⟨j, v⟩ := y
    intro lo hw h x hx
    unfold Tab.wfFrom at hw
    simp only [Bool.and_eq_true, decide_eq_true_eq] at hw
    obtain ⟨⟨h1, h2⟩, h3⟩ := hw
    have hlo : ∀ l, lo = some l → l < j := by
      intro l e; subst e; simpa using h1
    rcases List.mem_cons.1 hx with rfl | hx
    · have := h j hlo; simpa [Tab.get] using this
    · refine ih (some j) h3 (fun k hk => ?_) x hx
      have hjk : j < k := hk j rfl
      have := h k fun l e => Nat.lt_trans (hlo l e) hjk
      unfold Tab.get at this
      rw [if_neg (by omega), if_neg (by omega)] at this
      exact this

theorem clGood_reset : clGood ClSt.reset := by unfold clGood; rfl

/-- Engines and clusters all changed at once, each staying good. -/
theorem engines_kept {r s : State} {ef : Nat → EngSt → EngSt} {cf : Nat → ClSt → ClSt} (h : Keeps r s)
    (he : ∀ k g, engGood g → engGood (ef k g)) (hc : ∀ k g, clGood g → clGood (cf k g)) :
    Keeps r { s with eng := { s.eng with engs := Tab.mapAll EngSt.reset ef s.eng.engs, cls := Tab.mapAll ClSt.reset cf s.eng.cls } } :=
  h.tabs rfl rfl rfl fun c => by
    obtain ⟨⟨a1, a2, a3, a4, a5, a6, a7, a8, a9, b1, b2, b3, b4, b5, b6, a⟩, b, b'⟩ := c
    exact ⟨⟨a1, a2, a3, a4, a5, a6, a7, a8, a9, b1, b2, b3, b4, Tab.wf_mapAll _ b5, Tab.wf_mapAll _ b6, a⟩,
      get_mapAll_all (P := engGood) engGood_reset he _ (mem_of_get b5 b),
      get_mapAll_all (P := clGood) clGood_reset hc _ (mem_of_get b6 b')⟩

theorem wfFrom_append {α : Type} [DecidableEq α] {d : α} {t u : Tab α} {lo : Option Nat} {m : Nat}
    (ht : Tab.wfFrom d lo t = true) (hm : ∀ x ∈ t, x.1 < m) (hlo : ∀ l, lo = some l → l < m) (hu : Tab.wfFrom d (some (m - 1)) u = true)
    (hpos : 0 < m ∨ t = []) (hz : m = 0 → Tab.wfFrom d lo u = true) : Tab.wfFrom d lo (t ++ u) = true := by
  induction t generalizing lo with
  | nil =>
    by_cases h0 : m = 0
    · exact hz h0
    · cases lo with
      | none => exact Tab.wfFrom_none hu
      | some l => exact Tab.wfFrom_mono (by have := hlo l rfl; omega) hu
  | cons x t ih =>
    obtain ⟨j, v⟩ := x
    have hj := hm (j, v) (List.mem_cons_self ..)
    simp only [List.cons_append]
    unfold Tab.wfFrom at ht ⊢
    simp only [Bool.and_eq_true] at ht ⊢
    refine ⟨ht.1, ih ht.2 (fun x hx => hm x (List.mem_cons_of_mem _ hx)) (fun l e => by cases e; exact hj) ?_ ?_⟩
    · left; simp only at hj; omega
    · intro h0; simp only at hj; omega

theorem wfFrom_filter {α : Type} [DecidableEq α] {d : α} {t : Tab α} {lo : Option Nat} (p : Nat × α → Bool)
    (ht : Tab.wfFrom d lo t = true) : Tab.wfFrom d lo (t.filter p) = true := by
  induction t generalizing lo with
  | nil => rfl
  | cons x t ih =>
    obtain ⟨j, v⟩ := x
    have hh := ht
    unfold Tab.wfFrom at ht
    simp only [Bool.and_eq_true] at ht
    simp only [List.filter_cons]
    split
    · unfold Tab.wfFrom; simp only [Bool.and_eq_true]; exact ⟨ht.1, ih ht.2⟩
    · cases lo with
      | none => exact Tab.wfFrom_none (ih ht.2)
      | some l =>
        refine Tab.wfFrom_mono (a := l) ?_ (ih ht.2)
        have := ht.1.1; simp only [decide_eq_true_eq] at this; omega

theorem wfFrom_filter_above {α : Type} [DecidableEq α] {d : α} {t : Tab α} {lo : Option Nat} {m : Nat}
    (ht : Tab.wfFrom d lo t = true) : Tab.wfFrom d (some (m - 1)) (t.filter fun x => decide (m ≤ x.1)) = true ∨ m = 0 := by
  by_cases h0 : m = 0
  · exact .inr h0
  left
  induction t generalizing lo with
  | nil => rfl
  | cons x t ih =>
    obtain ⟨j, v⟩ := x
    have hh := ht
    unfold Tab.wfFrom at ht
    simp only [Bool.and_eq_true] at ht
    simp only [List.filter_cons]
    split
    · rename_i hm
      unfold Tab.wfFrom; simp only [Bool.and_eq_true]
      simp only [decide_eq_true_eq] at hm
      refine ⟨⟨by simp only [decide_eq_true_eq]; omega, ht.1.2⟩, wfFrom_filter _ ht.2⟩
    · exact ih ht.2

theorem wfFrom_span {α : Type} [DecidableEq α] {d v : α} (hv : v ≠ d) (lo n : Nat) (k : Option Nat) (hk : ∀ l, k = some l → l < lo) :
    Tab.wfFrom d k ((span lo n).map fun i => (i, v)) = true := by
  have hs : ∀ n lo, (span lo (n + 1)) = lo :: span (lo + 1) n := by
    intro n lo
    unfold span
    rw [List.range_succ_eq_map]
    simp only [List.map_cons, List.map_map]
    congr 1
    · omega
    · apply List.map_congr_left; intro a _; simp only [Function.comp_apply]; omega
  induction n generalizing lo k with
  | zero => rfl
  | succ n ih =>
    rw [hs]
    simp only [List.map_cons]
    unfold Tab.wfFrom
    simp only [Bool.and_eq_true, decide_eq_true_eq]
    refine ⟨⟨?_, hv⟩, ih (lo + 1) (some lo) fun l e => by cases e; omega⟩
    cases k with
    | none => rfl
    | some l => simp only [decide_eq_true_eq]; exact hk l rfl

theorem msixZero_wf {t : Tab (BitVec 128)} (lo : Nat) (h : Tab.wf msixReset t = true) :
    Tab.wf msixReset (t.filter (fun x => decide (x.1 < lo)) ++ (span lo 8192).map (fun k => (k, (0 : BitVec 128))) ++
      t.filter fun x => decide (lo + 8192 ≤ x.1)) = true := by
  have h0 : (0 : BitVec 128) ≠ msixReset := by decide
  have hu : Tab.wfFrom msixReset (some (lo + 8192 - 1)) (t.filter fun x => decide (lo + 8192 ≤ x.1)) = true :=
    (wfFrom_filter_above (lo := none) (m := lo + 8192) h).resolve_right (by omega)
  have hb : ∀ k, (∀ l, k = some l → l < lo) → Tab.wfFrom msixReset k ((span lo 8192).map (fun k => (k, (0 : BitVec 128))) ++
      t.filter fun x => decide (lo + 8192 ≤ x.1)) = true := by
    intro k hk
    refine wfFrom_append (m := lo + 8192) (wfFrom_span h0 lo 8192 k hk) ?_ (fun l e => by have := hk l e; omega) hu
      (.inl (by omega)) (by omega)
    intro x hx
    obtain ⟨i, hi, rfl⟩ := List.mem_map.1 hx
    unfold span at hi
    obtain ⟨j, hj, rfl⟩ := List.mem_map.1 hi
    have := List.mem_range.1 hj
    simp only; omega
  unfold Tab.wf
  rw [List.append_assoc]
  by_cases hl : lo = 0
  · have : t.filter (fun x => decide (x.1 < lo)) = [] := by
      rw [List.filter_eq_nil_iff]; intro x _; simp [hl]
    rw [this, List.nil_append]; exact hb none (fun l e => by cases e)
  · refine wfFrom_append (m := lo) (wfFrom_filter _ h) ?_ (fun l e => by cases e) (hb _ (fun l e => by cases e; omega))
      (.inl (by omega)) (by omega)
    intro x hx
    have := (List.mem_filter.1 hx).2
    simpa using this

theorem updFlows_kept {r s : State} {t : Tab FlowSt} (h : Keeps r s)
    (ht : Tab.wf FlowSt.reset s.fab.flows = true → Tab.wf FlowSt.reset t = true) :
    Keeps r (updFab s fun x => { x with flows := t }) :=
  h.tabs rfl rfl rfl fun c => by
    obtain ⟨⟨a1, a2, a3, a4, a5, a6, a7, a8, a⟩, b⟩ := c
    exact ⟨⟨a1, a2, a3, a4, a5, a6, a7, ht a8, a⟩, b⟩

theorem storeMsix_kept {r s : State} {t : Tab W64} {m : Tab (BitVec 128)} (h : Keeps r s)
    (ht : Tab.wf (0 : W64) s.brdg.store = true → Tab.wf (0 : W64) t = true)
    (hm : Tab.wf msixReset s.host.msix = true → Tab.wf msixReset m = true) :
    Keeps r { s with brdg := { s.brdg with store := t }, host := { s.host with msix := m } } :=
  h.tabs rfl rfl rfl fun c => by
    obtain ⟨⟨a1, a2, a3, a4, a5, a6, a7, a8, a9, b1, b2, a⟩, b⟩ := c
    exact ⟨⟨a1, a2, a3, a4, a5, hm a6, a7, a8, a9, b1, ht b2, a⟩, b⟩

theorem bistZero_kept {r s : State} {h1 : Half} {b : Nat} (hs : Keeps r s) : Keeps r (bistZero s h1 b) := by
  unfold bistZero
  split
  · exact updFab_kept (kforAll hs fun u x hu => kforAll hu fun u x hu => dropTxn_kept hu) rfl
  · exact zeroFlows_kept (updFlows_kept hs fun c => Tab.wf_mapAll _ c)
  · exact kforAll hs fun u x hu => dropTxn_kept hu
  · refine engines_kept hs (fun k g hg => ?_) fun k g hg => ?_
    · split
      · exact ⟨hg.1, rfl⟩
      · exact hg
    · unfold clGood at hg ⊢
      split <;> split
      all_goals first | exact Tab.wf_keep _ hg | exact hg
  · exact storeMsix_kept hs (fun c => Tab.wf_keep _ c) fun c => msixZero_wf _ c

theorem execBistComplete_kept {r : State} {h1 : Half} {failed : BitVec 5} {addr : W64} {s : State} (hs : Keeps r
    s) :
    ∃ u, execBistComplete h1 failed addr s = .next u ∧ Keeps r u := by
  unfold execBistComplete
  try dsimp only
  repeat' (first
    | with_reducible (
      first
      | assumption | apply bistZero_kept | apply updBist_kept | refine kforAll ?_ ?_)
    | (intro u x hu; try dsimp only) | (intro u hu; try dsimp only) | split
    | (with_reducible refine ⟨_, rfl, ?_⟩))

theorem starveRelease_kept {r s : State} {tgt : Nat} {np : Bool} {c : Nat} (hs : Keeps r s) :
    Keeps r (starveRelease s tgt np c) := by
  unfold starveRelease
  try dsimp only
  repeat' (first
    | with_reducible (
      first
      | assumption | apply advance_kept)
    | (intro u hu; try dsimp only) | split)

theorem starveEnd_kept {r s : State} {i : Nat} (hs : Keeps r s) : Keeps r (starveEnd s i) := by
  unfold starveEnd
  try dsimp only
  repeat' (first
    | with_reducible (
      first
      | assumption | apply starveRelease_kept | apply updTest_kept)
    | (intro u hu; try dsimp only) | split)

theorem execCreditStarvationEnd_kept {r : State} {i : Fin 16} {s : State} (hs : Keeps r s) :
    ∃ u, execCreditStarvationEnd i s = .next u ∧ Keeps r u := by
  unfold execCreditStarvationEnd
  try dsimp only
  repeat' (first
    | with_reducible (
      first
      | assumption | apply starveEnd_kept)
    | (intro u hu; try dsimp only) | split | (with_reducible refine ⟨_, rfl, ?_⟩))

theorem delayMatch_kept {r s : State} {d : Delayed} (hs : Keeps r s) :
    Keeps r (delayMatch s d) := by
  unfold delayMatch
  try dsimp only
  repeat' (first
    | with_reducible (
      first
      | assumption | apply hostCplNow_kept | apply cplNow_kept)
    | (intro u hu; try dsimp only) | split)

theorem delayFollow_kept {r s : State} {n k : Nat} (hs : Keeps r s) : Keeps r (delayFollow n s k) := by
  induction n generalizing s with
  | zero => exact hs
  | succ n ih =>
    unfold delayFollow
    split
    · split
      · exact ih (delayMatch_kept (updTest_kept hs))
      · exact hs
    · exact hs

theorem delayRelease_kept {r s : State} {i : Nat} (hs : Keeps r s) :
    Keeps r (delayRelease s i) := by
  unfold delayRelease
  try dsimp only
  repeat' (first
    | with_reducible (
      first
      | assumption | apply delayFollow_kept | apply delayMatch_kept | apply updTest_kept)
    | (intro u hu; try dsimp only) | split)

theorem execDelayedCompletionRelease_kept {r : State} {i : Fin 16} {s : State} (hs : Keeps r s) :
    ∃ u, execDelayedCompletionRelease i s = .next u ∧ Keeps r u := by
  unfold execDelayedCompletionRelease
  try dsimp only
  repeat' (first
    | with_reducible (
      first
      | assumption | apply delayRelease_kept)
    | (intro u hu; try dsimp only) | split | (with_reducible refine ⟨_, rfl, ?_⟩))

theorem testStop_kept {r s : State} (hs : Keeps r s) : Keeps r (testStop s) := by
  unfold testStop
  try dsimp only
  repeat' (first
    | with_reducible (
      first
      | assumption | apply starveEnd_kept | refine kforAll ?_ ?_)
    | (intro u hu; try dsimp only)
    | (simp only [lit_iff]; with_reducible refine litL_kept ?_ ?_ ?_ ?_ ?_ ?_ ?_ ?_ ?_ ?_)
    | (with_reducible rfl) | split)

theorem execTstStop_kept {r : State} {p : Path} {s : State} (hs : Keeps r s) :
    ∃ u, execTstStop p s = .next u ∧ Keeps r u := by
  unfold execTstStop
  try dsimp only
  repeat' (first
    | with_reducible (
      first
      | assumption | apply regOrObj_kept | apply testStop_kept)
    | (intro u hu; try dsimp only) | split | (with_reducible refine ⟨_, rfl, ?_⟩))

theorem execTapInstructionLoad_kept {r : State} {h1 : Half} {code : Byte} {s : State} (hs : Keeps r s) :
    ∃ u, execTapInstructionLoad h1 code s = .next u ∧ Keeps r u := by
  unfold execTapInstructionLoad
  try dsimp only
  repeat' (first
    | with_reducible (
      first
      | assumption | apply updTest_kept)
    | (intro u hu; try dsimp only) | split | (with_reducible refine ⟨_, rfl, ?_⟩))

theorem execTrstNLow_kept {r s : State} (hs : Keeps r s) :
    ∃ u, execTrstNLow s = .next u ∧ Keeps r u := by
  unfold execTrstNLow
  try dsimp only
  repeat' (first
    | with_reducible (
      first
      | assumption | apply updTest_kept)
    | (intro u hu; try dsimp only) | split | (with_reducible refine ⟨_, rfl, ?_⟩))

theorem execThermtrip_kept {r : State} {h1 : Half} {s : State} (hs : Keeps r s) :
    ∃ u, execThermtrip h1 s = .next u ∧ Keeps r u := by
  unfold execThermtrip
  try dsimp only
  repeat' (first
    | with_reducible (
      first
      | assumption | apply alertOn_kept | apply updSys_kept)
    | (intro u hu; try dsimp only) | split | (with_reducible refine ⟨_, rfl, ?_⟩))

theorem execSysclkAbsent_kept {r s : State} (hs : Keeps r s) :
    ∃ u, execSysclkAbsent s = .next u ∧ Keeps r u := by
  unfold execSysclkAbsent
  try dsimp only
  repeat' (first
    | with_reducible (
      first
      | assumption | apply alertOn_kept | apply updSys_kept)
    | (intro u hu; try dsimp only) | split | (with_reducible refine ⟨_, rfl, ?_⟩))

theorem execClockCheck_kept {r : State} {present : BitVec 10} {s : State} (hs : Keeps r s) :
    ∃ u, execClockCheck present s = .next u ∧ Keeps r u := by
  unfold execClockCheck
  try dsimp only
  repeat' (first
    | with_reducible (
      first
      | assumption | apply updSys_kept | apply onlyIf_kept | apply alertOff_kept | apply emit_kept
        | apply updTime_kept)
    | (intro u hu; try dsimp only) | split | (with_reducible refine ⟨_, rfl, ?_⟩))

/-! ### Cut -/

theorem cutPairs_kept {r o s : State} (ho : Keeps r o) (hs : Keeps r s) :
    Keeps r (cutPairs o s) := by
  unfold cutPairs
  try dsimp only
  repeat' (first
    | with_reducible (
      first
      | assumption | apply updFn_kept | refine kforAll ?_ ?_)
    | (intro u x hu; try dsimp only) | (intro u hu; try dsimp only) | split)

theorem cutLtr_kept {r o s : State} {h1 : Half} (ho : Keeps r o) (hs : Keeps r s) :
    Keeps r (cutLtr o s h1) := by
  unfold cutLtr
  try dsimp only
  repeat' (first
    | with_reducible (
      first
      | assumption | apply sendLtr_kept | refine kforAll ?_ ?_)
    | (intro u hu; try dsimp only) | split)

theorem cutPorts_kept {r s n : State} {h1 : Half} (hs : Keeps r s) (hn : Keeps r n) :
    Keeps r (cutPorts s n h1) := by
  unfold cutPorts
  try dsimp only
  repeat' (first
    | with_reducible (
      first
      | assumption | apply leaveActive_kept | apply updLink_kept | apply toDetect_kept | refine kforAll ?_ ?_)
    | (intro u x hu; try dsimp only) | (intro u hu; try dsimp only) | split)

theorem cutGrants_kept {r o s : State} {h1 : Half} (ho : Keeps r o) (hs : Keeps r s) :
    Keeps r (cutGrants o s h1) := by
  unfold cutGrants
  try dsimp only
  repeat' (first
    | with_reducible (
      first
      | assumption | apply advance_kept | refine kforAll ?_ ?_)
    | (intro u x hu; try dsimp only) | (intro u hu; try dsimp only) | split)

theorem cutWindows_kept {r o s : State} {h1 : Half} (ho : Keeps r o) (hs : Keeps r s) :
    Keeps r (cutWindows o s h1) := by
  unfold cutWindows
  try dsimp only
  repeat' (first
    | with_reducible (
      first
      | assumption | apply pfInvalidate_kept | apply slotInvalidate_kept | refine kforAll ?_ ?_)
    | (intro u x hu; try dsimp only) | (intro u hu; try dsimp only) | split)

theorem cutApplied_kept {r s : State} {h1 : Half} (hs : Keeps r s) : Keeps r (cutApplied s h1) := by
  unfold cutApplied
  try dsimp only
  repeat' (first
    | with_reducible (
      first
      | assumption | apply updLink_kept | refine kforAll ?_ ?_)
    | (intro u x hu; try dsimp only) | (intro u hu; try dsimp only) | split)

theorem cutAppliedWorkers_kept {r s : State} (hs : Keeps r s) : Keeps r (cutAppliedWorkers s) := by
  unfold cutAppliedWorkers
  try dsimp only
  repeat' (first
    | with_reducible (
      first
      | assumption | apply updWorker_kept | refine kforAll ?_ ?_)
    | (intro u x hu; try dsimp only) | (intro u hu; try dsimp only) | split)

theorem cutQueues_kept {r o s : State} {h1 : Half} (ho : Keeps r o) (hs : Keeps r s) :
    Keeps r (cutQueues o s h1) := by
  unfold cutQueues
  try dsimp only
  repeat' (first
    | with_reducible (
      first
      | assumption | apply updDq_kept | refine kforAll ?_ ?_)
    | (intro u x hu; try dsimp only) | (intro u hu; try dsimp only) | split)

theorem flowEnabled_kept {r s : State} {h1 : Half} {f : Nat} (hs : Keeps r s) :
    Keeps r (flowEnabled s h1 f) := by
  unfold flowEnabled
  try dsimp only
  repeat' (first
    | with_reducible (
      first
      | assumption | apply updFlow_kept)
    | (intro u hu; try dsimp only) | split)

theorem flowRetuned_kept {r o s : State} {h1 : Half} {f : Nat} (ho : Keeps r o) (hs : Keeps
    r s) :
    Keeps r (flowRetuned o s h1 f) := by
  unfold flowRetuned
  try dsimp only
  repeat' (first
    | with_reducible (
      first
      | assumption | apply updFlow_kept)
    | (intro u hu; try dsimp only) | split)

theorem cutFlows_kept {r o s : State} {h1 : Half} {snap : Tab (Option Nat)} (ho : Keeps r o)
    (hs : Keeps r s) :
    Keeps r (cutFlows o s h1 snap) := by
  unfold cutFlows
  try dsimp only
  repeat' (first
    | with_reducible (
      first
      | assumption | apply flowRetuned_kept | apply flowEnabled_kept | apply updFlow_kept | refine kforAll ?_ ?_)
    | (intro u x hu; try dsimp only) | (intro u hu; try dsimp only) | split)

theorem cutBrine_kept {r o s : State} {h1 : Half} (ho : Keeps r o) (hs : Keeps r s) :
    Keeps r (cutBrine o s h1) := by
  unfold cutBrine
  try dsimp only
  repeat' (first
    | with_reducible (
      first
      | assumption | apply updBrine_kept)
    | (intro u hu; try dsimp only) | split)

theorem cutSems_kept {r o s : State} {h1 : Half} (ho : Keeps r o) (hs : Keeps r s) :
    Keeps r (cutSems o s h1) := by
  unfold cutSems
  try dsimp only
  repeat' (first
    | with_reducible (
      first
      | assumption | apply semDisable_kept | apply semServe_kept | refine kforAll ?_ ?_)
    | (intro u x hu; try dsimp only) | (intro u hu; try dsimp only) | split)

theorem cutGroups_kept {r o s : State} {h1 : Half} (ho : Keeps r o) (hs : Keeps r s) :
    Keeps r (cutGroups o s h1) := by
  unfold cutGroups
  try dsimp only
  repeat' (first
    | with_reducible (
      first
      | assumption | apply mgRestart_kept | apply updMg_kept | refine kforAll ?_ ?_)
    | (intro u x hu; try dsimp only) | (intro u hu; try dsimp only) | split)

theorem cutWorkers_kept {r o s : State} (ho : Keeps r o) (hs : Keeps r s) :
    Keeps r (cutWorkers o s) := by
  unfold cutWorkers
  try dsimp only
  repeat' (first
    | with_reducible (
      first
      | assumption | apply insertWorker_kept | apply loseWorker_kept | apply tetherCheck_kept
        | refine kforAll ?_ ?_)
    | (intro u x hu; try dsimp only) | (intro u hu; try dsimp only) | split)

theorem cutComparators_kept {r s : State} {snap : Tab (Option Nat)} (hs : Keeps r s) :
    Keeps r (cutComparators s snap) := by
  unfold cutComparators
  try dsimp only
  repeat' (first
    | with_reducible (
      first
      | assumption | apply updTime_kept | refine kforAll ?_ ?_)
    | (intro u x hu; try dsimp only) | (intro u hu; try dsimp only) | split)

theorem cutServo_kept {r o s : State} (ho : Keeps r o) (hs : Keeps r s) :
    Keeps r (cutServo o s) := by
  unfold cutServo
  try dsimp only
  repeat' (first
    | with_reducible (
      first
      | assumption | apply updTime_kept)
    | (intro u hu; try dsimp only) | split)

theorem cutSlots_kept {r o s : State} {h1 : Half} (ho : Keeps r o) (hs : Keeps r s) :
    Keeps r (cutSlots o s h1) := by
  unfold cutSlots
  try dsimp only
  repeat' (first
    | with_reducible (
      first
      | assumption | apply updTest_kept | apply starveRelease_kept | apply tpAct_kept | refine kforAll ?_ ?_)
    | (intro u x hu; try dsimp only) | (intro u hu; try dsimp only) | split)

theorem cutHalf_kept {r o s : State} {h1 : Half} {mask : Nat} {snap : Tab (Option Nat)} (ho
    : Keeps r o) (hs : Keeps r s) :
    Keeps r (cutHalf o s h1 mask snap) := by
  unfold cutHalf
  try dsimp only
  repeat' (first
    | with_reducible (
      first
      | assumption | apply onlyIf_kept | apply cutLtr_kept | apply cutGrants_kept | apply cutApplied_kept
        | apply cutWindows_kept | apply cutFlows_kept | apply cutQueues_kept | apply cutSems_kept
        | apply cutBrine_kept | apply cutGroups_kept | apply svcCut_kept | apply cutSlots_kept | apply evcCut_kept
        | apply intxUpdate_kept | apply settle_kept | apply dqAdvance_kept | refine kforAll ?_ ?_)
    | (intro u hu; try dsimp only) | split)

theorem cutDevice_kept {r o s : State} {h1 : Half} {mask : Nat} {snap : Tab (Option Nat)}
    (ho : Keeps r o) (hs : Keeps r s) :
    Keeps r (cutDevice o s h1 mask snap) := by
  unfold cutDevice
  try dsimp only
  repeat' (first
    | with_reducible (
      first
      | assumption | apply onlyIf_kept | apply cutAppliedWorkers_kept | apply cutPairs_kept | apply cutWorkers_kept
        | apply c0Judge_kept | apply levelGo_kept | apply cutServo_kept | apply cutComparators_kept)
    | (intro u hu; try dsimp only) | split)

theorem actCut_kept {r s : State} {h1 : Half} {lead : Bool} {put : State → State} {mask : Nat} {snap :
    Tab (Option Nat)} (hs : Keeps r s) (hput : ∀ v0, Keeps r v0 → Keeps r (put v0)) :
    Keeps r (actCut s h1 lead put mask snap) := by
  unfold actCut
  try dsimp only
  repeat' (first
    | with_reducible (
      first
      | assumption | apply onlyIf_kept | apply cutPorts_kept | apply cutDevice_kept | apply cutHalf_kept
        | refine hput _ ?_)
    | (intro u hu; try dsimp only) | split)

/-! ### Lanes -/

theorem failAttempt_kept {r s : State} {l : Nat} {downs reason : Option Nat} (hs :
    Keeps r s) :
    Keeps r (failAttempt s l downs reason) := by
  unfold failAttempt
  try dsimp only
  repeat' (first
    | with_reducible (
      first
      | assumption | apply sendDown_kept | apply toDetect_kept | apply updLink_kept)
    | (intro u hu; try dsimp only) | split)

theorem failTrain_kept {r s : State} {l : Nat} (hs : Keeps r s) : Keeps r (failTrain s l) := by
  unfold failTrain
  try dsimp only
  repeat' (first
    | with_reducible (
      first
      | assumption | apply failAttempt_kept)
    | (intro u hu; try dsimp only) | split)

theorem lockLost_kept {r s : State} {l : Nat} (hs : Keeps r s) : Keeps r (lockLost s l) := by
  unfold lockLost
  try dsimp only
  repeat' (first
    | with_reducible (
      first
      | assumption | apply failAttempt_kept | apply leaveActive_kept)
    | (intro u hu; try dsimp only) | split)

theorem execLaneDetectStep_kept {r : State} {n : LaneNo} {found : Bool} {s : State} (hs : Keeps r s) :
    ∃ u, execLaneDetectStep n found s = .next u ∧ Keeps r u := by
  unfold execLaneDetectStep
  try dsimp only
  repeat' (first
    | with_reducible (
      first
      | assumption | apply updLane_kept | apply updLink_kept)
    | (intro u hu; try dsimp only) | split | (with_reducible refine ⟨_, rfl, ?_⟩))

theorem execCdrLock_kept {r : State} {n : LaneNo} {s : State} (hs : Keeps r s) :
    ∃ u, execCdrLock n s = .next u ∧ Keeps r u := by
  unfold execCdrLock
  try dsimp only
  repeat' (first
    | with_reducible (
      first
      | assumption | apply updLane_kept)
    | (intro u hu; try dsimp only) | split | (with_reducible refine ⟨_, rfl, ?_⟩))

theorem marginAbort_kept {r s : State} {n : Nat} (hs : Keeps r s) : Keeps r (marginAbort s n) := by
  unfold marginAbort
  try dsimp only
  repeat' (first
    | with_reducible (
      first
      | assumption | apply updLane_kept)
    | (intro u hu; try dsimp only) | split)

theorem execCdrLockLoss_kept {r : State} {n : LaneNo} {s : State} (hs : Keeps r s) :
    ∃ u, execCdrLockLoss n s = .next u ∧ Keeps r u := by
  unfold execCdrLockLoss
  try dsimp only
  repeat' (first
    | with_reducible (
      first
      | assumption | apply marginAbort_kept | apply updLane_kept)
    | (intro u hu; try dsimp only) | split | (with_reducible refine ⟨_, rfl, ?_⟩))

theorem execAdapted_kept {r : State} {n : LaneNo} {dfe0 dfe1 dfe2 : W32} {ctle : BitVec 5} {s :
    State} (hs : Keeps r s) :
    ∃ u, execAdapted n dfe0 dfe1 dfe2 ctle s = .next u ∧ Keeps r u := by
  unfold execAdapted
  try dsimp only
  repeat' (first
    | with_reducible (
      first
      | assumption | apply updLane_kept)
    | (intro u hu; try dsimp only) | split | (with_reducible refine ⟨_, rfl, ?_⟩))

theorem execPrbsCheckDone_kept {r : State} {n : LaneNo} {errors : Nat} {s : State} (hs : Keeps r s) :
    ∃ u, execPrbsCheckDone n errors s = .next u ∧ Keeps r u := by
  unfold execPrbsCheckDone
  try dsimp only
  repeat' (first
    | with_reducible (
      first
      | assumption | apply updLane_kept)
    | (intro u hu; try dsimp only) | split | (with_reducible refine ⟨_, rfl, ?_⟩))

theorem enterLock_kept {r s : State} {l : Nat} (hs : Keeps r s) : Keeps r (enterLock s l) := by
  unfold enterLock
  try dsimp only
  repeat' (first
    | with_reducible (
      first
      | assumption | apply updLink_kept | apply updSys_kept | apply failAttempt_kept | refine kforAll ?_ ?_)
    | (intro u x hu; try dsimp only) | (intro u hu; try dsimp only) | split)

theorem execTrainingFrame_kept {r : State} {l : LL} {lane_ : Fin 4} {word : W64} {marker : Bool} {inverted :
    Bool} {s : State} (hs : Keeps r s) :
    ∃ u, execTrainingFrame l lane_ word marker inverted s = .next u ∧ Keeps r u := by
  unfold execTrainingFrame
  try dsimp only
  repeat' (first
    | with_reducible (
      first
      | assumption | apply updLane_kept | apply failTrain_kept | apply updLink_kept)
    | (intro u hu; try dsimp only) | split | (with_reducible refine ⟨_, rfl, ?_⟩))

theorem execTrainingFrameSent_kept {r : State} {l : LL} {lane_ : Fin 4} {s : State} (hs : Keeps r s) :
    ∃ u, execTrainingFrameSent l lane_ s = .next u ∧ Keeps r u := by
  unfold execTrainingFrameSent
  try dsimp only
  repeat' (first
    | with_reducible (
      first
      | assumption | apply emit_kept | apply updLink_kept | apply enterLock_kept)
    | (intro u hu; try dsimp only) | split | (with_reducible refine ⟨_, rfl, ?_⟩))

theorem execTrainTimeout_kept {r : State} {l : LL} {s : State} (hs : Keeps r s) :
    ∃ u, execTrainTimeout l s = .next u ∧ Keeps r u := by
  unfold execTrainTimeout
  try dsimp only
  repeat' (first
    | with_reducible (
      first
      | assumption | apply failTrain_kept)
    | (intro u hu; try dsimp only) | split | (with_reducible refine ⟨_, rfl, ?_⟩))

theorem execLockTimeout_kept {r : State} {l : LL} {s : State} (hs : Keeps r s) :
    ∃ u, execLockTimeout l s = .next u ∧ Keeps r u := by
  unfold execLockTimeout
  try dsimp only
  repeat' (first
    | with_reducible (
      first
      | assumption | apply failAttempt_kept)
    | (intro u hu; try dsimp only) | split | (with_reducible refine ⟨_, rfl, ?_⟩))

theorem execExchangeTimeout_kept {r : State} {l : LL} {s : State} (hs : Keeps r s) :
    ∃ u, execExchangeTimeout l s = .next u ∧ Keeps r u := by
  unfold execExchangeTimeout
  try dsimp only
  repeat' (first
    | with_reducible (
      first
      | assumption | apply failAttempt_kept)
    | (intro u hu; try dsimp only) | split | (with_reducible refine ⟨_, rfl, ?_⟩))

theorem execElectricalIdleEnd_kept {r : State} {l : LL} {s : State} (hs : Keeps r s) :
    ∃ u, execElectricalIdleEnd l s = .next u ∧ Keeps r u := by
  unfold execElectricalIdleEnd
  try dsimp only
  repeat' (first
    | with_reducible (
      first
      | assumption | apply updLink_kept)
    | (intro u hu; try dsimp only) | split | (with_reducible refine ⟨_, rfl, ?_⟩))

theorem execSignalLoss_kept {r : State} {n : LaneNo} {s : State} (hs : Keeps r s) :
    ∃ u, execSignalLoss n s = .next u ∧ Keeps r u := by
  unfold execSignalLoss
  try dsimp only
  repeat' (first
    | with_reducible (
      first
      | assumption | apply updLane_kept | apply failTrain_kept | apply lockLost_kept)
    | (intro u hu; try dsimp only) | split | (with_reducible refine ⟨_, rfl, ?_⟩))

theorem codewordGot_kept {r s : State} {n : Nat} {uncorrectable : Bool} {corrected : Nat} (hs : Keeps
    r s) :
    Keeps r (codewordGot s n uncorrectable corrected) := by
  unfold codewordGot
  try dsimp only
  repeat' (first
    | with_reducible (
      first
      | assumption | apply updLane_kept)
    | (intro u hu; try dsimp only) | split)

theorem execCodewordReceive_kept {r : State} {n : LaneNo} {uncorrectable : Bool} {corrected : Nat} {s : State}
    (hs : Keeps r s) :
    ∃ u, execCodewordReceive n uncorrectable corrected s = .next u ∧ Keeps r u := by
  unfold execCodewordReceive
  try dsimp only
  repeat' (first
    | with_reducible (
      first
      | assumption | apply codewordGot_kept | apply everyNth_kept)
    | (intro u hu; try dsimp only) | split | (with_reducible refine ⟨_, rfl, ?_⟩))

theorem execBlockReceive_kept {r : State} {l : LL} {lane_ : Fin 4} {sync : BitVec 2} {content : W64}
    {bufferError : Bool} {s : State} (hs : Keeps r s) :
    ∃ u, execBlockReceive l lane_ sync content bufferError s = .next u ∧ Keeps r u := by
  unfold execBlockReceive
  try dsimp only
  repeat' (first
    | with_reducible (
      first
      | assumption | apply updLane_kept | apply onlyIf_kept | apply bumpR_kept | apply lockLost_kept)
    | (intro u hu; try dsimp only) | split | (with_reducible refine ⟨_, rfl, ?_⟩))

theorem deskew_kept {r s : State} {l : Nat} (hs : Keeps r s) : Keeps r (deskew s l) := by
  unfold deskew
  try dsimp only
  repeat' (first
    | with_reducible (
      first
      | assumption | apply updLane_kept | apply updLink_kept | refine kforAll ?_ ?_)
    | (intro u x hu; try dsimp only) | (intro u hu; try dsimp only) | split)

theorem execAlign_kept {r : State} {l : LL} {lane_ : Fin 4} {content : W64} {skew : Nat} {s : State} (hs : Keeps
    r s) :
    ∃ u, execAlign l lane_ content skew s = .next u ∧ Keeps r u := by
  unfold execAlign
  try dsimp only
  repeat' (first
    | with_reducible (
      first
      | assumption | apply updLane_kept | apply lockLost_kept | apply deskew_kept)
    | (intro u hu; try dsimp only) | split | (with_reducible refine ⟨_, rfl, ?_⟩))

theorem bondReturn_kept {r s : State} {l : Nat} (hs : Keeps r s) : Keeps r (bondReturn s l) := by
  unfold bondReturn
  try dsimp only
  repeat' (first
    | with_reducible (
      first
      | assumption | apply updFab_kept)
    | (intro u hu; try dsimp only) | (with_reducible rfl) | split)

theorem enterActive_kept {r s : State} {l : Nat} (hs : Keeps r s) : Keeps r (enterActive s l) := by
  unfold enterActive
  try dsimp only
  repeat' (first
    | with_reducible (
      first
      | assumption | apply bondReturn_kept | apply updLink_kept | apply creditBlock_kept
        | apply managerConflict_kept | apply insertLink_kept | apply tetherCheck_kept)
    | (intro u hu; try dsimp only) | split)

theorem execCapf_kept {r : State} {l : LL} {frame : List Byte} {s : State} (hs : Keeps r s) :
    ∃ u, execCapf l frame s = .next u ∧ Keeps r u := by
  unfold execCapf
  try dsimp only
  repeat' (first
    | with_reducible (
      first
      | assumption | apply updLink_kept | apply failAttempt_kept)
    | (intro u hu; try dsimp only) | split | (with_reducible refine ⟨_, rfl, ?_⟩))

theorem execCapabilityFrameSent_kept {r : State} {l : LL} {s : State} (hs : Keeps r s) :
    ∃ u, execCapabilityFrameSent l s = .next u ∧ Keeps r u := by
  unfold execCapabilityFrameSent
  try dsimp only
  repeat' (first
    | with_reducible (
      first
      | assumption | apply emit_kept | apply updLink_kept | apply enterActive_kept)
    | (intro u hu; try dsimp only) | split | (with_reducible refine ⟨_, rfl, ?_⟩))

theorem execDown_kept {r : State} {l : LL} {reason : BitVec 8} {s : State} (hs : Keeps r s) :
    ∃ u, execDown l reason s = .next u ∧ Keeps r u := by
  unfold execDown
  try dsimp only
  repeat' (first
    | with_reducible (
      first
      | assumption | apply leaveActive_kept | apply failAttempt_kept)
    | (intro u hu; try dsimp only) | split | (with_reducible refine ⟨_, rfl, ?_⟩))

theorem execBondLaneMoveBack_kept {r : State} {h1 : Half} {group : Fin 7} {f : FlowNo} {s : State} (hs : Keeps r
    s) :
    ∃ u, execBondLaneMoveBack h1 group f s = .next u ∧ Keeps r u := by
  unfold execBondLaneMoveBack
  try dsimp only
  repeat' (first
    | with_reducible (
      first
      | assumption | apply updFab_kept)
    | (intro u hu; try dsimp only) | (with_reducible rfl) | split | (with_reducible refine ⟨_, rfl, ?_⟩))

theorem setCtrl_kept {r s : State} {n lo : Nat} {len v : Nat} (hs : Keeps r s) :
    Keeps r (setCtrl s n lo len v) := by
  unfold setCtrl
  try dsimp only
  repeat' (first
    | with_reducible (
      first
      | assumption | apply updLane_kept | apply sealTouch_kept)
    | (intro u hu; try dsimp only) | split)

theorem setLoop_kept {r s : State} {n v : Nat} (hs : Keeps r s) :
    Keeps r (setLoop s n v) := by
  unfold setLoop
  try dsimp only
  repeat' (first
    | with_reducible (
      first
      | assumption | apply setCtrl_kept | apply updLane_kept | apply leaveActive_kept)
    | (intro u hu; try dsimp only) | split)

theorem execLaneLoopSet_kept {r : State} {p : Path} {n : LaneNo} {v : BitVec 3} {s : State} (hs : Keeps r s) :
    ∃ u, execLaneLoopSet p n v s = .next u ∧ Keeps r u := by
  unfold execLaneLoopSet
  try dsimp only
  repeat' (first
    | with_reducible (
      first
      | assumption | apply regAct_kept | apply setLoop_kept)
    | (intro u hu; try dsimp only) | split | (with_reducible refine ⟨_, rfl, ?_⟩))

theorem execLaneDfeFreeze_kept {r : State} {p : Path} {n : LaneNo} {v : Bool} {s : State} (hs : Keeps r s) :
    ∃ u, execLaneDfeFreeze p n v s = .next u ∧ Keeps r u := by
  unfold execLaneDfeFreeze
  try dsimp only
  repeat' (first
    | with_reducible (
      first
      | assumption | apply regAct_kept | apply setCtrl_kept)
    | (intro u hu; try dsimp only) | split | (with_reducible refine ⟨_, rfl, ?_⟩))

theorem setPrbs_kept {r s : State} {n lo v : Nat} (hs : Keeps r s) :
    Keeps r (setPrbs s n lo v) := by
  unfold setPrbs
  try dsimp only
  repeat' (first
    | with_reducible (
      first
      | assumption | apply setCtrl_kept)
    | (intro u hu; try dsimp only) | split)

theorem execLanePrbsGenSet_kept {r : State} {p : Path} {n : LaneNo} {v : BitVec 2} {s : State} (hs : Keeps r s)
    :
    ∃ u, execLanePrbsGenSet p n v s = .next u ∧ Keeps r u := by
  unfold execLanePrbsGenSet
  try dsimp only
  repeat' (first
    | with_reducible (
      first
      | assumption | apply regAct_kept | apply setPrbs_kept)
    | (intro u hu; try dsimp only) | split | (with_reducible refine ⟨_, rfl, ?_⟩))

theorem execLanePrbsChkSet_kept {r : State} {p : Path} {n : LaneNo} {v : BitVec 2} {s : State} (hs : Keeps r s)
    :
    ∃ u, execLanePrbsChkSet p n v s = .next u ∧ Keeps r u := by
  unfold execLanePrbsChkSet
  try dsimp only
  repeat' (first
    | with_reducible (
      first
      | assumption | apply regAct_kept | apply setPrbs_kept)
    | (intro u hu; try dsimp only) | split | (with_reducible refine ⟨_, rfl, ?_⟩))

theorem execLanePolForceSet_kept {r : State} {p : Path} {n : LaneNo} {force txInv : Bool} {rxInv :
    Bool} {s : State} (hs : Keeps r s) :
    ∃ u, execLanePolForceSet p n force txInv rxInv s = .next u ∧ Keeps r u := by
  unfold execLanePolForceSet
  try dsimp only
  repeat' (first
    | with_reducible (
      first
      | assumption | apply regAct_kept | apply setCtrl_kept)
    | (intro u hu; try dsimp only) | split | (with_reducible refine ⟨_, rfl, ?_⟩))

theorem clearLaneCounts_kept {r s : State} {n : Nat} (hs : Keeps r s) :
    Keeps r (clearLaneCounts s n) := by
  unfold clearLaneCounts
  try dsimp only
  repeat' (first
    | with_reducible (
      first
      | assumption | apply updLane_kept)
    | (intro u hu; try dsimp only) | split)

theorem execLaneCntClr_kept {r : State} {p : Path} {n : LaneNo} {s : State} (hs : Keeps r s) :
    ∃ u, execLaneCntClr p n s = .next u ∧ Keeps r u := by
  unfold execLaneCntClr
  try dsimp only
  repeat' (first
    | with_reducible (
      first
      | assumption | apply regAct_kept | apply clearLaneCounts_kept)
    | (intro u hu; try dsimp only) | split | (with_reducible refine ⟨_, rfl, ?_⟩))

theorem marginGo_kept {r s : State} {n eye : Nat} (hs : Keeps r s) :
    Keeps r (marginGo s n eye) := by
  unfold marginGo
  try dsimp only
  repeat' (first
    | with_reducible (
      first
      | assumption | apply updLane_kept)
    | (intro u hu; try dsimp only) | split)

theorem execMarginStart_kept {r : State} {p : Path} {n : LaneNo} {eye : BitVec 2} {s : State} (hs : Keeps r s) :
    ∃ u, execMarginStart p n eye s = .next u ∧ Keeps r u := by
  unfold execMarginStart
  try dsimp only
  repeat' (first
    | with_reducible (
      first
      | assumption | apply regAct_kept | apply marginGo_kept)
    | (intro u hu; try dsimp only) | split | (with_reducible refine ⟨_, rfl, ?_⟩))

theorem execMarginDone_kept {r : State} {n : LaneNo} {left right : BitVec 6} {top : BitVec 7}
    {bottom : BitVec 7} {s : State} (hs : Keeps r s) :
    ∃ u, execMarginDone n left right top bottom s = .next u ∧ Keeps r u := by
  unfold execMarginDone
  try dsimp only
  repeat' (first
    | with_reducible (
      first
      | assumption | apply updLane_kept)
    | (intro u hu; try dsimp only) | split | (with_reducible refine ⟨_, rfl, ?_⟩))

theorem execLaneMarginingCommand_kept {r : State} {n : LaneNo} {s : State} (hs : Keeps r s) :
    ∃ u, execLaneMarginingCommand n s = .next u ∧ Keeps r u := by
  unfold execLaneMarginingCommand
  try dsimp only
  repeat' (first
    | with_reducible (
      first
      | assumption | apply marginAbort_kept)
    | (intro u hu; try dsimp only) | split | (with_reducible refine ⟨_, rfl, ?_⟩))

/-! ### LinkCmd -/

theorem stateAcked_kept {r s : State} {l : Nat} {p : Pkt} (hs : Keeps r s) :
    Keeps r (stateAcked s l p) := by
  unfold stateAcked
  try dsimp only
  repeat' (first
    | with_reducible (
      first
      | assumption | apply updMg_kept)
    | (intro u hu; try dsimp only) | split)

theorem ackTo_kept {r s : State} {l seq : Nat} (hs : Keeps r s) :
    ∀ u, ackTo s l seq = some u → Keeps r u := by
  intro u hu
  unfold ackTo at hu
  dsimp only at hu
  split at hu
  · cases hu
  · cases hu
    exact kforAll (updLink_kept hs) fun u x hu => stateAcked_kept hu

theorem ackIgnored_kept {r s : State} {l : Nat} (hs : Keeps r s) : Keeps r (ackIgnored s l) := by
  unfold ackIgnored
  try dsimp only
  repeat' (first
    | with_reducible (
      first
      | assumption | apply bumpR_kept)
    | (intro u hu; try dsimp only) | split)

theorem replayAll_kept {r s : State} {l : Nat} (hs : Keeps r s) : Keeps r (replayAll s l) := by
  unfold replayAll
  try dsimp only
  repeat' (first
    | with_reducible (
      first
      | assumption | apply leaveActive_kept | apply bumpR_kept | apply emit_kept | apply updLink_kept
        | refine kforAll ?_ ?_)
    | (intro u x hu; try dsimp only) | (intro u hu; try dsimp only) | split)

theorem execAck_kept {r : State} {l : LL} {seq : BitVec 10} {s : State} (hs : Keeps r s) :
    ∃ u, execAck l seq s = .next u ∧ Keeps r u := by
  unfold execAck
  refine ⟨_, rfl, ?_⟩
  try dsimp only
  split
  · exact hs
  · split
    · rename_i hq
      have hg := ackTo_kept hs _ hq
      exact drainOwed_kept hg
    · exact ackIgnored_kept hs

theorem execNak_kept {r : State} {l : LL} {seq : BitVec 10} {s : State} (hs : Keeps r s) :
    ∃ u, execNak l seq s = .next u ∧ Keeps r u := by
  unfold execNak
  refine ⟨_, rfl, ?_⟩
  try dsimp only
  split
  · exact hs
  · split
    · rename_i hq
      have hg := ackTo_kept hs _ hq
      exact drainOwed_kept (replayAll_kept hg)
    · exact ackIgnored_kept hs

theorem execAckDue_kept {r : State} {l : LL} {s : State} (hs : Keeps r s) :
    ∃ u, execAckDue l s = .next u ∧ Keeps r u := by
  unfold execAckDue
  try dsimp only
  repeat' (first
    | with_reducible (
      first
      | assumption | apply sendAck_kept)
    | (intro u hu; try dsimp only) | split | (with_reducible refine ⟨_, rfl, ?_⟩))

theorem execReplayTimerExpiry_kept {r : State} {l : LL} {s : State} (hs : Keeps r s) :
    ∃ u, execReplayTimerExpiry l s = .next u ∧ Keeps r u := by
  unfold execReplayTimerExpiry
  try dsimp only
  repeat' (first
    | with_reducible (
      first
      | assumption | apply replayAll_kept)
    | (intro u hu; try dsimp only) | split | (with_reducible refine ⟨_, rfl, ?_⟩))

theorem execCredit_kept {r : State} {l : LL} {np : Bool} {c0 c1 c2 : BitVec 12} {c3
    : BitVec 12} {s : State} (hs : Keeps r s) :
    ∃ u, execCredit l np c0 c1 c2 c3 s = .next u ∧ Keeps r u := by
  unfold execCredit
  try dsimp only
  repeat' (first
    | with_reducible (
      first
      | assumption | apply updLink_kept)
    | (intro u hu; try dsimp only) | split | (with_reducible refine ⟨_, rfl, ?_⟩))

theorem execCreditRefresh_kept {r : State} {l : LL} {s : State} (hs : Keeps r s) :
    ∃ u, execCreditRefresh l s = .next u ∧ Keeps r u := by
  unfold execCreditRefresh
  try dsimp only
  repeat' (first
    | with_reducible (
      first
      | assumption | apply creditBlock_kept)
    | (intro u hu; try dsimp only) | split | (with_reducible refine ⟨_, rfl, ?_⟩))

theorem execPause_kept {r : State} {l : LL} {xoff : Bool} {f : FlowNo} {s : State} (hs : Keeps r s) :
    ∃ u, execPause l xoff f s = .next u ∧ Keeps r u := by
  unfold execPause
  try dsimp only
  repeat' (first
    | with_reducible (
      first
      | assumption | apply bumpR_kept | apply updLink_kept)
    | (intro u hu; try dsimp only) | split | (with_reducible refine ⟨_, rfl, ?_⟩))

theorem execPauseRefresh_kept {r : State} {l : LL} {f : FlowNo} {s : State} (hs : Keeps r s) :
    ∃ u, execPauseRefresh l f s = .next u ∧ Keeps r u := by
  unfold execPauseRefresh
  try dsimp only
  repeat' (first
    | with_reducible (
      first
      | assumption | apply emit_kept)
    | (intro u hu; try dsimp only) | split | (with_reducible refine ⟨_, rfl, ?_⟩))

theorem execXoffTimeout_kept {r : State} {l : LL} {f : FlowNo} {s : State} (hs : Keeps r s) :
    ∃ u, execXoffTimeout l f s = .next u ∧ Keeps r u := by
  unfold execXoffTimeout
  try dsimp only
  repeat' (first
    | with_reducible (
      first
      | assumption | apply updLink_kept)
    | (intro u hu; try dsimp only) | split | (with_reducible refine ⟨_, rfl, ?_⟩))

theorem forceDown_kept {r s : State} {l : Nat} {v : Bool} (hs : Keeps r s) :
    Keeps r (forceDown s l v) := by
  unfold forceDown
  try dsimp only
  repeat' (first
    | with_reducible (
      first
      | assumption | apply sealTouch_kept | apply updLink_kept | apply leaveActive_kept | apply toDetect_kept)
    | (intro u hu; try dsimp only) | split)

theorem execLpForceDown_kept {r : State} {p : Path} {l : LL} {v : Bool} {s : State} (hs : Keeps r s) :
    ∃ u, execLpForceDown p l v s = .next u ∧ Keeps r u := by
  unfold execLpForceDown
  try dsimp only
  repeat' (first
    | with_reducible (
      first
      | assumption | apply regAct_kept | apply forceDown_kept)
    | (intro u hu; try dsimp only) | split | (with_reducible refine ⟨_, rfl, ?_⟩))

theorem pingGo_kept {r s : State} {l : Nat} (hs : Keeps r s) : Keeps r (pingGo s l) := by
  unfold pingGo
  dsimp only
  split
  · exact hs
  · split
    · exact hs
    · rename_i tag s1 hq
      have e := congrArg Prod.snd hq
      dsimp only at e
      have h1 : Keeps r s1 := by rw [← e]; exact pickTag_kept hs
      exact linkSend_kept (updLink_kept (updFab_kept h1 rfl))

theorem execPingGo_kept {r : State} {p : Path} {l : LL} {s : State} (hs : Keeps r s) :
    ∃ u, execPingGo p l s = .next u ∧ Keeps r u := by
  unfold execPingGo
  try dsimp only
  repeat' (first
    | with_reducible (
      first
      | assumption | apply regAct_kept | apply pingGo_kept)
    | (intro u hu; try dsimp only) | split | (with_reducible refine ⟨_, rfl, ?_⟩))

theorem clearCounts_kept {r s : State} {keys : List Nat} (hs : Keeps r s) :
    Keeps r (clearCounts s keys) := by
  unfold clearCounts
  refine cnt_kept hs fun c => ?_
  generalize s.cnt = t at c
  induction keys generalizing t with
  | nil => exact c
  | cons k l ih => exact ih _ (Tab.wf_set _ _ c)

theorem execLpCntClr_kept {r : State} {p : Path} {l : LL} {s : State} (hs : Keeps r s) :
    ∃ u, execLpCntClr p l s = .next u ∧ Keeps r u := by
  unfold execLpCntClr
  try dsimp only
  repeat' (first
    | with_reducible (
      first
      | assumption | apply regAct_kept | apply clearCounts_kept)
    | (intro u hu; try dsimp only) | split | (with_reducible refine ⟨_, rfl, ?_⟩))

theorem llRelease_kept {r s : State} {l : Nat} (hs : Keeps r s) : Keeps r (llRelease s l) := by
  unfold llRelease
  try dsimp only
  repeat' (first
    | with_reducible (
      first
      | assumption | apply releaseLink_kept)
    | (intro u hu; try dsimp only) | split)

theorem llFreeze_kept {r s : State} {l : Nat} (hs : Keeps r s) : Keeps r (llFreeze s l) := by
  unfold llFreeze
  try dsimp only
  repeat' (first
    | with_reducible (
      first
      | assumption | apply freezeLink_kept)
    | (intro u hu; try dsimp only) | split)

theorem execErrLlRelease_kept {r : State} {p : Path} {l : LL} {s : State} (hs : Keeps r s) :
    ∃ u, execErrLlRelease p l s = .next u ∧ Keeps r u := by
  unfold execErrLlRelease
  try dsimp only
  repeat' (first
    | with_reducible (
      first
      | assumption | apply regOrObj_kept | apply llRelease_kept)
    | (intro u hu; try dsimp only) | split | (with_reducible refine ⟨_, rfl, ?_⟩))

theorem execErrLlFreeze_kept {r : State} {p : Path} {l : LL} {s : State} (hs : Keeps r s) :
    ∃ u, execErrLlFreeze p l s = .next u ∧ Keeps r u := by
  unfold execErrLlFreeze
  try dsimp only
  repeat' (first
    | with_reducible (
      first
      | assumption | apply regAct_kept | apply llFreeze_kept)
    | (intro u hu; try dsimp only) | split | (with_reducible refine ⟨_, rfl, ?_⟩))

theorem execErrWkRelease_kept {r : State} {p : Path} {d : Fin 16} {s : State} (hs : Keeps r s) :
    ∃ u, execErrWkRelease p d s = .next u ∧ Keeps r u := by
  unfold execErrWkRelease
  try dsimp only
  repeat' (first
    | with_reducible (
      first
      | assumption | apply regOrObj_kept | apply onlyIf_kept | apply releaseWorker_kept)
    | (intro u hu; try dsimp only) | split | (with_reducible refine ⟨_, rfl, ?_⟩))

theorem execFreezeTimeout_kept {r : State} {l : LL} {s : State} (hs : Keeps r s) :
    ∃ u, execFreezeTimeout l s = .next u ∧ Keeps r u := by
  unfold execFreezeTimeout
  try dsimp only
  repeat' (first
    | with_reducible (
      first
      | assumption | apply freezeExpires_kept)
    | (intro u hu; try dsimp only) | split | (with_reducible refine ⟨_, rfl, ?_⟩))

theorem logPop_kept {r s : State} {h1 : Half} (hs : Keeps r s) : Keeps r (logPop s h1) := by
  unfold logPop
  try dsimp only
  repeat' (first
    | with_reducible (
      first
      | assumption)
    | (intro u hu; try dsimp only)
    | (simp only [lit_iff]; with_reducible refine litL_kept ?_ ?_ ?_ ?_ ?_ ?_ ?_ ?_ ?_ ?_)
    | (with_reducible rfl) | split)

theorem execErrLogPop_kept {r : State} {p : Path} {h1 : Half} {s : State} (hs : Keeps r s) :
    ∃ u, execErrLogPop p h1 s = .next u ∧ Keeps r u := by
  unfold execErrLogPop
  try dsimp only
  repeat' (first
    | with_reducible (
      first
      | assumption | apply regAct_kept | apply logPop_kept)
    | (intro u hu; try dsimp only) | split | (with_reducible refine ⟨_, rfl, ?_⟩))

theorem execErrCntClr_kept {r : State} {p : Path} {s : State} (hs : Keeps r s) :
    ∃ u, execErrCntClr p s = .next u ∧ Keeps r u := by
  unfold execErrCntClr
  try dsimp only
  repeat' (first
    | with_reducible (
      first
      | assumption | apply regAct_kept | apply clearCounts_kept)
    | (intro u hu; try dsimp only) | split | (with_reducible refine ⟨_, rfl, ?_⟩))

end Sys2Proof.Machine
end

