-- ==== Sys2Proof/Laws/KeepsDict.lean ====
section
/-! SUPPORT. That each meaning keeps what every step keeps (Laws/Keeps.lean): applies, objects and management frames. -/

namespace Sys2Proof.Machine

set_option linter.unusedVariables false
set_option linter.unusedSimpArgs false

/-! ### Apply -/

theorem bumpW_kept {r s : State} {h1 : Half} {idx sub : Nat} (hs : Keeps r s) :
    Keeps r (bumpW s h1 idx sub) := by
  unfold bumpW; exact cnt_kept hs fun c => Tab.wf_upd _ _ c

theorem applyRequest_kept {r s : State} {e : Half} {pid mask : Nat} {from_ : ApplyFrom} (hs :
    Keeps r s) :
    Keeps r (applyRequest s e pid mask from_).2 := by
  unfold applyRequest
  try dsimp only
  repeat' (first
    | with_reducible (
      first
      | assumption | apply updDict_kept | apply bumpW_kept)
    | (intro u hu; try dsimp only) | split)

theorem sealStart_kept {r s : State} {h1 : Half} (hs : Keeps r s) : Keeps r (sealStart s h1) := by
  unfold sealStart
  try dsimp only
  repeat' (first
    | with_reducible (
      first
      | assumption | apply updDict_kept)
    | (intro u hu; try dsimp only) | split)

theorem putCut_kept {r : State} {h1 : Half} {q : ApplyReq} {lone : Bool} {t : State} (ht : Keeps r t) :
    Keeps r (putCut h1 q lone t) := by
  unfold putCut
  try dsimp only
  repeat' (first
    | with_reducible (
      first
      | assumption | apply updDict_kept)
    | (intro u hu; try dsimp only) | split)

theorem leadCut_kept {r s : State} {h1 : Half} {q : ApplyReq} (hs : Keeps r s) :
    Keeps r (leadCut s h1 q) := by
  unfold leadCut
  try dsimp only
  repeat' (first
    | with_reducible (
      first
      | assumption | apply actCut_kept | apply putCut_kept | apply updDict_kept | apply sealStart_kept)
    | (intro u hu; try dsimp only) | split)

theorem applyEnd_kept {r s : State} {h1 : Half} {res : Nat} {f : Option (Nat × Nat)} {g : DictSt →
    DictSt} (hs : Keeps r s) :
    Keeps r (applyEnd s h1 res f g).1 := by
  unfold applyEnd
  try dsimp only
  repeat' (first
    | with_reducible (
      first
      | assumption | apply onlyIf_kept | apply bumpW_kept | apply updDict_kept)
    | (intro u hu; try dsimp only) | split)

theorem checkEnds_kept {r s : State} {h1 : Half} (hs : Keeps r s) : Keeps r (checkEnds s h1).1 := by
  unfold checkEnds
  try dsimp only
  repeat' (first
    | with_reducible (
      first
      | assumption | apply applyEnd_kept | apply leadCut_kept)
    | (intro u hu; try dsimp only) | split)

theorem followerCut_kept {r s : State} (hs : Keeps r s) : Keeps r (followerCut s) := by
  unfold followerCut
  try dsimp only
  repeat' (first
    | with_reducible (
      first
      | assumption | apply actCut_kept | apply updHalf_kept)
    | (intro u hu; try dsimp only)
    | (simp only [lit_iff]; with_reducible refine litL_kept ?_ ?_ ?_ ?_ ?_ ?_ ?_ ?_ ?_ ?_)
    | (with_reducible rfl) | split)

theorem unconfirmed_kept {r s : State} (hs : Keeps r s) : Keeps r (unconfirmed s).1 := by
  unfold unconfirmed
  try dsimp only
  repeat' (first
    | with_reducible (
      first
      | assumption | apply applyEnd_kept)
    | (intro u hu; try dsimp only) | split)

theorem applyNow_kept {r s : State} {h1 : Half} {q : ApplyReq} (hs : Keeps r s) :
    ∀ u, applyNow s h1 q = .ok u → Keeps r u := by
  intro u hu; unfold applyNow at hu
  try dsimp only at hu
  repeat' (split at hu)
  all_goals (try (first | cases hu | injection hu with hu; subst hu))
  all_goals (try dsimp only)
  all_goals   repeat' (first
    | with_reducible (
      first
      | assumption | apply updDict_kept | apply actCut_kept | apply cutHalf_kept)
    | (intro u hu; try dsimp only) | split)

theorem sealEnds_kept {r s : State} {h1 : Half} {own : Nat → Nat → Bool} (hs : Keeps r s) :
    Keeps r (sealEnds s h1 own) := by
  unfold sealEnds
  try dsimp only
  repeat' (first
    | with_reducible (
      first
      | assumption | apply sealStart_kept | apply updDict_kept | apply bumpW_kept | apply raiseEv_kept)
    | (intro u hu; try dsimp only) | split)

/-! ### Objects -/

theorem shadowWrite_kept {r s : State} {h1 : Half} {pid idx : Nat} {sub grp : Nat} {v
    : Nat} (hs : Keeps r s) :
    Keeps r (shadowWrite s h1 pid idx sub grp v).2 := by
  unfold shadowWrite
  try dsimp only
  repeat' (first
    | with_reducible (
      first
      | assumption | apply bumpW_kept | apply updDict_kept)
    | (intro u hu; try dsimp only) | split)

theorem keepWrite_kept {r s : State} {h1 : Half} {pid off : Nat} {bs : List Byte} (hs : Keeps
    r s) :
    Keeps r (keepWrite s h1 pid off bs).2 := by
  unfold keepWrite
  try dsimp only
  repeat' (first
    | with_reducible (
      first
      | assumption | apply bumpW_kept | apply updDict_kept)
    | (intro u hu; try dsimp only) | split)

theorem folRelease_kept {r s : State} {h1 : Half} (hs : Keeps r s) :
    Keeps r (folRelease s h1).2 := by
  unfold folRelease
  try dsimp only
  repeat' (first
    | with_reducible (
      first
      | assumption | apply bumpW_kept | apply raiseEv_kept | apply updHalf_kept)
    | (intro u hu; try dsimp only) | split)

theorem maskWrite_kept {r s : State} {lo v : Nat} (hs : Keeps r s) :
    Keeps r (maskWrite s lo v) := by
  unfold maskWrite
  try dsimp only
  repeat' (first
    | with_reducible (
      first
      | assumption | apply setMask_kept | refine kforAll ?_ ?_)
    | (intro u x hu; try dsimp only) | (intro u hu; try dsimp only) | split)

theorem rwWrite_kept {r s : State} {e h1 : Half} {idx sub v : Nat} (hs :
    Keeps r s) :
    Keeps r (rwWrite s e h1 idx sub v).2 := by
  have push : ∀ {c : Prop} [Decidable c] {a b : Wr}, Keeps r a.2 → Keeps r b.2 → Keeps r (if c then a else b).2 := by
    intro c _ a b h1 h2; split <;> assumption
  have pushS : ∀ {c : Prop} [Decidable c] {a b : State}, Keeps r a → Keeps r b → Keeps r (if c then a else b) := by
    intro c _ a b h1 h2; split <;> assumption
  unfold rwWrite
  dsimp only
  repeat' (first
    | with_reducible assumption
    | with_reducible apply baseWr_kept
    | with_reducible apply folRelease_kept
    | with_reducible apply switchTo_kept
    | with_reducible apply mgRestart_kept
    | with_reducible apply engRestart_kept
    | with_reducible apply maskWrite_kept
    | with_reducible apply sleepRequest_kept
    | with_reducible apply releaseLink_kept
    | with_reducible apply releaseWorker_kept
    | with_reducible apply bistWrite_kept
    | with_reducible apply push
    | with_reducible apply pushS
    | dsimp only)

theorem woWrite_kept {r s : State} {p : Path} {h1 : Half} {idx sub off : Nat} {bs :
    List Byte} (hs : Keeps r s) :
    Keeps r (woWrite s p h1 idx sub off bs).2 := by
  unfold woWrite
  try dsimp only
  repeat' (first
    | with_reducible (
      first
      | assumption | apply eraseWr_kept | apply windowWr_kept | apply verifyWr_kept | apply activateWr_kept
        | apply confirmWr_kept | apply commitWr_kept | apply revokeWr_kept | apply fuseWr_kept | apply keyWr_kept
        | apply testStop_kept | apply updDict_kept)
    | (intro u hu; try dsimp only) | split)

theorem rwaWrite_kept {r s : State} {e h1 : Half} {pid : Nat} {r1 : OdRow} {idx : Nat} {sub :
    Nat} {off : Nat} {bs : List Byte} (hs : Keeps r s) :
    Keeps r (rwaWrite s e h1 pid r1 idx sub off bs).2 := by
  unfold rwaWrite
  try dsimp only
  repeat' (first
    | with_reducible (
      first
      | assumption | apply dqProd_kept | apply keepWrite_kept | apply shadowWrite_kept)
    | (intro u hu; try dsimp only) | split)

theorem odWrite_kept {r s : State} {p : Path} {from_ : ApplyFrom} {idx sub off : Nat}
    {bs : List Byte} (hs : Keeps r s) :
    Keeps r (odWrite s p from_ idx sub off bs).2 := by
  unfold odWrite
  try dsimp only
  repeat' (first
    | with_reducible (
      first
      | assumption | apply deny_kept | apply rwaWrite_kept | apply rwWrite_kept | apply applyRequest_kept
        | apply woWrite_kept)
    | (intro u hu; try dsimp only) | split)

/-! ### Mdp -/

theorem runOps_kept {r s : State} {n : Nat} {p : Path} {sh : Bool} {mk : List Byte → List Byte → ApplyFrom} {d l : List Byte}
    (hs : Keeps r s) : Keeps r (runOps n s p sh mk d l).1 := by
  induction n generalizing s d l with
  | zero => exact hs
  | succ n ih =>
    unfold runOps
    dsimp only
    split
    · exact hs
    · split
      · split
        · rename_i hq
          have e := congrArg Prod.snd hq
          dsimp only at e
          exact ih (by rw [← e]; exact odWrite_kept hs)
        · rename_i hq
          have e := congrArg Prod.snd hq
          dsimp only at e
          rw [← e]; exact odWrite_kept hs
      · exact ih hs

theorem sendBack_kept {r s : State} {b : Back} {pdu : List Byte} (hs : Keeps r s) :
    Keeps r (sendBack s b pdu) := by
  unfold sendBack
  try dsimp only
  repeat' (first
    | with_reducible (
      first
      | assumption | apply emit_kept | apply onlyIf_kept | apply updMbx_kept)
    | (intro u hu; try dsimp only) | split)

theorem updSess_kept {r s : State} {n : Nat} {f : Sess → Sess} (hs : Keeps r s) :
    Keeps r (updSess s n f) := by
  unfold updSess
  try dsimp only
  repeat' (first
    | with_reducible (
      first
      | assumption | apply updDict_kept)
    | (intro u hu; try dsimp only) | split)

theorem sendSess_kept {r s : State} {b : Back} {x : Sess} {typ seq : Nat} {body : List Byte}
    (hs : Keeps r s) :
    Keeps r (sendSess s b x typ seq body) := by
  unfold sendSess
  try dsimp only
  repeat' (first
    | with_reducible (
      first
      | assumption | apply sendBack_kept | apply updSess_kept)
    | (intro u hu; try dsimp only) | split)

theorem sendAny_kept {r s : State} {b : Back} {sess typ seq : Nat} {body : List Byte}
    (hs : Keeps r s) :
    Keeps r (sendAny s b sess typ seq body) := by
  unfold sendAny
  try dsimp only
  repeat' (first
    | with_reducible (
      first
      | assumption | apply sendSess_kept | apply sendBack_kept)
    | (intro u hu; try dsimp only) | split)

theorem refuse_kept {r s : State} {e : Half} {b : Back} {sess : Option Nat} {pdu : List Byte} {reason
    : Nat} (hs : Keeps r s) :
    Keeps r (refuse s e b sess pdu reason) := by
  unfold refuse
  try dsimp only
  repeat' (first
    | with_reducible (
      first
      | assumption | apply bumpW_kept | apply sendAny_kept | apply sendBack_kept)
    | (intro u hu; try dsimp only) | split)

theorem serveOps_kept {r s : State} {p : Path} {b : Back} {sess : Nat} {hdr : List Byte} {done : List
    Byte} {rest : List Byte} (hs : Keeps r s) :
    Keeps r (serveOps s p b sess hdr done rest) := by
  unfold serveOps
  split
  · rename_i hq
    have e := congrArg Prod.fst hq
    dsimp only at e
    exact sendAny_kept (by rw [← e]; exact runOps_kept hs)
  · rename_i hq
    have e := congrArg Prod.fst hq
    dsimp only at e
    rw [← e]; exact runOps_kept hs

theorem serveRequest_kept {r s : State} {p : Path} {b : Back} {sess : Option Nat} {limit : Nat} {pdu :
    List Byte} (hs : Keeps r s) :
    Keeps r (serveRequest s p b sess limit pdu) := by
  unfold serveRequest
  try dsimp only
  repeat' (first
    | with_reducible (
      first
      | assumption | apply refuse_kept | apply sendAny_kept | apply serveOps_kept)
    | (intro u hu; try dsimp only) | split)

theorem applyResume_kept {r s : State} {from_ : ApplyFrom} {st : Nat} (hs : Keeps r s) :
    Keeps r (applyResume s from_ st) := by
  unfold applyResume
  try dsimp only
  repeat' (first
    | with_reducible (
      first
      | assumption | apply serveOps_kept)
    | (intro u hu; try dsimp only) | split)

theorem resumeWith_kept {r : State} {x : State × Option (ApplyFrom × Nat)} (hs : Keeps r x.1) :
    Keeps r (resumeWith x) := by
  unfold resumeWith
  split
  · exact applyResume_kept hs
  · exact hs

theorem announce_kept {r s : State} {b : Back} {pdu : List Byte} (hs : Keeps r s) :
    Keeps r (announce s b pdu) := by
  unfold announce
  try dsimp only
  repeat' (first
    | with_reducible (
      first
      | assumption | apply sendBack_kept)
    | (intro u hu; try dsimp only) | split)

theorem sessDiscard_kept {r s : State} (hs : Keeps r s) : Keeps r (sessDiscard s) := by
  unfold sessDiscard
  try dsimp only
  repeat' (first
    | with_reducible (
      first
      | assumption | apply bumpW_kept)
    | (intro u hu; try dsimp only) | split)

theorem sessNumber_kept {r s : State} (hs : Keeps r s) : Keeps r (sessNumber s).2 := by
  unfold sessNumber
  try dsimp only
  repeat' (first
    | with_reducible (
      first
      | assumption | apply takeFree_kept)
    | (intro u hu; try dsimp only) | split)

theorem sessOpenReq_kept {r s : State} {b : Back} {pdu : List Byte} (hs : Keeps r s) :
    Keeps r (sessOpenReq s b pdu) := by
  unfold sessOpenReq
  try dsimp only
  repeat' (first
    | with_reducible (
      first
      | assumption | apply refuse_kept | apply sessNumber_kept | apply updDict_kept | apply sendBack_kept)
    | (intro u hu; try dsimp only)
    | (simp only [lit_iff]; with_reducible refine litL_kept ?_ ?_ ?_ ?_ ?_ ?_ ?_ ?_ ?_ ?_)
    | (with_reducible rfl) | split)

theorem proofFailed_kept {r s : State} {n : Nat} (hs : Keeps r s) : Keeps r (proofFailed s n) := by
  unfold proofFailed
  try dsimp only
  repeat' (first
    | with_reducible (
      first
      | assumption | apply updDict_kept | apply bumpW_kept)
    | (intro u hu; try dsimp only) | split)

theorem sessProof_kept {r s : State} {b : Back} {x : Sess} {pdu : List Byte} (hs : Keeps r s) :
    Keeps r (sessProof s b x pdu) := by
  unfold sessProof
  try dsimp only
  repeat' (first
    | with_reducible (
      first
      | assumption | apply refuse_kept | apply proofFailed_kept | apply updDict_kept | apply updSess_kept
        | apply sendBack_kept)
    | (intro u hu; try dsimp only) | split)

theorem sessFrame_kept {r s : State} {b : Back} {x : Sess} {pdu : List Byte} (hs : Keeps r s) :
    Keeps r (sessFrame s b x pdu) := by
  unfold sessFrame
  try dsimp only
  repeat' (first
    | with_reducible (
      first
      | assumption | apply sessDiscard_kept | apply sendBack_kept | apply updSess_kept | apply refuse_kept
        | apply serveRequest_kept | apply sendSess_kept | apply sessEnd_kept)
    | (intro u hu; try dsimp only) | split)

theorem fieldPlain_kept {r s : State} {b : Back} {pdu : List Byte} (hs : Keeps r s) :
    Keeps r (fieldPlain s b pdu) := by
  unfold fieldPlain
  try dsimp only
  repeat' (first
    | with_reducible (
      first
      | assumption | apply refuse_kept | apply announce_kept | apply sessOpenReq_kept | apply sessProof_kept
        | apply sessDiscard_kept | apply serveRequest_kept)
    | (intro u hu; try dsimp only) | split)

theorem fieldFrame_kept {r s : State} {fr : FieldFrame} (hs : Keeps r s) :
    Keeps r (fieldFrame s fr) := by
  unfold fieldFrame
  try dsimp only
  repeat' (first
    | with_reducible (
      first
      | assumption | apply bumpW_kept | apply wakeBy_kept | apply sessFrame_kept | apply fieldPlain_kept)
    | (intro u hu; try dsimp only) | split)

theorem mbxFrame_kept {r s : State} {m : Nat} {live : Bool} {pdu : List Byte} (hs : Keeps r s) :
    Keeps r (mbxFrame s m live pdu) := by
  unfold mbxFrame
  try dsimp only
  repeat' (first
    | with_reducible (
      first
      | assumption | apply refuse_kept | apply serveRequest_kept | apply announce_kept)
    | (intro u hu; try dsimp only) | split)

theorem mbxTake_kept {r s : State} {m : Nat} (hs : Keeps r s) : Keeps r (mbxTake s m) := by
  unfold mbxTake
  try dsimp only
  repeat' (first
    | with_reducible (
      first
      | assumption | apply mbxFrame_kept | apply updMbx_kept)
    | (intro u hu; try dsimp only) | split)

theorem execMdpRequest_kept {r : State} {src : MdpSrc} {s : State} (hs : Keeps r s) :
    ∃ u, execMdpRequest src s = .next u ∧ Keeps r u := by
  unfold execMdpRequest
  try dsimp only
  repeat' (first
    | with_reducible (
      first
      | assumption | apply fieldFrame_kept | apply mbxTake_kept)
    | (intro u hu; try dsimp only) | split | (with_reducible refine ⟨_, rfl, ?_⟩))

theorem frameOf_kept {r : State} {t : Nat} {fr : FieldFrame} {s : State} (hs : Keeps r s) :
    Keeps r (frameOf t fr s) := by
  unfold frameOf
  try dsimp only
  repeat' (first
    | with_reducible (
      first
      | assumption | apply fieldFrame_kept)
    | (intro u hu; try dsimp only) | split)

theorem execDiscover_kept {r : State} {fr : FieldFrame} {s : State} (hs : Keeps r s) :
    ∃ u, execDiscover fr s = .next u ∧ Keeps r u := by
  unfold execDiscover
  try dsimp only
  repeat' (first
    | with_reducible (
      first
      | assumption | apply frameOf_kept)
    | (intro u hu; try dsimp only) | split | (with_reducible refine ⟨_, rfl, ?_⟩))

theorem execOpen_kept {r : State} {fr : FieldFrame} {s : State} (hs : Keeps r s) :
    ∃ u, execOpen fr s = .next u ∧ Keeps r u := by
  unfold execOpen
  try dsimp only
  repeat' (first
    | with_reducible (
      first
      | assumption | apply frameOf_kept)
    | (intro u hu; try dsimp only) | split | (with_reducible refine ⟨_, rfl, ?_⟩))

theorem execProof_kept {r : State} {fr : FieldFrame} {s : State} (hs : Keeps r s) :
    ∃ u, execProof fr s = .next u ∧ Keeps r u := by
  unfold execProof
  try dsimp only
  repeat' (first
    | with_reducible (
      first
      | assumption | apply frameOf_kept)
    | (intro u hu; try dsimp only) | split | (with_reducible refine ⟨_, rfl, ?_⟩))

theorem execClose_kept {r : State} {fr : FieldFrame} {s : State} (hs : Keeps r s) :
    ∃ u, execClose fr s = .next u ∧ Keeps r u := by
  unfold execClose
  try dsimp only
  repeat' (first
    | with_reducible (
      first
      | assumption | apply frameOf_kept)
    | (intro u hu; try dsimp only) | split | (with_reducible refine ⟨_, rfl, ?_⟩))

theorem execChallengeTimeout_kept {r : State} {n : BitVec 16} {s : State} (hs : Keeps r s) :
    ∃ u, execChallengeTimeout n s = .next u ∧ Keeps r u := by
  unfold execChallengeTimeout
  try dsimp only
  repeat' (first
    | with_reducible (
      first
      | assumption | apply updDict_kept)
    | (intro u hu; try dsimp only) | split | (with_reducible refine ⟨_, rfl, ?_⟩))

theorem execProofLockoutEnd_kept {r s : State} (hs : Keeps r s) :
    ∃ u, execProofLockoutEnd s = .next u ∧ Keeps r u := by
  unfold execProofLockoutEnd
  try dsimp only
  repeat' (first
    | with_reducible (
      first
      | assumption | apply updDict_kept)
    | (intro u hu; try dsimp only) | split | (with_reducible refine ⟨_, rfl, ?_⟩))

theorem execSessionIdleTimeout_kept {r : State} {n : BitVec 16} {s : State} (hs : Keeps r s) :
    ∃ u, execSessionIdleTimeout n s = .next u ∧ Keeps r u := by
  unfold execSessionIdleTimeout
  try dsimp only
  repeat' (first
    | with_reducible (
      first
      | assumption | apply sessEnd_kept)
    | (intro u hu; try dsimp only) | split | (with_reducible refine ⟨_, rfl, ?_⟩))

theorem agServed_kept {r s : State} {e : Half} {f : State → Half → State} (hs : Keeps r s) (hf : ∀ v0
    v1, Keeps r v0 → Keeps r (f v0 v1)) :
    Keeps r (agServed s e f) := by
  unfold agServed
  try dsimp only
  repeat' (first
    | with_reducible (
      first
      | assumption | refine hf _ _ ?_)
    | (intro u hu; try dsimp only) | split)

theorem agAct_kept {r s : State} {p : Path} {off sub : Nat} {f : State → Half → State} (hs :
    Keeps r s) (hf : ∀ v0 v1, Keeps r v0 → Keeps r (f v0 v1)) :
    Keeps r (agAct s p off sub f) := by
  unfold agAct
  try dsimp only
  repeat' (first
    | with_reducible (
      first
      | assumption | apply agServed_kept | apply regAct_kept | apply objAct_kept)
    | (intro u hu; try dsimp only) | split)

theorem execAgApply_kept {r : State} {p : Path} {mask : W32} {s : State} (hs : Keeps r s) :
    ∃ u, execAgApply p mask s = .next u ∧ Keeps r u := by
  unfold execAgApply
  try dsimp only
  repeat' (first
    | with_reducible (
      first
      | assumption | apply agAct_kept | apply applyRequest_kept)
    | (intro u x hu; try dsimp only) | (intro u hu; try dsimp only) | split
    | (with_reducible refine ⟨_, rfl, ?_⟩))

theorem execApplyCheckComplete_kept {r : State} {h1 : Half} {s : State} (hs : Keeps r s) :
    ∃ u, execApplyCheckComplete h1 s = .next u ∧ Keeps r u := by
  unfold execApplyCheckComplete
  try dsimp only
  repeat' (first
    | with_reducible (
      first
      | assumption | apply resumeWith_kept | apply checkEnds_kept)
    | (intro u hu; try dsimp only) | split | (with_reducible refine ⟨_, rfl, ?_⟩))

theorem execFollowerCutAct_kept {r s : State} (hs : Keeps r s) :
    ∃ u, execFollowerCutAct s = .next u ∧ Keeps r u := by
  unfold execFollowerCutAct
  try dsimp only
  repeat' (first
    | with_reducible (
      first
      | assumption | apply followerCut_kept)
    | (intro u hu; try dsimp only) | split | (with_reducible refine ⟨_, rfl, ?_⟩))

theorem cutAcked_kept {r s : State} (hs : Keeps r s) : Keeps r (cutAcked s) := by
  unfold cutAcked
  try dsimp only
  repeat' (first
    | with_reducible (
      first
      | assumption | apply resumeWith_kept | apply applyEnd_kept | apply raiseEv_kept | apply updHalf_kept)
    | (intro u hu; try dsimp only)
    | (simp only [lit_iff]; with_reducible refine litL_kept ?_ ?_ ?_ ?_ ?_ ?_ ?_ ?_ ?_ ?_)
    | (with_reducible rfl) | split)

theorem execCutAck_kept {r s : State} (hs : Keeps r s) :
    ∃ u, execCutAck s = .next u ∧ Keeps r u := by
  unfold execCutAck
  try dsimp only
  repeat' (first
    | with_reducible (
      first
      | assumption | apply cutAcked_kept)
    | (intro u hu; try dsimp only) | split | (with_reducible refine ⟨_, rfl, ?_⟩))

theorem execAgDiscard_kept {r : State} {p : Path} {mask : W32} {s : State} (hs : Keeps r s) :
    ∃ u, execAgDiscard p mask s = .next u ∧ Keeps r u := by
  unfold execAgDiscard
  try dsimp only
  repeat' (first
    | with_reducible (
      first
      | assumption | apply agAct_kept | apply updDict_kept)
    | (intro u x hu; try dsimp only) | (intro u hu; try dsimp only) | split
    | (with_reducible refine ⟨_, rfl, ?_⟩))

theorem execAgClaim_kept {r : State} {p : Path} {mask : W32} {s : State} (hs : Keeps r s) :
    ∃ u, execAgClaim p mask s = .next u ∧ Keeps r u := by
  unfold execAgClaim
  try dsimp only
  repeat' (first
    | with_reducible (
      first
      | assumption | apply agAct_kept | apply updDict_kept)
    | (intro u x hu; try dsimp only) | (intro u hu; try dsimp only) | split
    | (with_reducible refine ⟨_, rfl, ?_⟩))

theorem execAgRelease_kept {r : State} {p : Path} {mask : W32} {s : State} (hs : Keeps r s) :
    ∃ u, execAgRelease p mask s = .next u ∧ Keeps r u := by
  unfold execAgRelease
  try dsimp only
  repeat' (first
    | with_reducible (
      first
      | assumption | apply agAct_kept | apply updDict_kept)
    | (intro u x hu; try dsimp only) | (intro u hu; try dsimp only) | split
    | (with_reducible refine ⟨_, rfl, ?_⟩))

theorem execSealPassStart_kept {r : State} {h1 : Half} {s : State} (hs : Keeps r s) :
    ∃ u, execSealPassStart h1 s = .next u ∧ Keeps r u := by
  unfold execSealPassStart
  try dsimp only
  repeat' (first
    | with_reducible (
      first
      | assumption | apply sealStart_kept)
    | (intro u hu; try dsimp only) | split | (with_reducible refine ⟨_, rfl, ?_⟩))

theorem execSealPassComplete_kept {r : State} {h1 : Half} {s : State} (hs : Keeps r s) :
    ∃ u, execSealPassComplete h1 s = .next u ∧ Keeps r u := by
  unfold execSealPassComplete
  try dsimp only
  repeat' (first
    | with_reducible (
      first
      | assumption | apply sealEnds_kept)
    | (intro u hu; try dsimp only) | split | (with_reducible refine ⟨_, rfl, ?_⟩))

end Sys2Proof.Machine
end

