-- ==== Sys2Proof/Laws/KeepsStart.lean ====
section
/-! SUPPORT. That each meaning keeps what every step keeps (Laws/Keeps.lean): the die link, start-up, exit from sleep, registers and host memory accesses. -/

namespace Sys2Proof.Machine

set_option linter.unusedVariables false
set_option linter.unusedSimpArgs false

/-! ### DieLink -/

theorem dropCrossing_kept {r s : State} {t : Txn} (hs : Keeps r s) :
    Keeps r (dropCrossing s t) := by
  unfold dropCrossing
  try dsimp only
  repeat' (first
    | with_reducible (
      first
      | assumption | apply bump_kept | apply endTxn_kept | apply updSrc_kept)
    | (intro u hu; try dsimp only) | split)

theorem cplCrossing_kept {r s : State} {t : Txn} (hs : Keeps r s) : Keeps r (cplCrossing s t) := by
  unfold cplCrossing
  try dsimp only
  repeat' (first
    | with_reducible (
      first
      | assumption | apply bump_kept | apply dropTxn_kept | apply updReq_kept | apply addTxn_kept)
    | (intro u hu; try dsimp only) | split)

theorem detach_kept {r s : State} {ef : Nat → EngSt → EngSt} {sf : Nat → SemSt → SemSt} (h : Keeps r s)
    (he : ∀ k g, engGood g → engGood (ef k g)) :
    Keeps r { s with eng := { s.eng with engs := Tab.mapAll EngSt.reset ef s.eng.engs },
                     brdg := { s.brdg with sems := Tab.mapAll SemSt.reset sf s.brdg.sems } } :=
  h.tabs rfl rfl rfl fun c => by
    obtain ⟨⟨a1, a2, a3, a4, a5, a6, a7, a8, a9, b1, b2, b3, b4, b5, a⟩, b, b'⟩ := c
    exact ⟨⟨a1, a2, a3, a4, a5, a6, a7, a8, Tab.wf_mapAll _ a9, b1, b2, b3, b4, Tab.wf_mapAll _ b5, a⟩,
      get_mapAll_all (P := engGood) engGood_reset he _ (mem_of_get b5 b), b'⟩

theorem reqDetach_kept {r s : State} {q : Req} (hs : Keeps r s) : Keeps r (reqDetach s q) := by
  unfold reqDetach
  dsimp only
  refine detach_kept (updFab_kept hs rfl) fun k g hg => ?_
  split
  · exact hg
  · exact ⟨hg.1, hg.2⟩

theorem reqCrossEnds_kept {r s : State} {r1 : Req} (hs : Keeps r s) :
    Keeps r (reqCrossEnds s r1) := by
  unfold reqCrossEnds
  try dsimp only
  repeat' (first
    | with_reducible (
      first
      | assumption | apply bump_kept | apply reqDetach_kept | apply failPart_kept | refine kforAll ?_ ?_)
    | (intro u x hu; try dsimp only) | (intro u hu; try dsimp only) | split)

theorem dieEnds_kept {r s : State} (hs : Keeps r s) : Keeps r (dieEnds s) := by
  unfold dieEnds
  try dsimp only
  repeat' (first
    | with_reducible (
      first
      | assumption | apply dropCrossing_kept | apply cplCrossing_kept | apply reqCrossEnds_kept
        | apply retryHalf_kept | apply settle_kept | refine kforAll ?_ ?_)
    | (intro u x hu; try dsimp only) | (intro u hu; try dsimp only) | split)

theorem bothHalves_kept {r s : State} {f : HalfSt → HalfSt} (hs : Keeps r s) :
    Keeps r (bothHalves s f) := by
  unfold bothHalves
  try dsimp only
  repeat' (first
    | with_reducible (
      first
      | assumption | apply updHalf_kept)
    | (intro u hu; try dsimp only) | split)

theorem dieDown_kept {r s : State} {why : Nat} (hs : Keeps r s) : Keeps r (dieDown s why) := by
  unfold dieDown
  try dsimp only
  repeat' (first
    | with_reducible (
      first
      | assumption | apply bothHalves_kept | apply raiseEv_kept | apply bumpW_kept | apply resumeWith_kept
        | apply unconfirmed_kept | apply dieEnds_kept)
    | (intro u hu; try dsimp only)
    | (simp only [lit_iff]; with_reducible refine litL_kept ?_ ?_ ?_ ?_ ?_ ?_ ?_ ?_ ?_ ?_)
    | (with_reducible rfl) | split)

theorem dieTryUp_kept {r s : State} (hs : Keeps r s) : Keeps r (dieTryUp s) := by
  unfold dieTryUp
  try dsimp only
  repeat' (first
    | with_reducible (
      first
      | assumption | apply bothHalves_kept | apply raiseEv_kept)
    | (intro u hu; try dsimp only)
    | (simp only [lit_iff]; with_reducible refine litL_kept ?_ ?_ ?_ ?_ ?_ ?_ ?_ ?_ ?_ ?_)
    | (with_reducible rfl) | split)

theorem execHeartbeatSend_kept {r : State} {h1 : Half} {s : State} (hs : Keeps r s) :
    ∃ u, execHeartbeatSend h1 s = .next u ∧ Keeps r u := by
  unfold execHeartbeatSend
  try dsimp only
  repeat' (first
    | with_reducible (
      first
      | assumption | apply emit_kept)
    | (intro u hu; try dsimp only) | split | (with_reducible refine ⟨_, rfl, ?_⟩))

theorem execHeartbeatReceive_kept {r : State} {h1 : Half} {s : State} (hs : Keeps r s) :
    ∃ u, execHeartbeatReceive h1 s = .next u ∧ Keeps r u := by
  unfold execHeartbeatReceive
  try dsimp only
  repeat' (first
    | with_reducible (
      first
      | assumption | apply dieTryUp_kept | apply updHalf_kept)
    | (intro u hu; try dsimp only) | split | (with_reducible refine ⟨_, rfl, ?_⟩))

theorem execHeartbeatTimeout_kept {r : State} {h1 : Half} {s : State} (hs : Keeps r s) :
    ∃ u, execHeartbeatTimeout h1 s = .next u ∧ Keeps r u := by
  unfold execHeartbeatTimeout
  try dsimp only
  repeat' (first
    | with_reducible (
      first
      | assumption | apply dieDown_kept)
    | (intro u hu; try dsimp only) | split | (with_reducible refine ⟨_, rfl, ?_⟩))

theorem execDieLinkCrcFail_kept {r : State} {h1 : Half} {xfer : Nat} {s : State} (hs : Keeps r s) :
    ∃ u, execDieLinkCrcFail h1 xfer s = .next u ∧ Keeps r u := by
  unfold execDieLinkCrcFail
  try dsimp only
  repeat' (first
    | with_reducible (
      first
      | assumption | apply dieDown_kept | apply updHalf_kept)
    | (intro u hu; try dsimp only) | split | (with_reducible refine ⟨_, rfl, ?_⟩))

theorem execDieLinkRetrain_kept {r : State} {h1 : Half} {ok : Bool} {s : State} (hs : Keeps r s) :
    ∃ u, execDieLinkRetrain h1 ok s = .next u ∧ Keeps r u := by
  unfold execDieLinkRetrain
  try dsimp only
  repeat' (first
    | with_reducible (
      first
      | assumption | apply updHalf_kept)
    | (intro u hu; try dsimp only) | split | (with_reducible refine ⟨_, rfl, ?_⟩))

theorem orphan_kept {r s : State} {f : Half} (hs : Keeps r s) : Keeps r (orphan s f) := by
  unfold orphan
  try dsimp only
  repeat' (first
    | with_reducible (
      first
      | assumption | apply updHalf_kept | apply freezeLink_kept | apply raiseEv_kept | apply bumpW_kept
        | refine kforAll ?_ ?_)
    | (intro u x hu; try dsimp only) | (intro u hu; try dsimp only) | split)

theorem execOrphanTimeout_kept {r s : State} (hs : Keeps r s) :
    ∃ u, execOrphanTimeout s = .next u ∧ Keeps r u := by
  unfold execOrphanTimeout
  try dsimp only
  repeat' (first
    | with_reducible (
      first
      | assumption | apply raiseEv_kept | apply bothHalves_kept | apply orphan_kept | apply updHalf_kept)
    | (intro u hu; try dsimp only) | split | (with_reducible refine ⟨_, rfl, ?_⟩))

theorem execFollowerRelease_kept {r : State} {p : Path} {v : Bool} {s : State} (hs : Keeps r s) :
    ∃ u, execFollowerRelease p v s = .next u ∧ Keeps r u := by
  unfold execFollowerRelease
  try dsimp only
  repeat' (first
    | with_reducible (
      first
      | assumption | apply objAct_kept | apply folRelease_kept)
    | (intro u hu; try dsimp only) | split | (with_reducible refine ⟨_, rfl, ?_⟩))

/-! ### Boot -/

theorem resetAll_kept {r s : State} (hs : Keeps r s) : Keeps r (resetAll s) := by
  unfold resetAll
  refine ⟨hs.1, hs.2.1, ?_, fun _ => ⟨⟨rfl, rfl, rfl, rfl, rfl, rfl, rfl, rfl, rfl, rfl, rfl, rfl, rfl, rfl, rfl, rfl, rfl⟩,
    fun _ => ⟨rfl, rfl⟩, fun _ => rfl⟩⟩
  dsimp only
  split
  · exact hs.2.2.1
  · exact hs.2.2.1

theorem execResetNAssert_kept {r : State} {durNs : Nat} {s : State} (hs : Keeps r s) :
    ∃ u, execResetNAssert durNs s = .next u ∧ Keeps r u := by
  unfold execResetNAssert
  try dsimp only
  repeat' (first
    | with_reducible (
      first
      | assumption | apply resetAll_kept | apply takeFree_kept)
    | (intro u hu; try dsimp only) | split | (with_reducible refine ⟨_, rfl, ?_⟩))

theorem setOwnSlot_kept {r s : State} {h1 : Half} {sl : Nat} {st : SlotState} {att : Nat} (hs : Keeps
    r s) :
    Keeps r (setOwnSlot s h1 sl st att) := by
  unfold setOwnSlot
  try dsimp only
  repeat' (first
    | with_reducible (
      first
      | assumption | apply updFlash_kept)
    | (intro u hu; try dsimp only) | split)

theorem trySlots_kept {r s : State} {h1 : Half} {l : List Nat} {fb : Bool} (hs : Keeps r s) :
    Keeps r (trySlots h1 l s fb).2.2 := by
  induction l generalizing s fb with
  | nil => exact hs
  | cons x l ih =>
    unfold trySlots
    dsimp only
    repeat' (first
      | exact hs
      | with_reducible apply ih
      | with_reducible apply setOwnSlot_kept
      | split)

theorem applyAg02_kept {r s : State} {h1 : Half} (hs : Keeps r s) : Keeps r (applyAg02 s h1) := by
  unfold applyAg02
  try dsimp only
  repeat' (first
    | with_reducible (
      first
      | assumption | apply updDict_kept | apply updHalf_kept)
    | (intro u hu; try dsimp only) | split)

theorem releasePorts_kept {r s : State} {h1 : Half} (hs : Keeps r s) :
    Keeps r (releasePorts s h1) := by
  unfold releasePorts
  try dsimp only
  repeat' (first
    | with_reducible (
      first
      | assumption | apply updSys_kept | apply updHl_kept | apply updFn_kept | refine kforAll ?_ ?_)
    | (intro u x hu; try dsimp only) | (intro u hu; try dsimp only) | split)

theorem slotChosen_kept {r s : State} {h1 : Half} {r1 : Option Nat × Bool} (hs : Keeps r s) :
    Keeps r (slotChosen s h1 r1) := by
  unfold slotChosen
  try dsimp only
  repeat' (first
    | with_reducible (
      first
      | assumption | apply updHalf_kept | apply releasePorts_kept | apply applyAg02_kept)
    | (intro u hu; try dsimp only) | split)

theorem starterGo_kept {r s : State} {h1 : Half} (hs : Keeps r s) : Keeps r (starterGo s h1) := by
  unfold starterGo
  try dsimp only
  repeat' (first
    | with_reducible (
      first
      | assumption | apply updHalf_kept | apply updDict_kept | apply slotChosen_kept | apply trySlots_kept)
    | (intro u hu; try dsimp only) | split)

theorem startersGo_kept {r s : State} (hs : Keeps r s) : Keeps r (startersGo s) := by
  unfold startersGo
  try dsimp only
  repeat' (first
    | with_reducible (
      first
      | assumption | apply updTime_kept | apply updSys_kept | apply starterGo_kept)
    | (intro u hu; try dsimp only) | split)

theorem upInterrupted_kept {r s : State} {h1 : Half} (hs : Keeps r s) :
    Keeps r (upInterrupted s h1) := by
  unfold upInterrupted
  try dsimp only
  repeat' (first
    | with_reducible (
      first
      | assumption | apply setOwnSlot_kept)
    | (intro u hu; try dsimp only) | split)

theorem execResetNRise_kept {r : State} {sa sb : Straps} {s : State} (hs : Keeps r s) :
    ∃ u, execResetNRise sa sb s = .next u ∧ Keeps r u := by
  unfold execResetNRise
  try dsimp only
  repeat' (first
    | with_reducible (
      first
      | assumption | apply updSys_kept | apply alertOff_kept | apply alertOn_kept | apply upInterrupted_kept
        | apply startersGo_kept | apply updNv_kept)
    | (intro u hu; try dsimp only) | (with_reducible rfl) | split | (with_reducible refine ⟨_, rfl, ?_⟩))

theorem unresolve_kept {r s : State} {h1 : Half} (hs : Keeps r s) : Keeps r (unresolve s h1) := by
  unfold unresolve
  try dsimp only
  repeat' (first
    | with_reducible (
      first
      | assumption | apply updHalf_kept | apply raiseEv_kept)
    | (intro u hu; try dsimp only)
    | (simp only [lit_iff]; with_reducible refine litL_kept ?_ ?_ ?_ ?_ ?_ ?_ ?_ ?_ ?_ ?_)
    | (with_reducible rfl) | split)

theorem followChoice_kept {r s : State} {l f : Half} (hs : Keeps r s) :
    Keeps r (followChoice s l f) := by
  unfold followChoice
  try dsimp only
  repeat' (first
    | with_reducible (
      first
      | assumption | apply updHalf_kept)
    | (intro u hu; try dsimp only) | split)

theorem execTokenExchange_kept {r s : State} (hs : Keeps r s) :
    ∃ u, execTokenExchange s = .next u ∧ Keeps r u := by
  unfold execTokenExchange
  try dsimp only
  repeat' (first
    | with_reducible (
      first
      | assumption | apply updHalf_kept | apply unresolve_kept | apply followChoice_kept)
    | (intro u hu; try dsimp only) | split | (with_reducible refine ⟨_, rfl, ?_⟩))

theorem execLeadExchangeTimeout_kept {r : State} {h1 : Half} {s : State} (hs : Keeps r s) :
    ∃ u, execLeadExchangeTimeout h1 s = .next u ∧ Keeps r u := by
  unfold execLeadExchangeTimeout
  try dsimp only
  repeat' (first
    | with_reducible (
      first
      | assumption | apply raiseEv_kept | apply updHalf_kept | apply unresolve_kept)
    | (intro u hu; try dsimp only) | split | (with_reducible refine ⟨_, rfl, ?_⟩))

theorem firmwareOwn_kept {r s : State} {h1 : Half} (hs : Keeps r s) :
    Keeps r (firmwareOwn s h1) := by
  unfold firmwareOwn
  try dsimp only
  repeat' (first
    | with_reducible (
      first
      | assumption | apply updHalf_kept | apply trySlots_kept | apply setOwnSlot_kept | apply slotChosen_kept
        | apply followChoice_kept)
    | (intro u hu; try dsimp only) | split)

theorem execFirmwareLoaded_kept {r : State} {h1 : Half} {s : State} (hs : Keeps r s) :
    ∃ u, execFirmwareLoaded h1 s = .next u ∧ Keeps r u := by
  unfold execFirmwareLoaded
  try dsimp only
  repeat' (first
    | with_reducible (
      first
      | assumption | apply updHalf_kept | apply firmwareOwn_kept)
    | (intro u hu; try dsimp only) | split | (with_reducible refine ⟨_, rfl, ?_⟩))

theorem applyRecord_kept {r s : State} {h1 : Half} (hs : Keeps r s) :
    Keeps r (applyRecord s h1).1 := by
  unfold applyRecord
  dsimp only
  split
  · exact hs
  · split
    · exact hs
    · split
      · rename_i hq
        exact sealStart_kept (bumpW_kept (updDict_kept (applyNow_kept hs _ hq)))
      · exact updDict_kept hs

theorem levelStart_kept {r s : State} (hs : Keeps r s) : Keeps r (levelStart s) := by
  unfold levelStart
  try dsimp only
  repeat' (first
    | with_reducible (
      first
      | assumption | apply levelHold_kept | apply updPwr_kept | apply c0Judge_kept | apply emit_kept)
    | (intro u hu; try dsimp only) | split)

theorem romFill_kept {r s : State} {h1 : Half} (hs : Keeps r s) : Keeps r (romFill s h1) := by
  unfold romFill
  try dsimp only
  repeat' (first
    | with_reducible (
      first
      | assumption | apply updSys_kept | apply updHalf_kept)
    | (intro u hu; try dsimp only) | split)

theorem brineStart_kept {r s : State} {h1 : Half} {failed : Bool} (hs : Keeps r s) :
    Keeps r (brineStart s h1 failed) := by
  unfold brineStart
  try dsimp only
  repeat' (first
    | with_reducible (
      first
      | assumption | apply updBrine_kept)
    | (intro u hu; try dsimp only) | split)

theorem sendDrs_kept {r s : State} {h1 : Half} (hs : Keeps r s) : Keeps r (sendDrs s h1) := by
  unfold sendDrs
  try dsimp only
  repeat' (first
    | with_reducible (
      first
      | assumption | apply tlpOut_kept | apply updHl_kept | refine kforAll ?_ ?_)
    | (intro u x hu; try dsimp only) | (intro u hu; try dsimp only) | split)

theorem bootDoneNow_kept {r s : State} {h1 : Half} {boot : Boot} {record : Nat} (hs : Keeps r s) :
    Keeps r (bootDoneNow s h1 boot record) := by
  unfold bootDoneNow
  try dsimp only
  repeat' (first
    | with_reducible (
      first
      | assumption | apply sendDrs_kept | apply updHalf_kept)
    | (intro u hu; try dsimp only) | split)

theorem completeOwn_kept {r s : State} {h1 : Half} (hs : Keeps r s) :
    Keeps r (completeOwn s h1) := by
  unfold completeOwn
  try dsimp only
  repeat' (first
    | with_reducible (
      first
      | assumption | apply applyRecord_kept | apply updHalf_kept | apply levelStart_kept | apply bootDoneNow_kept
        | apply romFill_kept | apply brineStart_kept)
    | (intro u hu; try dsimp only) | split)

theorem execStartupComplete_kept {r : State} {h1 : Half} {s : State} (hs : Keeps r s) :
    ∃ u, execStartupComplete h1 s = .next u ∧ Keeps r u := by
  unfold execStartupComplete
  try dsimp only
  repeat' (first
    | with_reducible (
      first
      | assumption | apply bootDoneNow_kept | apply alertOn_kept | apply romFill_kept | apply brineStart_kept
        | apply completeOwn_kept)
    | (intro u hu; try dsimp only) | split | (with_reducible refine ⟨_, rfl, ?_⟩))

/-! ### SleepExit -/

theorem updEng_kept' {r s : State} {n : Nat} {f : EngSt → EngSt} (h : Keeps r s)
    (hf : canonical s → ∀ g, engGood g → engGood (f g)) : Keeps r (updEng s n f) :=
  h.tabs rfl rfl rfl fun c => (updEng_kept (r := s) Keeps.rfl (hf c)).2.2.2 c

theorem engResume_kept {r s : State} {e : Nat} (hs : Keeps r s) : Keeps r (engResume s e) := by
  unfold engResume
  dsimp only
  split
  · refine updEng_kept' hs fun c g _ => ?_
    split
    · exact c.2.1 e
    · exact ⟨List.length_replicate, (c.2.1 e).2⟩
  · split
    · exact updEng_kept' hs fun c g _ => ⟨List.length_replicate, (c.2.1 e).2⟩
    · refine updEng_kept' hs fun c g _ => ⟨?_, (c.2.1 e).2⟩
      simp only [List.length_set, List.length_replicate]

theorem flopsGone_kept {r s : State} (hs : Keeps r s) : Keeps r (flopsGone s) := by
  unfold flopsGone
  refine hs.tabs rfl rfl rfl fun c => ?_
  obtain ⟨⟨a1, a2, a3, a4, a5, a6, a7, a8, a9, b1, b2, b3, b4, b5, b6, b7, b8⟩, b⟩ := c
  exact ⟨⟨rfl, Tab.wf_mapAll _ a2, a3, a4, a5, a6, a7, a8, rfl, rfl, b2, Tab.wf_mapAll _ b3, Tab.wf_mapAll _ b4, b5, b6, b7,
    Tab.wf_keep _ b8⟩, b⟩

theorem flopsLost_kept {r s : State} (hs : Keeps r s) : Keeps r (flopsLost s) := by
  unfold flopsLost
  try dsimp only
  repeat' (first
    | with_reducible (
      first
      | assumption | apply flopsGone_kept | apply hlReinit_kept | apply engResume_kept | apply svDeal_kept
        | apply sealStart_kept | refine kforAll ?_ ?_)
    | (intro u x hu; try dsimp only) | (intro u hu; try dsimp only) | split)

theorem rindLeft_kept {r s : State} (hs : Keeps r s) : Keeps r (rindLeft s) := by
  unfold rindLeft
  exact ⟨hs.1, hs.2.1, hs.2.2.1, fun c => ⟨⟨rfl, rfl, rfl, rfl, rfl, rfl, rfl, rfl, rfl, rfl, rfl, rfl, rfl, rfl, rfl, rfl,
    Tab.wf_keep _ (hs.2.2.2 c).1.2.2.2.2.2.2.2.2.2.2.2.2.2.2.2.2⟩, fun _ => ⟨rfl, rfl⟩, fun _ => rfl⟩⟩

theorem exitStarter_kept {r s : State} (hs : Keeps r s) : Keeps r (exitStarter s) := by
  unfold exitStarter
  try dsimp only
  repeat' (first
    | with_reducible (
      first
      | assumption | apply startersGo_kept | apply rindLeft_kept)
    | (intro u hu; try dsimp only) | split)

theorem execAvsResponse_kept {r : State} {fr : AvsFrame} {s : State} (hs : Keeps r s) :
    ∃ u, execAvsResponse fr s = .next u ∧ Keeps r u := by
  unfold execAvsResponse
  try dsimp only
  repeat' (first
    | with_reducible (
      first
      | assumption | apply updPwr_kept | apply avsAcked_kept | apply exitStarter_kept)
    | (intro u hu; try dsimp only) | split | (with_reducible refine ⟨_, rfl, ?_⟩))

theorem timeRestore_kept {r s : State} (hs : Keeps r s) : Keeps r (timeRestore s) := by
  unfold timeRestore
  try dsimp only
  repeat' (first
    | with_reducible (
      first
      | assumption | apply updTime_kept | apply timeStepped_kept)
    | (intro u hu; try dsimp only) | split)

theorem keepRestore_kept {r s : State} (hs : Keeps r s) : Keeps r (keepRestore s) := by
  unfold keepRestore
  dsimp only
  split
  · exact updPwr_kept hs
  · generalize hes : (if stewardUp s (rindHalf s) = true then s.pwr.cave.nominated else []) = z
    clear hes
    split
    · exact updPwr_kept hs
    · split
      · rename_i hq
        exact updPwr_kept (sealStart_kept (updDict_kept (applyNow_kept hs _ hq)))
      · repeat' (first
    | with_reducible (
      first
      | assumption | apply updPwr_kept | apply updDict_kept | apply raiseEv_kept)
    | (intro u hu; try dsimp only) | split)

theorem exitDone_kept {r s : State} (hs : Keeps r s) : Keeps r (exitDone s) := by
  unfold exitDone
  try dsimp only
  repeat' (first
    | with_reducible (
      first
      | assumption | apply updPwr_kept | apply residence_kept | apply putCount_kept | apply bump_kept
        | apply raiseEv_kept)
    | (intro u hu; try dsimp only) | split)

theorem execSleepExitComplete_kept {r s : State} (hs : Keeps r s) :
    ∃ u, execSleepExitComplete s = .next u ∧ Keeps r u := by
  unfold execSleepExitComplete
  try dsimp only
  repeat' (first
    | with_reducible (
      first
      | assumption | apply exitDone_kept | apply timeRestore_kept | apply flopsLost_kept | apply exitStarter_kept
        | apply keepRestore_kept)
    | (intro u hu; try dsimp only) | split | (with_reducible refine ⟨_, rfl, ?_⟩))

/-! ### Regs -/

theorem regVal_kept {r s : State} {p : Path} {r1 : Reg} (hs : Keeps r s) :
    Keeps r (regVal s p r1).2 := by
  unfold regVal
  try dsimp only
  repeat' (first
    | with_reducible (
      first
      | assumption | apply takeFree_kept)
    | (intro u hu; try dsimp only) | split)

theorem latchSet_kept {r s : State} {p : Path} {base word : Nat} (hs : Keeps r s) :
    Keeps r (latchSet s p base word) := by
  unfold latchSet
  try dsimp only
  repeat' (first
    | with_reducible (
      first
      | assumption | apply updDict_kept)
    | (intro u hu; try dsimp only) | split)

theorem readDw_kept {r s : State} {p : Path} {off : Nat} (hs : Keeps r s) :
    Keeps r (readDw s p off).2 := by
  unfold readDw
  try dsimp only
  repeat' (first
    | with_reducible (
      first
      | assumption | apply claimRead_kept | apply regVal_kept | apply latchSet_kept)
    | (intro u hu; try dsimp only) | split)

theorem readQw_kept {r s : State} {p : Path} {off : Nat} (hs : Keeps r s) :
    Keeps r (readQw s p off).2 := by
  unfold readQw
  split
  · split
    · dsimp only
      with_reducible apply latchSet_kept
      with_reducible apply regVal_kept hs
    · dsimp only
      with_reducible apply readDw_kept
      with_reducible apply readDw_kept hs
  · dsimp only
    with_reducible apply readDw_kept
    with_reducible apply readDw_kept hs

theorem regRead_kept {r s : State} {p : Path} {off dws : Nat} (hs : Keeps r s) :
    Keeps r (regRead s p off dws).2 := by
  unfold regRead
  try dsimp only
  repeat' (first
    | with_reducible (
      first
      | assumption | apply readQw_kept | apply readDw_kept)
    | (intro u hu; try dsimp only) | split)

theorem laneCtrlWrite_kept {r s : State} {n v : Nat} (hs : Keeps r s) :
    Keeps r (laneCtrlWrite s n v) := by
  unfold laneCtrlWrite
  try dsimp only
  repeat' (first
    | with_reducible (
      first
      | assumption | apply setLoop_kept | apply setCtrl_kept | apply setPrbs_kept | apply onlyIf_kept
        | apply clearLaneCounts_kept)
    | (intro u hu; try dsimp only) | split)

theorem laneWrite_kept {r s : State} {n r1 v : Nat} (hs : Keeps r s) :
    Keeps r (laneWrite s n r1 v) := by
  unfold laneWrite
  try dsimp only
  repeat' (first
    | with_reducible (
      first
      | assumption | apply laneCtrlWrite_kept | apply updLane_kept | apply marginGo_kept)
    | (intro u hu; try dsimp only) | split)

theorem hpWrite_kept {r s : State} {off v : Nat} (hs : Keeps r s) :
    Keeps r (hpWrite s off v) := by
  unfold hpWrite
  try dsimp only
  repeat' (first
    | with_reducible (
      first
      | assumption | apply onlyIf_kept | apply clearCounts_kept | apply updHl_kept)
    | (intro u hu; try dsimp only) | split)

theorem llWrite_kept {r s : State} {l r1 v : Nat} (hs : Keeps r s) :
    Keeps r (llWrite s l r1 v) := by
  unfold llWrite
  try dsimp only
  repeat' (first
    | with_reducible (
      first
      | assumption | apply onlyIf_kept | apply clearCounts_kept | apply pingGo_kept | apply forceDown_kept
        | apply updLink_kept)
    | (intro u hu; try dsimp only) | split)

theorem timeCmd_kept {r s : State} {v : Nat} (hs : Keeps r s) : Keeps r (timeCmd s v) := by
  unfold timeCmd
  try dsimp only
  repeat' (first
    | with_reducible (
      first
      | assumption | apply onlyIf_kept | apply timeStep_kept | apply timeLoad_kept)
    | (intro u hu; try dsimp only) | split)

theorem agWrite_kept {r s : State} {p : Path} {off v : Nat} (hs : Keeps r s) :
    Keeps r (agWrite s p off v) := by
  unfold agWrite
  try dsimp only
  repeat' (first
    | with_reducible (
      first
      | assumption | apply agServed_kept | apply applyRequest_kept | apply updDict_kept)
    | (intro u x hu; try dsimp only) | (intro u hu; try dsimp only) | split)

theorem flowWrite_kept {r s : State} {p : Path} {off v : Nat} (hs : Keeps r s) :
    Keeps r (flowWrite s p off v) := by
  unfold flowWrite
  try dsimp only
  repeat' (first
    | with_reducible (
      first
      | assumption | apply flowSelSet_kept | apply dqProd_kept | apply onlyIf_kept | apply dqRestart_kept
        | apply mgRestart_kept)
    | (intro u hu; try dsimp only) | split)

theorem engineWrite_kept {r s : State} {p : Path} {off v : Nat} (hs : Keeps r s) :
    Keeps r (engineWrite s p off v) := by
  unfold engineWrite
  try dsimp only
  repeat' (first
    | with_reducible (
      first
      | assumption | apply onlyIf_kept | apply seClear_kept | apply memSelSet_kept | apply windowPut_kept
        | apply setMask_kept | apply doorbellAt_kept | apply erecPop_kept)
    | (intro u hu; try dsimp only) | split)

theorem systemWrite_kept {r s : State} {p : Path} {off v : Nat} (hs : Keeps r s) :
    Keeps r (systemWrite s p off v) := by
  unfold systemWrite
  try dsimp only
  repeat' (first
    | with_reducible (
      first
      | assumption | apply onlyIf_kept | apply sleepRequest_kept | apply updTime_kept | apply timeCmd_kept
        | apply tsrPop_kept | apply clearCounts_kept | apply logPop_kept | apply testStop_kept | apply bistWrite_kept
        | apply llFreeze_kept | apply llRelease_kept | apply releaseWorker_kept)
    | (intro u hu; try dsimp only) | split)

theorem regEffect_kept {r s : State} {p : Path} {off v : Nat} (hs : Keeps r s) :
    Keeps r (regEffect s p off v) := by
  unfold regEffect
  try dsimp only
  repeat' (first
    | with_reducible (
      first
      | assumption | apply agWrite_kept | apply hpWrite_kept | apply laneWrite_kept | apply llWrite_kept
        | apply onlyIf_kept | apply slotFree_kept | apply flowWrite_kept | apply engineWrite_kept
        | apply systemWrite_kept)
    | (intro u hu; try dsimp only) | split)

theorem objPut_kept {r s : State} {p : Path} {h1 : Half} {x : Nat × Nat} {v : Nat} (hs : Keeps r s) :
    Keeps r (objPut s p h1 x v) := by
  unfold objPut
  try dsimp only
  repeat' (first
    | with_reducible (
      first
      | assumption | apply rwaWrite_kept)
    | (intro u hu; try dsimp only) | split)

theorem rwaPut_kept {r s : State} {p : Path} {h1 : Half} {objs : List (Nat × Nat)} {v : Nat} {lo :
    Bool} {hi : Bool} (hs : Keeps r s) :
    Keeps r (rwaPut s p h1 objs v lo hi) := by
  unfold rwaPut
  try dsimp only
  repeat' (first
    | with_reducible (
      first
      | assumption | apply onlyIf_kept | apply objPut_kept)
    | (intro u hu; try dsimp only) | split)

theorem regPut_kept {r s : State} {p : Path} {base : Nat} {r1 : Reg} {v : Nat} {lo hi : Bool}
    (hs : Keeps r s) :
    Keeps r (regPut s p base r1 v lo hi) := by
  unfold regPut
  try dsimp only
  repeat' (first
    | with_reducible (
      first
      | assumption | apply regAct_kept | apply regEffect_kept | apply rwaPut_kept)
    | (intro u hu; try dsimp only) | split)

theorem fnEvtPut_kept {r s : State} {n off v : Nat} (hs : Keeps r s) :
    Keeps r (fnEvtPut s n off v) := by
  unfold fnEvtPut
  try dsimp only
  repeat' (first
    | with_reducible (
      first
      | assumption | apply fnDbell_kept | apply fnDone_kept | apply fnEvtClr_kept | apply fnEvtEn_kept)
    | (intro u hu; try dsimp only) | split)

theorem fnPut_kept {r s : State} {n off v : Nat} (hs : Keeps r s) :
    Keeps r (fnPut s n off v) := by
  unfold fnPut
  try dsimp only
  repeat' (first
    | with_reducible (
      first
      | assumption | apply dqProd_kept)
    | (intro u hu; try dsimp only) | split)

theorem writeDw_kept {r s : State} {p : Path} {off v : Nat} (hs : Keeps r s) :
    Keeps r (writeDw s p off v) := by
  unfold writeDw
  try dsimp only
  repeat' (first
    | with_reducible (
      first
      | assumption | apply fnEvtPut_kept | apply fnPut_kept | apply regPut_kept)
    | (intro u hu; try dsimp only) | split)

theorem writeQw_kept {r s : State} {p : Path} {off v : Nat} (hs : Keeps r s) :
    Keeps r (writeQw s p off v) := by
  unfold writeQw
  try dsimp only
  repeat' (first
    | with_reducible (
      first
      | assumption | apply writeDw_kept | apply regPut_kept)
    | (intro u hu; try dsimp only) | split)

theorem regWrite_kept {r s : State} {p : Path} {off : Nat} {a6 : List W32} (hs : Keeps r s) :
    Keeps r (regWrite s p off a6) := by
  unfold regWrite
  try dsimp only
  repeat' (first
    | with_reducible (
      first
      | assumption | apply writeDw_kept | apply writeQw_kept)
    | (intro u hu; try dsimp only) | split)

/-! ### HostMem -/

theorem msixWrite_kept {r s : State} {n off v : Nat} (hs : Keeps r s) :
    Keeps r (msixWrite s n off v) := by
  unfold msixWrite
  dsimp only
  split
  · exact hs
  · refine onlyIf_kept (msixPut_kept hs) fun u hu => ?_
    exact sweepPending_kept hu

theorem bar2Put_kept {r s : State} {m off v : Nat} (hs : Keeps r s) :
    Keeps r (bar2Put s m off v) := by
  unfold bar2Put
  try dsimp only
  repeat' (first
    | with_reducible (
      first
      | assumption | apply mbxReqPut_kept | apply mbxSubmit_kept | apply onlyIf_kept | apply mbxAckNow_kept
        | apply updMbx_kept | apply msixWrite_kept)
    | (intro u hu; try dsimp only) | split)

theorem bar4Put_kept {r s : State} {n off v : Nat} (hs : Keeps r s) :
    Keeps r (bar4Put s n off v) := by
  unfold bar4Put
  try dsimp only
  repeat' (first
    | with_reducible (
      first
      | assumption | apply msixWrite_kept)
    | (intro u hu; try dsimp only) | split)

theorem barRead_kept {r s : State} {b : HostHit} {off dws : Nat} (hs : Keeps r s) :
    Keeps r (barRead s b off dws).2 := by
  unfold barRead
  try dsimp only
  repeat' (first
    | with_reducible (
      first
      | assumption | apply regRead_kept)
    | (intro u hu; try dsimp only) | split)

theorem barWrite_kept {r s : State} {b : HostHit} {off : Nat} {ws : List W32} (hs : Keeps r s) :
    Keeps r (barWrite s b off ws) := by
  unfold barWrite
  try dsimp only
  repeat' (first
    | with_reducible (
      first
      | assumption | apply regWrite_kept | apply bar2Put_kept | apply bar4Put_kept | refine kforAll ?_ ?_)
    | (intro u x hu; try dsimp only) | (intro u hu; try dsimp only) | split)

theorem barReadTlp_kept {r s : State} {m : Nat} {b : HostHit} {r1 : HostReq} (hs : Keeps r s) :
    Keeps r (barReadTlp s m b r1) := by
  unfold barReadTlp
  try dsimp only
  repeat' (first
    | with_reducible (
      first
      | assumption | apply hostRefuse_kept | apply barRead_kept | apply tlpOut_kept)
    | (intro u hu; try dsimp only) | split)

theorem barWriteTlp_kept {r s : State} {m : Nat} {b : HostHit} {r1 : HostReq} (hs : Keeps r s) :
    Keeps r (barWriteTlp s m b r1) := by
  unfold barWriteTlp
  try dsimp only
  repeat' (first
    | with_reducible (
      first
      | assumption | apply aerPoison_kept | apply barWrite_kept | apply badAccess_kept)
    | (intro u hu; try dsimp only) | split)

theorem barTlp_kept {r s : State} {m : Nat} {b : HostHit} {a6 : Instr} (hs : Keeps r s) :
    Keeps r (barTlp s m b a6) := by
  unfold barTlp
  try dsimp only
  repeat' (first
    | with_reducible (
      first
      | assumption | apply barWriteTlp_kept | apply barReadTlp_kept | apply hostRefuse_kept)
    | (intro u hu; try dsimp only) | split)

theorem memTlp_kept {r s0 : State} {m a : Nat} {i : Instr} (hs0 : Keeps r s0) :
    Keeps r (memTlp s0 m a i) := by
  unfold memTlp
  try dsimp only
  repeat' (first
    | with_reducible (
      first
      | assumption | apply tlpWake_kept | apply bump_kept | apply unclaimed_kept | apply serveTlp_kept
        | apply waitVc0_kept | apply barTlp_kept)
    | (intro u hu; try dsimp only) | split)

theorem execHostMemoryWrite_kept {r : State} {m : HL} {r1 : HostReq} {s : State} (hs : Keeps r s) :
    ∃ u, execHostMemoryWrite m r1 s = .next u ∧ Keeps r u := by
  unfold execHostMemoryWrite
  try dsimp only
  repeat' (first
    | with_reducible (
      first
      | assumption | apply memTlp_kept)
    | (intro u hu; try dsimp only) | split | (with_reducible refine ⟨_, rfl, ?_⟩))

theorem execHostMemoryRead_kept {r : State} {m : HL} {r1 : HostReq} {s : State} (hs : Keeps r s) :
    ∃ u, execHostMemoryRead m r1 s = .next u ∧ Keeps r u := by
  unfold execHostMemoryRead
  try dsimp only
  repeat' (first
    | with_reducible (
      first
      | assumption | apply memTlp_kept)
    | (intro u hu; try dsimp only) | split | (with_reducible refine ⟨_, rfl, ?_⟩))

theorem execHostAtomicop_kept {r : State} {m : HL} {r1 : HostReq} {op : AtomicOp} {s : State} (hs : Keeps r s) :
    ∃ u, execHostAtomicop m r1 op s = .next u ∧ Keeps r u := by
  unfold execHostAtomicop
  try dsimp only
  repeat' (first
    | with_reducible (
      first
      | assumption | apply memTlp_kept | apply tlpWake_kept | apply onlyIf_kept | apply unclaimed_kept)
    | (intro u hu; try dsimp only) | split | (with_reducible refine ⟨_, rfl, ?_⟩))

theorem execBar0Read_kept {r : State} {m : HL} {f : Fn} {bar2 : Bool} {off dws : Nat} {tag : BitVec 14}
    {s0 : State} (hs0 : Keeps r s0) :
    ∃ u, execBar0Read m f bar2 off dws tag s0 = .next u ∧ Keeps r u := by
  unfold execBar0Read
  try dsimp only
  repeat' (first
    | with_reducible (
      first
      | assumption | apply tlpWake_kept | apply hostRefuse_kept | apply barRead_kept | apply tlpOut_kept)
    | (intro u hu; try dsimp only) | split | (with_reducible refine ⟨_, rfl, ?_⟩))

theorem execRegisterWrite_kept {r : State} {p : Path} {bar2 : Bool} {off : Nat} {words : List W32} {allEnabled :
    Bool} {s0 : State} (hs0 : Keeps r s0) :
    ∃ u, execRegisterWrite p bar2 off words allEnabled s0 = .next u ∧ Keeps r u := by
  unfold execRegisterWrite
  try dsimp only
  repeat' (first
    | with_reducible (
      first
      | assumption | apply tlpWake_kept | apply aerUR_kept | apply barWrite_kept | apply badAccess_kept
        | apply regWrite_kept)
    | (intro u hu; try dsimp only) | split | (with_reducible refine ⟨_, rfl, ?_⟩))

end Sys2Proof.Machine
end

