-- ==== Sys2Proof/Laws/KeepsExec.lean ====
section
/-! SUPPORT. That each meaning keeps what every step keeps (Laws/Keeps.lean): every command. -/

namespace Sys2Proof.Machine

set_option linter.unusedVariables false
set_option linter.unusedSimpArgs false

/-! ### Dispatch -/

set_option maxHeartbeats 1000000 in
theorem exec_kept {r0 : State} {i : Instr} {s : State} (hs : Keeps r0 s) :
    ∃ u, exec i s = .next u ∧ Keeps r0 u := by
  cases i with
  | resetNAssert durNs => exact (show ∃ u, execResetNAssert durNs s = .next u ∧ Keeps r0 u from execResetNAssert_kept hs)
  | resetNRise sa sb => exact (show ∃ u, execResetNRise sa sb s = .next u ∧ Keeps r0 u from execResetNRise_kept hs)
  | firmwareLoaded h => exact (show ∃ u, execFirmwareLoaded h s = .next u ∧ Keeps r0 u from execFirmwareLoaded_kept hs)
  | startupComplete h => exact (show ∃ u, execStartupComplete h s = .next u ∧ Keeps r0 u from execStartupComplete_kept hs)
  | tokenExchange => exact (show ∃ u, execTokenExchange s = .next u ∧ Keeps r0 u from execTokenExchange_kept hs)
  | leadExchangeTimeout h => exact (show ∃ u, execLeadExchangeTimeout h s = .next u ∧ Keeps r0 u from execLeadExchangeTimeout_kept hs)
  | heartbeatSend h => exact (show ∃ u, execHeartbeatSend h s = .next u ∧ Keeps r0 u from execHeartbeatSend_kept hs)
  | heartbeatReceive h => exact (show ∃ u, execHeartbeatReceive h s = .next u ∧ Keeps r0 u from execHeartbeatReceive_kept hs)
  | heartbeatTimeout h => exact (show ∃ u, execHeartbeatTimeout h s = .next u ∧ Keeps r0 u from execHeartbeatTimeout_kept hs)
  | dieLinkCrcFail h xfer => exact (show ∃ u, execDieLinkCrcFail h xfer s = .next u ∧ Keeps r0 u from execDieLinkCrcFail_kept hs)
  | dieLinkRetrain h ok => exact (show ∃ u, execDieLinkRetrain h ok s = .next u ∧ Keeps r0 u from execDieLinkRetrain_kept hs)
  | orphanTimeout => exact (show ∃ u, execOrphanTimeout s = .next u ∧ Keeps r0 u from execOrphanTimeout_kept hs)
  | followerRelease p v => exact (show ∃ u, execFollowerRelease p v s = .next u ∧ Keeps r0 u from execFollowerRelease_kept hs)
  | dieLinkCellArrive h cell => exact (show ∃ u, execDieLinkCellArrive h cell s = .next u ∧ Keeps r0 u from execDieLinkCellArrive_kept hs)
  | timeAlignCheck => exact (show ∃ u, execTimeAlignCheck s = .next u ∧ Keeps r0 u from execTimeAlignCheck_kept hs)
  | pressCellCross h id outFree ecc => exact (show ∃ u, execPressCellCross h id outFree ecc s = .next u ∧ Keeps r0 u from execPressCellCross_kept hs)
  | calendarSlot h port owner => exact (show ∃ u, execCalendarSlot h port owner s = .next u ∧ Keeps r0 u from execCalendarSlot_kept hs)
  | cplSpaceReserved id => exact (show ∃ u, execCplSpaceReserved id s = .next u ∧ Keeps r0 u from execCplSpaceReserved_kept hs)
  | fenceRelease id => exact (show ∃ u, execFenceRelease id s = .next u ∧ Keeps r0 u from execFenceRelease_kept hs)
  | flowDoorbellRaise id => exact (show ∃ u, execFlowDoorbellRaise id s = .next u ∧ Keeps r0 u from execFlowDoorbellRaise_kept hs)
  | zeroLenReadFlush id => exact (show ∃ u, execZeroLenReadFlush id s = .next u ∧ Keeps r0 u from execZeroLenReadFlush_kept hs)
  | shaperRelease f => exact (show ∃ u, execShaperRelease f s = .next u ∧ Keeps r0 u from execShaperRelease_kept hs)
  | linkShaperPacketStart l id => exact (show ∃ u, execLinkShaperPacketStart l id s = .next u ∧ Keeps r0 u from execLinkShaperPacketStart_kept hs)
  | brineSegmentWrite f => exact (show ∃ u, execBrineSegmentWrite f s = .next u ∧ Keeps r0 u from execBrineSegmentWrite_kept hs)
  | brineSegmentRead f ecc => exact (show ∃ u, execBrineSegmentRead f ecc s = .next u ∧ Keeps r0 u from execBrineSegmentRead_kept hs)
  | brineMonitorWindow h => exact (show ∃ u, execBrineMonitorWindow h s = .next u ∧ Keeps r0 u from execBrineMonitorWindow_kept hs)
  | brineTrainingDone h failed => exact (show ∃ u, execBrineTrainingDone h failed s = .next u ∧ Keeps r0 u from execBrineTrainingDone_kept hs)
  | brineTrackingPass c => exact (show ∃ u, execBrineTrackingPass c s = .next u ∧ Keeps r0 u from execBrineTrackingPass_kept hs)
  | laneDetectStep n found => exact (show ∃ u, execLaneDetectStep n found s = .next u ∧ Keeps r0 u from execLaneDetectStep_kept hs)
  | cdrLock n => exact (show ∃ u, execCdrLock n s = .next u ∧ Keeps r0 u from execCdrLock_kept hs)
  | cdrLockLoss n => exact (show ∃ u, execCdrLockLoss n s = .next u ∧ Keeps r0 u from execCdrLockLoss_kept hs)
  | adapted n dfe0 dfe1 dfe2 ctle => exact (show ∃ u, execAdapted n dfe0 dfe1 dfe2 ctle s = .next u ∧ Keeps r0 u from execAdapted_kept hs)
  | prbsCheckDone n errors => exact (show ∃ u, execPrbsCheckDone n errors s = .next u ∧ Keeps r0 u from execPrbsCheckDone_kept hs)
  | trainingFrame l lane word marker inverted => exact (show ∃ u, execTrainingFrame l lane word marker inverted s = .next u ∧ Keeps r0 u from execTrainingFrame_kept hs)
  | trainTimeout l => exact (show ∃ u, execTrainTimeout l s = .next u ∧ Keeps r0 u from execTrainTimeout_kept hs)
  | lockTimeout l => exact (show ∃ u, execLockTimeout l s = .next u ∧ Keeps r0 u from execLockTimeout_kept hs)
  | exchangeTimeout l => exact (show ∃ u, execExchangeTimeout l s = .next u ∧ Keeps r0 u from execExchangeTimeout_kept hs)
  | electricalIdleEnd l => exact (show ∃ u, execElectricalIdleEnd l s = .next u ∧ Keeps r0 u from execElectricalIdleEnd_kept hs)
  | codewordReceive n uncorrectable corrected => exact (show ∃ u, execCodewordReceive n uncorrectable corrected s = .next u ∧ Keeps r0 u from execCodewordReceive_kept hs)
  | blockReceive l lane sync content bufferError => exact (show ∃ u, execBlockReceive l lane sync content bufferError s = .next u ∧ Keeps r0 u from execBlockReceive_kept hs)
  | align l lane content skew => exact (show ∃ u, execAlign l lane content skew s = .next u ∧ Keeps r0 u from execAlign_kept hs)
  | capf l frame => exact (show ∃ u, execCapf l frame s = .next u ∧ Keeps r0 u from execCapf_kept hs)
  | down l reason => exact (show ∃ u, execDown l reason s = .next u ∧ Keeps r0 u from execDown_kept hs)
  | bondLaneMoveBack h group f => exact (show ∃ u, execBondLaneMoveBack h group f s = .next u ∧ Keeps r0 u from execBondLaneMoveBack_kept hs)
  | dalfelWrite l p => exact (show ∃ u, execDalfelWrite l p s = .next u ∧ Keeps r0 u from execDalfelWrite_kept hs)
  | dalfelRead l p => exact (show ∃ u, execDalfelRead l p s = .next u ∧ Keeps r0 u from execDalfelRead_kept hs)
  | dalfelCpl l p => exact (show ∃ u, execDalfelCpl l p s = .next u ∧ Keeps r0 u from execDalfelCpl_kept hs)
  | doorbell l p => exact (show ∃ u, execDoorbell l p s = .next u ∧ Keeps r0 u from execDoorbell_kept hs)
  | state l p => exact (show ∃ u, execState l p s = .next u ∧ Keeps r0 u from execState_kept hs)
  | stateValueCommit id => exact (show ∃ u, execStateValueCommit id s = .next u ∧ Keeps r0 u from execStateValueCommit_kept hs)
  | atomic l p => exact (show ∃ u, execAtomic l p s = .next u ∧ Keeps r0 u from execAtomic_kept hs)
  | lockAcq l p => exact (show ∃ u, execLockAcq l p s = .next u ∧ Keeps r0 u from execLockAcq_kept hs)
  | lockRel l p => exact (show ∃ u, execLockRel l p s = .next u ∧ Keeps r0 u from execLockRel_kept hs)
  | semaphoreUnitFree n l => exact (show ∃ u, execSemaphoreUnitFree n l s = .next u ∧ Keeps r0 u from execSemaphoreUnitFree_kept hs)
  | acquireTimeout n l => exact (show ∃ u, execAcquireTimeout n l s = .next u ∧ Keeps r0 u from execAcquireTimeout_kept hs)
  | holdLimitExpiry n l => exact (show ∃ u, execHoldLimitExpiry n l s = .next u ∧ Keeps r0 u from execHoldLimitExpiry_kept hs)
  | capAnn l p => exact (show ∃ u, execCapAnn l p s = .next u ∧ Keeps r0 u from execCapAnn_kept hs)
  | ping l p => exact (show ∃ u, execPing l p s = .next u ∧ Keeps r0 u from execPing_kept hs)
  | ack l seq => exact (show ∃ u, execAck l seq s = .next u ∧ Keeps r0 u from execAck_kept hs)
  | nak l seq => exact (show ∃ u, execNak l seq s = .next u ∧ Keeps r0 u from execNak_kept hs)
  | ackDue l => exact (show ∃ u, execAckDue l s = .next u ∧ Keeps r0 u from execAckDue_kept hs)
  | replayTimerExpiry l => exact (show ∃ u, execReplayTimerExpiry l s = .next u ∧ Keeps r0 u from execReplayTimerExpiry_kept hs)
  | credit l np c0 c1 c2 c3 => exact (show ∃ u, execCredit l np c0 c1 c2 c3 s = .next u ∧ Keeps r0 u from execCredit_kept hs)
  | creditRefresh l => exact (show ∃ u, execCreditRefresh l s = .next u ∧ Keeps r0 u from execCreditRefresh_kept hs)
  | creditWaitTimeout l id => exact (show ∃ u, execCreditWaitTimeout l id s = .next u ∧ Keeps r0 u from execCreditWaitTimeout_kept hs)
  | egressPacketStart l id => exact (show ∃ u, execEgressPacketStart l id s = .next u ∧ Keeps r0 u from execEgressPacketStart_kept hs)
  | pause l xoff f => exact (show ∃ u, execPause l xoff f s = .next u ∧ Keeps r0 u from execPause_kept hs)
  | pauseRefresh l f => exact (show ∃ u, execPauseRefresh l f s = .next u ∧ Keeps r0 u from execPauseRefresh_kept hs)
  | lpForceDown p l v => exact (show ∃ u, execLpForceDown p l v s = .next u ∧ Keeps r0 u from execLpForceDown_kept hs)
  | pingGo p l => exact (show ∃ u, execPingGo p l s = .next u ∧ Keeps r0 u from execPingGo_kept hs)
  | lpCntClr p l => exact (show ∃ u, execLpCntClr p l s = .next u ∧ Keeps r0 u from execLpCntClr_kept hs)
  | laneLoopSet p n v => exact (show ∃ u, execLaneLoopSet p n v s = .next u ∧ Keeps r0 u from execLaneLoopSet_kept hs)
  | laneDfeFreeze p n v => exact (show ∃ u, execLaneDfeFreeze p n v s = .next u ∧ Keeps r0 u from execLaneDfeFreeze_kept hs)
  | lanePrbsGenSet p n v => exact (show ∃ u, execLanePrbsGenSet p n v s = .next u ∧ Keeps r0 u from execLanePrbsGenSet_kept hs)
  | lanePrbsChkSet p n v => exact (show ∃ u, execLanePrbsChkSet p n v s = .next u ∧ Keeps r0 u from execLanePrbsChkSet_kept hs)
  | lanePolForceSet p n force txInv rxInv => exact (show ∃ u, execLanePolForceSet p n force txInv rxInv s = .next u ∧ Keeps r0 u from execLanePolForceSet_kept hs)
  | laneCntClr p n => exact (show ∃ u, execLaneCntClr p n s = .next u ∧ Keeps r0 u from execLaneCntClr_kept hs)
  | marginStart p n eye => exact (show ∃ u, execMarginStart p n eye s = .next u ∧ Keeps r0 u from execMarginStart_kept hs)
  | marginDone n left right top bottom => exact (show ∃ u, execMarginDone n left right top bottom s = .next u ∧ Keeps r0 u from execMarginDone_kept hs)
  | laneMarginingCommand n => exact (show ∃ u, execLaneMarginingCommand n s = .next u ∧ Keeps r0 u from execLaneMarginingCommand_kept hs)
  | hostMemoryWrite m r => exact (show ∃ u, execHostMemoryWrite m r s = .next u ∧ Keeps r0 u from execHostMemoryWrite_kept hs)
  | hostMemoryRead m r => exact (show ∃ u, execHostMemoryRead m r s = .next u ∧ Keeps r0 u from execHostMemoryRead_kept hs)
  | hostAtomicop m r op => exact (show ∃ u, execHostAtomicop m r op s = .next u ∧ Keeps r0 u from execHostAtomicop_kept hs)
  | hostCompletion m c => exact (show ∃ u, execHostCompletion m c s = .next u ∧ Keeps r0 u from execHostCompletion_kept hs)
  | splitWriteCommitted id => exact (show ∃ u, execSplitWriteCommitted id s = .next u ∧ Keeps r0 u from execSplitWriteCommitted_kept hs)
  | configRequest m c => exact (show ∃ u, execConfigRequest m c s = .next u ∧ Keeps r0 u from execConfigRequest_kept hs)
  | busMasterEnableClear m f => exact (show ∃ u, execBusMasterEnableClear m f s = .next u ∧ Keeps r0 u from execBusMasterEnableClear_kept hs)
  | busMasterEnableSet m f => exact (show ∃ u, execBusMasterEnableSet m f s = .next u ∧ Keeps r0 u from execBusMasterEnableSet_kept hs)
  | memorySpaceEnableClear m f => exact (show ∃ u, execMemorySpaceEnableClear m f s = .next u ∧ Keeps r0 u from execMemorySpaceEnableClear_kept hs)
  | msixDisable m f => exact (show ∃ u, execMsixDisable m f s = .next u ∧ Keeps r0 u from execMsixDisable_kept hs)
  | msixVectorUnmask m f v => exact (show ∃ u, execMsixVectorUnmask m f v s = .next u ∧ Keeps r0 u from execMsixVectorUnmask_kept hs)
  | d3hotEntry m f => exact (show ∃ u, execD3hotEntry m f s = .next u ∧ Keeps r0 u from execD3hotEntry_kept hs)
  | ltrMechanismEnable m => exact (show ∃ u, execLtrMechanismEnable m s = .next u ∧ Keeps r0 u from execLtrMechanismEnable_kept hs)
  | pmeTurnOff m => exact (show ∃ u, execPmeTurnOff m s = .next u ∧ Keeps r0 u from execPmeTurnOff_kept hs)
  | ioRequest m tag => exact (show ∃ u, execIoRequest m tag s = .next u ∧ Keeps r0 u from execIoRequest_kept hs)
  | mrdlk m tag => exact (show ∃ u, execMrdlk m tag s = .next u ∧ Keeps r0 u from execMrdlk_kept hs)
  | vendorDefinedType0 m => exact (show ∃ u, execVendorDefinedType0 m s = .next u ∧ Keeps r0 u from execVendorDefinedType0_kept hs)
  | vendorDefinedType1 m => exact (show ∃ u, execVendorDefinedType1 m s = .next u ∧ Keeps r0 u from execVendorDefinedType1_kept hs)
  | bar0Read m f bar2 off dws tag => exact (show ∃ u, execBar0Read m f bar2 off dws tag s = .next u ∧ Keeps r0 u from execBar0Read_kept hs)
  | expansionRomRead m addr len tag => exact (show ∃ u, execExpansionRomRead m addr len tag s = .next u ∧ Keeps r0 u from execExpansionRomRead_kept hs)
  | expansionRomWrite m addr => exact (show ∃ u, execExpansionRomWrite m addr s = .next u ∧ Keeps r0 u from execExpansionRomWrite_kept hs)
  | registerWrite p bar2 off words allEnabled => exact (show ∃ u, execRegisterWrite p bar2 off words allEnabled s = .next u ∧ Keeps r0 u from execRegisterWrite_kept hs)
  | perstNAssert p => exact (show ∃ u, execPerstNAssert p s = .next u ∧ Keeps r0 u from execPerstNAssert_kept hs)
  | perstNDeassert p => exact (show ∃ u, execPerstNDeassert p s = .next u ∧ Keeps r0 u from execPerstNDeassert_kept hs)
  | hotReset m => exact (show ∃ u, execHotReset m s = .next u ∧ Keeps r0 u from execHotReset_kept hs)
  | dlActiveExit m => exact (show ∃ u, execDlActiveExit m s = .next u ∧ Keeps r0 u from execDlActiveExit_kept hs)
  | dlActiveEnter m flit rate width reversed vc1 => exact (show ∃ u, execDlActiveEnter m flit rate width reversed vc1 s = .next u ∧ Keeps r0 u from execDlActiveEnter_kept hs)
  | l0sIdleTimer m => exact (show ∃ u, execL0sIdleTimer m s = .next u ∧ Keeps r0 u from execL0sIdleTimer_kept hs)
  | aspmL1IdleTimer m => exact (show ∃ u, execAspmL1IdleTimer m s = .next u ∧ Keeps r0 u from execAspmL1IdleTimer_kept hs)
  | l0pEvaluation m bytesPer100us => exact (show ∃ u, execL0pEvaluation m bytesPer100us s = .next u ∧ Keeps r0 u from execL0pEvaluation_kept hs)
  | mbxSubmit m len => exact (show ∃ u, execMbxSubmit m len s = .next u ∧ Keeps r0 u from execMbxSubmit_kept hs)
  | mbxReqWrite m off data => exact (show ∃ u, execMbxReqWrite m off data s = .next u ∧ Keeps r0 u from execMbxReqWrite_kept hs)
  | mbxResponse m => exact (show ∃ u, execMbxResponse m s = .next u ∧ Keeps r0 u from execMbxResponse_kept hs)
  | mbxAck m v => exact (show ∃ u, execMbxAck m v s = .next u ∧ Keeps r0 u from execMbxAck_kept hs)
  | switchRequest p m f v => exact (show ∃ u, execSwitchRequest p m f v s = .next u ∧ Keeps r0 u from execSwitchRequest_kept hs)
  | protectionSwitchOver m f => exact (show ∃ u, execProtectionSwitchOver m f s = .next u ∧ Keeps r0 u from execProtectionSwitchOver_kept hs)
  | pairMemberEligible m f => exact (show ∃ u, execPairMemberEligible m f s = .next u ∧ Keeps r0 u from execPairMemberEligible_kept hs)
  | prefetchLifetimeExpiry m f w unit => exact (show ∃ u, execPrefetchLifetimeExpiry m f w unit s = .next u ∧ Keeps r0 u from execPrefetchLifetimeExpiry_kept hs)
  | slotHoldExpiry m f => exact (show ∃ u, execSlotHoldExpiry m f s = .next u ∧ Keeps r0 u from execSlotHoldExpiry_kept hs)
  | winSlotFree p m f => exact (show ∃ u, execWinSlotFree p m f s = .next u ∧ Keeps r0 u from execWinSlotFree_kept hs)
  | completionTimeout side tag => exact (show ∃ u, execCompletionTimeout side tag s = .next u ∧ Keeps r0 u from execCompletionTimeout_kept hs)
  | quarantineEnd side tag => exact (show ∃ u, execQuarantineEnd side tag s = .next u ∧ Keeps r0 u from execQuarantineEnd_kept hs)
  | mirrorBoundaryUp g => exact (show ∃ u, execMirrorBoundaryUp g s = .next u ∧ Keeps r0 u from execMirrorBoundaryUp_kept hs)
  | mirrorPassEnd g => exact (show ∃ u, execMirrorPassEnd g s = .next u ∧ Keeps r0 u from execMirrorPassEnd_kept hs)
  | mirrorBoundaryDown g => exact (show ∃ u, execMirrorBoundaryDown g s = .next u ∧ Keeps r0 u from execMirrorBoundaryDown_kept hs)
  | downwardPassAcked g => exact (show ∃ u, execDownwardPassAcked g s = .next u ∧ Keeps r0 u from execDownwardPassAcked_kept hs)
  | flowMgRestart p g => exact (show ∃ u, execFlowMgRestart p g s = .next u ∧ Keeps r0 u from execFlowMgRestart_kept hs)
  | flowDqProd p q v => exact (show ∃ u, execFlowDqProd p q v s = .next u ∧ Keeps r0 u from execFlowDqProd_kept hs)
  | flowDqRestart p q => exact (show ∃ u, execFlowDqRestart p q s = .next u ∧ Keeps r0 u from execFlowDqRestart_kept hs)
  | flowSel p f => exact (show ∃ u, execFlowSel p f s = .next u ∧ Keeps r0 u from execFlowSel_kept hs)
  | serviceEventDeliver f => exact (show ∃ u, execServiceEventDeliver f s = .next u ∧ Keeps r0 u from execServiceEventDeliver_kept hs)
  | flowIdlePoint f => exact (show ∃ u, execFlowIdlePoint f s = .next u ∧ Keeps r0 u from execFlowIdlePoint_kept hs)
  | engineHotWindow h => exact (show ∃ u, execEngineHotWindow h s = .next u ∧ Keeps r0 u from execEngineHotWindow_kept hs)
  | clusterDrained c => exact (show ∃ u, execClusterDrained c s = .next u ∧ Keeps r0 u from execClusterDrained_kept hs)
  | clusterLoadComplete c => exact (show ∃ u, execClusterLoadComplete c s = .next u ∧ Keeps r0 u from execClusterLoadComplete_kept hs)
  | engineRestart p e => exact (show ∃ u, execEngineRestart p e s = .next u ∧ Keeps r0 u from execEngineRestart_kept hs)
  | seCntClr p e => exact (show ∃ u, execSeCntClr p e s = .next u ∧ Keeps r0 u from execSeCntClr_kept hs)
  | seMemSel p v => exact (show ∃ u, execSeMemSel p v s = .next u ∧ Keeps r0 u from execSeMemSel_kept hs)
  | engineMemoryWindowWrite p off w => exact (show ∃ u, execEngineMemoryWindowWrite p off w s = .next u ∧ Keeps r0 u from execEngineMemoryWindowWrite_kept hs)
  | engAdd e x => exact (show ∃ u, execEngAdd e x s = .next u ∧ Keeps r0 u from execEngAdd_kept hs)
  | engSub e x => exact (show ∃ u, execEngSub e x s = .next u ∧ Keeps r0 u from execEngSub_kept hs)
  | engAnd e x => exact (show ∃ u, execEngAnd e x s = .next u ∧ Keeps r0 u from execEngAnd_kept hs)
  | engOr e x => exact (show ∃ u, execEngOr e x s = .next u ∧ Keeps r0 u from execEngOr_kept hs)
  | engXor e x => exact (show ∃ u, execEngXor e x s = .next u ∧ Keeps r0 u from execEngXor_kept hs)
  | engSll e x => exact (show ∃ u, execEngSll e x s = .next u ∧ Keeps r0 u from execEngSll_kept hs)
  | engSrl e x => exact (show ∃ u, execEngSrl e x s = .next u ∧ Keeps r0 u from execEngSrl_kept hs)
  | engSra e x => exact (show ∃ u, execEngSra e x s = .next u ∧ Keeps r0 u from execEngSra_kept hs)
  | engMul e x => exact (show ∃ u, execEngMul e x s = .next u ∧ Keeps r0 u from execEngMul_kept hs)
  | engSlt e x => exact (show ∃ u, execEngSlt e x s = .next u ∧ Keeps r0 u from execEngSlt_kept hs)
  | engSltu e x => exact (show ∃ u, execEngSltu e x s = .next u ∧ Keeps r0 u from execEngSltu_kept hs)
  | engHash e x => exact (show ∃ u, execEngHash e x s = .next u ∧ Keeps r0 u from execEngHash_kept hs)
  | engCrc e x => exact (show ∃ u, execEngCrc e x s = .next u ∧ Keeps r0 u from execEngCrc_kept hs)
  | engAddi e x => exact (show ∃ u, execEngAddi e x s = .next u ∧ Keeps r0 u from execEngAddi_kept hs)
  | engAndi e x => exact (show ∃ u, execEngAndi e x s = .next u ∧ Keeps r0 u from execEngAndi_kept hs)
  | engOri e x => exact (show ∃ u, execEngOri e x s = .next u ∧ Keeps r0 u from execEngOri_kept hs)
  | engXori e x => exact (show ∃ u, execEngXori e x s = .next u ∧ Keeps r0 u from execEngXori_kept hs)
  | engSlli e x => exact (show ∃ u, execEngSlli e x s = .next u ∧ Keeps r0 u from execEngSlli_kept hs)
  | engSrli e x => exact (show ∃ u, execEngSrli e x s = .next u ∧ Keeps r0 u from execEngSrli_kept hs)
  | engSrai e x => exact (show ∃ u, execEngSrai e x s = .next u ∧ Keeps r0 u from execEngSrai_kept hs)
  | engLui e x => exact (show ∃ u, execEngLui e x s = .next u ∧ Keeps r0 u from execEngLui_kept hs)
  | engCsrr e x => exact (show ∃ u, execEngCsrr e x s = .next u ∧ Keeps r0 u from execEngCsrr_kept hs)
  | engCsrw e x => exact (show ∃ u, execEngCsrw e x s = .next u ∧ Keeps r0 u from execEngCsrw_kept hs)
  | engWait e x => exact (show ∃ u, execEngWait e x s = .next u ∧ Keeps r0 u from execEngWait_kept hs)
  | engEoi e x => exact (show ∃ u, execEngEoi e x s = .next u ∧ Keeps r0 u from execEngEoi_kept hs)
  | engReti e x => exact (show ∃ u, execEngReti e x s = .next u ∧ Keeps r0 u from execEngReti_kept hs)
  | engFence e x => exact (show ∃ u, execEngFence e x s = .next u ∧ Keeps r0 u from execEngFence_kept hs)
  | fenceComplete e => exact (show ∃ u, execFenceComplete e s = .next u ∧ Keeps r0 u from execFenceComplete_kept hs)
  | engBreak e x => exact (show ∃ u, execEngBreak e x s = .next u ∧ Keeps r0 u from execEngBreak_kept hs)
  | engLd e x ecc => exact (show ∃ u, execEngLd e x ecc s = .next u ∧ Keeps r0 u from execEngLd_kept hs)
  | engLw e x ecc => exact (show ∃ u, execEngLw e x ecc s = .next u ∧ Keeps r0 u from execEngLw_kept hs)
  | engLh e x ecc => exact (show ∃ u, execEngLh e x ecc s = .next u ∧ Keeps r0 u from execEngLh_kept hs)
  | engLb e x ecc => exact (show ∃ u, execEngLb e x ecc s = .next u ∧ Keeps r0 u from execEngLb_kept hs)
  | engSd e x => exact (show ∃ u, execEngSd e x s = .next u ∧ Keeps r0 u from execEngSd_kept hs)
  | engSw e x => exact (show ∃ u, execEngSw e x s = .next u ∧ Keeps r0 u from execEngSw_kept hs)
  | engSh e x => exact (show ∃ u, execEngSh e x s = .next u ∧ Keeps r0 u from execEngSh_kept hs)
  | engSb e x => exact (show ∃ u, execEngSb e x s = .next u ∧ Keeps r0 u from execEngSb_kept hs)
  | engBeq e x => exact (show ∃ u, execEngBeq e x s = .next u ∧ Keeps r0 u from execEngBeq_kept hs)
  | engBne e x => exact (show ∃ u, execEngBne e x s = .next u ∧ Keeps r0 u from execEngBne_kept hs)
  | engBlt e x => exact (show ∃ u, execEngBlt e x s = .next u ∧ Keeps r0 u from execEngBlt_kept hs)
  | engBge e x => exact (show ∃ u, execEngBge e x s = .next u ∧ Keeps r0 u from execEngBge_kept hs)
  | engBltu e x => exact (show ∃ u, execEngBltu e x s = .next u ∧ Keeps r0 u from execEngBltu_kept hs)
  | engBgeu e x => exact (show ∃ u, execEngBgeu e x s = .next u ∧ Keeps r0 u from execEngBgeu_kept hs)
  | engJal e x => exact (show ∃ u, execEngJal e x s = .next u ∧ Keeps r0 u from execEngJal_kept hs)
  | engJalr e x => exact (show ∃ u, execEngJalr e x s = .next u ∧ Keeps r0 u from execEngJalr_kept hs)
  | engAadd e x => exact (show ∃ u, execEngAadd e x s = .next u ∧ Keeps r0 u from execEngAadd_kept hs)
  | engAswp e x => exact (show ∃ u, execEngAswp e x s = .next u ∧ Keeps r0 u from execEngAswp_kept hs)
  | engAcas e x => exact (show ∃ u, execEngAcas e x s = .next u ∧ Keeps r0 u from execEngAcas_kept hs)
  | engQpop e x => exact (show ∃ u, execEngQpop e x s = .next u ∧ Keeps r0 u from execEngQpop_kept hs)
  | engQdone e x => exact (show ∃ u, execEngQdone e x s = .next u ∧ Keeps r0 u from execEngQdone_kept hs)
  | engMvr e x => exact (show ∃ u, execEngMvr e x s = .next u ∧ Keeps r0 u from execEngMvr_kept hs)
  | engMvw e x => exact (show ∃ u, execEngMvw e x s = .next u ∧ Keeps r0 u from execEngMvw_kept hs)
  | engMva e x => exact (show ∃ u, execEngMva e x s = .next u ∧ Keeps r0 u from execEngMva_kept hs)
  | moveComplete e slot => exact (show ∃ u, execMoveComplete e slot s = .next u ∧ Keeps r0 u from execMoveComplete_kept hs)
  | engMwait e x => exact (show ∃ u, execEngMwait e x s = .next u ∧ Keeps r0 u from execEngMwait_kept hs)
  | engDbell e x => exact (show ∃ u, execEngDbell e x s = .next u ∧ Keeps r0 u from execEngDbell_kept hs)
  | engCtxr e x => exact (show ∃ u, execEngCtxr e x s = .next u ∧ Keeps r0 u from execEngCtxr_kept hs)
  | engCtxw e x => exact (show ∃ u, execEngCtxw e x s = .next u ∧ Keeps r0 u from execEngCtxw_kept hs)
  | engReply e x => exact (show ∃ u, execEngReply e x s = .next u ∧ Keeps r0 u from execEngReply_kept hs)
  | reservedOpcode e w => exact (show ∃ u, execReservedOpcode e w s = .next u ∧ Keeps r0 u from execReservedOpcode_kept hs)
  | evcFnDbell m f n => exact (show ∃ u, execEvcFnDbell m f n s = .next u ∧ Keeps r0 u from execEvcFnDbell_kept hs)
  | evcDbell p h n => exact (show ∃ u, execEvcDbell p h n s = .next u ∧ Keeps r0 u from execEvcDbell_kept hs)
  | sourceOffer n => exact (show ∃ u, execSourceOffer n s = .next u ∧ Keeps r0 u from execSourceOffer_kept hs)
  | coalescingHoldEnd n => exact (show ∃ u, execCoalescingHoldEnd n s = .next u ∧ Keeps r0 u from execCoalescingHoldEnd_kept hs)
  | offerAccept e => exact (show ∃ u, execOfferAccept e s = .next u ∧ Keeps r0 u from execOfferAccept_kept hs)
  | evcSrcMask p n v => exact (show ∃ u, execEvcSrcMask p n v s = .next u ∧ Keeps r0 u from execEvcSrcMask_kept hs)
  | hostMessageForm n => exact (show ∃ u, execHostMessageForm n s = .next u ∧ Keeps r0 u from execHostMessageForm_kept hs)
  | hostMessageCommit n => exact (show ∃ u, execHostMessageCommit n s = .next u ∧ Keeps r0 u from execHostMessageCommit_kept hs)
  | holdoffEnd g => exact (show ∃ u, execHoldoffEnd g s = .next u ∧ Keeps r0 u from execHoldoffEnd_kept hs)
  | evcFnClaim m f tag => exact (show ∃ u, execEvcFnClaim m f tag s = .next u ∧ Keeps r0 u from execEvcFnClaim_kept hs)
  | evcFnDone m f n => exact (show ∃ u, execEvcFnDone m f n s = .next u ∧ Keeps r0 u from execEvcFnDone_kept hs)
  | evcFnEvt m f v => exact (show ∃ u, execEvcFnEvt m f v s = .next u ∧ Keeps r0 u from execEvcFnEvt_kept hs)
  | evcFnEvtEn m f v => exact (show ∃ u, execEvcFnEvtEn m f v s = .next u ∧ Keeps r0 u from execEvcFnEvtEn_kept hs)
  | evcErecPop p h => exact (show ∃ u, execEvcErecPop p h s = .next u ∧ Keeps r0 u from execEvcErecPop_kept hs)
  | errLlRelease p l => exact (show ∃ u, execErrLlRelease p l s = .next u ∧ Keeps r0 u from execErrLlRelease_kept hs)
  | errLlFreeze p l => exact (show ∃ u, execErrLlFreeze p l s = .next u ∧ Keeps r0 u from execErrLlFreeze_kept hs)
  | errWkRelease p d => exact (show ∃ u, execErrWkRelease p d s = .next u ∧ Keeps r0 u from execErrWkRelease_kept hs)
  | freezeTimeout l => exact (show ∃ u, execFreezeTimeout l s = .next u ∧ Keeps r0 u from execFreezeTimeout_kept hs)
  | errLogPop p h => exact (show ∃ u, execErrLogPop p h s = .next u ∧ Keeps r0 u from execErrLogPop_kept hs)
  | errCntClr p => exact (show ∃ u, execErrCntClr p s = .next u ∧ Keeps r0 u from execErrCntClr_kept hs)
  | mdpRequest src => exact (show ∃ u, execMdpRequest src s = .next u ∧ Keeps r0 u from execMdpRequest_kept hs)
  | discover fr => exact (show ∃ u, execDiscover fr s = .next u ∧ Keeps r0 u from execDiscover_kept hs)
  | open_ fr => exact (show ∃ u, execOpen fr s = .next u ∧ Keeps r0 u from execOpen_kept hs)
  | proof fr => exact (show ∃ u, execProof fr s = .next u ∧ Keeps r0 u from execProof_kept hs)
  | close fr => exact (show ∃ u, execClose fr s = .next u ∧ Keeps r0 u from execClose_kept hs)
  | challengeTimeout num => exact (show ∃ u, execChallengeTimeout num s = .next u ∧ Keeps r0 u from execChallengeTimeout_kept hs)
  | proofLockoutEnd => exact (show ∃ u, execProofLockoutEnd s = .next u ∧ Keeps r0 u from execProofLockoutEnd_kept hs)
  | sessionIdleTimeout num => exact (show ∃ u, execSessionIdleTimeout num s = .next u ∧ Keeps r0 u from execSessionIdleTimeout_kept hs)
  | deviceKeyWrite p off data => exact (show ∃ u, execDeviceKeyWrite p off data s = .next u ∧ Keeps r0 u from execDeviceKeyWrite_kept hs)
  | agApply p mask => exact (show ∃ u, execAgApply p mask s = .next u ∧ Keeps r0 u from execAgApply_kept hs)
  | applyCheckComplete h => exact (show ∃ u, execApplyCheckComplete h s = .next u ∧ Keeps r0 u from execApplyCheckComplete_kept hs)
  | followerCutAct => exact (show ∃ u, execFollowerCutAct s = .next u ∧ Keeps r0 u from execFollowerCutAct_kept hs)
  | cutAck => exact (show ∃ u, execCutAck s = .next u ∧ Keeps r0 u from execCutAck_kept hs)
  | agDiscard p mask => exact (show ∃ u, execAgDiscard p mask s = .next u ∧ Keeps r0 u from execAgDiscard_kept hs)
  | agClaim p mask => exact (show ∃ u, execAgClaim p mask s = .next u ∧ Keeps r0 u from execAgClaim_kept hs)
  | agRelease p mask => exact (show ∃ u, execAgRelease p mask s = .next u ∧ Keeps r0 u from execAgRelease_kept hs)
  | sealPassStart h => exact (show ∃ u, execSealPassStart h s = .next u ∧ Keeps r0 u from execSealPassStart_kept hs)
  | sealPassComplete h => exact (show ∃ u, execSealPassComplete h s = .next u ∧ Keeps r0 u from execSealPassComplete_kept hs)
  | levelSwitchPoint => exact (show ∃ u, execLevelSwitchPoint s = .next u ∧ Keeps r0 u from execLevelSwitchPoint_kept hs)
  | avsResponse fr => exact (show ∃ u, execAvsResponse fr s = .next u ∧ Keeps r0 u from execAvsResponse_kept hs)
  | avsStatusPoll => exact (show ∃ u, execAvsStatusPoll s = .next u ∧ Keeps r0 u from execAvsStatusPoll_kept hs)
  | avsRequestTimeout rail => exact (show ∃ u, execAvsRequestTimeout rail s = .next u ∧ Keeps r0 u from execAvsRequestTimeout_kept hs)
  | tempThresholdCross h tj => exact (show ∃ u, execTempThresholdCross h tj s = .next u ∧ Keeps r0 u from execTempThresholdCross_kept hs)
  | pwrSleep p v => exact (show ∃ u, execPwrSleep p v s = .next u ∧ Keeps r0 u from execPwrSleep_kept hs)
  | s1IdleTimer => exact (show ∃ u, execS1IdleTimer s = .next u ∧ Keeps r0 u from execS1IdleTimer_kept hs)
  | sleepEntryCheck => exact (show ∃ u, execSleepEntryCheck s = .next u ∧ Keeps r0 u from execSleepEntryCheck_kept hs)
  | sleepEntryComplete => exact (show ∃ u, execSleepEntryComplete s = .next u ∧ Keeps r0 u from execSleepEntryComplete_kept hs)
  | wake c => exact (show ∃ u, execWake c s = .next u ∧ Keeps r0 u from execWake_kept hs)
  | sleepExitComplete => exact (show ∃ u, execSleepExitComplete s = .next u ∧ Keeps r0 u from execSleepExitComplete_kept hs)
  | wakeNDriveEnd => exact (show ∃ u, execWakeNDriveEnd s = .next u ∧ Keeps r0 u from execWakeNDriveEnd_kept hs)
  | tcMatch n => exact (show ∃ u, execTcMatch n s = .next u ∧ Keeps r0 u from execTcMatch_kept hs)
  | timeLoad p => exact (show ∃ u, execTimeLoad p s = .next u ∧ Keeps r0 u from execTimeLoad_kept hs)
  | timeStep p => exact (show ∃ u, execTimeStep p s = .next u ∧ Keeps r0 u from execTimeStep_kept hs)
  | secondsRollover => exact (show ∃ u, execSecondsRollover s = .next u ∧ Keeps r0 u from execSecondsRollover_kept hs)
  | ppsInEdge highNs => exact (show ∃ u, execPpsInEdge highNs s = .next u ∧ Keeps r0 u from execPpsInEdge_kept hs)
  | ppsInLost => exact (show ∃ u, execPpsInLost s = .next u ∧ Keeps r0 u from execPpsInLost_kept hs)
  | ptmDialogue => exact (show ∃ u, execPtmDialogue s = .next u ∧ Keeps r0 u from execPtmDialogue_kept hs)
  | servoPoll => exact (show ∃ u, execServoPoll s = .next u ∧ Keeps r0 u from execServoPoll_kept hs)
  | calibrationCapture => exact (show ∃ u, execCalibrationCapture s = .next u ∧ Keeps r0 u from execCalibrationCapture_kept hs)
  | timeTsrPop p h => exact (show ∃ u, execTimeTsrPop p h s = .next u ∧ Keeps r0 u from execTimeTsrPop_kept hs)
  | rindLost powerLost => exact (show ∃ u, execRindLost powerLost s = .next u ∧ Keeps r0 u from execRindLost_kept hs)
  | erase p v => exact (show ∃ u, execErase p v s = .next u ∧ Keeps r0 u from execErase_kept hs)
  | eraseComplete => exact (show ∃ u, execEraseComplete s = .next u ∧ Keeps r0 u from execEraseComplete_kept hs)
  | imageWindowWrite p off data => exact (show ∃ u, execImageWindowWrite p off data s = .next u ∧ Keeps r0 u from execImageWindowWrite_kept hs)
  | verify p v => exact (show ∃ u, execVerify p v s = .next u ∧ Keeps r0 u from execVerify_kept hs)
  | verifyComplete => exact (show ∃ u, execVerifyComplete s = .next u ∧ Keeps r0 u from execVerifyComplete_kept hs)
  | activate p v => exact (show ∃ u, execActivate p v s = .next u ∧ Keeps r0 u from execActivate_kept hs)
  | confirm p v => exact (show ∃ u, execConfirm p v s = .next u ∧ Keeps r0 u from execConfirm_kept hs)
  | commit p v => exact (show ∃ u, execCommit p v s = .next u ∧ Keeps r0 u from execCommit_kept hs)
  | fuseKeySlot p k off hash => exact (show ∃ u, execFuseKeySlot p k off hash s = .next u ∧ Keeps r0 u from execFuseKeySlot_kept hs)
  | revokeKeySlot p v => exact (show ∃ u, execRevokeKeySlot p v s = .next u ∧ Keeps r0 u from execRevokeKeySlot_kept hs)
  | bistStart p h blocks => exact (show ∃ u, execBistStart p h blocks s = .next u ∧ Keeps r0 u from execBistStart_kept hs)
  | bistComplete h failed addr => exact (show ∃ u, execBistComplete h failed addr s = .next u ∧ Keeps r0 u from execBistComplete_kept hs)
  | tstStop p => exact (show ∃ u, execTstStop p s = .next u ∧ Keeps r0 u from execTstStop_kept hs)
  | delayedCompletionRelease i => exact (show ∃ u, execDelayedCompletionRelease i s = .next u ∧ Keeps r0 u from execDelayedCompletionRelease_kept hs)
  | creditStarvationEnd i => exact (show ∃ u, execCreditStarvationEnd i s = .next u ∧ Keeps r0 u from execCreditStarvationEnd_kept hs)
  | tapInstructionLoad h code => exact (show ∃ u, execTapInstructionLoad h code s = .next u ∧ Keeps r0 u from execTapInstructionLoad_kept hs)
  | trstNLow => exact (show ∃ u, execTrstNLow s = .next u ∧ Keeps r0 u from execTrstNLow_kept hs)
  | thermtrip h => exact (show ∃ u, execThermtrip h s = .next u ∧ Keeps r0 u from execThermtrip_kept hs)
  | sysclkAbsent => exact (show ∃ u, execSysclkAbsent s = .next u ∧ Keeps r0 u from execSysclkAbsent_kept hs)
  | clockCheck present => exact (show ∃ u, execClockCheck present s = .next u ∧ Keeps r0 u from execClockCheck_kept hs)
  | trainingFrameSent l lane => exact (show ∃ u, execTrainingFrameSent l lane s = .next u ∧ Keeps r0 u from execTrainingFrameSent_kept hs)
  | capabilityFrameSent l => exact (show ∃ u, execCapabilityFrameSent l s = .next u ∧ Keeps r0 u from execCapabilityFrameSent_kept hs)
  | signalLoss n => exact (show ∃ u, execSignalLoss n s = .next u ∧ Keeps r0 u from execSignalLoss_kept hs)
  | xoffTimeout l f => exact (show ∃ u, execXoffTimeout l f s = .next u ∧ Keeps r0 u from execXoffTimeout_kept hs)
  | ppsOutHighTimeEnd => exact (show ∃ u, execPpsOutHighTimeEnd s = .next u ∧ Keeps r0 u from execPpsOutHighTimeEnd_kept hs)
  | ptmResponse answer => exact (show ∃ u, execPtmResponse answer s = .next u ∧ Keeps r0 u from execPtmResponse_kept hs)
  | hostLinkRateChange m rate width => exact (show ∃ u, execHostLinkRateChange m rate width s = .next u ∧ Keeps r0 u from execHostLinkRateChange_kept hs)
  | hostInitiatedExit m => exact (show ∃ u, execHostInitiatedExit m s = .next u ∧ Keeps r0 u from execHostInitiatedExit_kept hs)
  | d3hotExit m f => exact (show ∃ u, execD3hotExit m f s = .next u ∧ Keeps r0 u from execD3hotExit_kept hs)
  | mirrorBudgetRefill m => exact (show ∃ u, execMirrorBudgetRefill m s = .next u ∧ Keeps r0 u from execMirrorBudgetRefill_kept hs)

end Sys2Proof.Machine
end

