-- ==== Sys2Proof/Laws/Lanes.lean ====
section
/-! SUPPORT. What a write of one LANE_CTRL field does: that field takes the value, every other bit stays. -/

namespace Sys2Proof.Machine

/-- Bit k of a number with one field replaced. -/
theorem testBit_putField (A v lo len k : Nat) :
    (A - place (A >>> lo % 2 ^ len) lo len + place v lo len).testBit k =
      if k < lo then A.testBit k else if k < lo + len then v.testBit (k - lo) else A.testBit k := by
  have hpl : 0 < 2 ^ len := Nat.two_pow_pos len
  have hplo : 0 < 2 ^ lo := Nat.two_pow_pos lo
  obtain ⟨q, r, hr, hA⟩ : ∃ q r, r < 2 ^ lo ∧ A = 2 ^ lo * q + r :=
    ⟨A / 2 ^ lo, A % 2 ^ lo, Nat.mod_lt _ hplo, (Nat.div_add_mod A (2 ^ lo)).symm⟩
  obtain ⟨Q, m, hm, hq⟩ : ∃ Q m, m < 2 ^ len ∧ q = 2 ^ len * Q + m :=
    ⟨q / 2 ^ len, q % 2 ^ len, Nat.mod_lt _ hpl, (Nat.div_add_mod q (2 ^ len)).symm⟩
  have hsh : A >>> lo = q := by
    rw [Nat.shiftRight_eq_div_pow, hA, Nat.mul_add_div hplo, Nat.div_eq_of_lt hr, Nat.add_zero]
  have hmod : q % 2 ^ len = m := by rw [hq, Nat.mul_add_mod, Nat.mod_eq_of_lt hm]
  have hval : A - place (A >>> lo % 2 ^ len) lo len + place v lo len =
      2 ^ lo * (2 ^ len * Q + v % 2 ^ len) + r := by
    rw [hsh, hmod]
    unfold place
    rw [Nat.mod_eq_of_lt hm, hA, hq]
    have e : 2 ^ lo * (2 ^ len * Q + m) + r = (2 ^ lo * (2 ^ len * Q) + r) + m * 2 ^ lo := by
      rw [Nat.mul_add, Nat.mul_comm m]; omega
    rw [e, Nat.add_sub_cancel, Nat.mul_add, Nat.mul_comm (v % 2 ^ len)]; omega
  rw [hval, Nat.testBit_two_pow_mul_add _ hr]
  have hAbit : A.testBit k = if k < lo then r.testBit k else q.testBit (k - lo) := by
    rw [hA, Nat.testBit_two_pow_mul_add _ hr]
  have hqbit : ∀ j, q.testBit j = if j < len then m.testBit j else Q.testBit (j - len) := by
    intro j; rw [hq, Nat.testBit_two_pow_mul_add _ hm]
  have hv : v % 2 ^ len < 2 ^ len := Nat.mod_lt _ hpl
  rw [hAbit, hqbit, Nat.testBit_two_pow_mul_add _ hv]
  by_cases h1 : k < lo
  · simp [h1]
  · by_cases h2 : k < lo + len
    · have h3 : k - lo < len := by omega
      simp [h1, h2, h3, Nat.testBit_mod_two_pow]
    · have h3 : ¬ k - lo < len := by omega
      simp [h1, h2, h3]

/-- Bit k of LANE_CTRL after a field of `len` bits from `lo` is written. -/
theorem putField_bit (x : W32) (v lo len k : Nat) (h : lo + len ≤ 32) :
    bit (BitVec.ofNat 32 (x.toNat - place (fld x lo len) lo len + place v lo len)) k =
      if lo ≤ k ∧ k < lo + len then v.testBit (k - lo) else bit x k := by
  unfold bit fld
  rw [BitVec.getLsbD_ofNat, testBit_putField]
  by_cases h1 : k < lo
  · have : ¬ lo ≤ k := by omega
    have h32 : k < 32 := by omega
    simp [h1, this, h32, BitVec.getLsbD]
  · by_cases h2 : k < lo + len
    · have h32 : k < 32 := by omega
      have : lo ≤ k := by omega
      simp [h1, h2, this, h32]
    · by_cases h32 : k < 32
      · simp [h1, h2, h32, BitVec.getLsbD]
      · simp [h2, h32]; rw [BitVec.getLsbD_of_ge _ _ (by omega)]

/-- A seal's restart touches the dictionary only. -/
theorem sealTouch_frame (s : State) (h : Half) (c : Bool) :
    sealTouch s h c = { s with dict := (sealTouch s h c).dict, dictB := (sealTouch s h c).dictB } := by
  unfold sealTouch updDict
  split
  · split <;> rfl
  · rfl

/-- A seal's restart changes no running value. -/
theorem runTab_sealTouch (s : State) (h k : Half) (c : Bool) : runTab (sealTouch s h c) k = runTab s k := by
  unfold sealTouch
  split
  · exact runTab_updDict s h k _ (fun _ => rfl) (fun _ => rfl) (fun _ => rfl)
  · rfl

/-- The sub-link of a lane is a matter of configuration and of the halves. -/
theorem laneLink_setCtrl (s : State) (n lo len v k : Nat) : laneLink (setCtrl s n lo len v) k = laneLink s k := by
  have hr : ∀ g, runTab (setCtrl s n lo len v) g = runTab s g := by
    intro g; unfold setCtrl; dsimp only; rw [runTab_sealTouch]; rfl
  have hs : (setCtrl s n lo len v).sys = s.sys ∧ (setCtrl s n lo len v).pwr = s.pwr ∧ (setCtrl s n lo len v).test = s.test := by
    unfold setCtrl; dsimp only; rw [sealTouch_frame]; exact ⟨rfl, rfl, rfl⟩
  have hh : ∀ g, half (setCtrl s n lo len v) g = half s g := by intro g; cases g <;> simp [half, hs.1]
  have hp : ∀ p, portWidth (setCtrl s n lo len v) p = portWidth s p := by
    intro p; simp only [portWidth, portCfg, cfg, hr]
  have ho : ∀ l, linkOfLane (setCtrl s n lo len v) l = linkOfLane s l := by
    intro l; simp only [linkOfLane, hp]
  have he : ∀ l, linkExists (setCtrl s n lo len v) l = linkExists s l := by
    intro l; simp only [linkExists, hp, isRecovery, mode, hs.1]
  have hn : ∀ g, linksOn (setCtrl s n lo len v) g = linksOn s g := by
    intro g; simp only [linksOn, inService, hh, isRecovery, mode, hs.1, hs.2.1, hs.2.2]
  simp only [laneLink, ho, he, hn]

/-- A write of a LANE_CTRL field: the field takes the value, every other bit of every lane stays. -/
theorem setCtrl_spec {s : State} (hw : Tab.wf LaneSt.reset s.lanes = true) (n lo len v : Nat) (h : lo + len ≤ 32) :
    (∀ k, bit (lane (setCtrl s n lo len v) n).ctrl k =
      if lo ≤ k ∧ k < lo + len then v.testBit (k - lo) else bit (lane s n).ctrl k) ∧
    (lane (setCtrl s n lo len v) n = { lane s n with ctrl := (lane (setCtrl s n lo len v) n).ctrl }) ∧
    (∀ k, k ≠ n → lane (setCtrl s n lo len v) k = lane s k) ∧
    setCtrl s n lo len v = { s with
      lanes := (setCtrl s n lo len v).lanes, dict := (setCtrl s n lo len v).dict, dictB := (setCtrl s n lo len v).dictB } := by
  have hl : ∀ k, lane (setCtrl s n lo len v) k = lane (updLane s n fun x =>
    { x with ctrl := BitVec.ofNat 32 (x.ctrl.toNat - place (fld x.ctrl lo len) lo len + place v lo len) }) k := by
    intro k; unfold setCtrl; dsimp only; rw [sealTouch_frame]; rfl
  refine ⟨?_, ?_, ?_, ?_⟩
  · intro k; rw [hl, lane_updLane hw]; simp only [if_true]; exact putField_bit _ _ _ _ _ h
  · rw [hl, lane_updLane hw]; simp only [if_true]
  · intro k hk; rw [hl, lane_updLane hw]; simp only [hk, if_false]
  · unfold setCtrl; dsimp only; rw [sealTouch_frame]; rfl

end Sys2Proof.Machine
end

