-- ==== Sys2Proof/Laws/Ops.lean ====
section
/-! SUPPORT. What raising an event and writing a log record can change at all: the rings, the counters,
functions and host links, power, what is sent, and the logs. Everything else stays. -/

namespace Sys2Proof.Machine

/-- `t` differs from `s` in nothing but event controllers, logs, counters, host side, power and what is sent. -/
def evOnly (s t : State) : Prop :=
  t = { s with evc := t.evc, err := t.err, cnt := t.cnt, host := t.host, pwr := t.pwr, out := t.out }

theorem evOnly_refl (s : State) : evOnly s s := rfl

theorem evOnly_trans {r s t : State} (h1 : evOnly r s) (h2 : evOnly s t) : evOnly r t := by
  unfold evOnly at *; rw [h2, h1]

theorem onlyIf_evOnly {r s : State} (c : Bool) (f : State → State) (h : evOnly r s) (hf : evOnly s (f s)) :
    evOnly r (onlyIf c f s) := by
  cases c
  · exact h
  · exact evOnly_trans h hf

theorem bumpN_evOnly (s : State) (i j n : Nat) : evOnly s (bumpN s i j n) := rfl
theorem bump_evOnly (s : State) (i j : Nat) : evOnly s (bump s i j) := rfl
theorem updSrc_evOnly (s : State) (n : Nat) (f : SrcSt → SrcSt) : evOnly s (updSrc s n f) := rfl

theorem wakeBy_evOnly (s : State) (c i : Nat) : evOnly s (wakeBy s c i) := by
  unfold wakeBy onlyIf avsBoth avsStart emit updPwr
  dsimp only
  (repeat' split) <;> rfl

theorem wakeSrc_evOnly (s : State) (c i : Nat) : evOnly s (wakeSrc s c i) := by
  unfold wakeSrc
  exact onlyIf_evOnly _ (fun t => wakeBy t c i) (evOnly_refl s) (wakeBy_evOnly s c i)

theorem pmEvent_evOnly (s : State) (n : Nat) : evOnly s (pmEvent s n) := by
  unfold pmEvent tlpOut; (repeat' split) <;> rfl

theorem intxUpdate_evOnly (s : State) (m : Nat) : evOnly s (intxUpdate s m) := by
  unfold intxUpdate tlpOut; dsimp only; (repeat' split) <;> rfl

theorem arriveAdmitted_evOnly (s : State) (n : Nat) : evOnly s (arriveAdmitted s n) := by
  unfold arriveAdmitted
  dsimp only
  refine onlyIf_evOnly _ _ (onlyIf_evOnly _ _ ?_ (evOnly_trans (pmEvent_evOnly _ _) (intxUpdate_evOnly _ _)))
    (wakeBy_evOnly _ _ _)
  split <;> rfl

theorem arrive_evOnly (s : State) (n : Nat) : evOnly s (arrive s n) := by
  unfold arrive; split
  · exact arriveAdmitted_evOnly s n
  · rfl

theorem raiseEv_evOnly (s : State) (h : Half) (off inst da db : Nat) : evOnly s (raiseEv s h off inst da db) := by
  unfold raiseEv
  refine evOnly_trans ?_ (arrive_evOnly _ _)
  cases h <;> dsimp only [onlyIf] <;> split <;> rfl

theorem logRec_evOnly (s : State) (h : Half) (r : LogRec) : evOnly s (logRec s h r) := by
  unfold logRec
  cases h <;> dsimp only <;> split <;> first
    | rfl
    | (refine evOnly_trans (t := _) (s := { s with err := _ }) rfl ?_
       exact onlyIf_evOnly _ _ rfl (raiseEv_evOnly _ _ _ _ _ _))

theorem logC_evOnly (s : State) (h : Half) (code unit status flow tag addr addr2 detail : Nat) :
    evOnly s (logC s h code unit status flow tag addr addr2 detail) := logRec_evOnly s h _

theorem sendVec_evOnly (s : State) (n v : Nat) : evOnly s (sendVec s n v) := by
  unfold sendVec tlpOut; dsimp only; (repeat' split) <;> rfl

theorem setPba_evOnly (s : State) (n v : Nat) (b : Bool) : evOnly s (setPba s n v b) := by
  unfold setPba; split <;> rfl

theorem notify_evOnly (s : State) (n : Nat) : evOnly s (notify s n) := by
  unfold notify; split
  · split
    · rfl
    · split
      · exact evOnly_trans (setPba_evOnly _ _ _ _) (bump_evOnly _ _ _)
      · exact sendVec_evOnly _ _ _
  · exact intxUpdate_evOnly _ _

/-- A function event changes no engine, flow, link, dictionary or time. -/
theorem fnEvent_evOnly (s : State) (n i : Nat) : evOnly s (fnEvent s n i) := by
  unfold fnEvent; split
  · rfl
  · exact onlyIf_evOnly _ _ rfl (evOnly_trans (pmEvent_evOnly _ _) (notify_evOnly _ _))

/-- The parts that stay. -/
theorem evOnly_pending {s t : State} (h : evOnly s t) : t.pending = s.pending := by unfold evOnly at h; rw [h]
theorem evOnly_clk {s t : State} (h : evOnly s t) : t.clk = s.clk := by unfold evOnly at h; rw [h]
theorem evOnly_freeCtr {s t : State} (h : evOnly s t) : t.freeCtr = s.freeCtr := by unfold evOnly at h; rw [h]
theorem evOnly_nextId {s t : State} (h : evOnly s t) : t.nextId = s.nextId := by unfold evOnly at h; rw [h]
theorem evOnly_sys {s t : State} (h : evOnly s t) : t.sys = s.sys := by unfold evOnly at h; rw [h]
theorem evOnly_nv {s t : State} (h : evOnly s t) : t.nv = s.nv := by unfold evOnly at h; rw [h]
theorem evOnly_dict {s t : State} (h : evOnly s t) : t.dict = s.dict := by unfold evOnly at h; rw [h]
theorem evOnly_dictB {s t : State} (h : evOnly s t) : t.dictB = s.dictB := by unfold evOnly at h; rw [h]
theorem evOnly_lanes {s t : State} (h : evOnly s t) : t.lanes = s.lanes := by unfold evOnly at h; rw [h]
theorem evOnly_links {s t : State} (h : evOnly s t) : t.links = s.links := by unfold evOnly at h; rw [h]
theorem evOnly_fab {s t : State} (h : evOnly s t) : t.fab = s.fab := by unfold evOnly at h; rw [h]
theorem evOnly_brdg {s t : State} (h : evOnly s t) : t.brdg = s.brdg := by unfold evOnly at h; rw [h]
theorem evOnly_eng {s t : State} (h : evOnly s t) : t.eng = s.eng := by unfold evOnly at h; rw [h]
theorem evOnly_time {s t : State} (h : evOnly s t) : t.time = s.time := by unfold evOnly at h; rw [h]
theorem evOnly_test {s t : State} (h : evOnly s t) : t.test = s.test := by unfold evOnly at h; rw [h]

theorem eng_raiseEv (s : State) (h : Half) (a b c d e : Nat) : eng (raiseEv s h a b c d) e = eng s e := by
  unfold eng; rw [evOnly_eng (raiseEv_evOnly s h a b c d)]

end Sys2Proof.Machine
end

