-- ==== Sys2Proof/Laws/Power.lean ====
section
/-! SUPPORT. Raising an event may wake the device, and leaves the performance level and the sleep state as they
are. -/

namespace Sys2Proof.Machine

/-- The level in force, its target and its hold, the request and the sleep state are those of `s`. -/
def levelSame (s t : State) : Prop :=
  t.pwr.target = s.pwr.target ∧ t.pwr.level = s.pwr.level ∧ t.pwr.held = s.pwr.held ∧ t.pwr.sleep = s.pwr.sleep ∧
  t.pwr.tjA = s.pwr.tjA ∧ t.pwr.tjB = s.pwr.tjB

theorem levelSame_refl (s : State) : levelSame s s := ⟨rfl, rfl, rfl, rfl, rfl, rfl⟩

theorem levelSame_trans {r s t : State} (h1 : levelSame r s) (h2 : levelSame s t) : levelSame r t := by
  obtain ⟨a, b, c, d, e, f⟩ := h1
  obtain ⟨a', b', c', d', e', f'⟩ := h2
  exact ⟨a'.trans a, b'.trans b, c'.trans c, d'.trans d, e'.trans e, f'.trans f⟩

theorem levelSame_pwr {s t : State} (h : t.pwr = s.pwr) : levelSame s t := by
  unfold levelSame; rw [h]; exact ⟨rfl, rfl, rfl, rfl, rfl, rfl⟩

theorem onlyIf_levelSame {r s : State} (c : Bool) (f : State → State) (h : levelSame r s) (hf : levelSame s (f s)) :
    levelSame r (onlyIf c f s) := by
  cases c
  · exact h
  · exact levelSame_trans h hf

theorem wakeBy_levelSame (s : State) (c i : Nat) : levelSame s (wakeBy s c i) := by
  unfold wakeBy onlyIf avsBoth avsStart emit updPwr
  dsimp only
  (repeat' split) <;> exact ⟨rfl, rfl, rfl, rfl, rfl, rfl⟩

theorem pmEvent_pwr (s : State) (n : Nat) : (pmEvent s n).pwr = s.pwr := by
  unfold pmEvent tlpOut; (repeat' split) <;> rfl
theorem intxUpdate_pwr (s : State) (m : Nat) : (intxUpdate s m).pwr = s.pwr := by
  unfold intxUpdate tlpOut; dsimp only; (repeat' split) <;> rfl

theorem arriveAdmitted_levelSame (s : State) (n : Nat) : levelSame s (arriveAdmitted s n) := by
  unfold arriveAdmitted
  dsimp only
  refine onlyIf_levelSame _ _ (onlyIf_levelSame _ _ ?_
    (levelSame_pwr ((intxUpdate_pwr _ _).trans (pmEvent_pwr _ _)))) (wakeBy_levelSame _ _ _)
  split <;> exact levelSame_pwr rfl

theorem arrive_levelSame (s : State) (n : Nat) : levelSame s (arrive s n) := by
  unfold arrive; split
  · exact arriveAdmitted_levelSame s n
  · exact levelSame_pwr rfl

theorem raiseEv_levelSame (s : State) (h : Half) (off inst da db : Nat) :
    levelSame s (raiseEv s h off inst da db) := by
  unfold raiseEv
  refine levelSame_trans ?_ (arrive_levelSame _ _)
  cases h <;> dsimp only [onlyIf] <;> split <;> exact levelSame_pwr rfl

/-- The level asked for is the dictionary's and the die roles': an event leaves it. -/
theorem levelAsked_evOnly {s t : State} (h : evOnly s t) : levelAsked t = levelAsked s := by
  unfold evOnly at h; rw [h]; rfl

end Sys2Proof.Machine
end

