-- ==== Sys2Proof/Laws/Traffic.lean ====
section
/-! SUPPORT. What receiving a packet in order comes to. -/

namespace Sys2Proof.Machine

theorem wakeArrival_awake {s : State} (h : awake s) (c i : Nat) : wakeArrival s c i = s := by
  simp [wakeArrival, h.1, h.2.1, h.2.2]

/-- A packet that is good and expected next is handed on in the state that has taken it. -/
theorem rxPacket_open {s : State} {l : Nat} {p : Pkt} (h : rxOpen s l p) :
    rxPacket s l p = rxInOrder (rxTook s l) l p := by
  obtain ⟨⟨h1, h2, h3, h4⟩, ⟨h5, h6⟩, h7⟩ := h
  unfold rxPacket
  simp only [h2, h3, h4, h5, wakeArrival_awake h1]
  unfold rxAhead at h7
  simp only [h7]
  have : (p.crc != pktCrc p) = false := by simpa using h6
  simp only [this]
  rfl

/-- A packet that nothing turns away goes to what its type means, in the state that has taken it. -/
theorem rxPacket_clean {s : State} {l : Nat} {p : Pkt} (h : rxClean s l p) :
    rxPacket s l p =
      (let u := rxTaken s l p
       if p.typ == 9 then rxCapAnn u l p
       else if p.typ == 3 then rxCpl u l p
       else if isFrozen u (tetherName (rxTook s l) l) then
         turnAway (bump u 0x8007 ((if isNpType p then 1 else 3) + halfIdx (halfOfLink l))) l p 2
       else rxRequest u l p) := by
  obtain ⟨h1, h2, h3, h4⟩ := h
  rw [rxPacket_open h1]
  unfold rxInOrder
  unfold rxTaken at h4
  simp only [h2, h3, h4]
  rfl

/-- A request of a live flow enters it. -/
theorem rxPacket_flowed {s : State} {l : Nat} {p : Pkt} (h : rxFlowed s l p) :
    rxPacket s l p =
      (let v := rxIn s l p
       match p.typ.toNat with
       | 4 => addTxn v { pktTxn v l p .p (.doorbell (ofBytesLE (p.payload.take 2) % 16384)) 0 4 p.payload false with lock := false }
       | 5 => rxState v l p
       | _ => outRequest v l p) := by
  obtain ⟨h1, h2, h3, h4⟩ := h
  rw [rxPacket_clean h1]
  obtain ⟨h4, h5, h6, h7⟩ := h4
  have h2' : (p.typ == 3) = false := by simpa using h2
  have h3' : (p.typ == 9) = false := by simpa using h3
  dsimp only
  rw [h2', h3', h4]
  have h6' : (flowSrc (rxTaken s l p) (halfOfLink l) p.flow.toNat != End.link (tetherName (rxTaken s l p) l)) = false := by
    simp [bne, h6]
  have e : stampIn (lateCheck (onlyIf (p.cls.toNat != flowCls (rxTaken s l p) (halfOfLink l) p.flow.toNat)
      (fun t => bumpR t (llReg l 0x030)) (rxTaken s l p)) l p) (halfOfLink l) p.flow.toNat true p.seq.toNat =
      rxIn s l p := by
    unfold rxIn onlyIf
    by_cases h : p.cls.toNat = flowCls (rxTaken s l p) (halfOfLink l) p.flow.toNat <;> simp [h]
  unfold rxRequest
  simp only [h5, h6', h7]
  rw [e]
  rfl

theorem rxPacket_out {s : State} {l : Nat} {p : Pkt} (h : rxFlowed s l p) (n4 : p.typ.toNat ≠ 4)
    (n5 : p.typ.toNat ≠ 5) : rxPacket s l p = outRequest (rxIn s l p) l p := by
  rw [rxPacket_flowed h]; dsimp only
  split
  · exact absurd ‹_› n4
  · exact absurd ‹_› n5
  · rfl

theorem rxPacket_doorbell {s : State} {l : Nat} {p : Pkt} (h : rxFlowed s l p) (n : p.typ.toNat = 4) :
    rxPacket s l p = addTxn (rxIn s l p) { pktTxn (rxIn s l p) l p .p
      (.doorbell (ofBytesLE (p.payload.take 2) % 16384)) 0 4 p.payload false with lock := false } := by
  rw [rxPacket_flowed h]; dsimp only
  split
  · rfl
  · omega
  · exact absurd n ‹_›

theorem rxPacket_state {s : State} {l : Nat} {p : Pkt} (h : rxFlowed s l p) (n : p.typ.toNat = 5) :
    rxPacket s l p = rxState (rxIn s l p) l p := by
  rw [rxPacket_flowed h]; dsimp only
  split
  · omega
  · rfl
  · exact absurd n ‹_›

/-- A request whose entry is found, toward an end that is no engine, with LOCK allowed. -/
theorem outRequest_some {v : State} {l e : Nat} {p : Pkt}
    (hs : ∀ k, flowSink v (halfOfLink l) p.flow.toNat ≠ .eng k)
    (ht : translateOut v (halfOfLink l) (tetherName v l) p.flow.toNat
      (if p.typ == 6 then p.addr.toNat / 4 * 4 else p.addr.toNat) = some e)
    (hk : (p.typ = 1 ∨ p.typ = 2 ∨ p.typ = 6) → p.lock = true →
      lockPasses (bumpR v (outHits e)) (halfOfLink l) (tetherName v l) e = true) :
    outRequest v l p =
      (let u := bumpR v (outHits e)
       match p.typ.toNat with
       | 1 => outWrite u l p e
       | 2 => outRead u l p e
       | 6 => outAtomic u l p e
       | 7 => outAcquire u l p e
       | 8 => outRelease u l p e
       | _ => u) := by
  unfold outRequest
  have h1 : (match flowSink v (halfOfLink l) p.flow.toNat with | .eng _ => true | _ => false) = false := by
    cases hf : flowSink v (halfOfLink l) p.flow.toNat <;> first | rfl | exact absurd hf (hs _)
  have h2 : (p.lock && (p.typ == 1 || p.typ == 2 || p.typ == 6) &&
      !lockPasses (bumpR v (outHits e)) (halfOfLink l) (tetherName v l) e) = false := by
    cases hl : p.lock
    · rfl
    · cases hq : (p.typ == 1 || p.typ == 2 || p.typ == 6)
      · rfl
      · have : lockPasses (bumpR v (outHits e)) (halfOfLink l) (tetherName v l) e = true :=
          hk (by simpa [or_assoc] using hq) hl
        simp [this]
  cases hf : flowSink v (halfOfLink l) p.flow.toNat <;>
    first
    | exact absurd hf (hs _)
    | (simp only [ht, h2, Bool.false_and, Bool.false_eq_true, if_false] <;> rfl)

/-- A request that no entry serves. -/
theorem outRequest_none {v : State} {l : Nat} {p : Pkt}
    (hs : ∀ k, flowSink v (halfOfLink l) p.flow.toNat ≠ .eng k)
    (ht : translateOut v (halfOfLink l) (tetherName v l) p.flow.toNat
      (if p.typ == 6 then p.addr.toNat / 4 * 4 else p.addr.toNat) = none) :
    outRequest v l p =
      (if isNpType p then refuseNp (bump v 0x4802 (hsub (halfOfLink l))) l p 5
       else creditBack (bump v 0x4803 (hsub (halfOfLink l))) l p) := by
  unfold outRequest
  cases hf : flowSink v (halfOfLink l) p.flow.toNat <;>
    first
    | exact absurd hf (hs _)
    | simp only [ht, Bool.false_and, Bool.false_eq_true, if_false]

/-- Each packet row receives the packets of its TYPE. -/
theorem exec_pktRows {l : LL} {p : Pkt} {c : Instr} {t : Nat} (hc : (c, t) ∈ pktRows l p) (ht : p.typ.toNat = t)
    (s : State) : exec c s = .next (rxPacket s l p) := by
  unfold pktRows at hc
  simp only [List.mem_cons, Prod.mk.injEq, List.not_mem_nil, or_false] at hc
  have key : ∀ k, p.typ.toNat = k → rxAs k s l p = rxPacket s l p := by
    intro k hk; unfold rxAs onlyIf; simp [hk]
  rcases hc with ⟨rfl, rfl⟩ | ⟨rfl, rfl⟩ | ⟨rfl, rfl⟩ | ⟨rfl, rfl⟩ | ⟨rfl, rfl⟩ | ⟨rfl, rfl⟩ | ⟨rfl, rfl⟩ |
    ⟨rfl, rfl⟩ | ⟨rfl, rfl⟩ <;> exact congrArg _ (key _ ht)

end Sys2Proof.Machine
end

