-- ==== Sys2Proof/Machine/Package.lean ====
section
/-! DEFINITION. The package's balls (R449 to R453) and the outputs that float (R456). No command reads a
ball number; these are functions of their own, the second one of State. -/

namespace Sys2Proof.Machine

/-- Supply rails that balls carry. -/
inductive BallRail where
  | vss | vddhSd | vddSd | vddSoc | vddCore | vddEng | vddqB | vddIo18 | vddIo33 | vddRind
deriving DecidableEq, Repr

/-- Signals of one brine channel (R452). -/
inductive BrineSig where
  | bdq (n : Nat) | brsP (n : Nat) | brsN (n : Nat) | bwsP (n : Nat) | bwsN (n : Nat) | bckP | bckN
  | baddr (n : Nat) | bba (n : Nat) | bcsN (n : Nat) | bweN | brefN | brv (n : Nat) | bresetN | bzq
deriving DecidableEq, Repr

/-- What a ball carries. `neg` marks the N ball of a differential pair. -/
inductive BallSig where
  | rail (r : BallRail)
  | htx (lane : Nat) (neg : Bool) | hrx (lane : Nat) (neg : Bool)
  | ltx (lane : Nat) (neg : Bool) | lrx (lane : Nat) (neg : Bool)
  | hrefclk (n : Nat) (neg : Bool) | lrefclk (n : Nat) (neg : Bool) | sysclk (neg : Bool)
  | brine (ch : Nat) (sig : BrineSig)
  | resetN | mode (n : Nat) | halfLead | bootSel | devid (n : Nat) | privHost (n : Nat)
  | perstN (n : Nat) | clkreqN (n : Nat) | wakeN | rindXi | rindXo
  | qspiClk (n : Nat) | qspiCsN (n : Nat) | qspiIo (n i : Nat)
  | fpRefClk | fpTxd (n : Nat) | fpTxEn | fpRxd (n : Nat) | fpCrsDv | fpMdc | fpMdio
  | avsClk | avsMdata | avsSdata | ppsIn | ppsOut | alertN | thermtripN
  | tck | tms | tdi | tdo | trstN
deriving DecidableEq, Repr

/-- A ball that carries ground. -/
def vssBall : BallSig := .rail .vss

/-- A supply checkered with ground: the rail where row plus column is odd (Table 17.1). -/
def checkered (r c : Nat) (v : BallRail) : BallSig := if (r + c) % 2 = 1 then .rail v else vssBall

/-- Half of a column and the column in half A coordinates (R449). -/
def ballHalf (c : Nat) : Half × Nat := if c ≤ 35 then (.a, c) else (.b, 71 - c)

/-- Reference clocks of tiles 128 to 131 by row (Table 17.2). -/
def refBall (h : Half) (r : Nat) (neg : Bool) : BallSig :=
  let k := 2 * halfIdx h
  match r with
  | 56 => .hrefclk k neg
  | 58 => .hrefclk (k + 1) neg
  | 59 => .lrefclk k neg
  | 61 => .lrefclk (k + 1) neg
  | 62 => match h with | .a => .sysclk neg | .b => vssBall
  | _ => vssBall

/-- A ball of the lane tiles, rows 2 to 67 and columns 1 to 12 (R451). -/
def tileBall (h : Half) (r c : Nat) : BallSig :=
  let t := 22 * ((c - 1) / 2) + (r - 2) / 3
  let line := (r - 2) % 3
  let neg := c % 2 == 0
  if 128 ≤ t then refBall h r neg
  else if line = 1 then vssBall
  else if t < 32 then
    let l := t + 32 * halfIdx h
    if line = 0 then .htx l neg else .hrx l neg
  else
    let l := t - 32 + 96 * halfIdx h
    if line = 0 then .ltx l neg else .lrx l neg

/-- The i-th signal of a brine channel; none after the last (R452). -/
def brineSigAt (i : Nat) : Option BrineSig :=
  if i < 36 then some (.bdq i)
  else match i with
    | 36 => some (.brsP 0) | 37 => some (.brsN 0) | 38 => some (.brsP 1) | 39 => some (.brsN 1)
    | 40 => some (.bwsP 0) | 41 => some (.bwsN 0) | 42 => some (.bwsP 1) | 43 => some (.bwsN 1)
    | 44 => some .bckP | 45 => some .bckN
    | _ =>
      if i < 67 then some (.baddr (i - 46))
      else if i < 71 then some (.bba (i - 67))
      else match i with
        | 71 => some (.bcsN 0) | 72 => some (.bcsN 1) | 73 => some .bweN | 74 => some .brefN
        | 75 => some (.brv 0) | 76 => some (.brv 1) | 77 => some .bresetN | 78 => some .bzq
        | _ => none

/-- A ball of the brine blocks, rows 1 to 60 and columns 13 to 30 but for the slow block (R452). -/
def brineBall (h : Half) (r c : Nat) : BallSig :=
  let k := 3 * ((c - 13) / 6) + (r - 1) / 20
  let ro := (r - 1) % 20
  let co := (c - 13) % 6
  if co = 2 ∨ co = 5 then (if ro % 2 = 0 then .rail .vddqB else vssBall)
  else
    match brineSigAt (4 * ro + if co < 2 then co else co - 1) with
    | some g => .brine (k + 8 * halfIdx h) g
    | none => vssBall

/-- Rows of Table 17.3 that half B has as ground. -/
def slowRowA (r : Nat) : List BallSig :=
  match r with
  | 41 => [.resetN, .mode 0, .mode 1, .mode 2, .halfLead, .bootSel]
  | 42 => [vssBall, .devid 0, .devid 1, .devid 2, .devid 3, vssBall]
  | 45 => [.rindXi, vssBall, .rindXo, vssBall, .rail .vddRind, vssBall]
  | 47 => [.fpRefClk, .fpTxd 0, .fpTxd 1, .fpTxEn, .rail .vddIo33, vssBall]
  | 48 => [.fpRxd 0, .fpRxd 1, .fpCrsDv, .fpMdc, .fpMdio, .rail .vddIo33]
  | 49 => [.avsClk, .avsMdata, .avsSdata, .ppsIn, .ppsOut, vssBall]
  | 50 => [.alertN, .thermtripN, .tck, .tms, .tdi, .tdo]
  | _ => []

/-- Rows of Table 17.3 that both halves have. -/
def slowRowBoth (h : Half) (r : Nat) : List BallSig :=
  let n := halfIdx h
  let onlyA (g : BallSig) : BallSig := match h with | .a => g | .b => vssBall
  match r with
  | 43 => [onlyA (.privHost 0), onlyA (.privHost 1), .rail .vddIo18, .rail .vddIo18, vssBall, vssBall]
  | 44 => [.perstN (2 * n), .perstN (2 * n + 1), .clkreqN (2 * n), .clkreqN (2 * n + 1), onlyA .wakeN,
      .rail .vddRind]
  | 46 => [.qspiClk n, .qspiCsN n, .qspiIo n 0, .qspiIo n 1, .qspiIo n 2, .qspiIo n 3]
  | 51 => [onlyA .trstN, vssBall, .rail .vddIo18, vssBall, .rail .vddIo18, vssBall]
  | _ => []

/-- A ball of the slow block, rows 41 to 60 and columns 25 to 30 (R453). -/
def slowBall (h : Half) (r c : Nat) : BallSig :=
  if 52 ≤ r then checkered r c .vddSoc
  else
    let shared := slowRowBoth h r
    if shared.isEmpty then
      match h with
      | .a => (slowRowA r).getD (c - 25) vssBall
      | .b => vssBall
    else shared.getD (c - 25) vssBall

/-- A ball of one half by region, in half A coordinates (R450, Table 17.1). -/
def regionBall (h : Half) (r c : Nat) : BallSig :=
  if c ≤ 12 then
    if 2 ≤ r ∧ r ≤ 67 then tileBall h r c
    else if r = 1 ∨ r = 70 then vssBall
    else .rail .vddhSd
  else if c ≤ 30 then
    if r ≤ 60 then (if 41 ≤ r ∧ 25 ≤ c then slowBall h r c else brineBall h r c)
    else if c ≤ 24 then checkered r c .vddSd
    else checkered r c .vddSoc
  else if r ≤ 35 then checkered r c .vddCore
  else checkered r c .vddEng

/-- What ball r-c carries; none outside the 70 rows and 70 columns (R449, R450). -/
def ballSig (r c : Nat) : Option BallSig :=
  if 1 ≤ r ∧ r ≤ 70 ∧ 1 ≤ c ∧ c ≤ 70 then some (regionBall (ballHalf c).1 r (ballHalf c).2) else none

/-! ## Floating outputs (R456) -/

/-- Outputs of Table 17.7 that float, by what keeps them driven. -/
inductive FloatOut where
  | ppsOut | fpTx | fpMdc | fpMdio | qspiCs (h : Half) | qspiClk (h : Half)
  | brineReset (h : Half) | brineClock (h : Half)
deriving DecidableEq, Repr

/-- The half whose domain drives the output; the pins bonded to both are driven by the half that
leads, by half A in SPLIT. -/
def floatHalf (s : State) : FloatOut → Half
  | .qspiCs h | .qspiClk h | .brineReset h | .brineClock h => h
  | _ => if isSplit s then .a else leadHalf s

/-- The output stays driven in S2, where the brine is held in self-refresh. -/
def drivenInS2 : FloatOut → Bool
  | .brineReset _ | .brineClock _ => true
  | _ => false

/-- The output is high-impedance: RESET_N is low, the starter does not drive it yet, or its domain is gated
(R382, R456). -/
def floats (s : State) (p : FloatOut) : Bool :=
  s.sys.resetLow || (half s (floatHalf s p)).boot == .reset || s.pwr.sleep == 3 ||
  (s.pwr.sleep == 2 && !drivenInS2 p)

/-- The level the board gives a floating output: none where it provides none (Table 17.7). -/
def boardLevel : FloatOut → Option Bool
  | .ppsOut | .fpTx | .fpMdc | .qspiClk _ | .brineReset _ => some false
  | .fpMdio | .qspiCs _ => some true
  | .brineClock _ => none

end Sys2Proof.Machine
end

