-- ==== Sys2Proof/Tests/Base.lean ====
section
/-! SUPPORT. Small states the tests run on: both halves in service, and configuration put by object. -/

namespace Sys2Proof.Tests

open Sys2Proof.Machine

/-- A half in service. -/
def servedHalf (r : Role) : HalfSt :=
  { HalfSt.reset with role := r, boot := .complete, dlUp := true, trained := true, exch := true }

/-- Half A leads, half B follows, both in service, nothing configured. -/
def up : State :=
  { State.reset with sys :=
      { SysSt.reset with resetLow := false, a := servedHalf .lead, b := servedHalf .follower } }

/-- Running values put by index and subindex. -/
def withCfg (s : State) (l : List (Nat × Nat × Nat)) : State :=
  { s with dict := { s.dict with
      run := l.foldl (fun t x => Tab.set (odDefault x.1 x.2.1) t (okey 0 x.1 x.2.1) x.2.2) s.dict.run } }

/-- The state of an outcome that is a next state. -/
def after (o : Out) : State :=
  match o with | .next s => s | _ => State.reset

/-- Local link 0 in a given bring-up state. -/
def linkIn (st : BringUp) : State := updLink up 0 fun x => { x with st := st, gen := 4 }

/-- A replay buffer entry of a WRITE packet. -/
def entry (n tries : Nat) : Replay := ⟨n, mkPkt 1 1 5 0 4 0 [], 7, none, tries⟩

/-- Link 0 in Active with two packets unacknowledged. -/
def linkUp : State := updLink (linkIn .active) 0 fun x =>
  { x with replay := [entry 1023 1, entry 0 8], txSeq := 1, rxAcked := 2 }

/-- Engine 8 running from address 0, with what `f` changes. -/
def engOn (f : EngSt → EngSt) : State := updEng up 8 fun g => f { g with st := .running }

/-- The last engine, running. -/
def engOnLast : State := updEng up 190 fun g => { g with st := .running }

/-- Host link 0 up at x16 with PF0 and function 1, both enabled: BAR0 of PF0 at 0x4000000, its BAR2 at 0x20000;
function 1 has BAR0 at 0x40000 and an aperture of 1 MiB at 0x10000000, whose sub-window 0 leads flow 7 to local
link 8 at 0x9000. -/
def hostUp : State :=
  let s := withCfg up [(0x5000, 57, 3), (0x5000, 58, 0x10080001), (0x5000, 62, 0x00080004), (0x4001, 1, 0x00080CF1),
    (0x4001, 2, 7), (0x4001, 4, 9)]
  let s1 := updSys s fun x => { x with perst := x.perst.set 0 false }
  let s2 := updHl s1 0 fun x => { x with dlActive := true, rate := 3, width := 16,
                                         layout := [⟨0, 0, 0, 4, 0, 0, false, 0⟩, ⟨1, 0, 0, 4, 4, 20, false, 0⟩] }
  let s3 := updFn s2 0 fun x => { x with cs := [(0x04, 6), (0x10, 0x4000000), (0x18, 0x20000)] }
  updFn s3 1 fun x => { x with cs := [(0x04, 6), (0x10, 0x40000), (0x18, 0x10000000)] }

end Sys2Proof.Tests
end

