-- ==== Sys2Proof/WellFormed.lean ====
section
/-! DEFINITION. Which commands can reach the block at all: an operand that no bus, frame or register of the spec
can carry makes a command ill-formed. The meanings stay total on these too. -/

namespace Sys2Proof

open Sys2Proof.Machine

/-- A register of the privileged map: through the BAR0 of a PF0, or by the steward (R9, R92). -/
def regRow : Path → Bool
  | .reg _ f => f.val == 0
  | .steward _ => true
  | _ => false

/-- A register of any function's BAR0. -/
def regLike : Path → Bool
  | .reg _ _ => true
  | .steward _ => true
  | _ => false

/-- An object: a mailbox, the field port, the steward (R9). -/
def objRow : Path → Bool
  | .reg _ _ => false
  | _ => true

/-- A resource that has a register and an object. -/
def bothRow : Path → Bool
  | .reg _ f => f.val == 0
  | _ => true

/-- The device key: an object, or the privileged register file (R358). -/
def keyRow : Path → Bool
  | .reg _ f => f.val == 0
  | _ => true

/-- A segment of a DOMAIN of `n` bytes: not empty, no longer than an operation can carry (R352, R353). -/
def segOk (off : Nat) (data : List Byte) (n : Nat) : Bool := !data.isEmpty && data.length ≤ 2048 && off < n

/-- An offset of BAR0, or of PF0's BAR2 (Tables 04.8, 13.7, 13.8). -/
def offOk (f : Nat) (bar2 : Bool) (off : Nat) : Bool :=
  if bar2 then f == 0 && off < 2 ^ 16 else decide (off < (if f = 0 then 2 ^ 26 else 2 ^ 16))

/-- A register write carries 1 to 1,024 DW; the steward's has no BAR2. -/
def wordsOk (p : Path) (bar2 : Bool) (off : Nat) (ws : List W32) : Bool :=
  !ws.isEmpty && ws.length ≤ 1024 &&
  match p with
  | .reg _ f => offOk f.val bar2 off
  | _ => !bar2 && off < 2 ^ 26

/-- A received packet carries at most the 10 bits of LEN in payload (Table 05.5). -/
def pktOk (p : Pkt) : Bool := p.payload.length ≤ 1023

/-- Bytes `a` to `a + n - 1` lie in one 4 KiB page. -/
def pageOk (a n : Nat) : Bool := 1 ≤ n && a % 4096 + n ≤ 4096

/-- A memory write: some bytes of one page. -/
def writeOk (r : HostReq) : Bool := pageOk r.addr.toNat r.data.length

/-- A memory read: none (the flush) or some bytes of one page. -/
def readOk (r : HostReq) : Bool := r.len == 0 || pageOk r.addr.toNat r.len

/-- An AtomicOp's operands: one of 4 or 8 bytes, two for CAS, up to 32 bytes, aligned on the operand. -/
def atomicOk (r : HostReq) (op : AtomicOp) : Bool :=
  let n := match op with | .cas => r.data.length / 2 | _ => r.data.length
  (n == 4 || n == 8 || (n == 16 && op == .cas)) && r.addr.toNat % n == 0

/-- A completion carries at most 4 KiB, and data with status SC alone. -/
def cplOk (c : HostCpl) : Bool := c.data.length ≤ 4096 && (c.status == .sc || c.data.isEmpty)

/-- A rate of 2.5 to 64 GT/s, as HP_LINK_STAT.RATE codes it (1 to 6), and a width of x1 to x16. -/
def rateOk (r : BitVec 3) : Bool := r != 0 && r != 7
def widthOk (w : BitVec 5) : Bool := w == 1 || w == 2 || w == 4 || w == 8 || w == 16

/-- A tag names something: a local link has 4,096 tags (R136), an engine 16 move slots (R253); a move slot
has no quarantine. -/
def sideOk : TagSide → BitVec 14 → Bool
  | .host _, _ => true
  | .link _, t => t.toNat < 4096
  | .move _, t => t.toNat < 16
def quarOk : TagSide → BitVec 14 → Bool
  | .move _, _ => false
  | .host _, _ => true
  | .link _, t => t.toNat < 4096

/-- A frame's PDU fits the largest payload of the field port (R350). -/
def frameOk (fr : FieldFrame) : Bool := fr.pdu.length ≤ 1500

/-- The command can reach the block. -/
def Instr.wellFormed : Instr → Bool
  | .resetNAssert _ => true
  | .resetNRise _ _ => true
  | .firmwareLoaded _ => true
  | .startupComplete _ => true
  | .tokenExchange => true
  | .leadExchangeTimeout _ => true
  | .heartbeatSend _ => true
  | .heartbeatReceive _ => true
  | .heartbeatTimeout _ => true
  | .dieLinkCrcFail _ _ => true
  | .dieLinkRetrain _ _ => true
  | .orphanTimeout => true
  | .followerRelease p _ => objRow p
  | .dieLinkCellArrive _ _ => true
  | .timeAlignCheck => true
  | .pressCellCross _ _ _ _ => true
  | .calendarSlot _ _ _ => true
  | .cplSpaceReserved _ => true
  | .fenceRelease _ => true
  | .flowDoorbellRaise _ => true
  | .zeroLenReadFlush _ => true
  | .shaperRelease _ => true
  | .linkShaperPacketStart _ _ => true
  | .brineSegmentWrite _ => true
  | .brineSegmentRead _ _ => true
  | .brineMonitorWindow _ => true
  | .brineTrainingDone _ _ => true
  | .brineTrackingPass _ => true
  | .laneDetectStep _ _ => true
  | .cdrLock _ => true
  | .cdrLockLoss _ => true
  | .adapted _ _ _ _ _ => true
  | .prbsCheckDone _ errors => errors ≤ 2 ^ 24
  | .trainingFrame _ _ _ _ _ => true
  | .trainTimeout _ => true
  | .lockTimeout _ => true
  | .exchangeTimeout _ => true
  | .electricalIdleEnd _ => true
  | .codewordReceive _ uncorrectable corrected => corrected ≤ 15 && !(uncorrectable && corrected != 0)
  | .blockReceive _ _ _ _ _ => true
  | .align _ _ _ _ => true
  | .capf _ frame => frame.length == 32
  | .down _ _ => true
  | .bondLaneMoveBack _ _ _ => true
  | .dalfelWrite _ p => p.typ == 1 && pktOk p
  | .dalfelRead _ p => p.typ == 2 && pktOk p
  | .dalfelCpl _ p => p.typ == 3 && pktOk p
  | .doorbell _ p => p.typ == 4 && pktOk p
  | .state _ p => p.typ == 5 && pktOk p
  | .stateValueCommit _ => true
  | .atomic _ p => p.typ == 6 && pktOk p
  | .lockAcq _ p => p.typ == 7 && pktOk p
  | .lockRel _ p => p.typ == 8 && pktOk p
  | .semaphoreUnitFree _ _ => true
  | .acquireTimeout _ _ => true
  | .holdLimitExpiry _ _ => true
  | .capAnn _ p => p.typ == 9 && pktOk p
  | .ping _ p => p.len == 0 && p.typ.toNat ≤ 8 && p.typ != 3 && pktOk p
  | .ack _ _ => true
  | .nak _ _ => true
  | .ackDue _ => true
  | .replayTimerExpiry _ => true
  | .credit _ _ _ _ _ _ => true
  | .creditRefresh _ => true
  | .creditWaitTimeout _ _ => true
  | .egressPacketStart _ _ => true
  | .pause _ _ _ => true
  | .pauseRefresh _ _ => true
  | .lpForceDown p _ _ => regRow p
  | .pingGo p _ => regRow p
  | .lpCntClr p _ => regRow p
  | .laneLoopSet p _ _ => regRow p
  | .laneDfeFreeze p _ _ => regRow p
  | .lanePrbsGenSet p _ _ => regRow p
  | .lanePrbsChkSet p _ _ => regRow p
  | .lanePolForceSet p _ _ _ _ => regRow p
  | .laneCntClr p _ => regRow p
  | .marginStart p _ _ => regRow p
  | .marginDone _ _ _ _ _ => true
  | .laneMarginingCommand _ => true
  | .hostMemoryWrite _ r => writeOk r
  | .hostMemoryRead _ r => readOk r
  | .hostAtomicop _ r op => atomicOk r op
  | .hostCompletion _ c => cplOk c
  | .splitWriteCommitted _ => true
  | .configRequest _ c => c.off.toNat % 4 == 0
  | .busMasterEnableClear _ _ => true
  | .busMasterEnableSet _ _ => true
  | .memorySpaceEnableClear _ _ => true
  | .msixDisable _ _ => true
  | .msixVectorUnmask _ _ _ => true
  | .d3hotEntry _ _ => true
  | .ltrMechanismEnable _ => true
  | .pmeTurnOff _ => true
  | .ioRequest _ _ => true
  | .mrdlk _ _ => true
  | .vendorDefinedType0 _ => true
  | .vendorDefinedType1 _ => true
  | .bar0Read _ f bar2 off dws _ => offOk f.val bar2 off && 1 ≤ dws && dws ≤ 1024
  | .expansionRomRead _ addr len _ => pageOk addr.toNat len
  | .expansionRomWrite _ _ => true
  | .registerWrite p bar2 off words _ => regLike p && wordsOk p bar2 off words
  | .perstNAssert _ => true
  | .perstNDeassert _ => true
  | .hotReset _ => true
  | .dlActiveExit _ => true
  | .dlActiveEnter _ _ rate width _ _ => rateOk rate && widthOk width
  | .l0sIdleTimer _ => true
  | .aspmL1IdleTimer _ => true
  | .l0pEvaluation _ _ => true
  | .mbxSubmit _ _ => true
  | .mbxReqWrite _ off data => !data.isEmpty && off.toNat + data.length ≤ 2048
  | .mbxResponse _ => true
  | .mbxAck _ _ => true
  | .switchRequest p _ _ _ => objRow p
  | .protectionSwitchOver _ _ => true
  | .pairMemberEligible _ _ => true
  | .prefetchLifetimeExpiry _ f _ _ => f.val != 0
  | .slotHoldExpiry _ f => f.val != 0
  | .winSlotFree p _ f => regRow p && f.val != 0
  | .completionTimeout side tag => sideOk side tag
  | .quarantineEnd side tag => quarOk side tag
  | .mirrorBoundaryUp _ => true
  | .mirrorPassEnd _ => true
  | .mirrorBoundaryDown _ => true
  | .downwardPassAcked _ => true
  | .flowMgRestart p _ => bothRow p
  | .flowDqProd p _ _ => regLike p
  | .flowDqRestart p _ => regRow p
  | .flowSel p _ => regRow p
  | .serviceEventDeliver _ => true
  | .flowIdlePoint _ => true
  | .engineHotWindow _ => true
  | .clusterDrained _ => true
  | .clusterLoadComplete _ => true
  | .engineRestart p _ => objRow p
  | .seCntClr p _ => regRow p
  | .seMemSel p _ => regRow p
  | .engineMemoryWindowWrite p _ _ => regRow p
  | .engAdd _ _ => true
  | .engSub _ _ => true
  | .engAnd _ _ => true
  | .engOr _ _ => true
  | .engXor _ _ => true
  | .engSll _ _ => true
  | .engSrl _ _ => true
  | .engSra _ _ => true
  | .engMul _ _ => true
  | .engSlt _ _ => true
  | .engSltu _ _ => true
  | .engHash _ _ => true
  | .engCrc _ _ => true
  | .engAddi _ _ => true
  | .engAndi _ _ => true
  | .engOri _ _ => true
  | .engXori _ _ => true
  | .engSlli _ _ => true
  | .engSrli _ _ => true
  | .engSrai _ _ => true
  | .engLui _ _ => true
  | .engCsrr _ _ => true
  | .engCsrw _ _ => true
  | .engWait _ _ => true
  | .engEoi _ _ => true
  | .engReti _ _ => true
  | .engFence _ _ => true
  | .fenceComplete _ => true
  | .engBreak _ _ => true
  | .engLd _ _ _ => true
  | .engLw _ _ _ => true
  | .engLh _ _ _ => true
  | .engLb _ _ _ => true
  | .engSd _ _ => true
  | .engSw _ _ => true
  | .engSh _ _ => true
  | .engSb _ _ => true
  | .engBeq _ _ => true
  | .engBne _ _ => true
  | .engBlt _ _ => true
  | .engBge _ _ => true
  | .engBltu _ _ => true
  | .engBgeu _ _ => true
  | .engJal _ _ => true
  | .engJalr _ _ => true
  | .engAadd _ _ => true
  | .engAswp _ _ => true
  | .engAcas _ _ => true
  | .engQpop _ _ => true
  | .engQdone _ _ => true
  | .engMvr _ _ => true
  | .engMvw _ _ => true
  | .engMva _ _ => true
  | .moveComplete _ _ => true
  | .engMwait _ _ => true
  | .engDbell _ _ => true
  | .engCtxr _ _ => true
  | .engCtxw _ _ => true
  | .engReply _ _ => true
  | .reservedOpcode _ w => reservedOp (fld w 26 6)
  | .evcFnDbell _ _ _ => true
  | .evcDbell p _ _ => regRow p
  | .sourceOffer _ => true
  | .coalescingHoldEnd _ => true
  | .offerAccept _ => true
  | .evcSrcMask p _ _ => bothRow p
  | .hostMessageForm _ => true
  | .hostMessageCommit _ => true
  | .holdoffEnd _ => true
  | .evcFnClaim _ _ _ => true
  | .evcFnDone _ _ _ => true
  | .evcFnEvt _ _ _ => true
  | .evcFnEvtEn _ _ _ => true
  | .evcErecPop p _ => regRow p
  | .errLlRelease p _ => bothRow p
  | .errLlFreeze p _ => regRow p
  | .errWkRelease p d => bothRow p && d.val != 0
  | .freezeTimeout _ => true
  | .errLogPop p _ => regRow p
  | .errCntClr p => regRow p
  | .mdpRequest src => match src with | .field fr => frameOk fr | .mailbox _ => true
  | .discover fr => frameOk fr
  | .open_ fr => frameOk fr
  | .proof fr => frameOk fr
  | .close fr => frameOk fr
  | .challengeTimeout _ => true
  | .proofLockoutEnd => true
  | .sessionIdleTimeout _ => true
  | .deviceKeyWrite p off data => keyRow p && segOk off.toNat data 32
  | .agApply p _ => bothRow p
  | .applyCheckComplete _ => true
  | .followerCutAct => true
  | .cutAck => true
  | .agDiscard p _ => bothRow p
  | .agClaim p _ => bothRow p
  | .agRelease p _ => bothRow p
  | .sealPassStart _ => true
  | .sealPassComplete _ => true
  | .levelSwitchPoint => true
  | .avsResponse _ => true
  | .avsStatusPoll => true
  | .avsRequestTimeout _ => true
  | .tempThresholdCross _ _ => true
  | .pwrSleep p _ => bothRow p
  | .s1IdleTimer => true
  | .sleepEntryCheck => true
  | .sleepEntryComplete => true
  | .wake _ => true
  | .sleepExitComplete => true
  | .wakeNDriveEnd => true
  | .tcMatch _ => true
  | .timeLoad p => regRow p
  | .timeStep p => regRow p
  | .secondsRollover => true
  | .ppsInEdge _ => true
  | .ppsInLost => true
  | .ptmDialogue => true
  | .servoPoll => true
  | .calibrationCapture => true
  | .timeTsrPop p _ => regRow p
  | .rindLost _ => true
  | .erase p _ => objRow p
  | .eraseComplete => true
  | .imageWindowWrite p off data => objRow p && segOk off.toNat data 0x10000
  | .verify p _ => objRow p
  | .verifyComplete => true
  | .activate p _ => objRow p
  | .confirm p _ => objRow p
  | .commit p _ => objRow p
  | .fuseKeySlot p k off hash => objRow p && k.val != 0 && segOk off.toNat hash 48
  | .revokeKeySlot p _ => objRow p
  | .bistStart p _ _ => bothRow p
  | .bistComplete _ _ _ => true
  | .tstStop p => bothRow p
  | .delayedCompletionRelease _ => true
  | .creditStarvationEnd _ => true
  | .tapInstructionLoad _ _ => true
  | .trstNLow => true
  | .thermtrip _ => true
  | .sysclkAbsent => true
  | .clockCheck _ => true
  | .trainingFrameSent _ _ => true
  | .capabilityFrameSent _ => true
  | .signalLoss _ => true
  | .xoffTimeout _ _ => true
  | .ppsOutHighTimeEnd => true
  | .ptmResponse _ => true
  | .hostLinkRateChange _ rate width => rateOk rate && widthOk width
  | .hostInitiatedExit _ => true
  | .d3hotExit _ _ => true
  | .mirrorBudgetRefill _ => true

end Sys2Proof
end

