-- ==== Sys2Proof/Tests/Slice0.lean ====
section
/-! SUPPORT. Small tests: ill-formed commands are refused, and every statement with hypotheses has a state
that meets them. -/

open Sys2Proof Sys2Proof.Machine
namespace Sys2Proof.Tests

set_option Elab.async false

/-! ### Ill-formed commands -/

/-- A privileged register lies in no other function's BAR0, and no mailbox writes one. -/
theorem test_wf_regRow : (Instr.lpForceDown (.reg 0 1) 0 true).wellFormed = false ∧
    (Instr.lpForceDown (.mbx 0) 0 true).wellFormed = false ∧ (Instr.lpForceDown (.reg 0 0) 0 true).wellFormed = true := by
  decide

/-- A register file holds no object, and an object that has a register is none of another function's. -/
theorem test_wf_objRow : (Instr.followerRelease (.reg 0 0) true).wellFormed = false ∧
    (Instr.errLlRelease (.reg 0 3) 0).wellFormed = false ∧ (Instr.errLlRelease (.field 1) 0).wellFormed = true := by decide

/-- The queue's PROD has a register in a function's BAR0, and no object a mailbox could write for it. -/
theorem test_wf_regLike : (Instr.flowDqProd (.mbx 0) 0 1).wellFormed = false ∧
    (Instr.flowDqProd (.reg 0 2) 0 1).wellFormed = true := by decide

/-- Device key, image and key hash come in segments; fuses take slots 1 to 3. -/
theorem test_wf_segments : (Instr.deviceKeyWrite (.reg 0 1) 0 [1]).wellFormed = false ∧
    (Instr.deviceKeyWrite (.mbx 0) 32 [1]).wellFormed = false ∧ (Instr.imageWindowWrite (.mbx 0) 0 []).wellFormed = false ∧
    (Instr.fuseKeySlot (.mbx 0) 0 0 [1]).wellFormed = false ∧ (Instr.errWkRelease (.mbx 0) 0).wellFormed = false := by
  decide

/-- A register access lies in the window of its BAR and carries at least one DW. -/
theorem test_wf_offsets : (Instr.bar0Read 0 1 false 0x10000 1 0).wellFormed = false ∧
    (Instr.bar0Read 0 1 true 0 1 0).wellFormed = false ∧ (Instr.bar0Read 0 0 false 0 0 0).wellFormed = false ∧
    (Instr.registerWrite (.reg 0 0) false 0 [] true).wellFormed = false ∧
    (Instr.registerWrite (.steward .a) true 0 [0] true).wellFormed = false ∧
    (Instr.mbxReqWrite 0 2044 [0, 0, 0, 0, 0, 0, 0, 0]).wellFormed = false ∧
    (Instr.configRequest 0 ⟨0, false, 2, none, 0⟩).wellFormed = false := by decide

/-- A packet reaches the row of its TYPE; a PING has no LEN. -/
theorem test_wf_packets : (Instr.dalfelWrite 0 (mkPkt 2 1 5 0 4 0 [])).wellFormed = false ∧
    (Instr.ping 0 (mkPkt 1 1 5 0 4 0 [])).wellFormed = false ∧
    (Instr.capf 0 []).wellFormed = false ∧ (Instr.codewordReceive 0 true 3).wellFormed = false ∧
    (Instr.prbsCheckDone 0 (2 ^ 24 + 1)).wellFormed = false := by decide

/-- A TLP crosses no 4 KiB boundary, an AtomicOp has its operand sizes, only SC carries data. -/
theorem test_wf_tlps : (Instr.hostMemoryRead 0 ⟨0xFFE, [], 4, 0, false, false, false, 0⟩).wellFormed = false ∧
    (Instr.hostMemoryWrite 0 ⟨0, [], 0, 0, false, false, false, 0⟩).wellFormed = false ∧
    (Instr.hostAtomicop 0 ⟨0, [none, none], 0, 0, false, false, false, 0⟩ .swap).wellFormed = false ∧
    (Instr.hostCompletion 0 ⟨0, 0, .ur, [1], false⟩).wellFormed = false ∧
    (Instr.expansionRomRead 0 0xFFC 8 0).wellFormed = false := by decide

/-- Rates, widths, programmed opcodes, functions with windows, frames. -/
theorem test_wf_rest : (Instr.dlActiveEnter 0 false 7 16 false false).wellFormed = false ∧
    (Instr.hostLinkRateChange 0 3 3).wellFormed = false ∧ (Instr.reservedOpcode 0 0).wellFormed = false ∧
    (Instr.slotHoldExpiry 0 0).wellFormed = false ∧ (Instr.winSlotFree (.reg 0 0) 0 0).wellFormed = false := by decide

theorem test_wf_frame : (Instr.discover ⟨0, 0, 0, List.replicate 1501 0⟩).wellFormed = false := by decide +kernel

/-! ### Words, and values of the spec's functions -/

/-- The table gives its rows no bits: no word spells a command, and none is put in front (R7 names accesses by offset). -/
theorem test_noWords : (∀ nbits w, decodeTableWord nbits w = none) ∧ up.withFetchWord 32 7 = up := ⟨fun _ _ => rfl, rfl⟩

/-- CRC-32C of the nine digits "123456789" is 0xE3069283 (the published check value of the polynomial R259 names). -/
theorem test_crcCheck : crc32c [0x31, 0x32, 0x33, 0x34, 0x35, 0x36, 0x37, 0x38, 0x39] = 0xE3069283 := by decide +kernel

/-- A 1 Gb boundary of the counter: 999,999,999 ns and a full fraction roll into the next second (R398). -/
theorem test_secondRolls : (let t := tick (updTime up fun x => { x with running := true, ns := 999999999, frac := 2 ^ 32 - 1 })
    t.time.sec = 1 ∧ t.time.ns = 0) := by decide +kernel


/-- The balls of local lane 100 and of BC10's data, worked out in chapter 17 (R451, R452). -/
theorem test_balls : ballSig 44 68 = some (.ltx 100 false) ∧ ballSig 44 67 = some (.ltx 100 true) ∧
    ballSig 45 68 = some vssBall ∧ ballSig 46 68 = some (.lrx 100 false) ∧ ballSig 46 67 = some (.lrx 100 true) ∧
    ballSig 41 58 = some (.brine 10 (.bdq 0)) ∧ ballSig 49 54 = some (.brine 10 (.bdq 35)) := by decide +kernel

/-- The reset pin, the flash clock of half B, a lane-edge rail, no ball 71 (R450, R453). -/
theorem test_ballRegions : ballSig 41 25 = some .resetN ∧ ballSig 41 46 = some vssBall ∧ ballSig 46 46 = some (.qspiClk 1) ∧
    ballSig 68 70 = some (.rail .vddhSd) ∧ ballSig 62 11 = some (.sysclk false) ∧ ballSig 71 1 = none := by decide +kernel

/-- In S2 the one-second pulse floats low and the brine's reset stays driven; in S3 both float (R456). -/
theorem test_floats : floats (updPwr up fun p => { p with sleep := 2 }) .ppsOut = true ∧
    floats (updPwr up fun p => { p with sleep := 2 }) (.brineReset .b) = false ∧
    floats (updPwr up fun p => { p with sleep := 3 }) (.brineReset .b) = true ∧ boardLevel .ppsOut = some false ∧
    floats up .ppsOut = false := by decide +kernel

/-! ### LaneClockRecoveryAndAdaptation -/

theorem witness_laneClock :
    Tab.wf LaneSt.reset up.lanes = true ∧ (lane up 255).mrgBusy = false ∧
    (let s := updLane up 255 fun x => { x with mrgBusy := true, cdr := true }
     Tab.wf LaneSt.reset s.lanes = true ∧ (lane s 255).mrgBusy = true ∧ (lane s 255).cdr = true) := by decide

/-! ### LaneDetectionAndTrainingChecks -/

theorem witness_laneDetect :
    laneLink up 191 = some 188 ∧ (link up 188).st = .detect ∧ (link up 188).idle = false ∧
    up.sys.lrefOk.getD (188 / 48) true = true ∧
    portsOn up (halfOfLane up 192) = true ∧ (hl up (hlOfLane up 192)).dlActive = false ∧
    (let s := updLane (linkIn .train) 3 fun x => { x with adapt := true }
     laneLink s 3 = some 0 ∧ (link s 0).st = .train ∧ (lane s 3).adapt = true) ∧
    laneLink (linkIn .exchange) 0 = some 0 ∧ (link (linkIn .exchange) 0).st = .exchange := by decide

/-! ### FailedAttemptsStepTheGeneration -/

theorem witness_failedAttempts :
    (link (linkIn .train) 0).st = .train ∧ (link (linkIn .lock) 0).st = .lock ∧
    (link (linkIn .exchange) 0).st = .exchange ∧ Tab.wf LlSt.reset (linkIn .train).links = true ∧
    siblingUp (linkIn .train) 0 = false ∧ (link up 191).st = .detect := by decide

/-! ### TrainingFramesExchangeReadyAndAck -/

/-- A status word of generation 4 with READY and ACK. -/
def word4 : W64 := BitVec.ofNat 64 (19 + (65535 - 19) * 65536)
theorem witness_trainingFrames :
    laneLink (linkIn .train) 0 = some 0 ∧ (link (linkIn .train) 0).st = .train ∧ 3 < linkLanes (linkIn .train) 0 ∧
    bit (lane (linkIn .train) 3).ctrl 8 = false ∧ statusValid 0 = false ∧ statusValid word4 = true ∧
    fld word4 2 3 = (link (linkIn .train) 0).gen ∧
    statusValid (BitVec.ofNat 64 (65535 * 65536)) = true ∧
    fld (BitVec.ofNat 64 (65535 * 65536) : W64) 2 3 ≠ (link (linkIn .train) 0).gen ∧
    (ownReady (linkIn .train) 0 && ownAck (linkIn .train) 0 && partnerReady (linkIn .train) 0) = false ∧
    (let s := updLink (withCfg (linkIn .train) [(0x3000, 1, 2)]) 0 fun x =>
        { x with rdySeen := [true, true, true, true], rdyCount := [4, 4, 4, 4], sentAck := [15, 0, 0, 0] }
     let t := updLane s 0 fun x => { x with rxReady := true }
     laneLink t 0 = some 0 ∧ linkLanes t 0 = 1 ∧
     (ownReady t 0 && ownAck t 0 && partnerReady t 0) = true) := by decide

/-! ### CodewordLockCounts -/

theorem witness_codewords :
    (let s := updLane (linkIn .lock) 3 fun x => { x with cwLock := true, cwBad := 3 }
     laneLink s 3 = some 0 ∧ pastTrain (link s 0) = true ∧ laneFec s 3 = true ∧ (lane s 3).cwLock = true) ∧
    (let s := updLane (linkIn .lock) 0 fun x => { x with cwGood := 2 }
     laneLink s 0 = some 0 ∧ laneFec s 0 = true ∧ (lane s 0).cwLock = false ∧ damageSlot s 0 = none) ∧
    (let s := withCfg (linkIn .lock) [(0xA000, 1, 7), (0xA000, 2, 3), (0xA000, 3, 16), (0xA000, 4, 1)]
     damageSlot s 3 = some 0 ∧ (everyNth s 0).1 = true ∧
     (everyNth (withCfg s [(0xA000, 4, 2)]) 0).1 = false) := by decide +kernel

/-! ### BlockAndAlignmentLock -/

/-- A valid ALIGN of a x4 sub-link with index 3. -/
def align3 : W64 := BitVec.ofNat 64 (0xA5 + 3 * 2 ^ 12 + 2 * 2 ^ 14 + 255 * 2 ^ 24 + 0x69963C * 2 ^ 40)
theorem witness_locks :
    (let s := updLane (linkIn .lock) 3 fun x => { x with cwLock := true, blkGood := 63 }
     laneLink s 0 = some 0 ∧ pastTrain (link s 0) = true ∧ 3 < linkLanes s 0 ∧ laneFec s 3 = true ∧
     (lane s 3).cwLock = true ∧ (lane s 3).cwBad = 0 ∧ (blockHeader (lane s 3) true).2 = false) ∧
    16 ≤ ones64 ((65535 * 2 + 1) % 2 ^ 64) ∧ alignValid 2 align3 = true ∧ alignValid 2 0 = false ∧
    fld align3 12 2 = 3 ∧
    (let s := updLane (linkIn .lock) 3 fun x => { x with blkLock := true, aligned := true, alnSeq := 3, logical := 3 }
     widthCode s 0 = 2 ∧ (lane s 3).blkLock = true ∧ (lane s 3).aligned = true) := by decide

/-! ### CapabilityExchangeEntersActive -/

/-- A capability frame of generation 4, width x4, with ACK. -/
def goodFrame : List Byte :=
  let b : List Byte := [1, 0xA0, 0x0F, 2] ++ List.replicate 24 0
  b ++ bytesLE 4 (crc32c b).toNat
theorem witness_capability :
    laneLink (linkIn .exchange) 0 = some 0 ∧ (link (linkIn .exchange) 0).st = .exchange ∧
    frameValid [] = false ∧ frameValid goodFrame = true ∧ (goodFrame.getD 2 0).toNat.testBit 3 = true ∧
    (goodFrame.getD 3 0).toNat % 4 = widthCode (linkIn .exchange) 0 ∧
    (let s := updLink (linkIn .exchange) 0 fun x => { x with frameOk := true, ackFrame := true, capSent := 1 }
     ((link s 0).frameOk && (link s 0).ackFrame) = true) ∧
    (link (linkIn .active) 0).st = .active ∧ (busyLanes up 0).contains (laneKey up .a 0) = false := by decide +kernel

/-! ### LaneControlFieldsAreWrittenAlone -/

theorem witness_laneControls :
    regPath (.steward .a) = true ∧ awake up ∧ pathLive up (.steward .a) = true ∧
    inService up (pathHalf up (.steward .a)) = true ∧ pathPriv up (.steward .a) = true ∧
    pathReaches up (.steward .a) (halfOfLane up 255) = true ∧ Tab.wf LaneSt.reset up.lanes = true ∧
    isRecovery up = false ∧ loopAllowed up 255 0 = true ∧ loopAllowed up 191 3 = true ∧
    laneLink up 191 = some 188 := by unfold awake; decide +kernel

/-! ### MarginReadoutRunsAndStops -/

theorem witness_margins :
    regOpen up (.steward .a) (halfOfLane up 192) ∧ (lane up 192).mrgBusy = false ∧
    (lane (updLane up 192 fun x => { x with mrgBusy := true }) 192).mrgBusy = true := by
  unfold regOpen awake; decide +kernel

/-! ### AcknowledgementsFreeTheReplayBuffer -/

theorem witness_ack :
    layerOn linkUp 0 = true ∧ (link linkUp 0).replay = [entry 1023 1] ++ [entry 0 8] ∧
    (1023 + 1 + [entry 0 8].length) % 1024 = (link linkUp 0).txSeq % 1024 ∧
    (∀ r ∈ [entry 1023 1], r.pkt.typ ≠ 5) ∧
    (511 : Nat) = ((link linkUp 0).txSeq + 1023 + 511) % 1024 ∧ (link linkUp 0).rxAcked ≠ 0 ∧
    (link linkUp 0).replay.any (fun r => decide (8 ≤ r.tries)) = true ∧
    [entry 1023 1].any (fun r => decide (8 ≤ r.tries)) = false := by decide +kernel

/-! ### CreditPauseAndLinkControls -/

theorem witness_creditPause :
    layerOn linkUp 0 = true ∧ isTether linkUp 0 = false ∧
    isTether (withCfg linkUp [(0x3000, 1, 0x1000)]) 0 = true ∧
    layerOn (withCfg linkUp [(0x3000, 1, 0x1000)]) 0 = true ∧
    (let s := updLink linkUp 0 fun x => { x with xoff := [(16383, 0)] }
     (link s 0).xoff.any (fun p => p.1 == 16383) = true) ∧
    regOpen linkUp (.steward .a) (halfOfLink 0) ∧ regOpen linkUp (.steward .a) (halfOfLink 191) ∧
    Tab.wf LlSt.reset linkUp.links = true ∧
    (link linkUp 0).st = .active ∧ (link linkUp 191).st = .detect ∧ (link linkUp 0).replay.length < 256 ∧ (link linkUp 0).owed = [] := by
  unfold regOpen awake; decide +kernel
theorem witness_pingTag : ∃ tag s2, pickTag linkUp (linkSide (tetherName linkUp 0)) (0, 4096, 4096) = (some tag, s2) := by
  have : List.range 4096 = 0 :: (List.range 4095).map Nat.succ := List.range_succ_eq_map
  refine ⟨(Config.freeNat 0 + 0) % 4096, (takeFree linkUp).2, ?_⟩
  have h : linkUp.fab.tags = [] ∧ linkUp.fab.quars = [] ∧ linkUp.freeCtr = 0 := by decide +kernel
  simp [pickTag, tagsHeld, tagBusy, takeFree, this, h.1, h.2.1, h.2.2]

/-! ### ContainmentIsEnteredAndLeftByItsRules -/

theorem witness_containment :
    regOpen linkUp (.steward .b) (halfOfLink 191) ∧ onesModel linkUp 191 = false ∧
    (let s := updLink linkUp 0 fun x => { x with contain := 1 }
     regOpen s (.steward .a) (halfOfLink 0) ∧ onesModel s 0 = false ∧ containOf s 0 = 1) ∧
    (let s := updLink linkUp 0 fun x => { x with contain := 2 }
     containOf s 0 = 2 ∧ s.pwr.sleep ≤ 1 ∧ wideOpen s (.steward .a) 0x8002 (halfOfLink 0) ∧
     (half s (halfOfLink 0)).stewardHalted = false ∧ isWorker s = false ∧ linkActive s 0 = true ∧
     (link s 0).present = false) ∧
    (let s := updLink (linkIn .detect) 0 fun x => { x with contain := 3 }
     linkActive s 0 = false) ∧
    regOpen linkUp (.steward .a) (pathHalf linkUp (.steward .a)) := by
  unfold wideOpen regOpen objOpen awake; decide +kernel
/-- A manager that has lost worker 1, reachable again over the tether of port 0. -/
def lostWorker : State :=
  let s := withCfg linkUp [(0x3000, 1, 0x1000), (0x9005, 1, 0)]
  let t := updLink s 0 fun x => { x with frame := [1, 0x61], role := 2, devid := 1 }
  { t with sys := { t.sys with straps := { t.sys.straps with mode := 2 }, workers := [(1, 4, true, true, false)] } }
theorem witness_workerRelease :
    isManager lostWorker = true ∧ wideOpen lostWorker (.steward .a) 0x8005 (leadHalf lostWorker) ∧
    (worker lostWorker 1).1 = 4 ∧ reachable lostWorker 1 = true ∧ (worker lostWorker 1).2.2.1 = true := by
  unfold wideOpen objOpen awake; decide +kernel
theorem witness_denied :
    (let s := { linkUp with host := { linkUp.host with
        hls := [(0, { HlSt.reset with dlActive := true, layout := [⟨0, 0, 0, 0, 0, 0, false, 0⟩, ⟨1, 0, 0, 0, 0, 0, false, 0⟩] })],
        fns := [(1, { FnSt.reset with cs := [(4, 2)] })] } }
     awake s ∧ pathLive s (.reg 0 1) = true ∧ inService s (pathHalf s (.reg 0 1)) = true ∧
     pathPriv s (.reg 0 1) = false) := by unfold awake; decide +kernel

/-! ### EngineRegisterInstructionsWriteTheirResult -/

theorem witness_engineRegisters :
    (let s := engOn id
     engReadyFor s 8 (· == .none) ∧ engWf s 8 ∧ opFn 0 = 0 ∧ 1 ≤ opFn 8 ∧ opFn 8 ≤ 8 ∧ opB 0 = 0 ∧
     (csrRead s 8 (opImm 0xC)).isSome = true ∧ (csrRead s 8 (opImm 0)).isSome = true) ∧
    engReadyFor engOnLast 190 (· == .none) ∧ engWf engOnLast 190 := by
  unfold engReadyFor engWf; decide +kernel

/-! ### EngineBranchesAndJumps -/

theorem witness_engineBranches : engReadyFor (engOn id) 8 (· == .none) ∧ engWf (engOn id) 8 := by
  unfold engReadyFor engWf; decide +kernel

/-! ### EngineLoadsStoresAndAtomicsReachTheirBytesOnly -/

theorem witness_engineMemory :
    (let s := engOn fun g => { g with regs := g.regs.set 1 0x1FFFF8, mem := [(0, 1)] }
     engReadyFor s 8 (· == .none) ∧ engMemWf s 8 ∧ accessFault 8 0x1FFFF8 8 = none ∧ accessFault 8 0xFFFF 1 = none ∧
     storeFault s 8 0x1FFFF8 8 = none ∧ storeFault s 8 0xBFFF 1 = none ∧ accessFault 8 0xC000 8 = none ∧
     engRegion 0x200000 8 = none ∧ (0x200000 : Nat) % 8 = 0 ∧ (0xBFFC : Nat) % 8 ≠ 0 ∧
     opFn (1 : BitVec 26) = 1 ∧ opFn (0 : BitVec 26) = 0) := by
  unfold engReadyFor engMemWf; decide +kernel

/-! ### EngineFaultsInterruptsAndWaiting -/

theorem witness_engineSystem :
    engReadyFor (engOn id) 8 (· == .none) ∧ opFn (0 : BitVec 26) = 0 ∧ opImm (7 : BitVec 26) = 7 ∧
    reservedOp (fld (0xFC000000 : W32) 26 6) = true ∧ reservedOp (fld (0x24000000 : W32) 26 6) = true ∧
    (let s := engOn fun g => { g with inFault := true }
     engReadyFor s 8 (· == .none) ∧ (eng s 8).inFault = true) ∧
    (let s := engOn fun g => { g with stack := [⟨5, 3, 64⟩], regs := g.regs.set 1 5 }
     engReadyFor s 8 (· == .none) ∧ (eng s 8).stack = [⟨5, 3, 64⟩] ∧ (eng s 8).pendRet = none ∧
     5 = (engReg s 8 (opB 0x10000)).toNat % 16384 ∧ 5 ≠ (engReg s 8 (opB 0)).toNat % 16384) ∧
    (let s := engOn fun g => { g with pendRet := some 64 }
     engReadyFor s 8 (· == .none) ∧ (eng s 8).pendRet = some 64 ∧ (eng s 8).offer = none) ∧
    (let s := engOn fun g => { g with waitFor := .fence true true }
     (eng s 8).waitFor = .fence true true ∧ fenceMet s 8 true = true ∧ engUp s 8 = true ∧ s.pwr.sleep = 0) ∧
    (let s := engOn fun g => { g with offer := some ⟨5, 3, 128⟩, fvec := 256 }
     (eng s 8).offer = some ⟨5, 3, 128⟩ ∧ (eng s 8).pendRet = none ∧ engUp s 8 = true ∧
     (engRegion (128 : W64).toNat 4).isSome = true ∧ Tab.wf EngSt.reset s.eng.engs = true ∧ (eng s 8).fvec ≠ 0 ∧
     (eng s 8).inFault = false) := by
  unfold engReadyFor; decide +kernel

/-! ### EngineInboxMovesDoorbellsAndContexts -/

/-- Move word: 8 bytes, local address 0, flow 3. -/
def moveWord : W64 := BitVec.ofNat 64 (3 + 8 * 2 ^ 37)
/-- Engine 8 of service 0 (cluster 1) with flow 3 from itself, and an inbox record popped and one waiting. -/
def movingEng : State :=
  let s := engOn fun g => { g with
    regs := (g.regs.set 1 moveWord).set 2 0xC000
    slots := .free :: List.replicate 15 (.kept 0)
    inbox := [⟨0xC000, 32, 3, 2, 8, 1, 0, 0, true, false, false⟩, ⟨0xC020, 64, 3, 1, 0, 0, 0, 0, false, false, false⟩] }
  withCfg s [(0x6000, 1, 1 + 2 * 256), (0x5000, 25, 5 + 0x10000), (0x5000, 26, 0x2008 + 0x1000 * 65536)]
theorem witness_engineInbox :
    engReadyFor movingEng 8 (· == .none) ∧
    (openRec (eng movingEng 8) 0xC000).isSome = true ∧ opB (0x20000 : BitVec 26) = 2 ∧
    engReg movingEng 8 2 = 0xC000 ∧ (openRec (eng movingEng 8) 0xC020).isNone = true ∧
    replyBad (BitVec.ofNat 64 (8 * 2 ^ 37)) 8 = false ∧ rpStatus (BitVec.ofNat 64 (8 * 2 ^ 37)) = 0 ∧
    mvRsvd moveWord = false ∧ mvLen moveWord = 8 ∧ mvAop moveWord = 0 ∧ mvFlow moveWord = 3 ∧
    destOk (mvLaddr moveWord) 8 = true ∧ rangeOk (mvLaddr moveWord) 8 = true ∧ in4k 0 8 = true ∧
    engReserved 8 (mvLaddr moveWord) 8 = false ∧
    slotDone (eng movingEng 8) 15 = true ∧ flowHome movingEng 3 = halfOfEng 8 ∧ (63 : Nat) % 64 = 63 ∧
    (let s := engOn fun g => { g with slots := g.slots.set 15 (.busy 3 0 false true) }
     engUp s 8 = true ∧ (eng s 8).slots.getD 15 .free = .busy 3 0 false true) ∧
    (let s := engOn fun g => { g with slots := List.replicate 16 (.kept 1) }
     engReadyFor s 8 (· == .none) ∧ (pickSlot s 8).1 = none) := by
  unfold engReadyFor; decide +kernel
theorem witness_engineMove : ∃ i s1, pickSlot movingEng 8 = (some i, s1) ∧
    moveAllowed (engRd s1 8 3 (BitVec.ofNat 64 i)) 8 (mvFlow moveWord) = true := by
  refine ⟨0, (takeFree movingEng).2, ?_, by decide +kernel⟩
  have h : ((eng movingEng 8).slots.zipIdx.filterMap fun (x, i) => if x == .free then some i else none) = [0] := by
    decide +kernel
  unfold pickSlot
  rw [h]
  simp [takeFree, Nat.mod_one]
theorem witness_engineMoveCpl :
    (let t : Txn := { mkTxn 3 6 .cpl 1 (.link 0) (.eng 8) .a .a (.cpl 0 0 0 15) 0 8 [1] with arrived := 100, fenceOk := true }
     let s := { engOn fun g => { g with slots := g.slots.set 15 (.busy 3 0 false false) } with
       fab := { FabSt.reset with txns := [t] } }
     engUp s 8 = true ∧ (eng s 8).slots.getD 15 .free = .busy 3 0 false false ∧
     (slotCpl s 8 15).isSome = true) := by decide +kernel

/-! ### ServiceEventsFlowsAndClusters -/

/-- Service 0 runs in cluster 0 and its rotation; flow 5 ends at engine 1, to which every bucket is dealt. -/
def svcUp : State :=
  let s0 := withCfg up [(0x6000, 1, 0x101), (0x6000, 2, 7), (0x6000, 3, 1), (0x5000, 41, 1), (0x5000, 42, 0x20010000)]
  let s1 := updEng s0 1 fun g => { g with st := .running }
  let s2 := updSvc s1 0 fun x => { x with buckets := List.replicate 256 1 }
  updClus s2 0 fun x => { x with svc := 1, version := 3, loaded := true }
/-- ... assigned, with a write of 4 bytes waiting at the cluster port. -/
def svcWork : State :=
  let s := updFlow svcUp 5 fun x => { x with assigned := some 1 }
  addTxn s { mkTxn 5 10 .p 0 (.fn 1) (.eng 1) .a .a .write 0x40 4 [1, 2, 3, 4] with arrived := 4, fenceOk := true }
/-- A program 7 of version 4 in slot A of half A. -/
def svcFlash : State :=
  let bs (t : Tab Byte) (o : Nat) (l : List Byte) : Tab Byte := writeBytes 0xFF t o l
  updFlash (withCfg svcUp [(0x6000, 1, 0x101), (0x6000, 2, 7), (0x6000, 3, 0)]) .a fun f =>
    { f with rec0 := ⟨1, .valid, 0, .empty, 0, 0, true⟩,
             bytes := bs (bs (bs f.bytes 6 [1, 0]) 0x100 [2, 0, 0, 0, 0, 0x40, 0, 0, 24, 0, 0, 0]) 0x4000
               [7, 0, 4, 0, 4, 0, 0, 0, 4, 0, 0, 0, 0, 0, 0, 0] }
/-- ... its cluster idle in WAIT. -/
def svcDrained : State := forAll svcFlash (clusterEngs 0) fun u e => updEng u e fun g => { g with st := .waiting }
theorem wit_idlePoint : flowBucketEng svcUp (flowSvcHalf svcUp 5) 5 = some 1 ∧ flowBusy svcUp 5 = false ∧
    (flowSt svcUp 5).assigned = none := by decide +kernel
theorem wit_idlePointBusy : flowBusy (updEng svcWork 1 fun g =>
    { g with inbox := [⟨0xC000, 32, 5, 1, 0, 0, 0, 0, false, false, false⟩] }) 5 = true ∧
    flowBucketEng svcWork (flowSvcHalf svcWork 5) 5 = some 1 ∧ (flowSt svcWork 5).assigned = some 1 ∧
    (flowSt svcWork 5).asgEpoch = curEpoch svcWork (flowSvcHalf svcWork 5) := by decide +kernel
theorem wit_idlePointMoves :
    let s := updFlow svcUp 5 fun x => { x with assigned := some 2 }
    flowBucketEng s (flowSvcHalf s 5) 5 = some 1 ∧ flowBusy s 5 = false ∧ (flowSt s 5).assigned = some 2 := by
  decide +kernel
theorem wit_deliver :
    carries svcWork (flowSvcHalf svcWork 5) = true ∧ flowIdle svcWork 5 = svcWork ∧
    (flowSt svcWork 5).assigned = some 1 ∧ flowSvc svcWork (flowSvcHalf svcWork 5) 5 = some 0 ∧
    engInRot svcWork 0 1 = true ∧ (flowSt svcWork 5).nextEv ≤ svcWork.eng.cyc ∧
    (nextEvent svcWork 5).map (fun t => inboxPlace (eng svcWork 1) (recNeed t)) = some (some 0) := by decide +kernel
theorem wit_deliverDeferred :
    let s := updFlow svcWork 5 fun x => { x with nextEv := 1 }
    carries s (flowSvcHalf s 5) = true ∧ flowIdle s 5 = s ∧ flowSvc s (flowSvcHalf s 5) 5 = some 0 ∧
    engInRot s 0 1 = true ∧ s.eng.cyc < (flowSt s 5).nextEv ∧ (nextEvent s 5).isSome = true := by decide +kernel
theorem wit_deliverNoRoom :
    let s := updEng svcWork 1 fun g =>
      { g with inTail := 0x20, inbox := [⟨0xC020, 32, 9, 1, 0, 0, 0, 0, false, false, false⟩] }
    carries s (flowSvcHalf s 5) = true ∧ flowIdle s 5 = s ∧ engInRot s 0 1 = true ∧
    (nextEvent s 5).map (fun t => inboxPlace (eng s 1) (recNeed t)) = some none := by decide +kernel
/-- Queue 3 of service 0 has a DQ_READY waiting under flow 6. -/
def dqWork : State :=
  let s := withCfg svcUp [(0x6000, 1, 0x101), (0x6000, 2, 7), (0x6000, 3, 1), (0x5000, 50, 0x00013003), (0x5400, 25, 1),
    (0x5400, 29, 6), (0x6043, 1, 0)]
  updDq (updFlow s 6 fun x => { x with assigned := some 1 }) 3 fun d => { d with ready := true }
theorem wit_clusterDrained : drained svcDrained 0 = true ∧ stewardUp svcDrained .a = true ∧ svcDrained.pwr.sleep = 0 ∧
    svcOfCluster svcDrained 0 = some 0 ∧ (svcProgram svcDrained 0).map (·.ver) = some 4 ∧
    (clus svcDrained 0).version = 3 := by decide +kernel
theorem wit_clusterLoad :
    let s := updClus svcFlash 0 fun x => { x with loading := true }
    let s1 := updClus s 0 fun x => { x with loading := false }
    (clus s 0).loading = true ∧ stewardUp s .a = true ∧ s.pwr.sleep = 0 ∧ svcOfCluster s1 0 = some 0 ∧
    (svcProgram s1 0).map (fun p => (p.ver, p.llen, p.entry)) = some (4, 4, 0) := by decide +kernel
theorem wit_engineRestart :
    let s := updEng svcFlash 1 fun g => { g with st := .halted }
    objOpen s (.steward .a) 0x6100 .a ∧ (eng s 1).st = .halted ∧ isSteward 1 = false ∧ stewardUp s .a = true ∧
    svcOfEng s 1 = some 0 ∧ (svcProgram s 0).isSome = true ∧ Tab.wf EngSt.reset s.eng.engs = true := by
  unfold objOpen awake; decide +kernel

/-! ### HotEnginesCountersAndTheMemoryWindow -/

theorem wit_hotWindow : carries up .a = true ∧ Tab.wf EngSt.reset up.eng.engs = true := by decide +kernel
theorem wit_seRegisters : regOpen up (.steward .a) .a := by unfold regOpen awake; decide +kernel
theorem wit_memWindow :
    let s := updEng { up with eng := { up.eng with memSel := 191 } } 191 fun g => { g with st := .halted }
    regOpen s (.steward .a) .b ∧ memSelOf s (.steward .a) = 191 ∧ isSteward 191 = false ∧
    engReserved 191 0x1FFFFC 4 = false ∧ engReserved 191 0xFFFC 4 = false ∧ (eng s 191).st = .halted ∧
    (engRegion 0xFFFC 4).isSome = true := by unfold regOpen awake; decide +kernel
theorem wit_memWindowRefused :
    let s := updEng { up with eng := { up.eng with memSel := 1 } } 1 fun g => { g with st := .running }
    regOpen s (.steward .a) .a ∧ (eng s (memSelOf s (.steward .a))).st ≠ .halted ∧
    drained s (memSelOf s (.steward .a) / 8) = false := by unfold regOpen awake; decide +kernel

/-! ### SourcesCountAreOfferedHeldAndMasked -/

/-- Source 20 of half A: enabled, an edge source to engines 1 and 2 with priority 3; engine 1 waits, engine 2
runs. -/
def srcUp : State :=
  let s := withCfg up [(0x6801, 33, 0x331), (0x6801, 37, 6)]
  let s1 := updEng (updEng s 1 fun g => { g with st := .running }) 2 fun g => { g with st := .running }
  updSrc s1 20 fun x => { x with count := 254 }
theorem wit_doorbells :
    regOpen srcUp (.steward .a) .a ∧ Tab.wf SrcSt.reset srcUp.evc.srcs = true ∧ srcEn srcUp 20 = true ∧
    srcDormant srcUp 20 = false ∧ srcLevel srcUp 20 = false := by unfold regOpen awake; decide +kernel
theorem wit_sourceOffer : (src srcUp 20).pos = .idle ∧ srcPending srcUp 20 = true ∧ srcChoose srcUp 20 = some 1 ∧
    srcFirst srcUp 20 1 = true ∧ (eng srcUp 1).offer = none := by decide +kernel
theorem wit_holdEnd : (src (updSrc srcUp 20 fun x => { x with pos := .held 1 }) 20).pos = .held 1 := by decide +kernel
theorem wit_srcMask :
    wideOpen srcUp (.steward .a) 0x6D00 .a ∧ wideOpen srcUp (.steward .b) 0x6D00 .a ∧
    (src (updSrc srcUp 20 fun x => { x with pos := .offered 1 }) 20).pos = .offered 1 ∧ srcWants srcUp 20 = true := by
  unfold wideOpen objOpen awake; decide +kernel
theorem wit_crossing : dieUp { up with sys := { up.sys with a := { up.sys.a with dlUp := false } } } = false ∧
    halfOfSrc 20 ≠ .b := by decide +kernel

/-! ### EventMessagesAreFormedAndCommitted -/

/-- Function 1 of host link 0 with four MSI-X entries, mastering and MSI-X on, entry 2 unmasked; source 20 sends to
its vector 2 over flow 7 from local link 0. -/
def msgUp : State :=
  let s := withCfg up [(0x6801, 33, 0x33), (0x6801, 37, 0x00010007), (0x6801, 38, 2), (0x5000, 57, 1),
    (0x5000, 58, 0x00011000)]
  let s1 := updHl s 0 fun x => { x with dlActive := true, layout := [⟨0, 0, 0, 4, 0, 0, false, 0⟩, ⟨1, 0, 0, 4, 4, 0, false, 0⟩] }
  let s2 := setCs (setCs s1 1 4 6) 1 0xB0 0x80000000#32
  { s2 with host := { s2.host with msix := Tab.set msixReset s2.host.msix (msixKey s2 1 2) 0x7700001000#128 } }
/-- ... with the counter at 2, and the message formed. -/
def msgOne : State := updSrc msgUp 20 fun x => { x with count := 2 }
def msgFormed : State := after (exec (.hostMessageForm 20) msgOne)
theorem wit_messageForm : mayForm msgOne 20 = true ∧ mayForm msgUp 20 = false := by decide +kernel
theorem wit_messageCommit :
    (src msgFormed 20).pos = .formed 5 ∧ (msgFormed.fab.txns.find? fun t => t.op == .message 20).map
      (fun t => (t.fenceOk, egressBlocked msgFormed t)) = some (true, false) ∧
    (hl msgFormed (srcFnNow msgFormed 20 / 64)).dlActive = true ∧ masterOn msgFormed 1 = true ∧
    msixEn msgFormed 1 = true ∧ vecMasked msgFormed 1 2 = false := by decide +kernel
theorem wit_messageCommitHeld : masterOn (setCs msgFormed 1 4 2) 1 = false := by decide +kernel
theorem wit_messageCommitOther : msixEn (setCs msgFormed 1 0xB0 0) 1 = false ∧
    vecMasked (setCs msgFormed 1 0xB0 0xC0000000#32) 1 2 = true := by decide +kernel
/-- The message committed leaves as the vector's address and data. -/
theorem test_messageSent : (after (exec (.hostMessageCommit 20) msgFormed)).out.getLast? =
    some (.tlp 0 (.msi 1 0x7700001000 0)) := by decide +kernel
theorem wit_holdoffEnd : Tab.get false { msgUp.evc with hold := [(511, true)] }.hold 511 = true ∧
    Tab.get false msgUp.evc.hold 511 = false := by decide +kernel

/-! ### FunctionEventRegistersClaimAndClear -/

theorem wit_fnRegisters : awake msgUp ∧ fnRegs msgUp 0 1 = true ∧ (hl msgUp 0).dlActive = true ∧ msixEn msgUp 1 = true := by
  unfold awake; decide +kernel
theorem wit_fnClaimEdge :
    let s := setCs msgOne 1 0xB0 0
    awake s ∧ fnRegs s 0 1 = true ∧ msixEn s 1 = false ∧ msiEn s 1 = false ∧ claimable s 1 = some 20 ∧
    srcLevel s 20 = false := by unfold awake; decide +kernel
theorem wit_fnClaimLevel :
    let s := updSrc (withCfg (setCs msgOne 1 0xB0 0) [(0x6801, 33, 0x37)]) 20 fun x => { x with level := true }
    awake s ∧ fnRegs s 0 1 = true ∧ msixEn s 1 = false ∧ msiEn s 1 = false ∧ claimable s 1 = some 20 ∧
    srcLevel s 20 = true := by unfold awake; decide +kernel
theorem wit_erecPop : regOpen up (.steward .a) .a ∧ regOpen up (.steward .a) .b := by
  unfold regOpen awake; decide +kernel

/-! ### ResetPinAndTheStraps -/

/-- Half A leads, MODE is UNIFIED. -/
def strapsLead : Straps := ⟨0, 0, false, 0, false⟩
theorem wit_resetRise : State.reset.sys.resetLow = true ∧ State.reset.sys.thermtrip.contains true = false ∧
    strapsOk strapsLead = true ∧ strapsOk ⟨6, 0, false, 0, false⟩ = false ∧ strapsOk ⟨3, 0, false, 0, false⟩ = false ∧
    strapsOk ⟨3, 15, false, 0, false⟩ = true ∧ up.sys.resetLow = false := by decide +kernel
theorem wit_resetRiseHot :
    let s := updPwr (updSys State.reset fun y => { y with thermtrip := [true, false] }) fun p => { p with tjA := 460 }
    s.sys.resetLow = true ∧ ¬ (s.sys.thermtrip.contains true = false ∨ (s.pwr.tjA < 460 ∧ s.pwr.tjB < 460)) := by
  decide +kernel

/-! ### RolesFirmwareAndCompletion -/

/-- Both halves in the starter, their exchange open; `m` and `l` are the straps of half B. -/
def starting (m : BitVec 3) (l : Bool) : State :=
  { State.reset with sys := { SysSt.reset with
      resetLow := false, straps := ⟨0, 0, false, 0, false⟩, strapsB := ⟨m, 0, l, 0, false⟩,
      a := { HalfSt.reset with boot := .starter, slot := 1 }, b := { HalfSt.reset with boot := .starter } } }
theorem wit_tokenExchange :
    (∀ m ∈ [0, 1], ∀ l, exchOpen (starting m l) .a = true ∧ exchOpen (starting m l) .b = true ∧
      isSplit (starting m l) = false ∧ isRecovery (starting m l) = false) := by decide +kernel
theorem wit_tokenExchangeModes :
    let split := { starting 1 false with sys := { (starting 1 false).sys with straps := ⟨1, 0, false, 0, false⟩ } }
    let rec_ := { starting 4 true with sys := { (starting 4 true).sys with straps := ⟨4, 0, false, 0, false⟩ } }
    isSplit split = true ∧ exchOpen split .a = true ∧ exchOpen split .b = true ∧
    isRecovery rec_ = true ∧ exchOpen rec_ .a = true ∧ exchOpen rec_ .b = true := by decide +kernel
/-- The halves after the exchange, half A with its firmware started. -/
def exchanged : State :=
  let s := starting 0 false
  { s with sys := { s.sys with a := { s.sys.a with exch := true, role := .lead, boot := .firmware },
                               b := { s.sys.b with exch := true, role := .follower, slot := 1 } } }
theorem wit_firmwareLoaded :
    exchanged.sys.resetLow = false ∧ exchanged.sys.sysclkOk = true ∧ (half exchanged .b).boot = .starter ∧
    (half exchanged .b).exch = true ∧ (half exchanged .b).slot < 2 ∧ (half exchanged .b).role = .follower ∧
    (half exchanged .a).boot = .firmware := by decide +kernel
theorem wit_firmwareLoadedLead :
    let s := updHalf exchanged .a fun x => { x with boot := .starter }
    (half s .a).boot = .starter ∧ (half s .a).slot < 2 ∧ (half s .a).role ≠ .follower := by decide +kernel
theorem wit_startupComplete :
    (half exchanged .a).boot = .firmware ∧ (half exchanged .a).role ≠ .follower ∧ (half exchanged .a).exch = true := by
  decide +kernel
theorem wit_startupCompleteFollower :
    let s := updHalf (updHalf exchanged .a fun x => { x with boot := .complete }) .b fun x => { x with boot := .firmware }
    (half s .b).boot = .firmware ∧ (half s .b).role = .follower ∧ (half s (otherHalf .b)).boot = .complete := by
  decide +kernel
theorem wit_startupCompleteService :
    let s := updHalf exchanged .a fun x => { x with boot := .service, slot := 3 }
    (half s .a).boot = .service ∧ (half s .a).role ≠ .starting ∧ isRecovery s = false := by decide +kernel
/-- The lead's start-up sets COMPLETE and takes the board to service. -/
theorem test_startupCompletes :
    let t := after (exec (.startupComplete .a) (updHalf exchanged .a fun x => { x with slot := 3 }))
    (half t .a).boot = .complete ∧ (half t .a).bootStat = 0x113#32 := by decide +kernel

/-! ### DieLinkIsLostFoundAndTheFollowerOrphaned -/

theorem wit_heartbeats : dieStates up = true ∧ (half up .b).trained = true ∧ (half up .b).dlUp = true ∧ up.pwr.sleep ≤ 1 ∧
    (half up .a).exch = true ∧ (half up .a).crcFails = 0 := by decide +kernel
/-- The die link has been down since cycle 0. -/
def dieLost : State :=
  { up with sys := { up.sys with a := { up.sys.a with dlUp := false, downClk := some 0 },
                                 b := { up.sys.b with dlUp := false, downClk := some 0 } } }
theorem wit_orphanTimeout : isSplit dieLost = false ∧ dieStates dieLost = true ∧ dieLost.sys.a.dlUp = false ∧
    dieLost.sys.b.dlUp = false ∧ dieLost.sys.a.downClk ≠ none ∧ (half dieLost (otherHalf (leadHalf dieLost))).role = .follower ∧
    (half dieLost .a).boot ≠ .reset := by decide +kernel
theorem wit_followerRelease :
    let s := updHalf up .b fun x => { x with role := .orphaned }
    objOpen s (.steward .a) 0x9002 (servHalf s (pathHalf s (.steward .a))) ∧
    (half s .a).role = .lead ∧ isSplit s = false ∧ dieUp s = true ∧ (half s .b).role = .orphaned := by
  unfold objOpen awake; decide +kernel
theorem wit_cellArrives :
    let s := updFab up fun x => { x with cells := [⟨9, .b, 5, .p, 0, [], 64, .die⟩] }
    cell? s 9 = some ⟨9, .b, 5, .p, 0, [], 64, .die⟩ ∧ crossOk s = true := by decide +kernel
theorem wit_alignPulse : pulseCrosses up = true ∧ ({ up.time with folOff := -3 } : TimeSt).folOff ≠ 0 := by decide +kernel

/-! ### CellsLeaveTheIngressAndTheVat -/

/-- Flow 7 of class 1 from local link 0 to local link 8, with a write of 4 bytes in the ingress buffer. -/
def fabUp : State :=
  let s := withCfg up [(0x5000, 57, 3), (0x5000, 58, 0x10081000), (0x5000, 62, 0x00080004)]
  addTxn s (flowTxn s .a 7 .p .write 0x100 4 [1, 2, 3, 4])
theorem wit_cellCuts : carries fabUp .a = true ∧
    (txn? fabUp 1).map (fun t => (t.ihalf, t.home, mayLeave fabUp t)) = some (.a, .a, true) ∧
    (txn? fabUp 1).map (fun t => (cutsThrough fabUp t (!pressBusy fabUp t.home (outOf t.sink)),
      cutsThrough fabUp t false)) = some (true, false) ∧
    (txn? fabUp 1).map (fun t => holdPlace fabUp t.home t.flow t.cls) = some (some .head) := by decide +kernel
theorem wit_cellHeldBack :
    let s := withCfg fabUp [(0x5000, 62, 0)]
    (txn? s 1).map (fun t => (mayLeave s t, cutsThrough s t false, holdPlace s t.home t.flow t.cls)) =
      some (true, false, none) := by decide +kernel
theorem wit_cellCrossesDie :
    let s0 := withCfg up [(0x5000, 57, 3), (0x5000, 58, 0x10BF1000), (0x5000, 62, 0x00080004)]
    let s := addTxn s0 (flowTxn s0 .a 7 .p .write 0x100 4 [1, 2, 3, 4])
    (txn? s 1).map (fun t => (t.ihalf, t.home, mayLeave s t, homeTakes s t)) = some (.a, .b, true, true) ∧
    crossOk s = true := by decide +kernel
/-- ... held in the vat head. -/
def fabHeld : State := after (exec (.pressCellCross .a 1 false .clean) fabUp)
theorem wit_vatCell : carries fabHeld .a = true ∧ txn? fabHeld 2 = none ∧
    (cell? fabHeld 2).map (fun c => (c.id, c.half, cellReady fabHeld c, (cellTxn fabHeld c).isSome)) =
      some (2, .a, true, true) := by decide +kernel
theorem wit_calendar : sendsOut 2 = true ∧ sendsOut 31 = false ∧ pressBusy fabHeld .a 2 = false ∧
    readyFor fabHeld .a 3 = [] ∧ readyFor fabHeld .a 1 ≠ [] := by decide +kernel
theorem wit_calendarOwner :
    let s0 := withCfg up [(0x5000, 57, 1), (0x5000, 58, 0x10081000), (0x5000, 62, 0x00080004)]
    let s1 := addTxn (updPwr s0 fun p => { p with level := 0 }) (flowTxn s0 .a 7 .p .write 0x100 200 (List.replicate 200 1))
    let s := after (exec (.pressCellCross .a 1 false .clean) s1)
    pressBusy s .a 1 = false ∧ contended s (readyFor s .a 1) = false ∧ s.pwr.level ≠ 3 ∧ (flowSt s 7).refused = false ∧
    ((readyFor s .a 1).find? fun (x : Cell) => x.flow == 7 && x.cls == 0).map (·.bytes) = some 200 := by decide +kernel
theorem wit_calendarBusy :
    let s := withCfg up [(0xA000, 1, 5), (0xA000, 2, 1)]
    pressBusy s .a 1 = true ∧ carries s .a = true := by decide +kernel

/-! ### WaitingTransactionsGoOnInTheirTurn -/

/-- A read of 65 bytes whose space has not been reserved. -/
def readWaits : State :=
  let s := withCfg up [(0x5000, 57, 3), (0x5000, 58, 0x10081000), (0x5000, 62, 0x00080004)]
  let r := (submitNp s (.link 0 5) (flowTxn s .a 7 .np .read 0x100 65 []) 65 [mkPart 0 65 0x100]).2
  updReq (updTxn r 2 fun t => { t with reserved := false }) 1 fun q => { q with resHdr := 0, resData := 0 }
theorem wit_cplSpace : (txn? readWaits 2).map (fun t => (t.req, t.reserved, t.kind, t.op)) = some (1, false, .np, .read) ∧
    (req? readWaits 1).map (fun r => cplRoom readWaits r.half r.dir r.cls r.len) = some true := by decide +kernel
/-- A transaction of link 0 alone in flow 7. -/
def linkTxn (op : TOp) (d : List Byte) : State :=
  let s := withCfg up [(0x5000, 57, 3), (0x5000, 58, 0x10081000), (0x5000, 62, 0x00080004)]
  addTxn s { flowTxn s .a 7 .p op 3 4 d with fence := true }
theorem wit_acquireReaches : (txn? (reserve (linkTxn .lockAcq []) 1) 1).map (fun t => (t.op, t.src, t.reserved)) =
    some (.lockAcq, .link 0, true) := by decide +kernel
theorem wit_fenceRelease : (txn? (linkTxn .write [1]) 1).map (fun t => (t.fence, fenceWaits (linkTxn .write [1]) t)) =
    some (true, false) := by decide +kernel
theorem wit_fenceWaits :
    let s := addTxn (linkTxn .write [1]) { flowTxn (linkTxn .write [1]) .a 7 .p .write 3 4 [2] with fence := true }
    (txn? s 2).map (fun t => (t.fence, fenceWaits s t)) = some (true, true) := by decide +kernel
theorem wit_doorbellRaise : (txn? (linkTxn (.doorbell 20) [20, 0, 0, 0]) 1).map
    (fun t => (t.op, t.src, flowWritesDone (linkTxn (.doorbell 20) [20, 0, 0, 0]) t)) = some (.doorbell 20, .link 0, true) := by
  decide +kernel
theorem wit_engineDoorbell :
    let s := addTxn up (mkTxn 7 (doorbellLane 8) .np 1 (.eng 8) (.eng 8) .a .a (.doorbell 20) 0 0 [])
    (txn? s 1).map (fun t => (t.op, t.src)) = some (.doorbell 20, .eng 8) := by decide +kernel
theorem wit_stateValue :
    let s := linkTxn (.state 3) [1, 0, 0, 0, 0, 0, 0, 0]
    (txn? s 1).map (fun t => (t.op, t.src, flowWritesDone s t, mgOfWord (leftIngress (dropTxn s 1) t) 0 3)) =
      some (.state 3, .link 0, true, none) := by decide +kernel
theorem wit_stateValueGroup :
    let s := withCfg (linkTxn (.state 3) [1, 0, 0, 0, 0, 0, 0, 0]) [(0x5C00, 1, 1), (0x5C00, 2, 0x00080000)]
    (txn? s 1).map (fun t => mgOfWord (leftIngress (dropTxn s 1) t) 0 3) = some (some 0) := by decide +kernel
theorem wit_zeroRead :
    let s := addTxn up { mkTxn 7 14 .np 1 (.fn 1) (.link 8) .a .a .read 0 0 [] with mark := .zeroRead 1 }
    (txn? s 1).map (fun t => (t.mark, t.sink, t.reserved, unacked s 1 8 1)) =
      some (.zeroRead 1, .link 8, true, false) := by decide +kernel
theorem wit_zeroReadWaits :
    let s0 := updLink up 8 fun x => { x with replay := [⟨1, mkPkt 1 1 7 0 4 0 [], 0, some (.fn 1), 1⟩] }
    let s := addTxn s0 { mkTxn 7 14 .np 1 (.fn 1) (.link 8) .a .a .read 0 0 [] with mark := .zeroRead 1 }
    unacked s 1 8 1 = true := by decide +kernel

/-! ### ShapersReleaseAgainstTheirTokens -/

theorem wit_shaperRelease :
    let s := withCfg fabUp [(0x5000, 59, 100), (0x5000, 60, 3)]
    ((s.fab.txns.find? fun t => t.flow == 7 && !t.released && t.kind != .cpl && payLen t != 0).map
      fun t => shaped s t.home 7) = some true := by decide +kernel
/-- The write of flow 7 has reached link 8, which is in Active with credit. -/
def fabOut : State :=
  let s := updLink fabUp 8 fun x =>
    { x with st := .active, contain := 1, limP := [8, 8, 8, 8], maxP := [8, 8, 8, 8], gotP := true,
             frame := List.replicate 16 0 }
  updTxn s 1 fun t => { t with left := 0, arrived := 4 }
theorem wit_packetStart : carries fabOut .a = true ∧ (link fabOut 8).shTok = none ∧
    (txn? fabOut 1).map (fun t => (gateTxn fabOut t = none, mayStart fabOut 8 t)) = some (True, true) := by
  constructor
  · decide +kernel
  · constructor
    · decide +kernel
    · have : txn? fabOut 1 = some ((txn? fabOut 1).getD (mkTxn 0 0 .p 0 (.fn 0) (.fn 0) .a .a .read 0 0 [])) := by decide +kernel
      rw [this]; simp only [Option.map_some, Option.some.injEq, Prod.mk.injEq, eq_iff_iff, iff_true]
      constructor <;> decide +kernel
theorem wit_shaperStart :
    let s := updLink fabOut 8 fun x => { x with shTok := some 4096 }
    (link s 8).shTok ≠ none ∧ (txn? s 1).map (fun t => (mayStart s 8 t, onLink (nextLen s 8 t))) = some (true, 24) := by
  decide +kernel
theorem wit_creditWait :
    let s := updLink fabOut 8 fun x => { x with maxP := [0, 1, 0, 0] }
    (txn? s 1).map (fun t => (t.sink, t.cls)) = some (.link 8, 1) ∧ (bondMembers s 8).contains 8 = true ∧
    linkActive s 8 = true ∧
    (txn? s 1).map (fun t => pktCost (pktOf t (nextLen s 8 t) 0).typ.toNat (nextLen s 8 t)) = some (some .p, 2) := by
  decide +kernel

/-! ### BrineSegmentsMonitorsAndTraining -/

/-- Flow 7 may use the brine of half A, which is trained; a cell waits in its tail. -/
def brineFed : State :=
  let s := withCfg up [(0x5602, 1, 1), (0x5000, 57, 0x13), (0x5000, 58, 0x10081000), (0x5000, 62, 0x00080004),
    (0x5000, 63, 0x02000004)]
  let s1 := updBrine s .a fun b => { b with trained := true }
  updFab s1 fun x => { x with cells := [⟨9, .a, 7, .p, 1, [], 64, .tail⟩] }
theorem wit_brineWrite : (tailCell brineFed 7).map (·.id) = some 9 ∧ carries brineFed .a = true ∧ brineUp brineFed .a = true ∧
    brineOcc brineFed .a 7 < flowBrineCeil brineFed .a 7 ∧ chanUsed brineFed .a 0 < brineSegs brineFed .a := by decide +kernel
theorem wit_brineRead :
    let s := updFab brineFed fun x => { x with cells := [⟨9, .a, 7, .p, 1, [], 64, .brine 0 0 0⟩] }
    (brineCell s 7).map (·.place) = some (.brine 0 0 0) ∧ headOcc s .a 7 < flowRefill s .a 7 ∧
    (brine s .a).trained = true := by decide +kernel
theorem wit_brineWindow :
    let s := updBrine up .b fun b => { b with wrBytes := [1025000, 0, 0, 0, 0, 0, 0, 0] }
    carries s .b = true ∧ 1025000 ≤ (brine s .b).wrBytes.sum ∧ 100 * (brine s .b).wrBytes.getD 1 0 ≤
      cfg s .b 0x5606 1 * (brine s .b).wrBytes.sum ∧ cfg s .b 0x5606 1 * (brine s .b).wrBytes.sum <
      100 * (brine s .b).wrBytes.getD 0 0 ∧ (brine s .b).hotCount.getD 0 0 + 1 < cfg s .b 0x5606 2 := by decide +kernel
theorem wit_brineTraining :
    let s := withCfg up [(0x5602, 1, 1)]
    (half s .a).boot ≠ .reset ∧ cfg s .a 0x5602 (hsub .a) % 4 ≠ 0 ∧ (brine s .a).trained = false ∧
    (brine s .a).down = false := by decide +kernel

/-! ### SemaphoreUnitsFreeTimeOutAndExpire -/

/-- Semaphore 130 of one unit: link 4 released it, link 8 waits with request 3. -/
def semWaits : State :=
  updSem (withCfg up [(0x5A82, 1, 0x101)]) 130 fun x =>
    { x with freeing := [(4, 1)], waiters := [(8, 3)] }
theorem wit_semFree : ((sem semWaits 130).freeing.find? fun p => p.1 == tetherName semWaits 4) = some (4, 1) ∧
    semCommitted semWaits 4 1 = true ∧ ((sem semWaits 130).waiters.find? fun p => p.1 == tetherName semWaits 8) = some (8, 3) := by
  decide +kernel
theorem wit_semServe :
    let s := updSem semWaits 130 fun x => { x with freeing := [] }
    (sem s 130).waiters = [(8, 3)] ∧ semEn s 130 = true ∧
    semUsed (sem s 130) < semCount s 130 := by decide +kernel
theorem wit_holdLimit : (sem (updSem up 0 fun x => { x with holders := [(191, 0)] }) 0).holders.any
    (fun p => p.1 == tetherName up 191) = true := by decide +kernel

/-! ### PacketsAreTakenInOrder -/

/-- Link 0 in Active takes packets; flow 7 of class 1 runs from it to link 8, by outbound entry 0 (4 KiB at 0,
bound to semaphore 5, toward 0x9000 at the target). -/
def rxUp : State :=
  let s := withCfg up [(0x5000, 57, 3), (0x5000, 58, 0x10081000), (0x5000, 62, 0x00080004), (0x4400, 1, 0x01004CF1),
    (0x4400, 2, 0x00050800), (0x4400, 5, 0x9000), (0x5A05, 1, 0x101)]
  let s1 := updLink s 0 fun x => { x with st := .active, advP := [8, 8, 8, 8], advNp := [8, 8, 8, 8] }
  updLink s1 8 fun x => { x with st := .active, frame := [0, 0, 0, 0, 0xF, 0, 4] ++ List.replicate 9 0 }
/-- A good packet. -/
def good (p : Pkt) : Pkt := { p with crc := pktCrc p }
def rxWr : Pkt := good (mkPkt 1 1 7 0 4 0x100 [1, 2, 3, 4])
theorem wit_rxRows : (.dalfelWrite 0 rxWr, 1) ∈ pktRows 0 rxWr ∧ linkActive up 0 = false ∧
    ingressOn State.reset .a = false := by decide +kernel
theorem wit_rxAble : rxAble rxUp 0 ∧ rxGood rxWr ∧ rxAhead rxUp 0 rxWr = 0 ∧
    rxAhead (updLink rxUp 0 fun x => { x with rxSeq := 3 }) 0 rxWr = 1021 ∧
    rxAhead (updLink rxUp 0 fun x => { x with rxSeq := 1023 }) 0 rxWr = 1 ∧
    rxAhead (updLink rxUp 0 fun x => { x with rxSeq := 512 }) 0 rxWr = 512 := by
  unfold rxAble rxGood awake; decide +kernel
theorem wit_rxPing : isPing (mkPkt 0 0 0 9 0 0 []) = true ∧ isPing (mkPkt 2 0 0 9 0 0 []) = true ∧
    isPing (mkPkt 3 0 0 9 0 0 []) = false ∧ rxGood (good (mkPkt 0 0 0 9 0 0 [])) := by unfold rxGood; decide +kernel
theorem wit_rxMalformed : isPing (mkPkt 1 1 7 0 4 0xFFE [1, 2, 3, 4]) = false ∧
    malformed (isTether (rxTook rxUp 0) 0) (mkPkt 1 1 7 0 4 0xFFE [1, 2, 3, 4]) = true ∧
    malformed (isTether (rxTook rxUp 0) 0) (mkPkt 1 1 7 0 4 0xFFC [1, 2, 3, 4]) = false := by decide +kernel
theorem wit_rxMiswired :
    let s := withCfg rxUp [(0x2000, 1, 2), (0x9000, 1, 1)]
    isTether s 0 = true → miswired (rxTaken s 0 rxWr) 0 = true := by decide +kernel
theorem wit_rxFrozen :
    let s := updLink rxUp 0 fun x => { x with contain := 2 }
    isFrozen (rxTaken s 0 rxWr) (tetherName (rxTook s 0) 0) = true := by decide +kernel
theorem wit_rxClean : rxClean rxUp 0 rxWr := by unfold rxClean rxOpen rxAble rxGood awake; decide +kernel
theorem wit_rxAck32 : Tab.wf LlSt.reset rxUp.links = true ∧
    (link (updLink rxUp 0 fun x => { x with rxAcked := 31 }) 0).rxAcked + 1 = 32 := by decide +kernel

/-! ### RequestsGoThroughTheirOutboundEntry -/

def rxRd : Pkt := good (mkPkt 2 1 7 3 8 0x100 [])
def rxAt : Pkt := good (mkPkt 6 1 7 3 4 0x100 [1, 0, 0, 0])
theorem wit_rxFlowed : rxFlowed rxUp 0 rxWr ∧ rxFlowed rxUp 0 rxRd ∧ rxFlowed rxUp 0 rxAt := by
  unfold rxFlowed rxClean rxOpen rxAble rxGood awake; dsimp only; decide +kernel
theorem wit_outEntry :
    let v := rxIn rxUp 0 rxWr
    let u := bumpR v (outHits 0)
    let c := outw u .a 0 0
    flowSink v .a 7 = .link 8 ∧ bit c 1 = false ∧ sizeOk c 0x100 4 = true ∧ sizeOk c 0x100 8 = true ∧
    translateOut v .a (tetherName v 0) 7 0x100 = some 0 ∧ outAddr u .a 0 0x100 = 0x9100 := by decide +kernel
theorem wit_outPass :
    let u := bumpR (rxIn rxUp 0 rxWr) (outHits 0)
    (match gate u (.link 8) with | .pass => true | _ => false) = true ∧ hasFeature u 8 2 = true ∧
    atomicOf rxAt = some .fetchAdd ∧ (pktTxn u 0 rxAt .np .read 0 0 [] false).sink = .link 8 := by decide +kernel
theorem wit_outLock :
    let s := updSem rxUp 5 fun x => { x with holders := [(0, 0)] }
    let p := good { mkPkt 1 1 7 0 4 0x100 [1, 2, 3, 4] with lock := true }
    p.lock = true ∧ lockPasses (bumpR (rxIn s 0 p) (outHits 0)) .a (tetherName (rxIn s 0 p) 0) 0 = true := by
  decide +kernel
theorem wit_outMiss :
    let p := good (mkPkt 1 1 7 0 4 0x1000 [1, 2, 3, 4])
    let v := rxIn rxUp 0 p
    translateOut v .a (tetherName v 0) 7 0x1000 = none := by decide +kernel
theorem wit_outDead :
    let s := withCfg rxUp [(0x5000, 57, 2)]
    flowEn (rxTaken s 0 rxWr) .a 7 = false ∧
    isFrozen (rxTaken s 0 rxWr) (tetherName (rxTook s 0) 0) = false := by decide +kernel

/-! ### WordsLocksAnnouncementsAndCompletionsArrive -/

def rxDb : Pkt := good (mkPkt 4 1 7 0 4 0 [3, 0, 0, 0])
def rxSt : Pkt := good (mkPkt 5 1 7 0 8 5 [1, 0, 0, 0, 0, 0, 0, 0])
def rxLa : Pkt := good (mkPkt 7 1 7 3 4 0x100 [5, 0, 0, 0])
def rxLr : Pkt := good (mkPkt 8 1 7 0 4 0x100 [5, 0, 0, 0])
def rxCa : Pkt := good (mkPkt 9 0 0 0 8 0 [0x10, 0x27, 0, 0, 1, 0, 0, 0])
def rxCp : Pkt := good (mkPkt 3 1 7 3 4 0 [1, 2, 3, 4])
theorem wit_rxWords : rxFlowed rxUp 0 rxDb ∧ rxFlowed rxUp 0 rxSt := by
  unfold rxFlowed rxClean rxOpen rxAble rxGood awake; dsimp only; decide +kernel
theorem wit_rxLocks : rxFlowed rxUp 0 rxLa ∧ rxFlowed rxUp 0 rxLr := by
  unfold rxFlowed rxClean rxOpen rxAble rxGood awake; dsimp only; decide +kernel
theorem wit_rxState :
    let s := withCfg rxUp [(0x5C00, 1, 1), (0x5C00, 2, 0x00400000)]
    mgOfWord (rxIn s 0 rxSt) 0 5 = some 0 ∧ mgDown (rxIn s 0 rxSt) 0 = false := by decide +kernel
theorem wit_rxStateDropped : mgOfWord rxUp 0 5 = none := by decide +kernel
theorem wit_rxAcquire :
    let u := bumpR (rxIn rxUp 0 rxLa) (outHits 0)
    let t := pktTxn u 0 rxLa .np .lockAcq 5 4 [] false
    let q := submitNp u (.link (tetherName u 0) 3) { t with lock := false } 4 [mkPart 0 4 5]
    bit (outw u .a 0 0) 24 = true ∧ fld (outw u .a 0 1) 16 8 = 5 ∧ semReachable u .a 5 = true ∧
    ((q.2.fab.txns.find? fun y => y.req == q.1).map (·.reserved)) = some true := by decide +kernel
theorem wit_rxAcquireRefused :
    let s := withCfg rxUp [(0x4400, 1, 0x00004CF1)]
    let t := withCfg rxUp [(0x5A05, 1, 0x100)]
    bit (outw (bumpR (rxIn s 0 rxLa) (outHits 0)) .a 0 0) 24 = false ∧
    semReachable (bumpR (rxIn t 0 rxLa) (outHits 0)) .a 5 = false := by decide +kernel
theorem wit_rxRelease :
    let s := updSem rxUp 5 fun x => { x with holders := [(0, 0)] }
    let u := bumpR (rxIn s 0 rxLr) (outHits 0)
    lockPasses u .a (tetherName u 0) 0 = true ∧ ofBytesLE (rxLr.payload.take 4) % 256 = 5 := by decide +kernel
theorem wit_rxAnn : rxClean rxUp 0 rxCa ∧ rxClean rxUp 0 rxCp ∧ annNewer (link (rxTaken rxUp 0 rxCa) 0) 1 = true ∧
    annNewer (link (rxTaken (updLink rxUp 0 fun x => { x with annSeq := some 1 }) 0 rxCa) 0) 1 = false := by
  unfold rxClean rxOpen rxAble rxGood awake; decide +kernel
/-- Tag 3 of link 0 stands for part 0 of request 1, or for a PING. -/
def rxTag (ping : Bool) : State :=
  updFab rxUp fun x => { x with tags := [⟨linkSide 0, 3, 1, 0, 0, 0, ping, false⟩] }
theorem wit_rxCpl : delaySlot (rxTaken rxUp 0 rxCp) 0 = none ∧ (rxTaken rxUp 0 rxCp).test.delayed = [] ∧
    ((rxTaken (rxTag true) 0 rxCp).fab.tags.find? fun k => (k.side == linkSide (tetherName (rxTaken (rxTag true) 0 rxCp) 0)) &&
      k.tag == rxCp.tag.toNat).map (·.ping) = some true ∧
    cplStatus rxCp = 0 ∧ cplRemain rxCp = 0 ∧ partLack (rxTaken (rxTag false) 0 rxCp) 1 0 ≤ rxCp.len.toNat ∧
    (rxTaken rxUp 0 rxCp).fab.tags = [] ∧ (rxTaken rxUp 0 rxCp).fab.quars = [] := by decide +kernel

/-! ### HostRequestsReachTheirAperture -/

/-- A write of four bytes, and a read or AtomicOp of four, at an address. -/
def hwr (a : Nat) : HostReq := ⟨BitVec.ofNat 64 a, [some 1, some 2, some 3, some 4], 4, 5, false, false, false, 1⟩
theorem wit_aperture : hostAperture hostUp 0 0x10000100 1 0x100 .p 4 false ∧
    hostAperture hostUp 0 0x10000100 1 0x100 .np 0 false ∧ hostAperture hostUp 0 0x10000100 1 0x100 .np 4 false ∧
    hitIn hostUp 1 0x100 = some 0 ∧ hitIn hostUp 1 0xFFF = some 0 ∧ hitIn hostUp 1 0x1000 = none := by
  unfold hostAperture hostLive awake; decide +kernel
theorem wit_apertureWrite : let r := hwr 0x10000100
    let u := wrIn hostUp 1 0 r
    fld (inw (countIn hostUp 1 0) 1 0 0) 14 2 = 0 ∧ r.ep = false ∧
    r.data = ([1, 2, 3, 4] : List Byte).map some ∧ bit (inw u 1 0 0) 2 = false ∧
    sizeOk (inw u 1 0 0) r.addr.toNat 4 = true ∧
    sizeOk (inw (withCfg hostUp [(0x4001, 1, 0x00080CD1)]) 1 0 0) r.addr.toNat 4 = false := by decide +kernel
theorem wit_apertureRead : let r := hwr 0x10000100
    let u := rdIn hostUp 1 0 r
    (match gate u (inTxn u 1 0 .np .read 0x100 4 [] r).sink with | .pass => true | _ => false) = true ∧
    pfActive u 1 0 = false := by decide +kernel
theorem wit_aperturePrefetch :
    let s := updHl (withCfg hostUp [(0x4001, 1, 0x02080CF3)]) 0 fun x =>
      { x with layout := [⟨0, 0, 0, 4, 0, 0, false, 0⟩, ⟨1, 0, 0, 4, 4, 20, true, 0⟩] }
    pfActive (rdIn s 1 0 (hwr 0x10000100)) 1 0 = true ∧ bit (inw (countIn s 1 0) 1 0 0) 2 = false := by decide +kernel
theorem wit_apertureAtomic : atomicLenOk .fetchAdd 4 = true ∧
    (let s := updLink hostUp 8 fun x => { x with frame := [0, 0, 0, 0, 0, 0, 4] ++ List.replicate 9 0 }
     let u := rdIn s 1 0 (hwr 0x10000100)
     (inTxn u 1 0 .np (.atomic .fetchAdd) 0x100 4 [1, 2, 3, 4] (hwr 0x10000100)).sink = .link 8 ∧
     hasFeature u 8 2 = true) := by decide +kernel
theorem wit_apertureWaits :
    let s := updHl hostUp 0 fun x => { x with waitTlp := [.mrdlk 0 0] }
    hostLive s 0 ∧ startedUp s (halfOfHl 0) = true ∧ hostDecode s 0 0x10000100 = .aperture 1 0x100 ∧
    tlpRoom s 1 0x100 .p 4 false = false := by unfold hostLive awake; decide +kernel
theorem wit_unclaimed : hostDecode hostUp 0 0xF0000000 = .miss ∧ s3Commit hostUp = false ∧
    startedUp (updHalf hostUp .a fun x => { x with boot := .starter }) .a = false := by decide +kernel

/-! ### BarsRomConfigurationAndStrayRequestsAreAnswered -/

theorem wit_hostBars : hostLive hostUp 0 ∧ namedBar 0 0 false 0x100 = some (.bar0 0 0x100) ∧
    namedBar 0 0 true 0x1004 = some (.bar2 0 0x1004) ∧ namedBar 0 1 false 0xFFFC = some (.bar0 1 0xFFFC) ∧
    namedBar 0 1 false 0x10000 = none ∧ barAnswers hostUp 0 1 = true ∧ barAnswers hostUp 0 2 = false := by
  unfold hostLive awake; decide +kernel
theorem wit_stewardLive : pathLive up (.steward .b) = true ∧ hlUp up 0 = false := by decide +kernel
/-- The ROM of PF0, of 2 KiB at 0x80000. -/
def romUp : State :=
  let s := updHl hostUp 0 fun x => { x with layout := [⟨0, 0, 0, 4, 0, 11, false, 0⟩] }
  updFn s 0 fun x => { x with cs := [(0x04, 6), (0x30, 0x80001)] }
theorem wit_rom : hostLive romUp 0 ∧ romHit romUp 0 0x807FF = some 0x7FF ∧ romHit romUp 0 0x80800 = none := by
  unfold hostLive awake; decide +kernel
theorem wit_config : startedUp hostUp .a = true ∧ fnExists hostUp 1 = true ∧ fnExists hostUp 2 = false ∧
    hostLive (updHalf hostUp .a fun x => { x with boot := .starter }) 0 ∧
    startedUp (updHalf hostUp .a fun x => { x with boot := .starter }) .a = false := by
  unfold hostLive awake; decide +kernel

/-! ### FunctionEnablesRefuseHoldAndRelease -/

theorem wit_served : hostServed hostUp 1 ∧ hostServed hostUp 0 ∧ masterOn hostUp 1 = true ∧ inD3 hostUp 1 = false ∧
    msixEn hostUp 1 = false ∧ ltrEn hostUp 0 = false := by unfold hostServed awake; decide +kernel
theorem wit_notMaster :
    let s := updFn hostUp 1 fun x => { x with cs := [(0x04, 2)] }
    hostServed s 1 ∧ masterOn s 1 = false ∧ masterOn (csBit s 1 0x04 2 true) 1 = true := by
  unfold hostServed awake; decide +kernel
theorem wit_d3hot :
    let s := updFn hostUp 1 fun x => { x with cs := [(0x04, 6), (0x44, 3)] }
    hostServed s 1 ∧ inD3 s 1 = true := by unfold hostServed awake; decide +kernel
theorem wit_msixEnabled :
    let s := updFn hostUp 1 fun x => { x with cs := [(0x04, 6), (0xB0, 0x80000000)] }
    hostServed s 1 ∧ msixEn s 1 = true ∧ 3 < (fnLay s 1).msix := by unfold hostServed awake; decide +kernel
theorem wit_msiEnabled :
    let s := updFn hostUp 1 fun x => { x with cs := [(0x04, 6), (0x50, 0x10000)] }
    hostServed s 1 ∧ msixEn s 1 = false ∧ msiEn s 1 = true := by unfold hostServed awake; decide +kernel
theorem wit_ltrEnabled :
    let s := updFn hostUp 0 fun x => { x with cs := [(0x98, 0x400)] }
    hostServed s 0 ∧ ltrEn s 0 = true := by unfold hostServed awake; decide +kernel

/-! ### HostLinksEnterLeaveAndRest -/

theorem wit_perst : awake hostUp ∧ hostUp.sys.perst.getD 0 true = false ∧ hostUp.sys.perst.getD 3 true = true ∧
    portsOn hostUp .a = true := by unfold awake; decide +kernel
theorem wit_dlEnter :
    let s := updHl hostUp 0 fun x => { x with dlActive := false }
    hlPresent s 0 = true ∧ portsOn s (halfOfHl 0) = true ∧ s.sys.hrefOk.getD 0 true = true ∧ 3 ≤ hlObj s 0 1 ∧
    16 ≤ subWidth (cfgActive s 0) 0 ∧ startedUp s .a = true ∧ (hl s 0).drsSent = false := by decide +kernel
theorem wit_dlExit : hlUp hostUp 0 = true ∧ hlUp hostUp 4 = false ∧ (hl hostUp 0).dlActive = true := by decide +kernel
theorem wit_l0s :
    let s := updFn hostUp 0 fun x => { x with cs := [(0x04, 6), (0x80, 3)] }
    c0OnLink s 0 = false ∧ (aspm s 0).testBit 0 = true ∧ (aspm s 0).testBit 1 = true ∧ hlSending s 0 = false ∧
    hlBusy s 0 = false ∧ (hl s 0).flit = false := by decide +kernel
theorem wit_l0p :
    let s := updHl (withCfg (updFn hostUp 0 fun x => { x with cs := [(0x04, 6), (0x2F8, 8)] }) [(0x2006, 1, 1)]) 0 fun x =>
      { x with flit := true, rate := 6 }
    bit (cs s 0 0x2F8) 3 = true ∧ hlObj s 0 6 = 1 ∧ (hl s 0).width = 16 ∧ (hl s 0).narrow = 0 ∧ c0OnLink s 0 = false ∧
    2 * 1000 < rawPer100us 6 (narrower 16) ∧ 3 * rawPer100us 6 8 < 4 * 9000000 := by decide +kernel
theorem wit_c0Link :
    c0OnLink (updFab hostUp fun x => { x with c0 := [⟨1, 7, 1⟩] }) 0 = true := by decide +kernel
theorem wit_hostExit :
    let s := updHl hostUp 0 fun x => { x with pwr := 4 }
    hostLive s 0 ∧ (hl s 0).pwr = 4 := by unfold hostLive awake; decide +kernel

/-! ### MailboxCompletionsSplitsAndPairs -/

theorem wit_mailbox : awake hostUp ∧ mbxReach hostUp 0 = true ∧ (mbx hostUp 0).down = false ∧
    (mbx hostUp 0).busy = false ∧ (mbx hostUp 0).ready = false ∧
    (mbx (updMbx hostUp 0 fun x => { x with busy := true }) 0).busy = true ∧
    (let s := updMbx hostUp 0 fun x => { x with busy := true, answer := some [1, 2, 3, 4] }
     (mbx s 0).answer = some [1, 2, 3, 4]) := by unfold awake; decide +kernel
theorem wit_hostCpl : delaySlot hostUp (unitHl 0) = none ∧ hostUp.test.delayed = [] ∧ hostUp.fab.tags = [] ∧
    (let s := updFab hostUp fun x => { x with tags := [⟨hostSide 0, 9, 3, 0, 1, 0, false, false⟩] }
     (s.fab.tags.find? fun u => (u.side == hostSide 0) && u.tag == 9).map (·.req) = some 3) ∧
    (let s := updFab hostUp fun x => { x with quars := [⟨hostSide 0, 9, 100⟩] }
     (s.fab.quars.any fun q => (q.side == hostSide 0) && q.tag == 9) = true) := by decide +kernel
theorem wit_split :
    let s := updFab up fun x => { x with splits := [⟨6, .a, 0, 0x100⟩] }
    (s.fab.splits.find? fun g => g.id == 6).map (·.addr) = some 0x100 ∧ splitDone s 6 = true ∧
    splitDone (addTxn s { flowTxn s .a 7 .p .write 0 4 [] with mark := .splitBeat 6 0 0 }) 6 = false := by decide +kernel
/-- Function 1 of host links 0 and 4 make a pair; that of link 4 is active. -/
def pairUp : State :=
  let s := withCfg hostUp [(fnIdx 0 6, 2, 0x401), (fnIdx 4 6, 2, 0x001)]
  updFn s (64 * 4 + 1) fun x => { x with active := true }
theorem wit_pair : objOpen pairUp (.steward .a) (fnIdx 0 11) .a ∧ partnerFn pairUp 1 = some 257 ∧ eligible pairUp 1 = true ∧
    activeFn pairUp 1 = 257 ∧ (fn pairUp 257).noHost = false ∧ (fn pairUp 257).switching = false ∧
    (fn pairUp 1).noHost = false := by unfold objOpen awake; decide +kernel
theorem wit_pairSwitching :
    (fn (updFn pairUp 257 fun x => { x with switching := true }) 257).switching = true ∧
    (let s := updFn pairUp 1 fun x => { x with noHost := true }
     (fn s 1).noHost = true ∧ eligible s 1 = true ∧ partnerFn s 1 = some 257) := by decide +kernel

/-! ### UnitsSlotsTagsAndQueuesAdvance -/

/-- Function 1 holds a unit at 64, waits for one at 128, and holds data in its slot. -/
def pfUp : State :=
  let s := updBrdg up fun b => { b with units := [⟨1, 1, 0, 64, 64, 7, .got [1] false, 0, false, [], none⟩,
                                                  ⟨2, 1, 0, 128, 128, 7, .waiting, 0, false, [], none⟩] }
  updFn s 1 fun x => { x with slotVal := true, slotData := [9], slotTag := 64 }
theorem wit_unit : (pfUp.brdg.units.find? fun u => u.fn == 64 * 0 + 1 && u.w == 0 && u.off == 64).map (·.st) =
      some (.got [1] false) ∧
    (pfUp.brdg.units.find? fun u => u.fn == 64 * 0 + 1 && u.w == 0 && u.off == 128).map (·.st) = some .waiting := by
  decide +kernel
theorem wit_slot : (fn pfUp 1).slotVal = true ∧ (fn up 1).slotVal = false ∧ regOpen up (.steward .a) .a := by
  unfold regOpen awake; decide +kernel
/-- Engine 1 waits in slot 2 for what engine 8 answers on flow 5. -/
theorem wit_moveTimeout :
    let s := updFab (withCfg up [(0x5000, 42, 0x20080000 + 0x2001)]) fun x => { x with reqs :=
      [⟨4, .eng 1 2, 5, 1, .h2l, .a, 1, 1, 8, 64, false, 0, none, [⟨0, 8, 64, .waiting, []⟩], 0, false, false, false⟩] }
    (engineMove s 1 2).map (·.id) = some 4 ∧ (engineMove s 1 3).isNone := by
  decide +kernel
theorem wit_timeout :
    let s := updFab up fun x => { x with tags := [⟨linkSide 8, 9, 3, 0, 1, 0, false, false⟩,
      ⟨hostSide 0, 16383, 4, 0, 1, 0, false, false⟩] }
    (s.fab.tags.find? fun u => u.side == linkSide 8 && u.tag == 9 && !u.ping).map (·.req) = some 3 ∧
    (s.fab.tags.find? fun u => u.side == hostSide 0 && u.tag == 16383 && !u.ping).map (·.req) = some 4 ∧
    (match hostSide 0 with | .host _ => true | _ => false) = true := by decide +kernel
/-- Queue 3 belongs to function 1. -/
def dqUp : State := withCfg hostUp [(0x5400, 25, 0x00010101)]
theorem wit_dq : dqEn dqUp 3 = true ∧ dqOwner dqUp 3 = 64 * 0 + 1 ∧ pathLive dqUp (.reg 0 1) = true ∧
    regOpen dqUp (.steward .a) (halfOfDq 3) := by unfold regOpen awake; decide +kernel
theorem wit_flowSel : regOpen up (.steward .b) (pathHalf up (.steward .b)) := by unfold regOpen awake; decide +kernel

/-! ### MirrorGroupsPassSkipEndAndRestart -/

/-- Group 5 mirrors words 0 to 7 of local link 8 upward, by flow 7, to function 1, with stretch up to 3. -/
def mgUp : State :=
  let s := withCfg hostUp [(0x5000, 58, 0x00011008), (0x5C05, 1, 0x00030801), (0x5C05, 2, 0x00080000), (0x5C05, 3, 0x00070000)]
  updLink s 8 fun x => { x with st := .active }
theorem wit_mgUp : mgLive mgUp 5 = true ∧ mgDown mgUp 5 = false ∧ mgPaused mgUp 5 = 0 ∧ (mg mgUp 5).running = false ∧
    (mg mgUp 5).changed = [] ∧ (mg mgUp 5).resume = false := by decide +kernel
theorem wit_mgFresh : (mg (updMg mgUp 5 fun x => { x with fresh := false }) 5).fresh = false ∧
    (mg (updMg mgUp 5 fun x => { x with running := true }) 5).running = true ∧
    mgPaused (updMg mgUp 5 fun x => { x with reason := 2 }) 5 = 2 ∧
    Tab.wf MgSt.reset mgUp.brdg.mgs = true := by decide +kernel
/-- The same group, downward, whose flow has a partner. -/
def mgDn : State :=
  let s := withCfg mgUp [(0x5C05, 1, 0x00030803), (0x5000, 57, 0x40080003)]
  updLink s 8 fun x => { x with frame := [0, 0, 0, 0, 0, 0, 1] ++ List.replicate 9 0 }
theorem wit_mgDown : mgLive mgDn 5 = true ∧ mgDown mgDn 5 = true ∧ mgPaused mgDn 5 = 0 ∧ stateUnacked mgDn 5 = false := by
  decide +kernel
theorem wit_mgQuick :
    let s := updMg mgUp 5 fun x => { x with running := true, halfRuns := 15, stretch := 2, started := 0 }
    (mg s 5).halfRuns = 15 ∧ 2 * (s.clk - (mg s 5).started) ≤ nsToClk (1000 * mgSpacing s 5) := by decide +kernel
theorem wit_mgOpen : wideOpen mgUp (.steward .a) 0x5C05 (halfOfMg 5) := by unfold wideOpen objOpen awake; decide +kernel
theorem wit_mgBudget :
    let s := addTxn mgUp { flowTxn mgUp .a 7 .p .write 0 8 [0, 0, 0, 0, 0, 0, 0, 0] with mark := .mirror 5 }
    (mirrorTurn s 0).map (·.data.length) = some 8 ∧ mirrorTurn mgUp 0 = none := by decide +kernel

/-! ### FieldFramesAndMailboxesAreAnswered -/

/-- A PDU header: TYPE, session, sequence number, body length, tagged. -/
def pduHdr (typ sess seq len tagged : Nat) : List Byte :=
  bytesLE 1 1 ++ bytesLE 1 typ ++ bytesLE 2 sess ++ bytesLE 4 seq ++ bytesLE 2 len ++ [0] ++ bytesLE 1 tagged ++ bytesLE 4 0
/-- A device with MAC 0x123456 and a device key. -/
def keyed : State :=
  updNv up fun n => { n with fuses := { n.fuses with mac := 0x123456 }, a := { n.a with key := List.replicate 32 1 } }
def frameIn (pdu : List Byte) : FieldFrame := ⟨0x123456, 0x654321, 0x88B5, pdu⟩
theorem wit_discover : fieldOpen keyed (frameIn (pduHdr 0x20 0 7 0 0)) 0x20 := by unfold fieldOpen awake; decide +kernel
theorem wit_openReq : fieldOpen keyed (frameIn (pduHdr 0x10 0 7 16 0 ++ List.replicate 16 3)) 0x10 ∧
    (pduBody (pduHdr 0x10 0 7 16 0 ++ List.replicate 16 3)).length = 16 ∧ (dictOf keyed .a).lockout = false ∧
    keyOf keyed .a = some (List.replicate 32 1) ∧ keyOf up .a = none ∧ leadHalf keyed = .a ∧
    ((dictOf keyed .a).sessions.filter (·.opened)).length = 0 := by unfold fieldOpen awake; decide +kernel
/-- Session 5 waits for its PROOF; session 6 is open. -/
def sessUp : State := { keyed with dict := { keyed.dict with sessions :=
  [⟨5, false, List.replicate 16 3, List.replicate 16 4, List.replicate 32 1, none, [], []⟩,
   ⟨6, true, [], [], List.replicate 32 2, some 8, [], []⟩] } }
theorem wit_proof : fieldOpen sessUp (frameIn (pduHdr 0x12 5 7 32 0 ++ List.replicate 32 9)) 0x12 ∧
    (challenge sessUp 5).map (·.num) = some 5 ∧ ((dictOf sessUp .a).sessions.filter (·.opened)).length = 1 ∧
    challenge sessUp 6 = none ∧ (openSess sessUp 6).map (·.num) = some 6 ∧ openSess sessUp 5 = none := by
  unfold fieldOpen awake; decide +kernel
/-- A REQUEST that reads OD 0x1000:04. -/
def reqPdu : List Byte := pduHdr 0x01 0 7 8 0 ++ [1, 4, 0, 0x10, 8, 0, 0, 0]
theorem wit_request : fieldOpen keyed (frameIn reqPdu) 0x01 ∧ (bodyOps (pduBody reqPdu)).map List.length = some 1 ∧
    (bodyOps (pduBody reqPdu)).map (fun ops => 16 + (ops.map answerRoom).sum) = some 32 ∧
    bodyOps [9, 0, 0, 0, 0, 0, 0, 0] = none := by unfold fieldOpen awake; decide +kernel
theorem wit_requestLong :
    (bodyOps ((List.replicate 10 [1, 1, 0x80, 0x70, 0xFF, 0, 0, 0]).flatten)).map (fun ops => decide (1500 < 16 + (ops.map answerRoom).sum)) =
      some true := by decide +kernel
/-- A CLOSE of session 6 with the session's own tag. -/
def closePdu : List Byte :=
  pduHdr 0x14 6 9 0 1 ++ Config.hmacSha256 (List.replicate 32 2) (pduHdr 0x14 6 9 0 1)
theorem wit_close : sessFresh sessUp (frameIn closePdu) ⟨6, true, [], [], List.replicate 32 2, some 8, [], []⟩ ∧
    pduTyp closePdu = 0x14 := by
  refine ⟨⟨by unfold awake; decide +kernel, by decide +kernel, by decide +kernel, by decide +kernel, by decide +kernel,
    by decide +kernel, rfl, Or.inr (by decide +kernel), by decide +kernel⟩, by decide +kernel⟩
theorem wit_mbxFrame :
    let s := updMbx up 0 fun x => { x with busy := true, reqLen := 16 }
    (mbx s 0).orphan = [] ∧ (mbx s 0).busy = true ∧ (mbx s 0).taken = false ∧ s.sys.resetLow = false ∧
    (half s .a).stewardHalted = false ∧ (half s .a).boot = .complete ∧ (mbx up 0).busy = false := by decide +kernel

/-! ### ApplyGroupsAreSnapshotCheckedCutAndSealed -/

theorem wit_agOpen : agOpen up (.steward .a) ∧ (dictOf up .a).apply = none ∧ (dictOf up .a).cutWait = false ∧
    applyShut up .a = false ∧ maskLocked (dictOf up .a) 1 0x80 = false ∧ maskReserved 0x80 = false ∧
    maskReserved (2 ^ 29) = true ∧
    applyShut (updHalf up .b fun x => { x with role := .orphaned }) .a = true := by
  unfold agOpen regOpen awake; decide +kernel
theorem wit_agLocked : maskLocked (claim (dictOf up .a) 0x100 0x80) 1 0x80 = true := by decide +kernel
/-- A request for AG07 is under check. -/
def applyUp : State := updDict up .a fun d => snapshot d 0x80 .reg
theorem wit_check : servHalf applyUp .a = .a ∧ (dictOf applyUp .a).apply.map (·.mask) = some 0x80 ∧
    (dictOf applyUp .a).cutWait = false ∧ (half applyUp .a).stewardHalted = false ∧ applyShut applyUp .a = false ∧
    oneHalf applyUp = false ∧ oneHalf { applyUp with sys := { applyUp.sys with straps := { applyUp.sys.straps with mode := 1 } } } = true := by
  decide +kernel
theorem wit_cutWait : (updDict up .a fun d => { d with folWait := true, cutWait := true }).dict.folWait = true ∧
    dieUp up = true ∧ (updDict applyUp .a fun d => { d with cutWait := true }).dict.apply.isSome = true := by decide +kernel
theorem wit_seal : sealer up .a = true ∧ (dictOf up .a).sealRun = false ∧ sealShut up .a = false ∧
    (let s := updDict up .a fun d => { d with sealRun := true, sealOn := true }
     (dictOf s .a).sealRun = true ∧ (dictOf s .a).sealDirty = false ∧ (dictOf s .a).sealOn = true) := by decide +kernel

/-! ### FlashIsErasedWrittenVerifiedAndCommitted -/

theorem wit_flashOpen : instOpen up (.steward .a) 0x1021 ∧ instOpen up (.steward .a) 0x1100 := by
  unfold instOpen objOpen awake; decide +kernel
theorem wit_flashOpen2 : instOpen up (.steward .a) 0x1022 ∧ instOpen up (.steward .a) 0x1023 := by
  unfold instOpen objOpen awake; decide +kernel
theorem wit_flashWrites : servHalf up (pathHalf up (.steward .a)) = .a ∧ flashShut up .a = false ∧ upBusy up .a = false ∧
    runSlot up .a ≠ 1 ∧ (upSt up .a).op = .none ∧ (upSt up .b).op = .none ∧
    (upSt (updUp up .a fun u => { u with last := some 1 }) .a).last = some 1 ∧
    (upSt (updUp up .a fun u => { u with op := .erase 1 }) .a).op = .erase 1 ∧
    (upSt (updUp up .a fun u => { u with op := .verify 1 }) .a).op = .verify 1 := by decide +kernel
theorem wit_slotStates : slotState (setSlotState up .a 1 .valid) .a 1 = .valid ∧
    (let s := updHalf (setSlotState up .a 1 .trial) .a fun x => { x with slot := 1 }
     runSlot s .a = 1 ∧ slotState s .a (runSlot s .a) = .trial) ∧
    (let s := updHalf (setSlotState up .a 1 .confirmed) .a fun x => { x with slot := 1 }
     runConfirmed s .a = true ∧ imgKey (flash s .a) (runSlot s .a) ≠ 2 ∧ s.nv.fuses.keys.getD 3 [] = []) := by decide +kernel
theorem wit_keyField :
    let s : State := { up with dict := { up.dict with sessions := [⟨6, true, [], [], [], none, [], []⟩] } }
    pathPriv s (.field 6) = true := by decide +kernel

/-! ### PerformanceLevelsMoveWithTheirVoltages -/

/-- A level change to `v` from `l`, with a rail request or none. -/
def changing (v l : Nat) (r : Option AvsReq) : State := updPwr up fun p => { p with target := some v, level := l, avs := r }
theorem wit_levelSwitch : (changing 0 2 none).pwr.sleep = 0 ∧ (changing 0 2 none).pwr.avs = none ∧
    (changing 0 2 none).pwr.target = some 0 ∧ (0 : Nat) ≠ (changing 0 2 none).pwr.level ∧
    (changing 3 1 none).pwr.target = some 3 ∧ up.pwr.target = none := by decide +kernel
theorem wit_avs : let r : AvsReq := ⟨false, 720, true, 1, .level, [(true, 720)]⟩
    (changing 1 1 (some r)).pwr.avs = some r ∧ r.acked = true ∧ r.tries < 3 ∧ r.use = .level ∧
    (changing 1 1 (some r)).pwr.avsFail = false ∧ (changing 1 1 (some r)).pwr.target = some (changing 1 1 (some r)).pwr.level ∧
    up.pwr.avs = none := by decide +kernel
theorem wit_hot : let s := { up with nv := { up.nv with fuses := { up.nv.fuses with gradeE := true } } }
    let hot := updPwr s fun p => { p with level := 0, held := false }
    let cool := updPwr s fun p => { p with level := 1, held := true, tjA := 400, tjB := 400 }
    (hot.pwr.sleep = 0 ∧ hot.pwr.target = none ∧ hot.nv.fuses.gradeE = true ∧ hot.pwr.level = 0) ∧
    levelAsked (withCfg hot [(0x7000, 1, 0)]) = 0 ∧ cool.pwr.tjB ≤ 400 := by decide +kernel

/-! ### SleepIsAskedCheckedEnteredAndLeft -/

theorem wit_pwrSleepOpen : wideOpen up (.steward .a) 0x7001 (pathHalf up (.steward .a)) := by
  unfold wideOpen objOpen awake; decide +kernel
theorem wit_pwrSleepReg : wideOpen hostUp (.reg 0 0) 0x7001 (pathHalf hostUp (.reg 0 0)) := by
  unfold wideOpen regOpen awake; decide +kernel
theorem wit_reqHalf : up.pwr.reqHalf.getD 1 0 = 0 ∧ 0 < up.pwr.reqHalf.length := by decide +kernel
/-- A request for state `v` waits for its check. -/
def asked (v : Nat) : State := updPwr up fun p => { p with request := some v }
theorem wit_sleepFree : sleepBlocked (asked 1) 1 false = none ∧ sleepBlocked (asked 3) 3 false = none ∧
    sleepBlocked up 1 true = none := by decide +kernel
theorem wit_sleepBlocked : sleepBlocked (updPwr (asked 2) fun p => { p with target := some 1 }) 2 false = some (1, 0) ∧
    sleepBlocked (updHl (asked 2) 5 fun x => { x with dlActive := true }) 2 false = some (4, 5) := by decide +kernel
theorem wit_sleepAsked : (asked 2).pwr.sleep = 0 ∧ (asked 2).pwr.commit = false ∧ (asked 2).pwr.request = some 2 ∧
    up.sys.resetLow = false ∧ up.pwr.request = none := by decide +kernel
theorem wit_sleepEntry : let s := updPwr (asked 3) fun p => { p with commit := true }
    let f := updPwr s fun p => { p with avs := some ⟨false, 0, false, 3, .entry, [(true, 0)]⟩ }
    s.pwr.commit = true ∧ s.pwr.avs = none ∧ f.pwr.avs = some ⟨false, 0, false, 3, .entry, [(true, 0)]⟩ ∧
    up.pwr.commit = false := by decide +kernel
theorem wit_wakes : let s := updPwr (withCfg up [(0x7003, 1, 0x100)]) fun p => { p with sleep := 3 }
    s.pwr.exiting = false ∧ (cfg s (leadHalf s) 0x7003 1).testBit 8 = true ∧ 1 < s.pwr.sleep := by decide +kernel
theorem wit_exits : let s := updPwr up fun p => { p with sleep := 2, exiting := true, cave := { p.cave with valid := true } }
    s.pwr.exiting = true ∧ s.pwr.avs = none ∧ s.pwr.cave.valid = true := by decide +kernel

/-! ### DeviceTimeIsLoadedSteppedComparedAndPulsed -/

theorem wit_timeOpen : regOpen hostUp (.reg 0 0) (pathHalf hostUp (.reg 0 0)) := by
  unfold regOpen awake; decide +kernel
/-- Time runs at 5.75 s, comparator 1 armed on ticks and periodic, PPS_OUT always driven. -/
def timed : State := updTime (withCfg up [(0x7431, 1, 5), (0x7431, 2, 100), (0x7401, 1, 1), (0x7420, 1, 0)]) fun t =>
  { t with running := true, sec := 5, ns := 750000000, ppsOut := true }
theorem wit_timed : fld timed.time.loadNs 0 30 < 1000000000 ∧ (List.range 4).all (fun n => !(tcArmed timed n && tcMode1 timed n)) = true ∧
    tcArmed timed 1 = true ∧ tcPeriodic timed 1 = true ∧ tcArmed timed 0 = false ∧ timed.time.running = true ∧
    timed.pwr.sleep ≤ 1 ∧ ppsDriven timed = true ∧ ppsDriven up = false ∧ timed.time.ppsOut = true ∧
    up.time.ppsOut = false := by decide +kernel
theorem wit_timeAdd : timeNs timed * 2 ^ 32 + timed.time.frac = 5750000000 * 2 ^ 32 := by decide +kernel
theorem wit_ppsEdges : clkToNs ((updTime { timed with clk := 5 } fun t => { t with ppsLast := some 1 }).clk - 1) < 500000000 ∧
    500000000 ≤ clkToNs (1000000000 - 1) ∧ timed.time.ppsLast = none := by decide +kernel
theorem wit_servoCluster : servoCluster (withCfg up [(0x6000, 1, 0x00000201), (0x7420, 1, 0)]) = some 1 ∧
    servoCluster timed = none := by decide +kernel

/-! ### MeasurementsCorrectionsAndTimestampsAreHandled -/

theorem wit_ptm : let s := updTime (updFn (withCfg hostUp [(0x7410, 1, 0)]) 0 fun x => { x with cs := x.cs ++ [(0x2B0, 1)] }) fun t =>
      { t with running := true, ptm := some 7 }
    ptmLink s = some 0 ∧ s.time.running = true ∧ s.pwr.sleep = 0 ∧ s.time.ptm = some 7 := by decide +kernel
/-- Service 0 on cluster 1 is the time service; its page holds sequence number 1 and what `l` puts. -/
def served (l : List (Nat × Nat)) : State :=
  let s := updTime (withCfg up [(0x6000, 1, 0x00000201), (0x7420, 1, 0)]) fun t => { t with mClk := some 0, running := true }
  let page (m : Tab Byte) : Tab Byte :=
    l.foldl (fun m w => writeBytes 0 m (0xFFF00 + w.1) (bytesLE 8 w.2)) (writeBytes 0 m 0xFFF80 [1])
  updClus s 1 fun x => { x with mem := page x.mem }
theorem wit_servedTime : servoCluster (served []) = some 1 ∧ servoWord (served []) 1 0x80 8 = 1 ∧ (served []).time.cSeen = 0 ∧
    (served []).pwr.sleep ≤ 1 ∧ servoWord up 1 0x80 8 = 0 ∧ servoCluster timed = none := by decide +kernel
theorem wit_servoIncr : incrOk (servoWord (served [(0x88, 1)]) 1 0x88 8) = false ∧ servoWord (served [(0x88, 1)]) 1 0x88 8 ≠ 0 ∧
    incrOk (servoWord (served [(0x88, 0xCCCCCCCE)]) 1 0x88 8) = true ∧
    (BitVec.ofNat 64 (servoWord (served [(0x90, 65536)]) 1 0x90 8)).toInt ≠ 0 := by decide +kernel
theorem wit_servoFlags : servoWord (served [(0x98, 1)]) 1 0x98 4 = 1 ∧ servoWord (served [(0x98, 2)]) 1 0x98 4 = 2 ∧
    servoWord (served [(0x98, 1)]) 1 0x88 8 = 0 ∧
    (BitVec.ofNat 64 (servoWord (served [(0x98, 1)]) 1 0x90 8)).toInt = 0 := by decide +kernel
theorem wit_calibration : let s := updTime timed fun t => { t with capNs := some (5000000000, 7), tick := 100 }
    s.pwr.sleep = 0 ∧ stewardUp s (rindHalf s) = true ∧ s.time.running = true ∧ s.time.capNs = some (5000000000, 7) ∧
    7 < s.time.tick ∧ 5000000000 ≤ timeNs s ∧ timed.time.capNs = none ∧ timed.time.ratios = [] := by decide +kernel

/-! ### TestsPerturbationsScanAndClocksActAndEnd -/

theorem wit_bistOpen : wideOpen up (.steward .a) 0xA010 .b ∧ wideOpen up (.steward .a) 0xA020 (pathHalf up (.steward .a)) := by
  unfold wideOpen objOpen awake; decide +kernel
theorem wit_bistOpenReg : wideOpen hostUp (.reg 0 0) 0xA010 .a := by unfold wideOpen regOpen awake; decide +kernel
theorem wit_bist : let s := updBist up .b fun _ => ⟨true, 8, 0, 0, 0⟩
    (bist s .b).running = true ∧ (bist up .b).running = false ∧ (List.range 16).all (fun i => !up.test.starved.getD i false) = true ∧
    homesFlow up .b = false ∧ enabledSvcs up .b = [] := by decide +kernel
theorem wit_delayed : let s := updTest up fun t => { t with delayed := [⟨3, none, some (0, mkPkt 3 0 5 0 4 0 [])⟩] }
    s.test.delayed = [⟨3, none, some (0, mkPkt 3 0 5 0 4 0 [])⟩] ∧ up.test.delayed = [] := by decide +kernel
theorem wit_starved : let s := updTest (withCfg up [(0xA000, 1, 13), (0xA000, 4, 9)]) fun t => { t with starved := t.starved.set 0 true }
    s.test.starved.getD 0 false = true ∧ tpOn s 0 6 = true ∧ tpw s 0 3 ≠ 0 ∧ up.test.starved.getD 0 false = false := by decide +kernel
theorem wit_starter : let s := updSys up fun y => { y with a := { y.a with boot := .starter }, b := { y.b with boot := .starter } }
    s.sys.resetLow = false ∧ s.sys.a.boot = .starter ∧ s.sys.b.boot = .starter ∧ up.sys.a.boot = .complete ∧
    (updTime up fun t => { t with ppsOut := true }).time.ppsOut = true := by decide +kernel

/-! ### HashAndCrcComputeTheirFunctions -/

theorem witness_hash :
    engReadyFor (engOn id) 8 (· == .none) ∧ engWf (engOn id) 8 ∧ opFn 0 = 0 ∧ 1 ≤ opFn 8 ∧ opFn 8 ≤ 8 ∧ 8 < opFn 9 := by
  unfold engReadyFor engWf; decide +kernel

/-! ### ClockStatusIsMirroredByItsObject -/

theorem witness_clkMirror :
    areaServed hostUp (pathHalf hostUp (.mbx 0)) 0x1030 = true ∧
    odServes hostUp (pathHalf hostUp (.mbx 0)) 0x1030 1 = some .a ∧
    pathReaches hostUp (.reg 0 0) (pathHalf hostUp (.reg 0 0)) = true := by decide +kernel

/-! ### EoiOutOfOrderFaults -/

theorem witness_eoi :
    (let s := engOn fun g => { g with fvec := 64 }
     engReadyFor s 8 (· == .none) ∧ engWf s 8 ∧ opA 0 = 0 ∧ opC 0 = 0 ∧ opFn 0 = 0 ∧ (eng s 8).stack = [] ∧
     (eng s 8).fvec ≠ 0 ∧ (eng s 8).inFault = false) ∧
    (let s := engOn fun g => { g with stack := [⟨5, 1, 0⟩] }
     engReadyFor s 8 (· == .none) ∧ engWf s 8 ∧ ∀ top ∈ (eng s 8).stack.head?, top.src ≠ 0) ∧
    (let s := engOnLast
     engReadyFor s 190 (· == .none) ∧ engWf s 190) ∧
    (let s := engOn fun g => { g with pendRet := some 8 }
     engReadyFor s 8 (· == .none) ∧ engWf s 8 ∧ (eng s 8).pendRet ≠ none) := by
  unfold engReadyFor engWf; decide +kernel

/-! ### UnprivilegedWritesOnlyLeaveADenial -/

theorem witness_unprivileged :
    (let p := Path.reg 4 0
     let s := updHl (updFn hostUp 256 fun x => { x with cs := [(0x04, 6), (0x10, 0x4000000)] }) 4 fun x =>
       { x with layout := [⟨0, 0, 0, 4, 0, 0, false, 0⟩] }
     awake s ∧ regPath p = true ∧ pathLive s p = true ∧ inService s (pathHalf s p) = true ∧ pathPriv s p = false) ∧
    (let p := Path.mbx 4
     awake hostUp ∧ objPath p = true ∧ pathLive hostUp p = true ∧
     (half hostUp (pathHalf hostUp p)).stewardHalted = false ∧
     areaServed hostUp (pathHalf hostUp p) 0x8002 = true ∧ pathPriv hostUp p = false) ∧
    (let p := Path.field 1
     awake hostUp ∧ pathLive hostUp p = true ∧ areaServed hostUp (pathHalf hostUp p) 0xA020 = true ∧
     pathPriv hostUp p = false) := by unfold awake; decide +kernel

/-! ### IdleStepIsOneCycleOfTheTimeDomain -/

theorem witness_idle : up.pending = [] ∧ up.time.ns < 1000000000 ∧ up.time.frac < 2 ^ 32 ∧ up.time.sec < 2 ^ 48 ∧
    (let s := updTime up fun t => { t with running := true, ns := 999999999, frac := 2 ^ 32 - 1, sec := 2 ^ 48 - 1 }
     s.pending = [] ∧ s.time.running = true ∧ s.pwr.sleep ≤ 1 ∧ s.sys.lrefOk.getD 0 true = true) := by decide +kernel

/-! ### EveryStepKeepsTheStateCanonical -/

theorem witness_canonicalStep : canonical State.reset ∧ (step State.reset = .next (tick State.reset)) := by
  refine ⟨⟨by unfold tablesWf; decide, fun e => ⟨rfl, rfl⟩, fun c => rfl⟩, rfl⟩

/-! ### EveryStepTakesOneCommandAndFusesOnlyGain -/

theorem witness_fuses : step up = .next (tick up) := rfl

end Sys2Proof.Tests
end

section
/-! ## Every command is carried out

The step and the totality of `exec`: both follow from what the model says of every command at once. -/

namespace Sys2Proof.Machine

/-- A step with a command waiting is that command, run on the state with the queue's rest. -/
@[simp] theorem step_pending_cons (c : Instr) (rest : List Instr) (s : State) :
    step { s with pending := c :: rest } = exec c { s with pending := rest } := rfl

/-- Whatever the command and the state, `exec` answers a next state. -/
theorem exec_answers (i : Instr) (s : State) : answers (exec i s) := by
  obtain ⟨t, ht, _⟩ := exec_kept (i := i) (Keeps.rfl (s := s))
  exact ⟨t, ht⟩

/-- Settles O53: with a command at the front of the queue, `step` is that command's `exec`. -/
theorem stepRunsTheCommandAtTheFront : Obligations.StepRunsTheCommandAtTheFront := by
  unfold Obligations.StepRunsTheCommandAtTheFront
  exact step_pending_cons

/-- Settles O57, by the law that every command answers a state that keeps what every step keeps. -/
theorem everyCommandIsCarriedOut : Obligations.EveryCommandIsCarriedOut := by
  unfold Obligations.EveryCommandIsCarriedOut
  exact exec_answers

end Sys2Proof.Machine
end

section
/-! ## The reset pin (R2, R324, R412 to R414, R463)

One equation per outcome of RESET_N_ASSERT and of RESET_N_RISE, and what a reset leaves standing. -/

namespace Sys2Proof.Machine

/-! ### The low level (R412) -/

theorem exec_resetNAssert_short {n : Nat} (hn : n < 200) (s : State) : exec (.resetNAssert n) s = .next s := by
  change execResetNAssert n s = _
  rw [execResetNAssert, if_pos hn]

theorem exec_resetNAssert_long {n : Nat} (hn : 1000 ≤ n) (s : State) :
    exec (.resetNAssert n) s = .next (resetAll s) := by
  have hshort : ¬ n < 200 := by omega
  change execResetNAssert n s = _
  rw [execResetNAssert, if_neg hshort, if_pos hn]

/-- Between 200 ns and 1 µs the free value drawn decides (log entry 1). -/
theorem exec_resetNAssert_between {n : Nat} (hlo : 200 ≤ n) (hhi : n < 1000) (s : State) :
    exec (.resetNAssert n) s = .next
      (if Config.freeNat s.freeCtr % 2 = 0 then { s with freeCtr := s.freeCtr + 1 }
       else resetAll { s with freeCtr := s.freeCtr + 1 }) := by
  change execResetNAssert n s = _
  rw [execResetNAssert, if_neg (Nat.not_lt.mpr hlo), if_neg (Nat.not_le.mpr hhi)]
  rfl

/-! ### What a reset leaves (R413) -/

theorem resetAll_nv (s : State) :
    (resetAll s).nv = if isSplit s then s.nv else { s.nv with upB := s.nv.up } := rfl

/-- Fuses and flash keep their values through a reset, in SPLIT and outside it. -/
theorem resetAll_keeps_fuses_and_flash (s : State) :
    (resetAll s).nv.fuses = s.nv.fuses ∧ (resetAll s).nv.a = s.nv.a ∧ (resetAll s).nv.b = s.nv.b := by
  rw [resetAll_nv]
  cases isSplit s <;> exact ⟨rfl, rfl, rfl⟩

/-! ### The rising edge (R414, R463) -/

/-- No trip is latched, or both sensors are below the point at which a trip lets go. -/
def tripClear (s : State) : Prop :=
  s.sys.thermtrip.contains true = false ∨ (s.pwr.tjA < 460 ∧ s.pwr.tjB < 460)

/-- The edge itself: RESET_N is high and both halves hold the straps they sampled. -/
def strapsSampled (sa sb : Straps) (s : State) : State :=
  updSys s fun y => { y with resetLow := false, straps := sa, strapsB := sb }

/-- The latched trip let go, with the ALERT_N it drove. -/
def tripReleased (s : State) : State := alertOff (updSys s fun y => { y with thermtrip := [false, false] }) 5

/-- The model's own test of a hot sensor under a latched trip is that the trip is not clear. -/
theorem hot_eq_false_iff (s : State) :
    (s.sys.thermtrip.contains true && (decide (460 ≤ s.pwr.tjA) || decide (460 ≤ s.pwr.tjB))) = false ↔
      tripClear s := by
  rw [Bool.and_eq_false_iff, Bool.or_eq_false_iff, decide_eq_false_iff_not, decide_eq_false_iff_not,
    Int.not_le, Int.not_le, tripClear]

theorem exec_resetNRise_high {s : State} (hlow : s.sys.resetLow = false) (sa sb : Straps) :
    exec (.resetNRise sa sb) s = .next s := by
  change execResetNRise sa sb s = _
  simp only [execResetNRise, hlow, Bool.not_false, if_true]

theorem exec_resetNRise_hot {s : State} (hlow : s.sys.resetLow = true) (hhot : ¬ tripClear s) (sa sb : Straps) :
    exec (.resetNRise sa sb) s = .next (updSys (strapsSampled sa sb s) fun y => { y with heldBad := true }) := by
  rw [← hot_eq_false_iff, Bool.not_eq_false] at hhot
  change execResetNRise sa sb s = _
  simp only [execResetNRise, hlow, hhot, Bool.not_true, if_true, Bool.false_eq_true, if_false, strapsSampled]

theorem exec_resetNRise_badStraps {s : State} {sa sb : Straps} (hlow : s.sys.resetLow = true) (hcool : tripClear s)
    (hbad : (strapsOk sa && strapsOk sb) = false) :
    exec (.resetNRise sa sb) s = .next (alertOn
      (updSys (tripReleased (strapsSampled sa sb s)) fun y => { y with heldBad := true }) 0) := by
  rw [← hot_eq_false_iff] at hcool
  change execResetNRise sa sb s = _
  simp only [execResetNRise, hlow, hcool, hbad, Bool.not_true, Bool.not_false, if_true, Bool.false_eq_true, if_false,
    strapsSampled, tripReleased]

theorem exec_resetNRise_starts {s : State} {sa sb : Straps} (hlow : s.sys.resetLow = true) (hcool : tripClear s)
    (hgood : (strapsOk sa && strapsOk sb) = true) :
    exec (.resetNRise sa sb) s = .next (startersGo (updNv
      (upInterrupted (upInterrupted (tripReleased (strapsSampled sa sb s)) .a) .b)
      fun n => { n with up := UpSt.reset, upB := UpSt.reset })) := by
  rw [← hot_eq_false_iff] at hcool
  change execResetNRise sa sb s = _
  simp only [execResetNRise, hlow, hcool, hgood, Bool.not_true, Bool.false_eq_true, if_false,
    strapsSampled, tripReleased]

/-- Settles O23, from the equations of the two edges above. -/
theorem resetPinAndTheStraps : Obligations.ResetPinAndTheStraps := by
  unfold Obligations.ResetPinAndTheStraps
  refine ⟨fun n s => ⟨?short, ?long, ?between⟩, fun s => ?reset, fun sa sb s => ⟨?high, fun hlow => ⟨?hot, ?bad, ?starts⟩⟩⟩
  case short => exact fun hn => exec_resetNAssert_short hn s
  case long => exact fun hn => exec_resetNAssert_long hn s
  case between => exact fun hlo hhi => exec_resetNAssert_between hlo hhi s
  case reset =>
    obtain ⟨hfuses, ha, hb⟩ := resetAll_keeps_fuses_and_flash s
    exact ⟨rfl, rfl, rfl, rfl, rfl, rfl, rfl, rfl, rfl, rfl, rfl, rfl, rfl, rfl, rfl, rfl, hfuses, ha, hb, rfl⟩
  case high => exact fun hhigh => exec_resetNRise_high hhigh sa sb
  case hot => exact fun hhot => exec_resetNRise_hot hlow hhot sa sb
  case bad => exact fun hcool hbad => exec_resetNRise_badStraps hlow hcool hbad
  case starts => exact fun hcool ha hb => exec_resetNRise_starts hlow hcool (Bool.and_eq_true_iff.mpr ⟨ha, hb⟩)

end Sys2Proof.Machine
end

section
/-! ## LANE_CTRL (R67, R68, R77, R79, R437)

Over an open path each command is the operation on the lane itself; a field written is `setCtrl`, whose law
`setCtrl_spec` says which bits move. -/

namespace Sys2Proof.Machine

/-- From `s` to `t` only `len` bits of lane `n`'s LANE_CTRL from bit `lo` move, to `v`; beside them the dictionary
may move, where a running seal pass starts again. -/
def CtrlFieldWritten (s t : State) (n lo len v : Nat) : Prop :=
  (∀ k, bit (lane t n).ctrl k = if lo ≤ k ∧ k < lo + len then v.testBit (k - lo) else bit (lane s n).ctrl k) ∧
  lane t n = { lane s n with ctrl := (lane t n).ctrl } ∧
  (∀ k, k ≠ n → lane t k = lane s k) ∧
  t = { s with lanes := t.lanes, dict := t.dict, dictB := t.dictB }

/-- A command that answers `setCtrl` writes the field alone. -/
theorem ctrlFieldWritten_of_exec {i : Instr} {s : State} {n lo len v : Nat}
    (hw : Tab.wf LaneSt.reset s.lanes = true) (hlen : lo + len ≤ 32) (hi : exec i s = .next (setCtrl s n lo len v)) :
    ∃ t, exec i s = .next t ∧ CtrlFieldWritten s t n lo len v :=
  ⟨_, hi, setCtrl_spec hw n lo len v hlen⟩

/-! ### What the operations do -/

theorem setPrbs_allowed {s : State} {v : Nat} (hr : isRecovery s = false) (hv : v ≠ 3) (n lo : Nat) :
    setPrbs s n lo v = setCtrl s n lo 2 v := by
  simp [setPrbs, hr, hv]

theorem setLoop_reserved {v : Nat} (hv : 4 ≤ v) (s : State) (n : Nat) :
    setLoop s n v = updLane s n fun x => { x with evt := x.evt ||| 0x20 } := by
  simp [setLoop, hv, Nat.not_lt.mpr hv]

/-- A loop is selected and no sub-link is in its way: the field is all that is written. -/
theorem setLoop_noLink {s : State} {n v : Nat} (hv : v < 4) (ha : loopAllowed s n v = true)
    (hl : v = 0 ∨ laneLink s n = none) : setLoop s n v = setCtrl s n 0 3 v := by
  rcases hl with rfl | hl
  · simp [setLoop, ha]
  · simp [setLoop, ha, laneLink_setCtrl, Nat.not_le.mpr hv, hl]

/-- A loop selected on a lane of a sub-link takes that sub-link out of Active, with reason 8. -/
theorem setLoop_link {s : State} {n v l : Nat} (hv : v < 4) (ha : loopAllowed s n v = true) (h0 : v ≠ 0)
    (hl : laneLink s n = some l) : setLoop s n v = leaveActive (setCtrl s n 0 3 v) l 8 := by
  simp [setLoop, ha, laneLink_setCtrl, Nat.not_le.mpr hv, h0, hl]

/-! ### The commands over an open path -/

section
variable {s : State} {p : Path} {n : LaneNo} (ho : regOpen s p (halfOfLane s n.val))
include ho

theorem exec_laneDfeFreeze_open (v : Bool) :
    exec (.laneDfeFreeze p n v) s = .next (setCtrl s n.val 3 1 (if v then 1 else 0)) := by
  change execLaneDfeFreeze p n v s = _
  rw [execLaneDfeFreeze, regAct_open ho]

theorem exec_lanePolForceSet_open (force txInv rxInv : Bool) :
    exec (.lanePolForceSet p n force txInv rxInv) s =
      .next (setCtrl s n.val 8 3 (flag force 0 + flag txInv 1 + flag rxInv 2)) := by
  change execLanePolForceSet p n force txInv rxInv s = _
  rw [execLanePolForceSet, regAct_open ho]

theorem exec_lanePrbsGenSet_open (v : BitVec 2) :
    exec (.lanePrbsGenSet p n v) s = .next (setPrbs s n.val 4 v.toNat) := by
  change execLanePrbsGenSet p n v s = _
  rw [execLanePrbsGenSet, regAct_open ho]

theorem exec_lanePrbsChkSet_open (v : BitVec 2) :
    exec (.lanePrbsChkSet p n v) s = .next (setPrbs s n.val 6 v.toNat) := by
  change execLanePrbsChkSet p n v s = _
  rw [execLanePrbsChkSet, regAct_open ho]

theorem exec_laneLoopSet_open (v : BitVec 3) :
    exec (.laneLoopSet p n v) s = .next (setLoop s n.val v.toNat) := by
  change execLaneLoopSet p n v s = _
  rw [execLaneLoopSet, regAct_open ho]

theorem exec_laneCntClr_open : exec (.laneCntClr p n) s = .next (clearLaneCounts s n.val) := by
  change execLaneCntClr p n s = _
  rw [execLaneCntClr, regAct_open ho]

end

/-- Settles O8: over an open path each command is one `setCtrl`, `setLoop` or `clearLaneCounts`, and `setCtrl`
writes its field alone. -/
theorem laneControlFieldsAreWrittenAlone : Obligations.LaneControlFieldsAreWrittenAlone := by
  unfold Obligations.LaneControlFieldsAreWrittenAlone
  intro p n s ho hw
  refine ⟨fun v => ?freeze, fun a b c => ?polarity, fun v hr hv => ?prbsGen, fun v hr hv => ?prbsChk,
    fun v hv ha hl => ?loop, fun v l hv ha h0 hl => ?loopLink, fun v hv => ?loopReserved, ?counters⟩
  case freeze => exact ctrlFieldWritten_of_exec hw (by decide) (exec_laneDfeFreeze_open ho v)
  case polarity => exact ctrlFieldWritten_of_exec hw (by decide) (exec_lanePolForceSet_open ho a b c)
  case prbsGen =>
    have hcode : v.toNat ≠ 3 := fun h => hv (BitVec.eq_of_toNat_eq h)
    exact ctrlFieldWritten_of_exec hw (by decide)
      (setPrbs_allowed hr hcode n.val 4 ▸ exec_lanePrbsGenSet_open ho v)
  case prbsChk =>
    have hcode : v.toNat ≠ 3 := fun h => hv (BitVec.eq_of_toNat_eq h)
    exact ctrlFieldWritten_of_exec hw (by decide)
      (setPrbs_allowed hr hcode n.val 6 ▸ exec_lanePrbsChkSet_open ho v)
  case loop =>
    have hnone : v.toNat = 0 ∨ laneLink s n.val = none := hl.imp_left (congrArg BitVec.toNat)
    exact ctrlFieldWritten_of_exec hw (by decide) (setLoop_noLink hv ha hnone ▸ exec_laneLoopSet_open ho v)
  case loopLink =>
    have hsel : v.toNat ≠ 0 := fun h => h0 (BitVec.eq_of_toNat_eq h)
    rw [exec_laneLoopSet_open ho, setLoop_link hv ha hsel hl]
  case loopReserved => rw [exec_laneLoopSet_open ho, setLoop_reserved hv]
  case counters => exact exec_laneCntClr_open ho

end Sys2Proof.Machine
end

section
/-! ## The device time (R25, R265, R395, R398 to R404)

One cycle of the counter, and the commands that set it, compare it and pulse with it. -/

namespace Sys2Proof.Machine

/-! ### One cycle (R398) -/

/-- A time of the device's counter as one number, in units of 2^-32 ns. -/
def timeUnits (sec ns frac : Nat) : Nat := (sec * 1000000000 + ns) * 2 ^ 32 + frac

/-- Adding INCR with its carries into nanoseconds and seconds adds it to the one number, modulo 2^48 seconds. -/
theorem timeUnits_carry (sec ns frac incr : Nat) :
    timeUnits ((sec + (ns + (frac + incr) / 2 ^ 32) / 1000000000) % 2 ^ 48)
        ((ns + (frac + incr) / 2 ^ 32) % 1000000000) ((frac + incr) % 2 ^ 32) =
      (timeUnits sec ns frac + incr) % (2 ^ 48 * 1000000000 * 2 ^ 32) := by
  simp only [timeUnits]
  omega

/-- The counter runs (R398): it was started, the device is in S0 or S1, and LREFCLK[0] is present. -/
def counterRuns (s : State) : Prop := s.time.running = true ∧ s.pwr.sleep ≤ 1 ∧ s.sys.lrefOk.getD 0 true = true

theorem counterRuns_iff (s : State) :
    (s.time.running && decide (s.pwr.sleep ≤ 1) && s.sys.lrefOk.getD 0 true) = true ↔ counterRuns s := by
  simp [counterRuns, and_assoc]

/-- Where the counter runs, a cycle adds INCR with its carries. -/
theorem tick_counter_runs {s : State} (hr : counterRuns s) :
    (tick s).time.sec =
        (s.time.sec + (s.time.ns + (s.time.frac + s.time.incr) / 2 ^ 32) / 1000000000) % 2 ^ 48 ∧
      (tick s).time.ns = (s.time.ns + (s.time.frac + s.time.incr) / 2 ^ 32) % 1000000000 ∧
      (tick s).time.frac = (s.time.frac + s.time.incr) % 2 ^ 32 := by
  rw [← counterRuns_iff] at hr
  simp only [tick, hr, if_true]
  split <;> exact ⟨rfl, rfl, rfl⟩

/-- Where it does not, a cycle leaves it. -/
theorem tick_counter_stands {s : State} (hr : ¬ counterRuns s) :
    (tick s).time.sec = s.time.sec ∧ (tick s).time.ns = s.time.ns ∧ (tick s).time.frac = s.time.frac := by
  rw [← counterRuns_iff] at hr
  simp only [tick, if_neg hr]
  split <;> exact ⟨rfl, rfl, rfl⟩

theorem tick_eng_cyc (s : State) :
    (tick s).eng.cyc = s.eng.cyc + (if s.pwr.sleep ≤ 1 then 4 - s.pwr.level else 0) := by
  simp only [tick]
  split <;> rfl

theorem tick_rind (s : State) :
    (tick s).time.tick = (if 38147 ≤ s.sys.tickPhase + 1 then (s.time.tick + 1) % 2 ^ 48 else s.time.tick) ∧
      (tick s).sys.tickPhase = (if 38147 ≤ s.sys.tickPhase + 1 then 0 else s.sys.tickPhase + 1) := by
  refine ⟨?_, rfl⟩
  simp only [tick]
  split <;> split <;> rfl

/-- A cycle moves the count of cycles, the counter, the engine cycles and the rind tick, and nothing else. -/
theorem tick_frame (s : State) :
    tick s = { s with
      clk := (tick s).clk, sys := { s.sys with tickPhase := (tick s).sys.tickPhase },
      eng := { s.eng with cyc := (tick s).eng.cyc },
      time := { s.time with sec := (tick s).time.sec, ns := (tick s).time.ns, frac := (tick s).time.frac,
                            tick := (tick s).time.tick } } := by
  simp only [tick]
  split <;> split <;> split <;> rfl

/-- Settles O54, from the equations of one cycle above. -/
theorem idleStepIsOneCycleOfTheTimeDomain : Obligations.IdleStepIsOneCycleOfTheTimeDomain := by
  unfold Obligations.IdleStepIsOneCycleOfTheTimeDomain
  intro s hidle
  have hstep : step s = .next (tick s) := by rw [step, hidle]
  refine ⟨tick s, hstep, rfl, ?counter, tick_eng_cyc s, tick_rind s, tick_frame s⟩
  case counter =>
    intro worth hns hfrac hsec
    by_cases hr : counterRuns s
    · obtain ⟨esec, ens, efrac⟩ := tick_counter_runs hr
      have hworth : worth (tick s) = (worth s + s.time.incr) % (2 ^ 48 * 1000000000 * 2 ^ 32) := by
        simp only [worth, esec, ens, efrac]
        exact timeUnits_carry ..
      rw [esec, ens, efrac]
      exact ⟨hworth.trans (if_pos hr).symm, Nat.mod_lt _ (by decide), Nat.mod_lt _ (by decide), Nat.mod_lt _ (by decide)⟩
    · obtain ⟨esec, ens, efrac⟩ := tick_counter_stands hr
      have hworth : worth (tick s) = worth s := by simp only [worth, esec, ens, efrac]
      rw [esec, ens, efrac]
      exact ⟨hworth.trans (if_neg hr).symm, hns, hfrac, hsec⟩

/-! ### Load and step -/

theorem rindHalf_of_sys {s t : State} (h : t.sys = s.sys) : rindHalf t = rindHalf s := by
  unfold rindHalf isSplit mode leadHalf
  rw [h]

/-- A comparator that fires changes no role and no strap. -/
theorem tcFire_sys (s : State) (n : Nat) : (tcFire s n).sys = s.sys := by
  rw [tcFire, evOnly_sys (wakeSrc_evOnly _ _ _), evOnly_sys (raiseEv_evOnly _ _ _ _ _ _), updTime_sys]

theorem forAll_tcFire_sys (l : List Nat) (s : State) : (forAll s l tcFire).sys = s.sys := by
  induction l generalizing s with
  | nil => rfl
  | cons n l ih => exact (ih (tcFire s n)).trans (tcFire_sys s n)

theorem timeSet_sys (s : State) (sec ns frac : Nat) : (timeSet s sec ns frac).sys = s.sys :=
  (forAll_tcFire_sys _ _).trans rfl

theorem timeAdd_sys (s : State) (d : Int) : (timeAdd s d).sys = s.sys := timeSet_sys s _ _ _

theorem exec_timeLoad_open {s : State} {p : Path} (ho : regOpen s p (pathHalf s p))
    (hns : fld s.time.loadNs 0 30 < 1000000000) :
    exec (.timeLoad p) s = .next (raiseEv
      (updTime (timeSet s (fld s.time.loadH 0 16 * 2 ^ 32 + s.time.loadL.toNat) (fld s.time.loadNs 0 30) 0) fun t =>
        { t with valid := true }) (rindHalf s) 42 0 1 0) := by
  change execTimeLoad p s = _
  rw [execTimeLoad, regAct_open ho]
  simp only [timeLoad, if_pos hns, timeStepped]
  rw [rindHalf_of_sys ((updTime_sys _ _).trans (timeSet_sys s _ _ _))]

theorem exec_timeStep_open {s : State} {p : Path} (ho : regOpen s p (pathHalf s p)) :
    exec (.timeStep p) s =
      .next (raiseEv (timeAdd s (s.time.stepNs.toInt * 65536)) (rindHalf s) 42 0 2 0) := by
  change execTimeStep p s = _
  rw [execTimeStep, regAct_open ho, timeStep, timeStepped, rindHalf_of_sys (timeAdd_sys s _)]

/-- A new time that no armed comparator compares fires none. -/
theorem timeSet_noComparator {s : State} (hn : ∀ n, n < 4 → tcArmed s n = true → tcMode1 s n = false)
    (sec ns frac : Nat) :
    timeSet s sec ns frac = updTime s fun t =>
      { t with sec := sec % 2 ^ 48, ns := ns, frac := frac, capNs := none,
               folOff := if pulseCrosses s then 0 else t.folOff + (Int.ofNat (timeNs s) - Int.ofNat (sec * 1000000000 + ns)) } := by
  have hnone (a b : Nat → Bool) :
      ((List.range 4).filter fun n => tcArmed s n && tcMode1 s n && a n && b n) = [] := by
    refine List.filter_eq_nil_iff.mpr fun n hmem => ?_
    cases harm : tcArmed s n with
    | false => simp
    | true => simp [hn n (List.mem_range.mp hmem) harm]
  simp only [timeSet]
  rw [hnone]
  rfl

/-- A number of units below 2^48 s is a time of the counter. -/
theorem timeUnits_split (v : Nat) :
    timeUnits (v / 2 ^ 32 / 1000000000) (v / 2 ^ 32 % 1000000000) (v % 2 ^ 32) = v := by
  simp only [timeUnits]
  omega

/-- A sum that stays in range is loaded exactly. -/
theorem timeAdd_inRange {s : State} {d : Int}
    (hlo : 0 ≤ Int.ofNat (timeNs s * 2 ^ 32 + s.time.frac) + d * 65536)
    (hhi : Int.ofNat (timeNs s * 2 ^ 32 + s.time.frac) + d * 65536 < 2 ^ 48 * 1000000000 * 2 ^ 32) :
    ∃ sec ns frac, timeAdd s d = timeSet s sec ns frac ∧ sec < 2 ^ 48 ∧ ns < 1000000000 ∧ frac < 2 ^ 32 ∧
      Int.ofNat ((sec * 1000000000 + ns) * 2 ^ 32 + frac) =
        Int.ofNat (timeNs s * 2 ^ 32 + s.time.frac) + d * 65536 := by
  generalize hnow : Int.ofNat (timeNs s * 2 ^ 32 + s.time.frac) + d * 65536 = now at hlo hhi
  obtain ⟨v, rfl⟩ := Int.eq_ofNat_of_zero_le hlo
  have hv : v < 2 ^ 48 * 1000000000 * 2 ^ 32 := by omega
  refine ⟨v / 2 ^ 32 / 1000000000, v / 2 ^ 32 % 1000000000, v % 2 ^ 32, ?_, by omega, Nat.mod_lt _ (by decide),
    Nat.mod_lt _ (by decide), congrArg Int.ofNat (timeUnits_split v)⟩
  have hmod : ((v : Int) % (2 ^ 48 * 1000000000 * 2 ^ 32)).toNat = v := by omega
  simp only [timeAdd, hnow, hmod]

/-! ### Comparators -/

theorem exec_tcMatch_armed {s : State} {n : Fin 4} (ha : tcArmed s n.val = true) :
    exec (.tcMatch n) s = .next (tcFire s n.val) := by
  change execTcMatch n s = _
  rw [execTcMatch, if_pos ha]

theorem exec_tcMatch_unarmed {s : State} {n : Fin 4} (ha : tcArmed s n.val = false) :
    exec (.tcMatch n) s = .next s := by
  change execTcMatch n s = _
  rw [execTcMatch, ha]
  rfl

/-! ### PPS -/

theorem exec_secondsRollover_driven {s : State} (hrun : s.time.running = true) (hsleep : s.pwr.sleep ≤ 1)
    (hd : ppsDriven s = true) :
    exec .secondsRollover s = .next (emit (updTime s fun t => { t with ppsOut := true }) (.pulse 0 1)) := by
  change execSecondsRollover s = _
  simp only [execSecondsRollover, hrun, hsleep, hd, decide_true, Bool.and_true, if_true]

theorem exec_secondsRollover_undriven {s : State} (hd : ppsDriven s = false) :
    exec .secondsRollover s = .next s := by
  change execSecondsRollover s = _
  simp only [execSecondsRollover, hd, Bool.and_false, Bool.false_eq_true, if_false]

theorem exec_ppsOutHighTimeEnd_high {s : State} (ho : s.time.ppsOut = true) :
    exec .ppsOutHighTimeEnd s = .next (emit (updTime s fun t => { t with ppsOut := false }) (.pulse 0 0)) := by
  change execPpsOutHighTimeEnd s = _
  rw [execPpsOutHighTimeEnd, if_pos ho]

theorem exec_ppsOutHighTimeEnd_low {s : State} (ho : s.time.ppsOut = false) :
    exec .ppsOutHighTimeEnd s = .next s := by
  change execPpsOutHighTimeEnd s = _
  rw [execPpsOutHighTimeEnd, ho]
  rfl

theorem exec_ppsInLost_running {s : State} (hrun : s.time.running = true) :
    exec .ppsInLost s = .next (if s.time.ppsLost then s else
      raiseEv (updTime s fun t => { t with ppsLost := true }) (rindHalf s) 43 0 0 0) := by
  change execPpsInLost s = _
  simp only [execPpsInLost, hrun, Bool.not_true, Bool.or_false]

/-- An edge follows the one before by less than half a second (R402). -/
def ppsTooSoon (s : State) : Bool :=
  match s.time.ppsLast with
  | some c => decide (clkToNs (s.clk - c) < 500000000)
  | none => false

theorem ppsTooSoon_eq_true {s : State} {c : Nat} (hlast : s.time.ppsLast = some c)
    (hsoon : clkToNs (s.clk - c) < 500000000) : ppsTooSoon s = true := by
  rw [ppsTooSoon, hlast]
  exact decide_eq_true hsoon

theorem ppsTooSoon_eq_false {s : State}
    (hlate : ∀ c, s.time.ppsLast = some c → 500000000 ≤ clkToNs (s.clk - c)) : ppsTooSoon s = false := by
  rw [ppsTooSoon]
  cases hlast : s.time.ppsLast with
  | none => rfl
  | some c => exact decide_eq_false (Nat.not_lt.mpr (hlate c hlast))

section
variable {s : State} {high : Nat} (hrun : s.time.running = true) (hsleep : s.pwr.sleep ≤ 1)
include hrun hsleep

/-- PPS_IN edges are looked at: the command is left with its tests of the pulse. -/
theorem exec_ppsInEdge_running :
    exec (.ppsInEdge high) s = .next (
      if high < 100 || ppsTooSoon s then bump s 0x7401 5
      else measure (updTime s fun t => { t with ppsLast := some s.clk, ppsLost := false }) 1
        (timeFmt (timeNs s - cfg s (rindHalf s) 0x7401 4))
        (ppsOffset (timeNs s - cfg s (rindHalf s) 0x7401 4) * 65536) 0) := by
  have hawake : decide (2 ≤ s.pwr.sleep) = false := decide_eq_false (by omega)
  change execPpsInEdge high s = _
  simp only [execPpsInEdge, hrun, hawake, Bool.not_true, Bool.or_false, Bool.false_eq_true, if_false]
  rfl

theorem exec_ppsInEdge_short (hshort : high < 100) : exec (.ppsInEdge high) s = .next (bump s 0x7401 5) := by
  rw [exec_ppsInEdge_running hrun hsleep, decide_eq_true hshort, Bool.true_or, if_pos rfl]

theorem exec_ppsInEdge_soon {c : Nat} (hlast : s.time.ppsLast = some c) (hsoon : clkToNs (s.clk - c) < 500000000) :
    exec (.ppsInEdge high) s = .next (bump s 0x7401 5) := by
  rw [exec_ppsInEdge_running hrun hsleep, ppsTooSoon_eq_true hlast hsoon, Bool.or_true, if_pos rfl]

theorem exec_ppsInEdge_captured (hlong : 100 ≤ high)
    (hlate : ∀ c, s.time.ppsLast = some c → 500000000 ≤ clkToNs (s.clk - c)) :
    exec (.ppsInEdge high) s = .next (measure (updTime s fun t => { t with ppsLast := some s.clk, ppsLost := false }) 1
      (timeFmt (timeNs s - cfg s (rindHalf s) 0x7401 4))
      (ppsOffset (timeNs s - cfg s (rindHalf s) 0x7401 4) * 65536) 0) := by
  rw [exec_ppsInEdge_running hrun hsleep, decide_eq_false (Nat.not_lt.mpr hlong), ppsTooSoon_eq_false hlate]
  rfl

end

/-- A capture in the first half of a second is measured against the second before it. -/
theorem ppsOffset_firstHalf {cap : Nat} (h : cap % 1000000000 < 500000000) :
    ppsOffset cap = -Int.ofNat (cap % 1000000000) := by
  simp only [ppsOffset, h, decide_true, Bool.true_or, if_true]

/-- ... and in the second half against the second after it. -/
theorem ppsOffset_secondHalf {cap : Nat} (h : 500000000 < cap % 1000000000) :
    ppsOffset cap = Int.ofNat (1000000000 - cap % 1000000000) := by
  have hlt : ¬ cap % 1000000000 < 500000000 := by omega
  have hne : (cap % 1000000000 == 500000000) = false := beq_eq_false_iff_ne.mpr (by omega)
  simp only [ppsOffset, hlt, hne, decide_false, Bool.false_and, Bool.or_false, Bool.false_eq_true, if_false]

/-! ### Measurements -/

theorem measure_noService {s : State} (h : servoCluster s = none) (k : Nat) (tm : W64) (off : Int) (d : Nat) :
    measure s k tm off d = s := by
  rw [measure, h]

theorem measure_service {s : State} {c : Nat} (h : servoCluster s = some c) (k : Nat) (tm : W64) (off : Int) (d : Nat) :
    measure s k tm off d = raiseEv (updTime (updClus s c fun x => { x with
        mem := [(0x08, k), (0x10, tm.toNat), (0x18, (BitVec.ofInt 64 off).toNat), (0x20, d), (0x28, s.time.incr),
                (0x00, s.time.mSeq + 1)].foldl (fun m w => writeBytes 0 m (0xFFF00 + w.1) (bytesLE 8 w.2)) x.mem }) fun t =>
      { t with mSeq := s.time.mSeq + 1, mClk := some s.clk }) (rindHalf s) 39 0 k 0 := by
  rw [measure, h]
  rfl

/-- Settles O46, from the equations above. -/
theorem deviceTimeIsLoadedSteppedComparedAndPulsed : Obligations.DeviceTimeIsLoadedSteppedComparedAndPulsed := by
  unfold Obligations.DeviceTimeIsLoadedSteppedComparedAndPulsed
  refine ⟨fun p s ho => ⟨exec_timeLoad_open ho, exec_timeStep_open ho⟩,
    fun sec ns frac s hn => timeSet_noComparator hn sec ns frac, fun d s => timeAdd_inRange,
    fun n s => ⟨exec_tcMatch_armed, exec_tcMatch_unarmed⟩, fun s => ⟨?driven, ?undriven, ?high, ?low, ?lost⟩,
    fun high s hrun hsleep => ⟨?short, ?soon, ?captured⟩, fun cap => ⟨ppsOffset_firstHalf, ppsOffset_secondHalf⟩,
    fun k tm off d s => ⟨fun h => measure_noService h k tm off d, fun c h => measure_service h k tm off d⟩⟩
  case driven => exact exec_secondsRollover_driven
  case undriven => exact exec_secondsRollover_undriven
  case high => exact exec_ppsOutHighTimeEnd_high
  case low => exact exec_ppsOutHighTimeEnd_low
  case lost => exact exec_ppsInLost_running
  case short => exact exec_ppsInEdge_short hrun hsleep
  case soon => exact fun c => exec_ppsInEdge_soon hrun hsleep
  case captured => exact exec_ppsInEdge_captured hrun hsleep

end Sys2Proof.Machine
end

section
/-! ## The die link (R15, R27, R326, R330, R331, R335)

Heartbeats, CRC failures and retraining, the follower orphaned and released, the cells that cross and the alignment
pulse: one equation per outcome of each command. -/

namespace Sys2Proof.Machine

/-- Two changes of a half that agree on what it holds are one change. -/
theorem updHalf_congr {s : State} {h : Half} {f g : HalfSt → HalfSt} (hfg : f (half s h) = g (half s h)) :
    updHalf s h f = updHalf s h g := by
  cases h with
  | a => exact congrArg (fun x => { s with sys := { s.sys with a := x } }) hfg
  | b => exact congrArg (fun x => { s with sys := { s.sys with b := x } }) hfg

/-! ### Heartbeats, failures and retraining (R15, R326, R330) -/

theorem exec_heartbeatSend_exchanged {h : Half} {s : State} (hexch : (half s h).exch = true)
    (htr : (half s h).trained = true) (hsleep : s.pwr.sleep ≤ 1) :
    exec (.heartbeatSend h) s = .next (emit s (.dieLink (otherHalf h) 1 0)) := by
  change execHeartbeatSend h s = _
  simp only [execHeartbeatSend, hexch, htr, hsleep, decide_true, Bool.and_true, if_true]

section
variable {h : Half} {s : State} (hdie : dieStates s = true) (htr : (half s h).trained = true)
include hdie htr

theorem exec_heartbeatReceive_trained :
    exec (.heartbeatReceive h) s = .next (dieTryUp (updHalf s h fun x =>
      { x with hbClk := s.clk, hbCount := if x.dlUp then x.hbCount else x.hbCount + 1 })) := by
  change execHeartbeatReceive h s = _
  simp only [execHeartbeatReceive, hdie, htr, Bool.not_true, Bool.or_false, Bool.false_eq_true, if_false]

theorem exec_heartbeatReceive_up (hup : (half s h).dlUp = true) :
    exec (.heartbeatReceive h) s = .next (dieTryUp (updHalf s h fun x => { x with hbClk := s.clk })) := by
  rw [exec_heartbeatReceive_trained hdie htr, updHalf_congr]
  rw [hup]
  rfl

theorem exec_heartbeatReceive_down (hdown : (half s h).dlUp = false) :
    exec (.heartbeatReceive h) s =
      .next (dieTryUp (updHalf s h fun x => { x with hbClk := s.clk, hbCount := x.hbCount + 1 })) := by
  rw [exec_heartbeatReceive_trained hdie htr, updHalf_congr]
  rw [hdown]
  rfl

theorem exec_heartbeatTimeout_trained : exec (.heartbeatTimeout h) s = .next (dieDown s 2) := by
  change execHeartbeatTimeout h s = _
  simp only [execHeartbeatTimeout, hdie, htr, Bool.and_true, if_true]

end

theorem exec_dieLinkCrcFail_first {h : Half} {s : State} (htr : (half s h).trained = true)
    (hnone : (half s h).crcFails = 0) (xfer : Nat) :
    exec (.dieLinkCrcFail h xfer) s = .next (updHalf s h fun y => { y with crcFails := 1, crcXfer := xfer }) := by
  have hfirst : ¬ ((half s h).crcFails = 1 ∧ (half s h).crcXfer = xfer) := by simp [hnone]
  change execDieLinkCrcFail h xfer s = _
  simp only [execDieLinkCrcFail, htr, Bool.not_true, Bool.false_eq_true, if_false, if_neg hfirst]

theorem exec_dieLinkCrcFail_again {h : Half} {s : State} {xfer : Nat} (htr : (half s h).trained = true)
    (hone : (half s h).crcFails = 1) (hsame : (half s h).crcXfer = xfer) :
    exec (.dieLinkCrcFail h xfer) s = .next (dieDown s 1) := by
  change execDieLinkCrcFail h xfer s = _
  simp only [execDieLinkCrcFail, htr, Bool.not_true, Bool.false_eq_true, if_false, if_pos (And.intro hone hsame)]

theorem exec_dieLinkRetrain_down {h : Half} {s : State} (hboot : (half s h).boot ≠ .reset)
    (hdown : (half s h).dlUp = false) (ok : Bool) :
    exec (.dieLinkRetrain h ok) s = .next (updHalf s h fun x =>
      { x with trained := ok, hbCount := 0, crcFails := 0, hbClk := if ok then s.clk else x.hbClk }) := by
  have hb : ((half s h).boot == .reset) = false := beq_eq_false_iff_ne.mpr hboot
  change execDieLinkRetrain h ok s = _
  simp only [execDieLinkRetrain, hb, hdown, Bool.and_false, Bool.or_false, Bool.false_eq_true, if_false]

/-! ### The orphaned follower (R331, R335) -/

theorem exec_orphanTimeout_follower {s : State} (hsplit : isSplit s = false) (hdie : dieStates s = true)
    (ha : s.sys.a.dlUp = false) (hb : s.sys.b.dlUp = false) (hclk : s.sys.a.downClk ≠ none)
    (hfol : (half s (otherHalf (leadHalf s))).role = .follower) :
    exec .orphanTimeout s = .next (orphan (updHalf (raiseEv (bothHalves s fun x => { x with downClk := none })
      (leadHalf s) 51 (halfIdx (otherHalf (leadHalf s))) 0 0) (otherHalf (leadHalf s)) fun x => { x with freed := false })
      (otherHalf (leadHalf s))) := by
  have hdown : s.sys.a.downClk.isNone = false := Option.isNone_eq_false_iff.mpr (Option.isSome_iff_ne_none.mpr hclk)
  change execOrphanTimeout s = _
  simp only [execOrphanTimeout, hsplit, hdie, ha, hb, hdown, hfol, Bool.not_true, Bool.or_false, Bool.false_eq_true,
    if_false, beq_self_eq_true, if_true]

theorem folRelease_lead {s : State} {h : Half} (hlead : (half s h).role = .lead) (hsplit : isSplit s = false)
    (hup : dieUp s = true) :
    (folRelease s h).2 = if (half s (otherHalf h)).role = .orphaned then
      raiseEv (updHalf s (otherHalf h) fun x => { x with role := .follower, freed := true }) h 52
        (halfIdx (otherHalf h)) 0 0 else s := by
  simp only [folRelease, hsplit, hlead, hup, bne_self_eq_false, Bool.or_false, Bool.not_true, Bool.false_eq_true,
    if_false, beq_iff_eq]
  split <;> rfl

section
variable {p : Path} {s : State} (ho : objOpen s p 0x9002 (servHalf s (pathHalf s p)))
include ho

theorem exec_followerRelease_zero : exec (.followerRelease p false) s = .next s := by
  change execFollowerRelease p false s = _
  rw [execFollowerRelease, objAct_open ho]
  rfl

theorem exec_followerRelease_one (hst : (half s (servHalf s (pathHalf s p))).stewardHalted = false) :
    exec (.followerRelease p true) s = .next (folRelease s (servHalf s (pathHalf s p))).2 := by
  change execFollowerRelease p true s = _
  rw [execFollowerRelease, objAct_open ho]
  simp only [hst, Bool.not_false, Bool.and_true, if_true]

end

/-! ### Cells and the alignment pulse (R16, R27) -/

/-- The output of a cell's first transaction is free in a half: no cell of the vat is ready for it, and perturbation
does not hold it. -/
def dieOutFree (s : State) (h : Half) (c : Cell) : Bool :=
  match cellTxn s c with
  | some t => (readyFor s h (outOf t.sink)).isEmpty && !pressBusy s h (outOf t.sink)
  | none => true

theorem exec_dieLinkCellArrive_die {h : Half} {n : Nat} {c : Cell} {s : State} (hc : cell? s n = some c)
    (hh : c.half = h) (hp : c.place = .die) (hx : crossOk s = true) :
    exec (.dieLinkCellArrive h n) s = .next (dieArrive s c (dieOutFree s h c)) := by
  have hcross : (c.half == h && c.place == .die && crossOk s) = true := by
    rw [hh, hp, hx, beq_self_eq_true, beq_self_eq_true, Bool.true_and, Bool.true_and]
  change execDieLinkCellArrive h n s = _
  rw [execDieLinkCellArrive, hc]
  exact congrArg Host.Outcome.next (if_pos hcross)

theorem exec_timeAlignCheck_differs {s : State} (hp : pulseCrosses s = true) (hoff : s.time.folOff ≠ 0) :
    exec .timeAlignCheck s = .next (bump (updTime s fun t => { t with folOff := 0 }) 0x7400 0x1F) := by
  have hd : (s.time.folOff != 0) = true := bne_iff_ne.mpr hoff
  change execTimeAlignCheck s = _
  simp only [execTimeAlignCheck, hp, hd, Bool.and_true, if_true]

/-- Settles O25, from the equations above. -/
theorem dieLinkIsLostFoundAndTheFollowerOrphaned : Obligations.DieLinkIsLostFoundAndTheFollowerOrphaned := by
  unfold Obligations.DieLinkIsLostFoundAndTheFollowerOrphaned
  refine ⟨fun h s => ?send, fun h s hdie htr => ⟨?up, ?down, ?timeout, fun xfer => ?first, fun xfer => ?again⟩,
    fun h ok s hboot hdown => ?retrain, fun s => ?orphaned, fun p s ho => ⟨?zero, fun hst hlead hsplit hup => ?release⟩,
    fun h n c s => ?cell, fun s => ?pulse⟩
  case send => exact exec_heartbeatSend_exchanged
  case up => exact exec_heartbeatReceive_up hdie htr
  case down => exact exec_heartbeatReceive_down hdie htr
  case timeout => exact exec_heartbeatTimeout_trained hdie htr
  case first => exact fun hnone => exec_dieLinkCrcFail_first htr hnone xfer
  case again => exact exec_dieLinkCrcFail_again htr
  case retrain => exact exec_dieLinkRetrain_down hboot hdown ok
  case orphaned => exact exec_orphanTimeout_follower
  case zero => exact exec_followerRelease_zero ho
  case release => rw [exec_followerRelease_one ho hst, folRelease_lead hlead hsplit hup]
  case cell => exact exec_dieLinkCellArrive_die
  case pulse => exact exec_timeAlignCheck_differs

end Sys2Proof.Machine
end

section
/-! ## Cells of the ingress, the vat and the calendar (R14, R16, R39, R52, R220, R222, R223, R442)

What PRESS_CELL_CROSS and CALENDAR_SLOT come to where the half carries traffic: the command's tests are passed once,
and one lemma per place the cell may take. -/

namespace Sys2Proof.Machine

/-- A transaction found under a number has it. -/
theorem txn?_id {s : State} {id : Nat} {t : Txn} (h : txn? s id = some t) : t.id = id := by
  simpa only [beq_iff_eq] using List.find?_some h

theorem mayLeave_left {s : State} {t : Txn} (h : mayLeave s t = true) : t.left ≠ 0 := by
  simp only [mayLeave, Bool.and_eq_true, decide_eq_true_eq] at h
  obtain ⟨⟨⟨⟨hleft, -⟩, -⟩, -⟩, -⟩ := h
  exact hleft

/-! ### A cell leaves the ingress buffer (R14, R39, R222) -/

section
variable {h : Half} {id : Nat} {free : Bool} {t : Txn} {s : State}

theorem exec_pressCellCross_txn (hcar : carries s h = true) (ht : txn? s id = some t) (hh : t.ihalf = h)
    (hm : mayLeave s t = true) :
    exec (.pressCellCross h id free .clean) s =
      .next (retryHalf (crossIngress s t (free && !pressBusy s t.home (outOf t.sink))) h) := by
  have hgo : ¬ ((t.ihalf != h) = true ∨ t.left = 0) := by simp [hh, mayLeave_left hm]
  have hself : txn? s t.id = some t := by rw [txn?_id ht, ht]
  change execPressCellCross h id free .clean s = _
  simp only [execPressCellCross, onlyIf, hcar, if_true, ht, pressIngress, Bool.or_eq_true, decide_eq_true_eq, if_neg hgo,
    meetEcc, hself]

end

section
variable {s : State} {t : Txn} {out : Bool} (hm : mayLeave s t = true)
include hm

theorem crossIngress_through (hhome : t.home = t.ihalf) (hc : cutsThrough s t out = true) :
    crossIngress s t out = arriveBytes (fillCell 256 s t 256).2 (fillCell 256 s t 256).1 := by
  simp only [crossIngress, hm, hhome, hc, bne_self_eq_false, Bool.not_true, Bool.false_eq_true, if_false, if_true]

theorem crossIngress_placed (hhome : t.home = t.ihalf) (hc : cutsThrough s t out = false) (hk : t.kind ≠ .cpl)
    {p : CellPlace} (hp : holdPlace s t.home t.flow t.cls = some p) :
    crossIngress s t out = putCell (fillCell 256 s t 256).2 t.home t (fillCell 256 s t 256).1 p := by
  have hreq : (t.kind == Kind.cpl) = false := beq_eq_false_iff_ne.mpr hk
  have hsame : (t.home != t.ihalf) = false := bne_eq_false_iff_eq.mpr hhome
  simp only [crossIngress, hm, hsame, hc, hreq, hp, Bool.not_true, Bool.false_eq_true, if_false]

theorem crossIngress_heldBack (hhome : t.home = t.ihalf) (hc : cutsThrough s t out = false) (hk : t.kind ≠ .cpl)
    (hp : holdPlace s t.home t.flow t.cls = none) : crossIngress s t out = cannotPlace s t := by
  have hreq : (t.kind == Kind.cpl) = false := beq_eq_false_iff_ne.mpr hk
  have hsame : (t.home != t.ihalf) = false := bne_eq_false_iff_eq.mpr hhome
  simp only [crossIngress, hm, hsame, hc, hreq, hp, Bool.not_true, Bool.false_eq_true, if_false]

theorem crossIngress_die (hhome : t.home ≠ t.ihalf) (hx : crossOk s = true) (ho : out = true)
    (ht : homeTakes s t = true) :
    crossIngress s t out = putCell (fillCell 256 s t 256).2 t.home t (fillCell 256 s t 256).1 .die := by
  have hother : (t.home != t.ihalf) = true := bne_iff_ne.mpr hhome
  simp only [crossIngress, hm, hother, hx, ho, ht, Bool.not_true, Bool.or_false, Bool.false_eq_true, if_false, if_true]

theorem crossIngress_noCrossing (hhome : t.home ≠ t.ihalf) (hx : crossOk s = false ∨ out = false) :
    crossIngress s t out = s := by
  have hother : (t.home != t.ihalf) = true := bne_iff_ne.mpr hhome
  have hstop : (!crossOk s || !out) = true := by simpa only [Bool.or_eq_true, Bool.not_eq_true'] using hx
  simp only [crossIngress, hm, hother, hstop, Bool.not_true, Bool.false_eq_true, if_false, if_true]

end

/-! ### A cell leaves the vat (R223) -/

theorem exec_pressCellCross_cell {h : Half} {id : Nat} {free : Bool} {c : Cell} {t : Txn} {s : State}
    (hcar : carries s h = true) (hnone : txn? s id = none) (hc : cell? s id = some c) (hid : c.id = id)
    (hh : c.half = h) (hr : cellReady s c = true) (ht : cellTxn s c = some t) :
    exec (.pressCellCross h id free .clean) s =
      .next (if free && !pressBusy s h (outOf t.sink) then crossVat s c else s) := by
  have hself : cell? s c.id = some c := by rw [hid, hc]
  change execPressCellCross h id free .clean s = _
  simp only [execPressCellCross, onlyIf, hcar, if_true, hnone, hc, pressVat, hh, hr, ht, meetEcc, hself,
    bne_self_eq_false, Bool.not_true, Bool.or_false, Bool.false_eq_true, if_false]
  cases free <;> cases pressBusy s h (outOf t.sink) <;> rfl

/-! ### A calendar slot (R52, R220, R442) -/

section
variable {h : Half} {port : PP} {owner : Option FlowNo} {s : State}

theorem exec_calendarSlot_noOutput (ho : sendsOut port.val = false) :
    exec (.calendarSlot h port owner) s = .next s := by
  change execCalendarSlot h port owner s = _
  simp only [execCalendarSlot, onlyIf, ho, Bool.and_false, Bool.false_eq_true, if_false]

theorem exec_calendarSlot_busy (hcar : carries s h = true) (ho : sendsOut port.val = true)
    (hb : pressBusy s h port.val = true) :
    exec (.calendarSlot h port owner) s =
      .next (forAll s ((span (8 * halfIdx h) 8).filter fun i => tpOn s i 2 && tpw s i 1 == port.val) tpAct) := by
  change execCalendarSlot h port owner s = _
  simp only [execCalendarSlot, onlyIf, hcar, ho, hb, Bool.and_true, if_true]

/-- A slot in which no second input contends and the choice leaves no second cycle is that choice. -/
theorem exec_calendarSlot_choice {u : State} (hcar : carries s h = true) (ho : sendsOut port.val = true)
    (hb : pressBusy s h port.val = false) (hcon : contended s (readyFor s h port.val) = false)
    (hu : slotCell s h port.val (owner.map (·.val)) = (u, false)) :
    exec (.calendarSlot h port owner) s = .next u := by
  change execCalendarSlot h port owner s = _
  simp only [execCalendarSlot, onlyIf, hcar, ho, hb, hcon, hu, Bool.and_true, if_true, Bool.false_eq_true, if_false]

/-- With no ready cell nothing is chosen, whoever owns the slot. -/
theorem slotChoice_empty {p : Nat} (hr : readyFor s h p = []) (f : Option Nat) : slotChoice s h p f = (none, s) := by
  cases f <;> simp only [slotChoice, hr, List.find?_nil, ite_self, List.isEmpty_nil, if_true]

theorem slotCell_empty {p : Nat} (hr : readyFor s h p = []) (f : Option Nat) : slotCell s h p f = (s, false) := by
  rw [slotCell, slotChoice_empty hr]

/-- The owner's cell is chosen before any other; one of more than 128 bytes takes both cycles. -/
theorem slotCell_owner {p f : Nat} {c : Cell} (hl : s.pwr.level ≠ 3) (hf : (flowSt s f).refused = false)
    (hc : ((readyFor s h p).find? fun (x : Cell) => x.flow == f && x.cls == 0) = some c) (hlong : 128 < c.bytes) :
    slotCell s h p (some f) = (crossVat s c, false) := by
  have htwo : decide (c.bytes ≤ 128) = false := decide_eq_false (Nat.not_le.mpr hlong)
  simp only [slotCell, slotChoice, hl, hf, hc, htwo, decide_false, Bool.or_false, Bool.false_eq_true, if_false]

end

/-- Settles O26, from the lemmas above. -/
theorem cellsLeaveTheIngressAndTheVat : Obligations.CellsLeaveTheIngressAndTheVat := by
  unfold Obligations.CellsLeaveTheIngressAndTheVat
  refine ⟨fun h id free t s hcar ht hh hm => ⟨?through, fun p => ?place, ?held, ?die, ?noCrossing⟩,
    fun h id free c t s => exec_pressCellCross_cell, fun h port owner s hcar => ⟨?noOutput, ?busy, ?empty, fun f c => ?owner⟩⟩
  case through =>
    intro hhome hc
    rw [exec_pressCellCross_txn hcar ht hh hm, crossIngress_through hm (hhome.trans hh.symm) hc]
  case place =>
    intro hhome hc hk hp
    rw [exec_pressCellCross_txn hcar ht hh hm, crossIngress_placed hm (hhome.trans hh.symm) hc hk hp]
  case held =>
    intro hhome hc hk hp
    rw [exec_pressCellCross_txn hcar ht hh hm, crossIngress_heldBack hm (hhome.trans hh.symm) hc hk hp]
  case die =>
    intro hhome hx ho htakes
    rw [exec_pressCellCross_txn hcar ht hh hm, crossIngress_die hm (hh ▸ hhome) hx ho htakes]
  case noCrossing =>
    intro hhome hx
    rw [exec_pressCellCross_txn hcar ht hh hm, crossIngress_noCrossing hm (hh ▸ hhome) hx]
  case noOutput => exact exec_calendarSlot_noOutput
  case busy => exact exec_calendarSlot_busy hcar
  case empty =>
    intro ho hb hr
    exact exec_calendarSlot_choice hcar ho hb (by rw [hr]; rfl) (slotCell_empty hr _)
  case owner =>
    rintro ho hb rfl hcon hl hf hc hlong
    exact exec_calendarSlot_choice hcar ho hb hcon (slotCell_owner hl hf hc hlong)

end Sys2Proof.Machine
end

section
/-! ## Apply groups and the configuration seal (R18, R332, R333, R365 to R374)

One equation per answer to a request, per end of its check, per half's act on the cut, and per outcome of a seal
pass. -/

namespace Sys2Proof.Machine

/-! ### Requests through an open AG_ register (R366, R370, R371) -/

section
variable {p : Path} {s : State} (ho : agOpen s p) (mask : W32)
include ho

theorem exec_agApply_open :
    exec (.agApply p mask) s = .next (applyRequest s (pathHalf s p) (pathId p) mask.toNat .reg).2 := by
  change execAgApply p mask s = _
  rw [execAgApply, agAct_open ho]

theorem exec_agDiscard_open :
    exec (.agDiscard p mask) s =
      .next (updDict s (servHalf s (pathHalf s p)) fun d => discard d mask.toNat) := by
  change execAgDiscard p mask s = _
  rw [execAgDiscard, agAct_open ho]

theorem exec_agClaim_open :
    exec (.agClaim p mask) s =
      .next (updDict s (servHalf s (pathHalf s p)) fun d => claim d (pathId p) mask.toNat) := by
  change execAgClaim p mask s = _
  rw [execAgClaim, agAct_open ho]

theorem exec_agRelease_open :
    exec (.agRelease p mask) s =
      .next (updDict s (servHalf s (pathHalf s p)) fun d => release d (pathId p) mask.toNat) := by
  change execAgRelease p mask s = _
  rw [execAgRelease, agAct_open ho]

end

section
variable {s : State} {e : Half} {pid m : Nat} {src : ApplyFrom} (hserved : wideServed s e = true)
include hserved

theorem applyRequest_busy
    (hbusy : (dictOf s (servHalf s e)).apply.isSome = true ∨ (dictOf s (servHalf s e)).cutWait = true) :
    (applyRequest s e pid m src).2 =
      updDict (bumpW s (servHalf s e) 0xF000 0x0B) (servHalf s e) fun x => { x with res := 4 } := by
  have hb := Bool.or_eq_true_iff.mpr hbusy
  simp only [applyRequest, hserved, hb, Bool.not_true, Bool.false_eq_true, if_false, if_true]
  rfl

section
variable (hfree : (dictOf s (servHalf s e)).apply = none) (hcut : (dictOf s (servHalf s e)).cutWait = false)
include hfree hcut

theorem applyRequest_locked (hl : maskLocked (dictOf s (servHalf s e)) pid m = true) :
    (applyRequest s e pid m src).2 = updDict s (servHalf s e) fun x => { x with res := 5 } := by
  simp only [applyRequest, hserved, hfree, hcut, hl, Option.isSome_none, Bool.or_false, Bool.not_true,
    Bool.false_eq_true, if_false, if_true]
  rfl

theorem applyRequest_shut (hl : maskLocked (dictOf s (servHalf s e)) pid m = false)
    (hs : applyShut s (servHalf s e) = true) :
    (applyRequest s e pid m src).2 =
      updDict s (servHalf s e) fun x => { x with res := 2, failIdx := 0x9001, failSub := 0 } := by
  simp only [applyRequest, hserved, hfree, hcut, hl, hs, Option.isSome_none, Bool.or_false, Bool.not_true,
    Bool.false_eq_true, if_false, if_true]
  rfl

section
variable (hl : maskLocked (dictOf s (servHalf s e)) pid m = false) (hs : applyShut s (servHalf s e) = false)
include hl hs

theorem applyRequest_reserved (hr : maskReserved m = true) :
    (applyRequest s e pid m src).2 =
      updDict s (servHalf s e) fun x => { x with res := 2, failIdx := 0xF000, failSub := 1 } := by
  simp only [applyRequest, hserved, hfree, hcut, hl, hs, hr, Option.isSome_none, Bool.or_false, Bool.not_true,
    Bool.false_eq_true, if_false, if_true]
  rfl

theorem applyRequest_zero (hm : m = 0) :
    (applyRequest s e pid m src).2 =
      updDict (bumpW s (servHalf s e) 0xF000 0x0A) (servHalf s e) fun x => { x with res := 1 } := by
  have hr : maskReserved m = false := by rw [hm]; decide
  simp only [applyRequest, hserved, hfree, hcut, hl, hs, hr, if_pos hm, Option.isSome_none, Bool.or_false,
    Bool.not_true, Bool.false_eq_true, if_false]
  rfl

theorem applyRequest_snapshot (hr : maskReserved m = false) (hm : m ≠ 0) :
    (applyRequest s e pid m src).2 = updDict s (servHalf s e) fun x => snapshot x m src := by
  simp only [applyRequest, hserved, hfree, hcut, hl, hs, hr, if_neg hm, Option.isSome_none, Bool.or_false,
    Bool.not_true, Bool.false_eq_true, if_false]

end
end
end

/-! ### The check ends (R368) -/

theorem checkEnds_idle {s : State} {h : Half} (hnone : (dictOf s h).apply = none) : checkEnds s h = (s, none) := by
  simp only [checkEnds, hnone]

section
variable {h : Half} {q : ApplyReq} {s : State} (hq : (dictOf s h).apply = some q)
  (hcut : (dictOf s h).cutWait = false) (hst : (half s h).stewardHalted = false)
include hq hcut hst

theorem checkEnds_shut (hs : applyShut s h = true) :
    checkEnds s h = applyEnd s h 2 (some (0x9001, 0)) fun x => giveBack x q := by
  simp only [checkEnds, hq, hcut, hst, hs, Bool.or_false, Bool.false_eq_true, if_false, if_true]
  rfl

theorem checkEnds_bad {b : Bad} (hs : applyShut s h = false) (hb : applyBad s h q = some b) :
    checkEnds s h = applyEnd s h (if b.res = 3 then 3 else 2) (some (b.idx, b.sub)) fun x => giveBack x q := by
  simp only [checkEnds, hq, hcut, hst, hs, hb, Bool.or_false, Bool.false_eq_true, if_false]
  rfl

/-- Nothing is found: the cut is made, and one half alone has then accepted the request. -/
theorem checkEnds_good (hs : applyShut s h = false) (hb : applyBad s h q = none) :
    checkEnds s h = if oneHalf s then applyEnd (leadCut s h q) h 1 none fun x => { x with apply := none }
      else (leadCut s h q, none) := by
  simp only [checkEnds, hq, hcut, hst, hs, hb, Bool.or_false, Bool.false_eq_true, if_false]
  rfl

end

theorem exec_applyCheckComplete_serving {h : Half} {s : State} (hserv : servHalf s h = h) :
    exec (.applyCheckComplete h) s = .next (resumeWith (checkEnds s h)) := by
  change execApplyCheckComplete h s = _
  simp only [execApplyCheckComplete, hserv, beq_self_eq_true, if_true]

theorem exec_applyCheckComplete_idle {h : Half} {s : State} (hnone : (dictOf s h).apply = none) :
    exec (.applyCheckComplete h) s = .next s := by
  change execApplyCheckComplete h s = _
  rw [execApplyCheckComplete, checkEnds_idle hnone, resumeWith, ite_self]

/-! ### The follower's cut and its acknowledgement (R18, R333) -/

theorem exec_followerCutAct_none {s : State} (hw : s.dict.folWait = false) : exec .followerCutAct s = .next s := by
  change execFollowerCutAct s = _
  simp only [execFollowerCutAct, followerCut, hw, Bool.not_false, Bool.or_true, if_true]

theorem exec_followerCutAct_waiting {s : State} (hw : s.dict.folWait = true) (hone : oneHalf s = false) :
    let c := folCut s.dict
    let f := otherHalf (leadHalf s)
    let t := actCut s f false (fun t => updHalf { t with dict := { t.dict with folWait := false, folPrev := [] } } f
      fun x => { x with freed := false }) c.1 c.2
    exec .followerCutAct s = .next { t with dict := { t.dict with folSeq := t.dict.seq } } := by
  change execFollowerCutAct s = _
  simp only [execFollowerCutAct, followerCut, hw, hone, Bool.not_true, Bool.or_false, Bool.false_eq_true, if_false]

theorem exec_cutAck_none {s : State} (h : s.dict.cutWait = false ∨ s.dict.folWait = true) :
    exec .cutAck s = .next s := by
  have hstay : (oneHalf s || !s.dict.cutWait || s.dict.folWait) = true := by
    rcases h with h | h <;> simp only [h, Bool.not_false, Bool.or_true, Bool.true_or]
  change execCutAck s = _
  simp only [execCutAck, cutAcked, hstay, if_true]

theorem exec_cutAck_accepts {s : State} (hone : oneHalf s = false) (hcut : s.dict.cutWait = true)
    (hw : s.dict.folWait = false) (hreq : s.dict.apply.isSome = true) (hup : dieUp s = true) :
    exec .cutAck s = .next (resumeWith (applyEnd s (leadHalf s) 1 none fun d =>
      { d with apply := none, cutWait := false })) := by
  change execCutAck s = _
  simp only [execCutAck, cutAcked, hone, hcut, hw, hreq, hup, Bool.not_true, Bool.or_false, Bool.false_eq_true,
    if_false, if_true]
  rfl

/-! ### Seal passes (R372 to R374) -/

section
variable {h : Half} {s : State} (hs : sealer s h = true)
include hs

theorem exec_sealPassStart_idle (hrun : (dictOf s h).sealRun = false) :
    exec (.sealPassStart h) s = .next (sealStart s h) := by
  change execSealPassStart h s = _
  simp only [execSealPassStart, hs, hrun, Bool.not_false, Bool.and_true, if_true]

theorem exec_sealPassComplete_sealer :
    exec (.sealPassComplete h) s = .next (sealEnds s h (sealOwn s h)) := by
  change execSealPassComplete h s = _
  rw [execSealPassComplete, if_pos hs]

end

theorem exec_sealPassStart_running {h : Half} {s : State} (hrun : (dictOf s h).sealRun = true) :
    exec (.sealPassStart h) s = .next s := by
  change execSealPassStart h s = _
  simp only [execSealPassStart, hrun, Bool.not_true, Bool.and_false, Bool.false_eq_true, if_false]

section
variable {h : Half} {s : State} {own : Nat → Nat → Bool}

theorem sealEnds_idle (hrun : (dictOf s h).sealRun = false) : sealEnds s h own = s := by
  simp only [sealEnds, hrun, Bool.not_false, if_true]

theorem sealEnds_dirty (hrun : (dictOf s h).sealRun = true) (hd : (dictOf s h).sealDirty = true) :
    sealEnds s h own = sealStart s h := by
  simp only [sealEnds, hrun, hd, Bool.not_true, Bool.false_eq_true, if_false, if_true]

/-- A pass that nothing disturbed compares the seal with the reference; SEAL_MISMATCH is raised at the first
difference alone. -/
theorem sealEnds_compares (hrun : (dictOf s h).sealRun = true) (hd : (dictOf s h).sealDirty = false)
    (hshut : sealShut s h = false) (hon : (dictOf s h).sealOn = true) :
    let v := sealOf s h own
    let t := updDict s h fun x => { x with sealRun := false, sealNow := v }
    sealEnds s h own =
      if v = runVal (dictOf s h) 0xF000 3 then updDict t h fun x => { x with sealSt := .match_ }
      else if (dictOf s h).sealSt = .mismatch then bumpW (updDict t h fun x => { x with sealSt := .mismatch }) h 0xF000 6
      else raiseEv (bumpW (updDict t h fun x => { x with sealSt := .mismatch }) h 0xF000 6) h 15 0 0 0 := by
  simp only [sealEnds, hrun, hd, hshut, hon, Bool.not_true, Bool.false_eq_true, if_false, beq_iff_eq]

end

/-- Settles O42, from the equations above. -/
theorem applyGroupsAreSnapshotCheckedCutAndSealed : Obligations.ApplyGroupsAreSnapshotCheckedCutAndSealed := by
  unfold Obligations.ApplyGroupsAreSnapshotCheckedCutAndSealed
  refine ⟨fun p mask s ho => ?requests, fun p mask s ho => ?masks, fun h q s hserv hq hcut hst => ?checks,
    fun h s => exec_applyCheckComplete_idle, fun s => ?cuts, fun h s hs => ?seals⟩
  case requests =>
    have hserved : wideServed s (pathHalf s p) = true := ho.2
    simp only [exec_agApply_open ho]
    refine ⟨fun hbusy => ?_, fun hfree hcut => ⟨fun hl => ?_, fun hl hshut => ?_, fun hl hshut =>
      ⟨fun hr => ?_, fun hm => ?_, fun hr hm => ?_⟩⟩⟩
    · rw [applyRequest_busy hserved hbusy]
    · rw [applyRequest_locked hserved hfree hcut hl]
    · rw [applyRequest_shut hserved hfree hcut hl hshut]
    · rw [applyRequest_reserved hserved hfree hcut hl hshut hr]
    · rw [applyRequest_zero hserved hfree hcut hl hshut hm]
    · rw [applyRequest_snapshot hserved hfree hcut hl hshut hr hm]
      rfl
  case masks => exact ⟨exec_agDiscard_open ho mask, exec_agClaim_open ho mask, exec_agRelease_open ho mask⟩
  case checks =>
    rw [exec_applyCheckComplete_serving hserv]
    refine ⟨fun hshut => ?_, fun b hshut hb => ?_, fun hshut hb => ?_⟩
    · rw [checkEnds_shut hq hcut hst hshut]
    · rw [checkEnds_bad hq hcut hst hshut hb]
    · rw [checkEnds_good hq hcut hst hshut hb, apply_ite resumeWith]
      rfl
  case cuts => exact ⟨exec_followerCutAct_none, exec_followerCutAct_waiting, exec_cutAck_none, exec_cutAck_accepts⟩
  case seals =>
    rw [exec_sealPassComplete_sealer hs]
    refine ⟨fun hrun => ⟨exec_sealPassStart_idle hs hrun, ?_⟩, exec_sealPassStart_running, fun hrun hd => ?_,
      fun hrun hd hshut hon => ?_⟩
    · rw [sealEnds_idle hrun]
    · rw [sealEnds_dirty hrun hd]
      rfl
    · exact congrArg Host.Outcome.next (sealEnds_compares hrun hd hshut hon)

end Sys2Proof.Machine
end

section
/-! ## Waiting transactions (R38, R45, R47, R55, R185, R197, R278, R280)

Completion space, fences, doorbells, published words and zero-length reads: one equation per outcome of each
command. -/

namespace Sys2Proof.Machine

/-! ### Completion space (R38) -/

theorem req?_id {s : State} {id : Nat} {r : Req} (h : req? s id = some r) : r.id = id := by
  simpa only [beq_iff_eq] using List.find?_some h

/-- The state in which request `r` holds its completion space, and its transactions may be issued. -/
def spaceHeld (s : State) (r : Req) : State :=
  updFab s fun x => { x with
    reqs := x.reqs.map fun q =>
      if q.id == r.id then { q with resHdr := max 1 (units r.len), resData := max 1 (units r.len) } else q
    txns := x.txns.map fun u => if u.req == r.id && u.kind == .np then { u with reserved := true } else u }

theorem reserve_room {id : Nat} {t : Txn} {r : Req} {s : State} (ht : txn? s id = some t) (hr : req? s t.req = some r)
    (hres : t.reserved = false) (hroom : cplRoom s r.half r.dir r.cls r.len = true) :
    reserve s id = spaceHeld s r := by
  simp only [reserve, ht, hr, hres, hroom, Bool.not_false, Bool.and_self, if_true]
  rfl

theorem req?_spaceHeld {r q : Req} {s : State} (h : req? (spaceHeld s r) r.id = some q) :
    q.resHdr = max 1 (units r.len) ∧ q.resData = max 1 (units r.len) := by
  have hid := req?_id h
  obtain ⟨y, -, rfl⟩ := List.mem_map.mp (List.mem_of_find?_eq_some h)
  by_cases hy : (y.id == r.id) = true
  · rw [if_pos hy]
    exact ⟨rfl, rfl⟩
  · rw [if_neg hy] at hid
    exact absurd (beq_iff_eq.mpr hid) hy

/-- The transaction that waited for the space may be issued; nothing else of it has moved. -/
theorem txn?_spaceHeld {id : Nat} {t : Txn} {r : Req} {s : State} (ht : txn? s id = some t) (hreq : t.req = r.id)
    (hk : t.kind = .np) : txn? (spaceHeld s r) id = some { t with reserved := true } := by
  have hid : ((fun u : Txn => u.id == id) ∘ fun u : Txn =>
      if u.req == r.id && u.kind == .np then { u with reserved := true } else u) = fun u => u.id == id := by
    funext u
    simp only [Function.comp_apply]
    split <;> rfl
  have hmine : (t.req == r.id && t.kind == .np) = true := by rw [hreq, hk, beq_self_eq_true]; rfl
  change (s.fab.txns.map _).find? _ = _
  rw [List.find?_map, hid]
  change (txn? s id).map _ = _
  rw [ht, Option.map_some, if_pos hmine]

/-- What is no acquire is left to be issued. -/
theorem exec_cplSpaceReserved_request {id : Nat} {t : Txn} {s : State} (ht : txn? (reserve s id) id = some t)
    (hop : t.op ≠ .lockAcq) : exec (.cplSpaceReserved id) s = .next (reserve s id) := by
  change execCplSpaceReserved id s = _
  simp only [execCplSpaceReserved, ht]
  split
  next hacq _ => exact absurd hacq hop
  next => rfl

theorem exec_cplSpaceReserved_acquire {id l : Nat} {t : Txn} {s : State} (ht : txn? (reserve s id) id = some t)
    (hop : t.op = .lockAcq) (hsrc : t.src = .link l) (hres : t.reserved = true) :
    exec (.cplSpaceReserved id) s = .next (semArrive (leftIngress (dropTxn (reserve s id) id) t) t.addr l t.req) := by
  change execCplSpaceReserved id s = _
  simp only [execCplSpaceReserved, ht, hop, hsrc, hres, if_true]

/-! ### Fences (R47) -/

section
variable {id : Nat} {t : Txn} {s : State} (ht : txn? s id = some t)
include ht

theorem exec_fenceRelease_waits (hw : fenceWaits s t = true) : exec (.fenceRelease id) s = .next s := by
  change execFenceRelease id s = _
  simp only [execFenceRelease, ht, hw, Bool.not_true, Bool.and_false, Bool.false_eq_true, if_false]

theorem exec_fenceRelease_free (hf : t.fence = true) (hw : fenceWaits s t = false) :
    exec (.fenceRelease id) s = .next (settle (updTxn s id fun u => { u with fenceOk := true })) := by
  change execFenceRelease id s = _
  simp only [execFenceRelease, ht, hf, hw, Bool.not_false, Bool.and_self, if_true]

/-! ### Doorbells (R45, R256, R278) -/

section
variable {n : Nat} (hop : t.op = .doorbell n)
include hop

theorem exec_flowDoorbellRaise_link {l : Nat} (hsrc : t.src = .link l) :
    exec (.flowDoorbellRaise id) s = .next (
      let s1 := leftIngress (dropTxn s id) t
      if flowWritesDone s t then doorbellAt s1 t.ihalf n (linkAdmitted s1 n l) else s) := by
  change execFlowDoorbellRaise id s = _
  simp only [execFlowDoorbellRaise, ht, hop, hsrc]

theorem exec_flowDoorbellRaise_engine {e : Nat} (hsrc : t.src = .eng e) :
    exec (.flowDoorbellRaise id) s = .next (if (before s id).any (fun u => u.flow == t.flow && engWrote u e) then s
      else doorbellAt (dropTxn s id) t.ihalf n true) := by
  change execFlowDoorbellRaise id s = _
  simp only [execFlowDoorbellRaise, ht, hop, hsrc]

end

/-! ### Published words (R197, R280) -/

section
variable {w l : Nat} (hop : t.op = .state w) (hsrc : t.src = .link l) (hdone : flowWritesDone s t = true)
include hop hsrc hdone

theorem exec_stateValueCommit_unmapped (hg : mgOfWord (leftIngress (dropTxn s id) t) l w = none) :
    exec (.stateValueCommit id) s = .next (bump (leftIngress (dropTxn s id) t) 0x5E08 (hsub t.ihalf)) := by
  change execStateValueCommit id s = _
  simp only [execStateValueCommit, ht, hop, hsrc, hdone, hg, if_true]

theorem exec_stateValueCommit_mapped {g : Nat} (hg : mgOfWord (leftIngress (dropTxn s id) t) l w = some g) :
    exec (.stateValueCommit id) s =
      .next (storeIn (leftIngress (dropTxn s id) t) g w (BitVec.ofNat 64 (ofBytesLE (t.data.take 8)))) := by
  change execStateValueCommit id s = _
  simp only [execStateValueCommit, ht, hop, hsrc, hdone, hg, if_true]

end

/-! ### Zero-length reads (R55) -/

theorem exec_zeroLenReadFlush_link {n l : Nat} (hmark : t.mark = .zeroRead n) (hsink : t.sink = .link l)
    (hres : t.reserved = true) :
    exec (.zeroLenReadFlush id) s = .next (if unacked s n l id then s
      else gotPart (dropTxn s id) t.req t.part [0, 0, 0, 0] false t.home) := by
  change execZeroLenReadFlush id s = _
  simp only [execZeroLenReadFlush, ht, hmark, hsink, hres, Bool.true_and]
  cases unacked s n l id <;> rfl

end

/-- Settles O27, from the equations above. -/
theorem waitingTransactionsGoOnInTheirTurn : Obligations.WaitingTransactionsGoOnInTheirTurn := by
  unfold Obligations.WaitingTransactionsGoOnInTheirTurn
  refine ⟨fun id t r s ht hr hres hroom hop hk => ?space, fun id l t s => exec_cplSpaceReserved_acquire,
    fun id t s ht hf => ⟨exec_fenceRelease_waits ht, exec_fenceRelease_free ht hf⟩,
    fun id n l t s ht hop hsrc => ⟨fun hwait => ?linkWaits, fun hdone => ?linkLeaves⟩,
    fun id n e t s ht hop hsrc => exec_flowDoorbellRaise_engine ht hop hsrc,
    fun id w l t s ht hop hsrc hdone => ⟨exec_stateValueCommit_unmapped ht hop hsrc hdone,
      fun g => exec_stateValueCommit_mapped ht hop hsrc hdone⟩,
    fun id n l t s ht hmark hsink hres => ⟨fun hwait => ?readWaits, fun hdone => ?readEnds⟩⟩
  case space =>
    have hheld := reserve_room ht hr hres hroom
    have hfound := txn?_spaceHeld ht (req?_id hr).symm hk
    have hexec := exec_cplSpaceReserved_request (t := { t with reserved := true }) (by rw [hheld, hfound]) hop
    exact ⟨spaceHeld s r, hheld ▸ hexec, fun q => req?_spaceHeld, by rw [hfound]; rfl, rfl⟩
  case linkWaits => simp only [exec_flowDoorbellRaise_link ht hop hsrc, hwait, Bool.false_eq_true, if_false]
  case linkLeaves => simp only [exec_flowDoorbellRaise_link ht hop hsrc, hdone, if_true]
  case readWaits => simp only [exec_zeroLenReadFlush_link ht hmark hsink hres, hwait, if_true]
  case readEnds =>
    simp only [exec_zeroLenReadFlush_link ht hmark hsink hres, hdone, Bool.false_eq_true, if_false]

end Sys2Proof.Machine
end

section
/-! ## Memory requests of a host (R37, R40, R100, R155, R160, R164, R169, R171, R181, R191, R425)

Where a request goes by its address and by the room of its partition, then what the sub-window that it hits makes of
a write, of a read and of an AtomicOp. -/

namespace Sys2Proof.Machine

/-! ### Decode and room (R37, R40, R100, R425) -/

theorem s3Commit_awake {s : State} (h : awake s) : s3Commit s = false := by
  obtain ⟨-, -, hcommit⟩ := h
  rw [s3Commit, hcommit, Bool.false_and]

section
variable {m a : Nat} {i : Instr} {s : State} (hlive : hostLive s m)
include hlive

theorem memTlp_unclaimed (h : startedUp s (halfOfHl m) = false ∨ hostDecode s m a = .miss) :
    memTlp s m a i = unclaimed s m i := by
  obtain ⟨hawake, hup⟩ := hlive
  simp only [memTlp, tlpWake_awake hawake, s3Commit_awake hawake, hup, Bool.false_and, Bool.not_true,
    Bool.false_eq_true, if_false]
  rcases h with h | h
  · simp only [h, Bool.not_false, if_true]
  · simp only [h, ite_self]

variable {n off : Nat} (hs : startedUp s (halfOfHl m) = true) (hd : hostDecode s m a = .aperture n off)
  {r : HostReq} {k : Kind} {len : Nat} (hi : tlpReq i = some (r, k, len))
include hs hd hi

/-- A request that hits an aperture is served where its partition has room, and waits on VC0 where it has none. -/
theorem memTlp_aperture :
    memTlp s m a i = if tlpRoom s n off k len r.vc1 then serveTlp s n off i else waitVc0 s m i := by
  obtain ⟨hawake, hup⟩ := hlive
  simp only [memTlp, tlpWake_awake hawake, s3Commit_awake hawake, hup, hs, hd, hi, Bool.false_and, Bool.not_true,
    Bool.false_eq_true, if_false]

end

theorem memTlp_served {m a n off len : Nat} {i : Instr} {r : HostReq} {k : Kind} {s : State}
    (h : hostAperture s m a n off k len r.vc1) (hi : tlpReq i = some (r, k, len)) :
    memTlp s m a i = serveTlp s n off i := by
  obtain ⟨hlive, hs, hd, hroom⟩ := h
  rw [memTlp_aperture hlive hs hd hi, if_pos hroom]

section
variable {m : HL} {r : HostReq} {n off : Nat} {s : State}

theorem exec_hostMemoryWrite_served (h : hostAperture s m.val r.addr.toNat n off .p r.data.length r.vc1) :
    exec (.hostMemoryWrite m r) s = .next (windowWrite s n off r) :=
  congrArg Host.Outcome.next (memTlp_served (i := .hostMemoryWrite m r) h rfl)

theorem exec_hostMemoryRead_served (h : hostAperture s m.val r.addr.toNat n off .np 0 r.vc1) :
    exec (.hostMemoryRead m r) s = .next (windowRead s n off r) :=
  congrArg Host.Outcome.next (memTlp_served (i := .hostMemoryRead m r) h rfl)

theorem exec_hostAtomicop_served {op : AtomicOp} (hlen : atomicLenOk op r.data.length = true)
    (h : hostAperture s m.val r.addr.toNat n off .np r.data.length r.vc1) :
    exec (.hostAtomicop m r op) s = .next (windowAtomic s n off r op) := by
  change execHostAtomicop m r op s = _
  rw [execHostAtomicop, if_pos hlen, memTlp_served (i := .hostAtomicop m r op) h rfl]
  rfl

theorem exec_hostMemoryWrite_waits (hlive : hostLive s m.val) (hs : startedUp s (halfOfHl m.val) = true)
    (hd : hostDecode s m.val r.addr.toNat = .aperture n off) (hroom : tlpRoom s n off .p r.data.length r.vc1 = false) :
    exec (.hostMemoryWrite m r) s = .next (waitVc0 s m.val (.hostMemoryWrite m r)) := by
  have hnone : ¬ tlpRoom s n off .p r.data.length r.vc1 = true := Bool.eq_false_iff.mp hroom
  change execHostMemoryWrite m r s = _
  rw [execHostMemoryWrite, memTlp_aperture (i := .hostMemoryWrite m r) hlive hs hd rfl, if_neg hnone]

end

/-! ### Writes and misses (R155, R160, R164, R171, R181)

`hcluster` says that the sub-window's target is no cluster, whose reserved range the steward guards. -/

theorem fld_beq_one_eq_false {c : W32} {lo len : Nat} (h : fld c lo len = 0) : (fld c lo len == 1) = false := by
  rw [h]; rfl

/-- With every byte enabled a write is one run. -/
theorem runs_map_some {bs : List Byte} (hbs : bs ≠ []) (i : Nat) : runs i (bs.map some) = [(i, bs)] := by
  induction bs generalizing i with
  | nil => exact absurd rfl hbs
  | cons b t ih =>
    cases t with
    | nil => rfl
    | cons c t =>
      have htail := ih (List.cons_ne_nil c t) (i + 1)
      rw [List.map_cons] at htail
      rw [List.map_cons, List.map_cons, runs, htail]

section
variable {n off w : Nat} {r : HostReq} {s : State}

theorem windowWrite_miss (hw : hitIn s n off = none) :
    windowWrite s n off r =
      aerUR (bump (logC s (halfOfHl (n / 64)) 0x03 n (addr := off)) 0x4801 (hsub (halfOfHl (n / 64)))) n := by
  simp only [windowWrite, hw, hostMiss]

theorem windowRead_miss (hw : hitIn s n off = none) :
    windowRead s n off r =
      hostRefuse (bump (logC s (halfOfHl (n / 64)) 0x03 n (addr := off)) 0x4801 (hsub (halfOfHl (n / 64)))) (n / 64) n
        r.tag.toNat .ur r.len := by
  simp only [windowRead, hw, hostMiss]

theorem windowWrite_run {bs : List Byte} (hw : hitIn s n off = some w)
    (hcluster : fld (inw (countIn s n w) n w 0) 14 2 = 0) (hep : r.ep = false) (hdata : r.data = bs.map some)
    (hbs : bs ≠ []) :
    windowWrite s n off r = runWrite (wrIn s n w r) n w off bs r.addr.toNat r := by
  simp only [windowWrite, hw, fld_beq_one_eq_false hcluster, hep, hdata, runs_map_some hbs, onlyIf_false,
    Bool.false_and, Bool.false_eq_true, if_false, List.isEmpty_cons, forAll_cons, forAll_nil, Nat.add_zero]
  rfl

end

section
variable {n w off addr : Nat} {bs : List Byte} {r : HostReq} {s : State} (hsplit : bit (inw s n w 0) 2 = false)
include hsplit

theorem runWrite_whole (hsize : sizeOk (inw s n w 0) addr bs.length = true) :
    runWrite s n w off bs addr r = submitP s (inTxn s n w .p .write off bs.length bs r) := by
  simp only [runWrite, hsplit, hsize, Bool.not_true, Bool.false_eq_true, if_false]

theorem runWrite_refused (hsize : sizeOk (inw s n w 0) addr bs.length = false) :
    runWrite s n w off bs addr r =
      bump (logC s (halfOfHl (n / 64)) 0x01 (unitWin n w) (addr := addr)) 0x4804 (hsub (halfOfHl (n / 64))) := by
  simp only [runWrite, hsplit, hsize, Bool.not_false, Bool.false_eq_true, if_false, if_true]

end

/-! ### Reads (R164, R169) -/

/-- What a read or an AtomicOp leaves once its sub-window has counted the hit is `rdIn`. -/
theorem stampIn_countIn (s : State) (n w : Nat) (r : HostReq) :
    stampIn (vc1Count (countIn s n w) r.vc1 (flowCls (countIn s n w) (halfOfHl (n / 64))
      (fld (inw (countIn s n w) n w 1) 0 14))) (halfOfHl (n / 64)) (fld (inw (countIn s n w) n w 1) 0 14) false
      r.dlSeq.toNat = rdIn s n w r := rfl

section
variable {n off w : Nat} {r : HostReq} {s : State} (hw : hitIn s n off = some w)
  (hcluster : fld (inw (countIn s n w) n w 0) 14 2 = 0) (hsplit : bit (inw (countIn s n w) n w 0) 2 = false)
include hw hcluster hsplit

section
variable (hlen : r.len ≠ 0)
include hlen

theorem windowRead_refused (hsize : sizeOk (inw (countIn s n w) n w 0) r.addr.toNat r.len = false) :
    windowRead s n off r =
      hostRefuse (bump (logC (rdIn s n w r) (halfOfHl (n / 64)) 0x01 (unitWin n w) (addr := r.addr.toNat)) 0x4804
        (hsub (halfOfHl (n / 64)))) (n / 64) n r.tag.toNat .ca r.len := by
  simp only [windowRead, hw, if_neg hlen, fld_beq_one_eq_false hcluster, hsplit, hsize, Bool.false_and, Bool.not_false,
    Bool.and_true, Bool.false_eq_true, if_false, if_true, stampIn_countIn]

/-- A read of an allowed size that its sink passes is fetched ahead of, or is a request of its own. -/
theorem windowRead_passed (hsize : sizeOk (inw (countIn s n w) n w 0) r.addr.toNat r.len = true)
    (hgate : gate (rdIn s n w r) (inTxn (rdIn s n w r) n w .np .read off r.len [] r).sink = .pass) :
    windowRead s n off r =
      let u := rdIn s n w r
      let t := inTxn u n w .np .read off r.len [] r
      if pfActive u n w then pfRead u n w off r.len r
      else (submitNp u (.host (n / 64) n r.tag.toNat r.addr.toNat false) { t with ro := r.ro } r.len
        (readParts u t.sink 0 t.addr r.len)).2 := by
  simp only [windowRead, hw, if_neg hlen, fld_beq_one_eq_false hcluster, hsplit, hsize, stampIn_countIn, hgate,
    Bool.false_and, Bool.not_true, Bool.and_false, Bool.false_eq_true, if_false, hostWho] <;> rfl

end

/-! ### AtomicOps (R191) -/

theorem windowAtomic_passed {op : AtomicOp} {e : End}
    (hsize : sizeOk (inw (countIn s n w) n w 0) r.addr.toNat (operandBytes r).length = true)
    (he : (inTxn (rdIn s n w r) n w .np (.atomic op) off (atomicLen op (operandBytes r).length) (operandBytes r)
      r).sink = e)
    (hgate : gate (rdIn s n w r) e = .pass) (hlisted : ∀ l, e = .link l → hasFeature (rdIn s n w r) l 2 = true) :
    windowAtomic s n off r op =
      let u := rdIn s n w r
      let len := atomicLen op (operandBytes r).length
      let t := inTxn u n w .np (.atomic op) off len (operandBytes r) r
      (submitNp (pfFlowWrite u (fld (inw (countIn s n w) n w 1) 0 14))
        (.host (n / 64) n r.tag.toNat r.addr.toNat true) { t with ro := r.ro } len [mkPart 0 len t.addr]).2 := by
  simp only [windowAtomic, hw, fld_beq_one_eq_false hcluster, hsplit, hsize, stampIn_countIn, he, hgate, Bool.false_and,
    Bool.not_true, Bool.or_false, Bool.false_eq_true, if_false, hostWho]
  cases e with
  | link l => simp only [hlisted l rfl, Bool.not_true, Bool.false_eq_true, if_false]
  | _ => rfl

end

/-- Settles O34, from the lemmas above. -/
theorem hostRequestsReachTheirAperture : Obligations.HostRequestsReachTheirAperture := by
  unfold Obligations.HostRequestsReachTheirAperture
  refine ⟨fun m r n off s h => ⟨fun hw => ?writeMiss, fun w bs hw hc hep hdata hbs hsplit =>
      ⟨fun hsize => ?write, fun hsize => ?writeRefused⟩⟩,
    fun m r n off s h => ⟨fun hw => ?readMiss, fun w hw hlen hc hsplit => ⟨fun hsize hg hpf => ?read,
      fun hsize hg hpf => ?prefetch, fun hsize => ?readRefused⟩⟩,
    fun m r op n off s hlen h w hw hc hsplit hsize hg hf => ?atomic,
    fun m r n off s => exec_hostMemoryWrite_waits, fun m r s hlive h _ => ⟨?writeStray, ?readStray⟩⟩
  case writeMiss => rw [exec_hostMemoryWrite_served h, windowWrite_miss hw]
  case write => rw [exec_hostMemoryWrite_served h, windowWrite_run hw hc hep hdata hbs, runWrite_whole hsplit hsize]
  case writeRefused =>
    rw [exec_hostMemoryWrite_served h, windowWrite_run hw hc hep hdata hbs, runWrite_refused hsplit hsize]
  case readMiss => rw [exec_hostMemoryRead_served h, windowRead_miss hw]
  case read =>
    rw [exec_hostMemoryRead_served h, windowRead_passed hw hc hsplit hlen hsize hg]
    simp only [hpf, Bool.false_eq_true, if_false]
  case prefetch =>
    rw [exec_hostMemoryRead_served h, windowRead_passed hw hc hsplit hlen hsize hg]
    simp only [hpf, if_true]
  case readRefused => rw [exec_hostMemoryRead_served h, windowRead_refused hw hc hsplit hlen hsize]
  case atomic => rw [exec_hostAtomicop_served hlen h, windowAtomic_passed hw hc hsplit hsize rfl hg hf]
  case writeStray => exact congrArg Host.Outcome.next (memTlp_unclaimed hlive h)
  case readStray => exact congrArg Host.Outcome.next (memTlp_unclaimed hlive h)

end Sys2Proof.Machine
end

section
/-! ## Requests of a local link through an outbound entry (R33, R35, R155, R156, R161, R164, R165, R187, R192)

What each packet row comes to for a request that is turned away, that no entry serves and that an entry translates;
then what the entry makes of a WRITE, a READ and an ATOMIC that it does not split. -/

namespace Sys2Proof.Machine

theorem submitP_pass {s : State} {t : Txn} (hg : gate s t.sink = .pass) : submitP s t = addTxn s t := by
  rw [submitP, hg]

theorem giveNp_pass {s : State} {l : Nat} {p : Pkt} {t : Txn} (hg : gate s t.sink = .pass) (len : Nat)
    (parts : List ReqPart) (o : ReqOpts) :
    giveNp s l p t len parts o = (submitNp s (.link (tetherName s l) p.tag.toNat) t len parts o).2 := by
  rw [giveNp, hg]

/-- Counting a hit renames no link. -/
@[simp] theorem tetherName_bumpR (s : State) (a l : Nat) : tetherName (bumpR s a) l = tetherName s l := rfl

/-! ### The packet rows (R33, R155, R161, R187) -/

/-- The address at which the range of a request of TYPE `t` is looked up: that of an ATOMIC's operand, else the
packet's own. -/
def outAt (t : Nat) (p : Pkt) : Nat := if t = 6 then p.addr.toNat / 4 * 4 else p.addr.toNat

theorem outAt_typ (p : Pkt) :
    outAt p.typ.toNat p = if p.typ == 6 then p.addr.toNat / 4 * 4 else p.addr.toNat := by
  by_cases hty : p.typ = 6
  · have hnum : p.typ.toNat = 6 := congrArg BitVec.toNat hty
    rw [outAt, if_pos hnum, if_pos (beq_iff_eq.mpr hty)]
  · have hnum : p.typ.toNat ≠ 6 := fun h6 => hty (BitVec.eq_of_toNat_eq h6)
    rw [outAt, if_neg hnum, if_neg fun hb => hty (beq_iff_eq.mp hb)]

section
variable {l : LL} {p : Pkt} {s : State} {c : Instr} {t : Nat} (hc : (c, t) ∈ pktRows l p) (ht : p.typ.toNat = t)
include hc ht

/-- A request of a flow that is not enabled, or dormant, is counted and turned away. -/
theorem exec_pktRows_dead (h3 : t ≠ 3) (h9 : t ≠ 9) (h : rxClean s l.val p)
    (hthaw : isFrozen (rxTaken s l.val p) (tetherName (rxTook s l.val) l.val) = false)
    (hdead : flowEn (rxTaken s l.val p) (halfOfLink l.val) p.flow.toNat = false ∨
      flowDormant (rxTaken s l.val p) (halfOfLink l.val) p.flow.toNat = true) :
    exec c s = .next (turnAway (bump (rxTaken s l.val p) 0x5800 (hsub (halfOfLink l.val))) l.val p 1) := by
  have hno3 : (p.typ == 3) = false := beq_eq_false_iff_ne.mpr fun hp => h3 (ht.symm.trans (congrArg BitVec.toNat hp))
  have hno9 : (p.typ == 9) = false := beq_eq_false_iff_ne.mpr fun hp => h9 (ht.symm.trans (congrArg BitVec.toNat hp))
  have hshut : (!flowEn (rxTaken s l.val p) (halfOfLink l.val) p.flow.toNat ||
      flowSrc (rxTaken s l.val p) (halfOfLink l.val) p.flow.toNat != .link (tetherName (rxTaken s l.val p) l.val) ||
      flowDormant (rxTaken s l.val p) (halfOfLink l.val) p.flow.toNat) = true := by
    rcases hdead with hd | hd
    · rw [hd, Bool.not_false, Bool.true_or, Bool.true_or]
    · rw [hd, Bool.or_true]
  rw [exec_pktRows hc ht, rxPacket_clean h]
  simp only [hno3, hno9, hthaw, Bool.false_eq_true, if_false, rxRequest, hshut, if_true]

variable (h4 : t ≠ 4) (h5 : t ≠ 5) (h : rxFlowed s l.val p)
  (hsink : ∀ k, flowSink (rxIn s l.val p) (halfOfLink l.val) p.flow.toNat ≠ .eng k)
include h4 h5 h hsink

/-- A request that no entry serves. -/
theorem exec_pktRows_miss
    (hmiss : translateOut (rxIn s l.val p) (halfOfLink l.val) (tetherName (rxIn s l.val p) l.val) p.flow.toNat
      (outAt t p) = none) :
    exec c s = .next (
      if isNpType p then refuseNp (bump (rxIn s l.val p) 0x4802 (hsub (halfOfLink l.val))) l.val p 5
      else creditBack (bump (rxIn s l.val p) 0x4803 (hsub (halfOfLink l.val))) l.val p) := by
  subst ht
  rw [exec_pktRows hc rfl, rxPacket_out h h4 h5, outRequest_none hsink (outAt_typ p ▸ hmiss)]

/-- A request that entry `e` translates. -/
theorem exec_pktRows_entry {e : Nat}
    (hlock : (t = 1 ∨ t = 2 ∨ t = 6) → p.lock = true →
      lockPasses (bumpR (rxIn s l.val p) (outHits e)) (halfOfLink l.val) (tetherName (rxIn s l.val p) l.val) e = true)
    (he : translateOut (rxIn s l.val p) (halfOfLink l.val) (tetherName (rxIn s l.val p) l.val) p.flow.toNat
      (outAt t p) = some e) :
    exec c s = .next (
      let u := bumpR (rxIn s l.val p) (outHits e)
      match (generalizing := false) t with
      | 1 => outWrite u l.val p e
      | 2 => outRead u l.val p e
      | 6 => outAtomic u l.val p e
      | 7 => outAcquire u l.val p e
      | 8 => outRelease u l.val p e
      | _ => u) := by
  subst ht
  have hnum : (p.typ = 1 ∨ p.typ = 2 ∨ p.typ = 6) → (p.typ.toNat = 1 ∨ p.typ.toNat = 2 ∨ p.typ.toNat = 6) :=
    Or.imp (congrArg BitVec.toNat) (Or.imp (congrArg BitVec.toNat) (congrArg BitVec.toNat))
  have hentry := outRequest_some hsink (outAt_typ p ▸ he) fun hty => hlock (hnum hty)
  exact (exec_pktRows hc rfl s).trans (congrArg Host.Outcome.next ((rxPacket_out h h4 h5).trans hentry))

end

/-! ### Through an entry that does not split (R164, R165, R192) -/

section
variable {s : State} {l e : Nat} {p : Pkt} (hsplit : bit (outw s (halfOfLink l) e 0) 1 = false)
include hsplit

section
variable (hsize : sizeOk (outw s (halfOfLink l) e 0) p.addr.toNat p.len.toNat = true)
include hsize

theorem outWrite_whole
    (hg : gate s (pktTxn s l p .p .write (outAddr s (halfOfLink l) e p.addr.toNat) p.len.toNat p.payload
      (bit (outw s (halfOfLink l) e 0) 3)).sink = .pass) :
    outWrite s l p e = addTxn s (pktTxn s l p .p .write (outAddr s (halfOfLink l) e p.addr.toNat) p.len.toNat p.payload
      (bit (outw s (halfOfLink l) e 0) 3)) := by
  simp only [outWrite, hsplit, hsize, hg, submitP_pass hg, Bool.not_false, Bool.not_true, Bool.false_eq_true, if_true,
    if_false]

theorem outRead_whole
    (hg : gate s (pktTxn s l p .np .read (outAddr s (halfOfLink l) e p.addr.toNat) p.len.toNat []
      (bit (outw s (halfOfLink l) e 0) 3)).sink = .pass) :
    outRead s l p e =
      let t := pktTxn s l p .np .read (outAddr s (halfOfLink l) e p.addr.toNat) p.len.toNat []
        (bit (outw s (halfOfLink l) e 0) 3)
      (submitNp s (.link (tetherName s l) p.tag.toNat) t p.len.toNat (readParts s t.sink 0 t.addr p.len.toNat)
        { ReqOpts.plain with lock := p.lock, raddr := p.addr.toNat }).2 := by
  simp only [outRead, hsplit, hsize, giveNp_pass hg, Bool.not_false, Bool.not_true, Bool.false_eq_true, if_true,
    if_false]

end

/-- An AtomicOp of an allowed size toward a sink that passes it; a local one lists the feature. -/
theorem outAtomic_whole {op : AtomicOp}
    (hsize : sizeOk (outw s (halfOfLink l) e 0) (p.addr.toNat / 4 * 4) p.len.toNat = true)
    (hop : atomicOf p = some op)
    (hg : gate s (pktTxn s l p .np (.atomic op) (outAddr s (halfOfLink l) e (p.addr.toNat / 4 * 4))
      (atomicLen op p.len.toNat) p.payload (bit (outw s (halfOfLink l) e 0) 3)).sink = .pass)
    (hlisted : ∀ k, (pktTxn s l p .np (.atomic op) (outAddr s (halfOfLink l) e (p.addr.toNat / 4 * 4))
      (atomicLen op p.len.toNat) p.payload (bit (outw s (halfOfLink l) e 0) 3)).sink = .link k →
      hasFeature s k 2 = true) :
    outAtomic s l p e =
      let n := atomicLen op p.len.toNat
      let t := pktTxn s l p .np (.atomic op) (outAddr s (halfOfLink l) e (p.addr.toNat / 4 * 4)) n p.payload
        (bit (outw s (halfOfLink l) e 0) 3)
      (submitNp s (.link (tetherName s l) p.tag.toNat) t n [mkPart 0 n t.addr]
        { ReqOpts.plain with lock := p.lock, raddr := p.addr.toNat / 4 * 4 }).2 := by
  simp only [outAtomic, hsplit, hsize, hop, giveNp_pass hg, Bool.not_true, Bool.false_and, Bool.or_false,
    Bool.false_eq_true, if_false]
  split
  next k hk => simp only [hlisted k hk, Bool.true_or, Bool.not_true, Bool.false_eq_true, if_false]
  next => rfl

end

/-- Settles O32, from the lemmas above. -/
theorem requestsGoThroughTheirOutboundEntry : Obligations.RequestsGoThroughTheirOutboundEntry := by
  unfold Obligations.RequestsGoThroughTheirOutboundEntry
  refine ⟨fun l p e s h hsink hlock hsplit => ⟨fun hty he hsize hg => ?write, fun hty he hsize hg => ?read,
      fun op hty he hsize hop hg hlisted => ?atomic⟩,
    fun l p s h hsink => ⟨fun hty hmiss => ?writeMiss, fun hty hmiss => ?readMiss⟩,
    fun l p c t s hc ht h3 h9 h => exec_pktRows_dead hc ht h3 h9 h⟩
  case write =>
    rw [exec_pktRows_entry (t := 1) (by simp [pktRows]) (congrArg BitVec.toNat hty) (by decide) (by decide) h hsink
      (fun _ => hlock) he]
    exact congrArg Host.Outcome.next (outWrite_whole hsplit hsize hg)
  case read =>
    rw [exec_pktRows_entry (t := 2) (by simp [pktRows]) (congrArg BitVec.toNat hty) (by decide) (by decide) h hsink
      (fun _ => hlock) he]
    exact congrArg Host.Outcome.next (outRead_whole hsplit hsize hg)
  case atomic =>
    rw [exec_pktRows_entry (t := 6) (by simp [pktRows]) (congrArg BitVec.toNat hty) (by decide) (by decide) h hsink
      (fun _ => hlock) he]
    exact congrArg Host.Outcome.next (outAtomic_whole hsplit hsize hop hg hlisted)
  case writeMiss =>
    rw [exec_pktRows_miss (t := 1) (by simp [pktRows]) (congrArg BitVec.toNat hty) (by decide) (by decide) h hsink
      hmiss, isNpType, hty]
    rfl
  case readMiss =>
    rw [exec_pktRows_miss (t := 2) (by simp [pktRows]) (congrArg BitVec.toNat hty) (by decide) (by decide) h hsink
      hmiss, isNpType, hty]
    rfl

end Sys2Proof.Machine
end

section
/-! ## Words, locks, announcements and completions of a local link (R45, R136, R147, R185, R187, R189, R197, R202,
R205, R210, R211, R229, R278) -/

namespace Sys2Proof.Machine

/-! ### Doorbells and published words (R45, R197, R202, R278) -/

section
variable {l : LL} {p : Pkt} {s : State} (h : rxFlowed s l.val p)
include h

theorem exec_doorbell_flowed (hty : p.typ = 4) :
    exec (.doorbell l p) s = .next (addTxn (rxIn s l.val p) { pktTxn (rxIn s l.val p) l.val p .p
      (.doorbell (ofBytesLE (p.payload.take 2) % 16384)) 0 4 p.payload false with lock := false }) := by
  have hnum : p.typ.toNat = 4 := congrArg BitVec.toNat hty
  rw [exec_pktRows (l := l) (by simp [pktRows]) hnum, rxPacket_doorbell h hnum]

theorem exec_state_flowed (hty : p.typ = 5) :
    exec (.state l p) s = .next (rxState (rxIn s l.val p) l.val p) := by
  have hnum : p.typ.toNat = 5 := congrArg BitVec.toNat hty
  rw [exec_pktRows (l := l) (by simp [pktRows]) hnum, rxPacket_state h hnum]

end

section
variable {s : State} {l : Nat} {p : Pkt}

theorem rxState_unmapped (hg : mgOfWord s (tetherName s l) (p.addr.toNat % 4096) = none) :
    rxState s l p = creditBack (bump s 0x5E08 (hsub (halfOfLink l))) l p := by
  simp only [rxState, hg]

theorem rxState_mapped {g : Nat} (hg : mgOfWord s (tetherName s l) (p.addr.toNat % 4096) = some g)
    (hd : mgDown s g = false) :
    rxState s l p =
      addTxn s (pktTxn s l p .p (.state (p.addr.toNat % 4096)) (p.addr.toNat % 4096) 8 p.payload false) := by
  simp only [rxState, hg, hd, Bool.false_eq_true, if_false]

end

/-! ### Acquires and releases (R185, R187, R189) -/

section
variable {l : LL} {p : Pkt} {s : State} {e : Nat} (h : rxFlowed s l.val p)
  (hsink : ∀ k, flowSink (rxIn s l.val p) (halfOfLink l.val) p.flow.toNat ≠ .eng k)
include h hsink

theorem exec_lockAcq_entry (hty : p.typ = 7)
    (he : translateOut (rxIn s l.val p) (halfOfLink l.val) (tetherName (rxIn s l.val p) l.val) p.flow.toNat
      p.addr.toNat = some e) :
    exec (.lockAcq l p) s = .next (outAcquire (bumpR (rxIn s l.val p) (outHits e)) l.val p e) :=
  exec_pktRows_entry (t := 7) (by simp [pktRows]) (congrArg BitVec.toNat hty) (by decide) (by decide) h hsink
    (fun hno => absurd hno (by decide)) he

theorem exec_lockRel_entry (hty : p.typ = 8)
    (he : translateOut (rxIn s l.val p) (halfOfLink l.val) (tetherName (rxIn s l.val p) l.val) p.flow.toNat
      p.addr.toNat = some e) :
    exec (.lockRel l p) s = .next (outRelease (bumpR (rxIn s l.val p) (outHits e)) l.val p e) :=
  exec_pktRows_entry (t := 8) (by simp [pktRows]) (congrArg BitVec.toNat hty) (by decide) (by decide) h hsink
    (fun hno => absurd hno (by decide)) he

end

section
variable {s : State} {l e : Nat} {p : Pkt}

theorem outAcquire_unbound (hb : bit (outw s (halfOfLink l) e 0) 24 = false) :
    outAcquire s l p e = refuseNp s l p 1 := by
  simp only [outAcquire, hb, Bool.not_false, if_true]

section
variable (hb : bit (outw s (halfOfLink l) e 0) 24 = true)
include hb

theorem outAcquire_unreachable (hr : semReachable s (halfOfLink l) (fld (outw s (halfOfLink l) e 1) 16 8) = false) :
    outAcquire s l p e = refuseNp s l p 2 := by
  simp only [outAcquire, hb, hr, Bool.not_false, Bool.not_true, Bool.false_eq_true, if_true, if_false]

/-- The acquire becomes an open request, whose transaction reaches the semaphore where completion space is
reserved. -/
theorem outAcquire_reachable {q : Nat × State} {x : Txn}
    (hr : semReachable s (halfOfLink l) (fld (outw s (halfOfLink l) e 1) 16 8) = true)
    (hg : gate s (pktTxn s l p .np .lockAcq (fld (outw s (halfOfLink l) e 1) 16 8) 4 [] false).sink = .pass)
    (hq : submitNp s (.link (tetherName s l) p.tag.toNat)
      { pktTxn s l p .np .lockAcq (fld (outw s (halfOfLink l) e 1) 16 8) 4 [] false with lock := false } 4
      [mkPart 0 4 (fld (outw s (halfOfLink l) e 1) 16 8)] = q)
    (hx : (q.2.fab.txns.find? fun y => y.req == q.1) = some x) :
    outAcquire s l p e =
      if x.reserved then
        semArrive (leftIngress (dropTxn q.2 x.id) x) (fld (outw s (halfOfLink l) e 1) 16 8) (tetherName s l) q.1
      else q.2 := by
  simp only [outAcquire, hb, hr, hg, hq, hx, Bool.not_true, Bool.false_eq_true, if_false]

end

theorem outRelease_held (hlock : lockPasses s (halfOfLink l) (tetherName s l) e = true)
    (hn : ofBytesLE (p.payload.take 4) % 256 = fld (outw s (halfOfLink l) e 1) 16 8) :
    outRelease s l p e = semRelease (creditBack s l p) (fld (outw s (halfOfLink l) e 1) 16 8) (tetherName s l) := by
  simp only [outRelease, hlock, hn, beq_self_eq_true, Bool.and_self, if_true]

end

/-! ### Capacity announcements (R147, R229) -/

theorem exec_capAnn_clean {l : LL} {p : Pkt} {s : State} (h : rxClean s l.val p) (hty : p.typ = 9) :
    exec (.capAnn l p) s = .next (rxCapAnn (rxTaken s l.val p) l.val p) := by
  rw [exec_pktRows (l := l) (by simp [pktRows]) (congrArg BitVec.toNat hty), rxPacket_clean h, hty]
  rfl

section
variable {s : State} {l : Nat} {p : Pkt}

theorem rxCapAnn_old (hold : annNewer (link s l) (ofBytesLE ((p.payload.drop 4).take 2)) = false) :
    rxCapAnn s l p = s := by
  simp only [rxCapAnn, hold, Bool.not_false, if_true]

theorem rxCapAnn_newer (hnew : annNewer (link s l) (ofBytesLE ((p.payload.drop 4).take 2)) = true) :
    rxCapAnn s l p =
      let cap := ofBytesLE (p.payload.take 4)
      let y := shRefill s (link s l)
      let s1 := updLink s l fun _ => { y with
        capacity := cap, annSeq := some (ofBytesLE ((p.payload.drop 4).take 2)), evt := y.evt ||| 32,
        shTok := if cap = 0xFFFFFFFF then none else some (y.shTok.getD 4096), shClk := s.clk,
        shFrac := if y.shTok.isSome then y.shFrac else 0 }
      c0Judge s1 s1.pwr.level := by
  simp only [rxCapAnn, hnew, Bool.not_true, Bool.false_eq_true, if_false]

end

/-! ### Completions (R136, R205, R210, R211, R310) -/

/-- No perturbation holds a completion, or one before it, back (R442). -/
theorem rxCpl_unheld {s : State} {l : Nat} {p : Pkt} (hslot : delaySlot s l = none)
    (hbehind : (s.test.delayed.any fun d => d.link.any fun x => x.1 == l) = false) : rxCpl s l p = cplNow s l p := by
  simp only [rxCpl, hslot, hbehind, Bool.false_eq_true, if_false]

theorem exec_dalfelCpl_clean {l : LL} {p : Pkt} {s : State} (h : rxClean s l.val p) (hty : p.typ = 3) :
    exec (.dalfelCpl l p) s = .next (rxCpl (rxTaken s l.val p) l.val p) := by
  rw [exec_pktRows (l := l) (by simp [pktRows]) (congrArg BitVec.toNat hty), rxPacket_clean h, hty]
  rfl

/-- What tag `tag` of link `l` stands for. -/
def tagUse (s : State) (l tag : Nat) : Option TagUse :=
  s.fab.tags.find? fun k => (k.side == linkSide (tetherName s l)) && k.tag == tag

/-- Tag `tag` of link `l` is in quarantine. -/
def tagQuarantined (s : State) (l tag : Nat) : Bool :=
  s.fab.quars.any fun q => (q.side == linkSide (tetherName s l)) && q.tag == tag

section
variable {s : State} {l : Nat} {p : Pkt}

theorem cplNow_quarantined (hnone : tagUse s l p.tag.toNat = none) (hq : tagQuarantined s l p.tag.toNat = true) :
    cplNow s l p =
      bump (logC s (halfOfLink l) 0x09 l (tag := p.tag.toNat)) 0x5E13 (hsub (halfOfLink l)) := by
  simp only [tagUse, tagQuarantined] at hnone hq
  simp only [cplNow, hnone, hq, if_true]

theorem cplNow_unknown (hnone : tagUse s l p.tag.toNat = none) (hq : tagQuarantined s l p.tag.toNat = false) :
    cplNow s l p =
      bump (logC s (halfOfLink l) 0x0A l (tag := p.tag.toNat)) 0x5E15 (hsub (halfOfLink l)) := by
  simp only [tagUse, tagQuarantined] at hnone hq
  simp only [cplNow, hnone, hq, Bool.false_eq_true, if_false]

/-- The last completion of a part, with good data: the tag is free and the part has its bytes. -/
theorem matchCpl_last {k : TagUse} (hst : cplStatus p = 0) (hpoison : p.poison = false) (hreq : k.req ≠ 0)
    (hrem : cplRemain p = 0) (hlen : partLack s k.req k.part ≤ p.len.toNat) :
    matchCpl s l p k = gotPart (freeTag s k.side k.tag) k.req k.part (p.payload.take (partLack s k.req k.part)) p.se
      (halfOfLink l) := by
  simp [matchCpl, hst, hpoison, hreq, hrem, hlen, onlyIf]

variable {k : TagUse} (hk : tagUse s l p.tag.toNat = some k)
include hk

theorem cplNow_ping (hp : k.ping = true) : cplNow s l p = pingAnswer s l k := by
  rw [tagUse] at hk
  simp only [cplNow, hk, hp, if_true]

theorem cplNow_frozen (hp : k.ping = false) (hf : isFrozen s (tetherName s l) = true) :
    cplNow s l p = bump s 0x8007 (5 + halfIdx (halfOfLink l)) := by
  rw [tagUse] at hk
  simp only [cplNow, hk, hp, hf, Bool.false_eq_true, if_false, if_true]

theorem cplNow_request (hp : k.ping = false) (hf : isFrozen s (tetherName s l) = false) :
    cplNow s l p = matchCpl s l p k := by
  rw [tagUse] at hk
  simp only [cplNow, hk, hp, hf, Bool.false_eq_true, if_false]

end

/-- Settles O33, from the lemmas above and those of the outbound entries. -/
theorem wordsLocksAnnouncementsAndCompletionsArrive : Obligations.WordsLocksAnnouncementsAndCompletionsArrive := by
  unfold Obligations.WordsLocksAnnouncementsAndCompletionsArrive
  refine ⟨fun l p s h hsink => ⟨exec_doorbell_flowed h,
      fun hty => ⟨fun hg => ?unmapped, fun g hg hd => ?mapped⟩,
      fun e he => ⟨fun hty hb => ?unbound, fun hty hb hr => ?unreachable, fun x hty hb hr hg hx => ?acquire,
        fun hty hlock hn => ?release⟩⟩,
    fun l p s h => ⟨fun hty => ⟨fun hold => ?annOld, fun hnew => ?annNewer⟩,
      fun hty hslot hbehind => ?completions⟩⟩
  case unmapped => rw [exec_state_flowed h hty, rxState_unmapped hg]
  case mapped => rw [exec_state_flowed h hty, rxState_mapped hg hd]
  case unbound => rw [exec_lockAcq_entry h hsink hty he, outAcquire_unbound hb]
  case unreachable => rw [exec_lockAcq_entry h hsink hty he, outAcquire_unreachable hb hr]
  case acquire =>
    rw [exec_lockAcq_entry h hsink hty he]
    exact congrArg Host.Outcome.next (outAcquire_reachable hb hr hg rfl hx)
  case release => rw [exec_lockRel_entry h hsink hty he, outRelease_held hlock hn]; rfl
  case annOld => rw [exec_capAnn_clean h hty, rxCapAnn_old hold]
  case annNewer => rw [exec_capAnn_clean h hty, rxCapAnn_newer hnew]
  case completions =>
    rw [exec_dalfelCpl_clean h hty, rxCpl_unheld hslot hbehind]
    refine ⟨fun k hk hp => ?ping, fun k hk hp hf => ?frozen, fun k hk hp hf hst hpoison hreq hrem hlen => ?last,
      fun hnone hq => ?quarantined, fun hnone hq => ?unknown⟩
    case ping => rw [cplNow_ping hk hp]; rfl
    case frozen => rw [cplNow_frozen hk hp hf]
    case last => rw [cplNow_request hk hp hf, matchCpl_last hst hpoison hreq hrem hlen]; rfl
    case quarantined => rw [cplNow_quarantined hnone hq]
    case unknown => rw [cplNow_unknown hnone hq]

end Sys2Proof.Machine
end

section
/-! ## Clock recovery, margins, detection and the training check of a lane (R64, R67, R69, R78, R126, R129, R140)

One equation per outcome of each command. -/

namespace Sys2Proof.Machine

/-! ### Host lanes (R57) -/

theorem isHostLane_eq_true {n : Nat} (h : 192 ≤ n) : isHostLane n = true := decide_eq_true h

theorem isHostLane_eq_false {n : Nat} (h : n < 192) : isHostLane n = false := decide_eq_false (Nat.not_le.mpr h)

/-! ### Margin readouts (R78) -/

/-- A lane whose readout stops before its end. -/
def marginStopped (x : LaneSt) : LaneSt :=
  { x with mrgBusy := false, mrgCtrl := x.mrgCtrl &&& 6, mrgRes := x.mrgRes ||| 0xC0000000, evt := x.evt ||| 0x40 }

theorem marginAbort_busy {s : State} {n : Nat} (h : (lane s n).mrgBusy = true) :
    marginAbort s n = updLane s n marginStopped := by
  simp only [marginAbort, h, if_true]
  rfl

theorem marginAbort_free {s : State} {n : Nat} (h : (lane s n).mrgBusy = false) : marginAbort s n = s := by
  simp only [marginAbort, h, Bool.false_eq_true, if_false]

theorem marginGo_busy {s : State} {n : Nat} (h : (lane s n).mrgBusy = true) (eye : Nat) : marginGo s n eye = s := by
  simp only [marginGo, h, if_true]

theorem marginGo_free {s : State} {n : Nat} (h : (lane s n).mrgBusy = false) (eye : Nat) :
    marginGo s n eye = updLane s n fun x =>
      { x with mrgBusy := true, mrgCtrl := BitVec.ofNat 32 (1 + 2 * eye), mrgRes := x.mrgRes &&& 0x7FFFFFFF } := by
  simp only [marginGo, h, Bool.false_eq_true, if_false]

theorem exec_marginStart_open {s : State} {p : Path} {n : LaneNo} (ho : regOpen s p (halfOfLane s n.val))
    (eye : BitVec 2) : exec (.marginStart p n eye) s = .next (marginGo s n.val eye.toNat) := by
  change execMarginStart p n eye s = _
  rw [execMarginStart, regAct_open ho]

theorem exec_marginDone_busy {s : State} {n : LaneNo} (h : (lane s n.val).mrgBusy = true)
    (left right : BitVec 6) (top bottom : BitVec 7) :
    exec (.marginDone n left right top bottom) s = .next (updLane s n.val fun x =>
      { x with
        mrgBusy := false, mrgCtrl := x.mrgCtrl &&& 6,
        mrgRes := BitVec.ofNat 32
          (left.toNat + right.toNat * 2 ^ 6 + top.toNat * 2 ^ 12 + bottom.toNat * 2 ^ 19 + 2 ^ 31) }) := by
  change execMarginDone n left right top bottom s = _
  simp only [execMarginDone, h, if_true]

theorem exec_marginDone_free {s : State} {n : LaneNo} (h : (lane s n.val).mrgBusy = false)
    (left right : BitVec 6) (top bottom : BitVec 7) :
    exec (.marginDone n left right top bottom) s = .next s := by
  change execMarginDone n left right top bottom s = _
  simp only [execMarginDone, h, Bool.false_eq_true, if_false]

theorem exec_laneMarginingCommand_host {n : LaneNo} (hhost : 192 ≤ n.val) (s : State) :
    exec (.laneMarginingCommand n) s = .next (marginAbort s n.val) := by
  change execLaneMarginingCommand n s = _
  simp only [execLaneMarginingCommand, isHostLane_eq_true hhost, if_true]

/-- Settles O9, from the equations above. -/
theorem marginReadoutRunsAndStops : Obligations.MarginReadoutRunsAndStops := by
  unfold Obligations.MarginReadoutRunsAndStops
  refine ⟨fun p n eye s ho => ⟨fun hbusy => ?again, fun hfree => ?starts⟩,
    fun n l r a b s => ⟨fun hbusy => ?ends, fun hfree => ?nothing⟩, fun n s hhost hbusy => ?stops⟩
  case again => rw [exec_marginStart_open ho, marginGo_busy hbusy]
  case starts => rw [exec_marginStart_open ho, marginGo_free hfree]
  case ends => exact exec_marginDone_busy hbusy l r a b
  case nothing => exact exec_marginDone_free hfree l r a b
  case stops => rw [exec_laneMarginingCommand_host hhost, marginAbort_busy hbusy]; rfl

/-! ### Clock recovery and adaptation (R67, R69) -/

/-- The loss of the clock is no matter of the readout: one in progress is still in progress after it. -/
theorem lane_clockLost_mrgBusy {s : State} (hw : Tab.wf LaneSt.reset s.lanes = true) (n : Nat) :
    (lane (updLane s n fun x => { x with cdr := false }) n).mrgBusy = (lane s n).mrgBusy := by
  rw [lane_updLane hw, if_pos rfl]

theorem exec_adapted_locked {s : State} {n : LaneNo} (hcdr : (lane s n.val).cdr = true) (d0 d1 d2 : W32)
    (c : BitVec 5) :
    exec (.adapted n d0 d1 d2 c) s = .next (updLane s n.val fun x =>
      if bit x.ctrl 3 then { x with adapt := true }
      else { x with adapt := true, dfe0 := d0, dfe1 := d1, dfe2 := d2, ctle := c.toNat }) := by
  change execAdapted n d0 d1 d2 c s = _
  simp only [execAdapted, hcdr, Bool.not_true, Bool.false_eq_true, if_false]

/-- Settles O1: a lost clock stops a readout exactly where one is in progress. -/
theorem laneClockRecoveryAndAdaptation : Obligations.LaneClockRecoveryAndAdaptation := by
  unfold Obligations.LaneClockRecoveryAndAdaptation
  refine ⟨fun n s => rfl, fun n s hw hfree => ?clockOnly, fun n s hw hbusy => ?readoutToo,
    fun n d0 d1 d2 c s hcdr => exec_adapted_locked hcdr d0 d1 d2 c⟩
  case clockOnly =>
    change execCdrLockLoss n s = _
    rw [execCdrLockLoss, marginAbort_free ((lane_clockLost_mrgBusy hw n.val).trans hfree)]
  case readoutToo =>
    change execCdrLockLoss n s = _
    rw [execCdrLockLoss, marginAbort_busy ((lane_clockLost_mrgBusy hw n.val).trans hbusy)]
    rfl

/-! ### Detection, the training check and the loss of signal (R64, R69, R126, R129, R140) -/

theorem exec_laneDetectStep_local {s : State} {n : LaneNo} {l : Nat} (hlocal : n.val < 192)
    (hl : laneLink s n.val = some l) (hst : (link s l).st = .detect) (hidle : (link s l).idle = false)
    (href : s.sys.lrefOk.getD (l / 48) true = true) (found : Bool) :
    let s1 := updLane s n.val fun x => { x with present := found }
    exec (.laneDetectStep n found) s =
      .next (if (lanesOf s1 l).all (fun k => (lane s1 k).present) && !(link s1 l).forceDown then
          updLink s1 l fun x => { x with st := .train, gen := attemptGen s1 l }
        else s1) := by
  change execLaneDetectStep n found s = _
  have hgo : ((link s l).st != .detect || (link s l).idle || !s.sys.lrefOk.getD (l / 48) true) = false := by
    simp only [hst, hidle, href]
    rfl
  simp only [execLaneDetectStep, isHostLane_eq_false hlocal, hl, hgo, Bool.false_eq_true, if_false]

theorem exec_laneDetectStep_host {s : State} {n : LaneNo} (hhost : 192 ≤ n.val)
    (hon : portsOn s (halfOfLane s n.val) = true) (hdl : (hl s (hlOfLane s n.val)).dlActive = false) (found : Bool) :
    exec (.laneDetectStep n found) s = .next (updLane s n.val fun x => { x with present := found }) := by
  change execLaneDetectStep n found s = _
  simp only [execLaneDetectStep, isHostLane_eq_true hhost, hon, hdl, Bool.not_false, Bool.and_true, if_true]

theorem exec_prbsCheckDone_adapted {s : State} {n : LaneNo} {l : Nat} (hl : laneLink s n.val = some l)
    (hst : (link s l).st = .train) (hadapt : (lane s n.val).adapt = true) (errors : Nat) :
    exec (.prbsCheckDone n errors) s =
      .next (if errors ≤ (if (link s l).gen = 1 then 0 else 160) then
          updLane s n.val fun x => { x with rxReady := true }
        else s) := by
  change execPrbsCheckDone n errors s = _
  simp only [execPrbsCheckDone, hl, hst, hadapt, beq_self_eq_true, Bool.true_and, decide_eq_true_eq]

/-- A lost signal, on a lane of a sub-link: an attempt in Train fails, later the lane's locks are lost. -/
theorem exec_signalLoss_link {s : State} {n : LaneNo} {l : Nat} (hl : laneLink s n.val = some l) :
    let s1 := updLane s n.val fun x => { x with sig := false }
    exec (.signalLoss n) s = .next (if (link s l).st == .train then failTrain s1 l else lockLost s1 l) := by
  intro s1
  change execSignalLoss n s = _
  have hl1 : laneLink s1 n.val = some l := hl
  rw [execSignalLoss, hl1]
  rfl

theorem lockLost_detect {s : State} {l : Nat} (hst : (link s l).st = .detect) : lockLost s l = s := by
  simp only [lockLost, hst]

theorem lockLost_exchange {s : State} {l : Nat} (hst : (link s l).st = .exchange) :
    lockLost s l = failAttempt s l (some 5) (some 5) := by
  simp only [lockLost, hst]

/-- Settles O2, from the equations above. -/
theorem laneDetectionAndTrainingChecks : Obligations.LaneDetectionAndTrainingChecks := by
  unfold Obligations.LaneDetectionAndTrainingChecks
  refine ⟨fun n found l s hlocal hl hst hidle href => exec_laneDetectStep_local hlocal hl hst hidle href found,
    fun n found s hhost hon hdl => exec_laneDetectStep_host hhost hon hdl found,
    fun n errors l s hl hst hadapt => exec_prbsCheckDone_adapted hl hst hadapt errors,
    fun n l s hl => ⟨fun hst => ?detect, fun hst => ?train, fun hst => ?exchange⟩⟩
  case detect =>
    rw [exec_signalLoss_link hl, hst]
    exact congrArg Host.Outcome.next (lockLost_detect hst)
  case train => rw [exec_signalLoss_link hl, hst]; rfl
  case exchange =>
    rw [exec_signalLoss_link hl, hst]
    exact congrArg Host.Outcome.next (lockLost_exchange hst)

end Sys2Proof.Machine
end

section
/-! ## Training frames (R68, R127 to R129)

A frame of a lane in Train, received or sent: one equation per outcome. -/

namespace Sys2Proof.Machine

/-- R128's conditions on the sub-link itself: READY, ACK, and the partner's words on every lane. -/
def exitHolds (s : State) (l : Nat) : Bool := ownReady s l && ownAck s l && partnerReady s l

/-- The state after a training status word of READY, ACK and GEN over its complement has been sent. -/
def wordSent (s : State) (l i : Nat) : State :=
  let low := flag (ownReady s l) 0 + flag (ownAck s l) 1 + (link s l).gen * 4
  emit s (.training l i (BitVec.ofNat 64 (low + (65535 - low) * 65536)))

/-- Sending a word is no matter of R128's conditions. -/
theorem exitHolds_wordSent (s : State) (k j m : Nat) : exitHolds (wordSent s k j) m = exitHolds s m := rfl

section
variable {l : LL} {i : Fin 4} {s : State} (hl : laneLink s l.val = some l.val) (hst : (link s l.val).st = .train)
  (hi : i.val < linkLanes s l.val)
include hl hst hi

/-- A lane of a sub-link in Train: neither command on its frames is turned away. -/
theorem inTrain_notIgnored :
    (laneLink s l.val != some l.val || (link s l.val).st != .train || decide (linkLanes s l.val ≤ i.val)) = false := by
  simp only [hl, hst, decide_eq_false (Nat.not_le.mpr hi), bne_self_eq_false, Bool.or_self]

/-! ### A frame received (R68, R127, R129) -/

section
variable {w : W64}

theorem exec_trainingFrame_inverted (hfree : bit (lane s (l.val + i.val)).ctrl 8 = false) (marker : Bool) :
    exec (.trainingFrame l i w marker true) s =
      .next (updLane s (l.val + i.val) fun x => { x with inv := !x.inv }) := by
  change execTrainingFrame l i w marker true s = _
  simp only [execTrainingFrame, inTrain_notIgnored hl hst hi, hfree, Bool.not_false, Bool.and_true,
    Bool.false_eq_true, if_false, if_true]

theorem exec_trainingFrame_noWord {marker : Bool} (hno : marker = false ∨ statusValid w = false) :
    exec (.trainingFrame l i w marker false) s = .next s := by
  change execTrainingFrame l i w marker false s = _
  have hskip : (!marker || !statusValid w) = true := by simpa using hno
  simp [execTrainingFrame, inTrain_notIgnored hl hst hi, hskip]

theorem exec_trainingFrame_otherGen (hvalid : statusValid w = true) (hgen : fld w 2 3 ≠ (link s l.val).gen) :
    exec (.trainingFrame l i w true false) s = .next (failTrain s l.val) := by
  change execTrainingFrame l i w true false s = _
  simp [execTrainingFrame, inTrain_notIgnored hl hst hi, hvalid, hgen]

theorem exec_trainingFrame_gathers (hvalid : statusValid w = true) (hgen : fld w 2 3 = (link s l.val).gen) :
    exec (.trainingFrame l i w true false) s = .next (updLink s l.val fun x => { x with
      rdySeen := x.rdySeen.mapIdx fun j b => b || (j == i.val && bit w 0)
      rdyCount := x.rdyCount.mapIdx fun j c =>
        if j == i.val then (if 4 ≤ c then c else if bit w 0 && bit w 1 then c + 1 else 0) else c }) := by
  change execTrainingFrame l i w true false s = _
  simp [execTrainingFrame, inTrain_notIgnored hl hst hi, hvalid, hgen]

end

/-! ### A frame sent (R127, R128) -/

theorem exec_trainingFrameSent_word (hno : exitHolds s l.val = false) :
    exec (.trainingFrameSent l i) s = .next (wordSent s l.val i.val) := by
  change execTrainingFrameSent l i s = _
  rw [← exitHolds_wordSent s l.val i.val] at hno
  simp only [exitHolds, wordSent] at hno
  simp only [execTrainingFrameSent, inTrain_notIgnored hl hst hi, hno, Bool.false_eq_true, if_false, wordSent]

theorem exec_trainingFrameSent_counts (hyes : exitHolds s l.val = true) :
    let s2 := updLink (wordSent s l.val i.val) l.val fun x =>
      { x with sentAck := setAt x.sentAck i.val (x.sentAck.getD i.val 0 + 1) }
    exec (.trainingFrameSent l i) s = .next
      (if (List.range (linkLanes s l.val)).all (fun j => decide (16 ≤ (link s2 l.val).sentAck.getD j 0)) then
        enterLock s2 l.val
      else s2) := by
  change execTrainingFrameSent l i s = _
  rw [← exitHolds_wordSent s l.val i.val] at hyes
  simp only [exitHolds, wordSent] at hyes
  simp only [execTrainingFrameSent, inTrain_notIgnored hl hst hi, hyes, Bool.false_eq_true, if_false, if_true, wordSent]
  rfl

end

/-- Settles O4, from the equations above. -/
theorem trainingFramesExchangeReadyAndAck : Obligations.TrainingFramesExchangeReadyAndAck := by
  unfold Obligations.TrainingFramesExchangeReadyAndAck
  refine ⟨fun l i w mk inverted s hl hst hi => ⟨?inverted, ?noWord, ?otherGen, ?gathers⟩,
    fun l i s hl hst hi => ⟨?word, ?counts⟩⟩
  case inverted => rintro rfl hfree; exact exec_trainingFrame_inverted hl hst hi hfree mk
  case noWord => rintro rfl hno; exact exec_trainingFrame_noWord hl hst hi hno
  case otherGen => rintro rfl rfl hvalid hgen; exact exec_trainingFrame_otherGen hl hst hi hvalid hgen
  case gathers => rintro rfl rfl hvalid hgen; exact exec_trainingFrame_gathers hl hst hi hvalid hgen
  case word => exact fun hno => exec_trainingFrameSent_word hl hst hi hno
  case counts => exact fun hyes => exec_trainingFrameSent_counts hl hst hi hyes

end Sys2Proof.Machine
end

section
/-! ## The locks of a local lane (R61, R70 to R75, R79, R442)

Codeword lock, block lock and alignment lock: what each thing received does to the lane, one equation per outcome. -/

namespace Sys2Proof.Machine

/-- Two changes of a lane that agree on what it holds are one change. -/
theorem updLane_congr {s : State} {n : Nat} {f g : LaneSt → LaneSt} (hfg : f (lane s n) = g (lane s n)) :
    updLane s n f = updLane s n g :=
  congrArg (fun x => { s with lanes := Tab.set LaneSt.reset s.lanes n x }) hfg

/-! ### Codewords (R61, R70, R442) -/

/-- A codeword reaches a local lane's lock (R70). -/
def laneCodeword (unc : Bool) (corr : Nat) (x : LaneSt) : LaneSt :=
  if x.cwLock then
    if unc then
      if 4 ≤ x.cwBad + 1 then
        { x with fecUnc := (x.fecUnc + 1) % 2 ^ 64, cwLock := false, cwGood := 0, cwBad := 0, evt := x.evt ||| 1 }
      else { x with fecUnc := (x.fecUnc + 1) % 2 ^ 64, cwBad := x.cwBad + 1 }
    else { x with fecCorr := (x.fecCorr + corr) % 2 ^ 64, cwBad := 0 }
  else if unc then { x with cwGood := 0 }
  else if 3 ≤ x.cwGood + 1 then { x with cwLock := true, cwGood := 0, cwBad := 0 }
  else { x with cwGood := x.cwGood + 1 }

theorem codewordGot_local {n : Nat} (hlocal : n < 192) (s : State) (unc : Bool) (corr : Nat) :
    codewordGot s n unc corr = updLane s n (laneCodeword unc corr) := by
  simp only [codewordGot, isHostLane_eq_false hlocal, Bool.false_eq_true, if_false]
  rfl

section
variable {x : LaneSt} (hlock : x.cwLock = true)
include hlock

theorem laneCodeword_good (corr : Nat) :
    laneCodeword false corr x = { x with fecCorr := (x.fecCorr + corr) % 2 ^ 64, cwBad := 0 } := by
  simp only [laneCodeword, hlock, Bool.false_eq_true, if_false, if_true]

theorem laneCodeword_bad (hbad : x.cwBad < 3) (corr : Nat) :
    laneCodeword true corr x = { x with fecUnc := (x.fecUnc + 1) % 2 ^ 64, cwBad := x.cwBad + 1 } := by
  have hfew : ¬ 4 ≤ x.cwBad + 1 := by omega
  simp only [laneCodeword, hlock, hfew, if_false, if_true]

theorem laneCodeword_fourthBad (hbad : 3 ≤ x.cwBad) (corr : Nat) :
    laneCodeword true corr x =
      { x with fecUnc := (x.fecUnc + 1) % 2 ^ 64, cwLock := false, cwGood := 0, cwBad := 0, evt := x.evt ||| 1 } := by
  have hfour : 4 ≤ x.cwBad + 1 := by omega
  simp only [laneCodeword, hlock, hfour, if_true]

end

section
variable {x : LaneSt} (hhunt : x.cwLock = false)
include hhunt

theorem laneCodeword_huntBad (corr : Nat) : laneCodeword true corr x = { x with cwGood := 0 } := by
  simp only [laneCodeword, hhunt, Bool.false_eq_true, if_false, if_true]

theorem laneCodeword_huntThird (hgood : 2 ≤ x.cwGood) (corr : Nat) :
    laneCodeword false corr x = { x with cwLock := true, cwGood := 0, cwBad := 0 } := by
  have hthree : 3 ≤ x.cwGood + 1 := by omega
  simp only [laneCodeword, hhunt, hthree, Bool.false_eq_true, if_false, if_true]

theorem laneCodeword_huntGood (hgood : x.cwGood < 2) (corr : Nat) :
    laneCodeword false corr x = { x with cwGood := x.cwGood + 1 } := by
  have hfew : ¬ 3 ≤ x.cwGood + 1 := by omega
  simp only [laneCodeword, hhunt, hfew, Bool.false_eq_true, if_false]

end

section
variable {n : LaneNo} {l : Nat} {s : State} (hlocal : n.val < 192) (hl : laneLink s n.val = some l)
  (hup : pastTrain (link s l) = true) (hfec : laneFec s n.val = true)
include hlocal hl hup hfec

/-- No slot damages the lane's codewords: the decoder finds what is on the line. -/
theorem exec_codewordReceive_undamaged (hd : damageSlot s n.val = none) (unc : Bool) (corr : Nat) :
    exec (.codewordReceive n unc corr) s = .next (codewordGot s n.val unc corr) := by
  change execCodewordReceive n unc corr s = _
  simp only [execCodewordReceive, isHostLane_eq_false hlocal, hl, hup, hfec, hd, Bool.not_true, Bool.or_self,
    Bool.false_eq_true, if_false]

section
variable {i : Nat} (hd : damageSlot s n.val = some i)
include hd

/-- A kind 3 slot counts the codeword and lets it pass. -/
theorem exec_codewordReceive_spared (hact : (everyNth s i).1 = false) (unc : Bool) (corr : Nat) :
    exec (.codewordReceive n unc corr) s = .next (codewordGot (everyNth s i).2 n.val unc corr) := by
  change execCodewordReceive n unc corr s = _
  simp only [execCodewordReceive, isHostLane_eq_false hlocal, hl, hup, hfec, hd, hact, Bool.not_true, Bool.or_self,
    Bool.false_and, Bool.or_false, Bool.false_eq_true, if_false]

/-- A kind 3 slot damages the codeword: P1 further symbols, uncorrectable beyond the code's reach. -/
theorem exec_codewordReceive_damaged (hact : (everyNth s i).1 = true) (unc : Bool) (corr : Nat) :
    exec (.codewordReceive n unc corr) s = .next (codewordGot (everyNth s i).2 n.val
      (unc || decide (fecT s n.val < corr + tpw s i 2)) (corr + tpw s i 2)) := by
  change execCodewordReceive n unc corr s = _
  simp only [execCodewordReceive, isHostLane_eq_false hlocal, hl, hup, hfec, hd, hact, Bool.not_true, Bool.or_self,
    Bool.true_and, Bool.false_eq_true, if_false, if_true]

end

end

/-- Settles O5, from the equations above. -/
theorem codewordLockCounts : Obligations.CodewordLockCounts := by
  unfold Obligations.CodewordLockCounts
  intro n unc corr l s hlocal hl hup hfec run x
  have hrun {f : LaneSt → LaneSt} (hf : laneCodeword unc corr x = f x) : run f :=
    (codewordGot_local hlocal s unc corr).trans (updLane_congr hf)
  refine ⟨fun hd => ?undamaged, fun i hd => ⟨fun hact => ?spared, fun hact => ?damaged⟩, ?good, ?bad, ?fourthBad,
    ?huntBad, ?huntThird, ?huntGood⟩
  case undamaged => exact exec_codewordReceive_undamaged hlocal hl hup hfec hd unc corr
  case spared => exact exec_codewordReceive_spared hlocal hl hup hfec hd hact unc corr
  case damaged => exact exec_codewordReceive_damaged hlocal hl hup hfec hd hact unc corr
  case good => rintro hlock rfl; exact hrun (laneCodeword_good hlock corr)
  case bad => rintro hlock rfl hbad; exact hrun (laneCodeword_bad hlock hbad corr)
  case fourthBad => rintro hlock rfl hbad; exact hrun (laneCodeword_fourthBad hlock hbad corr)
  case huntBad => rintro hhunt rfl; exact hrun (laneCodeword_huntBad hhunt corr)
  case huntThird => rintro hhunt rfl hgood; exact hrun (laneCodeword_huntThird hhunt hgood corr)
  case huntGood => rintro hhunt rfl hgood; exact hrun (laneCodeword_huntGood hhunt hgood corr)

/-! ### Block headers (R70, R71, R75) -/

section
variable {x : LaneSt} (hhunt : x.blkLock = false)
include hhunt

theorem blockHeader_huntValid (hgood : x.blkGood < 63) :
    blockHeader x true = ({ x with blkGood := x.blkGood + 1 }, false) := by
  have hfew : ¬ 64 ≤ x.blkGood + 1 := by omega
  simp only [blockHeader, hhunt, hfew, Bool.not_true, Bool.false_eq_true, if_false, if_true]

theorem blockHeader_hunt64th (hgood : 63 ≤ x.blkGood) :
    blockHeader x true = ({ x with blkLock := true, blkGood := 0, blkWin := 0 }, false) := by
  have hall : 64 ≤ x.blkGood + 1 := by omega
  simp only [blockHeader, hhunt, hall, Bool.not_true, Bool.false_eq_true, if_false, if_true]

theorem blockHeader_huntInvalid :
    blockHeader x false = ({ x with hdrErr := sat32 (x.hdrErr + 1), blkGood := 0 }, false) := by
  simp only [blockHeader, hhunt, Bool.not_false, Bool.false_eq_true, if_false, if_true]

end

theorem blockHeader_16thInvalid {x : LaneSt} (hlock : x.blkLock = true)
    (hmany : 16 ≤ ones64 ((x.blkWin * 2 + 1) % 2 ^ 64)) :
    blockHeader x false = ({ x with hdrErr := sat32 (x.hdrErr + 1), blkLock := false, blkGood := 0, blkWin := 0,
                                    evt := x.evt ||| 2 }, true) := by
  simp only [blockHeader, hlock, hmany, Bool.false_eq_true, if_false, if_true]

section
variable {l : LL} {i : Fin 4} {s : State} (hl : laneLink s l.val = some l.val) (hup : pastTrain (link s l.val) = true)
  (hi : i.val < linkLanes s l.val)
include hl hup hi

/-- A lane of a sub-link past Train: what it receives is not turned away. -/
theorem pastTrain_notIgnored :
    (laneLink s l.val != some l.val || !pastTrain (link s l.val) || decide (linkLanes s l.val ≤ i.val)) = false := by
  simp only [hl, hup, decide_eq_false (Nat.not_le.mpr hi), bne_self_eq_false, Bool.not_true, Bool.or_self]

/-- A data block on a lane whose codewords are good: the header counts and the content goes into BIP-8. -/
theorem exec_blockReceive_data
    (hcw : laneFec s (l.val + i.val) = true →
      (lane s (l.val + i.val)).cwLock = true ∧ (lane s (l.val + i.val)).cwBad = 0)
    (hkeep : (blockHeader (lane s (l.val + i.val)) true).2 = false) (c : W64) :
    exec (.blockReceive l i 1 c false) s = .next (updLane s (l.val + i.val) fun _ =>
      let y := (blockHeader (lane s (l.val + i.val)) true).1
      { y with bip := y.bip ^^^ xorBytes c }) := by
  change execBlockReceive l i 1 c false s = _
  have hgood : (laneFec s (l.val + i.val) &&
      (!(lane s (l.val + i.val)).cwLock || (lane s (l.val + i.val)).cwBad != 0)) = false := by
    cases hfec : laneFec s (l.val + i.val) with
    | false => rfl
    | true => simp [hcw hfec]
  have hnoControl : ((1 : BitVec 2) == 2) = false := rfl
  simp only [execBlockReceive, pastTrain_notIgnored hl hup hi, hgood, hnoControl, hkeep, onlyIf, beq_self_eq_true,
    Bool.true_or, Bool.false_and, Bool.false_eq_true, if_false]

/-! ### ALIGN markers (R72 to R74) -/

section
variable (hblk : (lane s (l.val + i.val)).blkLock = true)
include hblk

/-- A lane with block lock: a marker is not turned away. -/
theorem align_notIgnored :
    (laneLink s l.val != some l.val || !pastTrain (link s l.val) || decide (linkLanes s l.val ≤ i.val) ||
      !(lane s (l.val + i.val)).blkLock) = false := by
  rw [pastTrain_notIgnored hl hup hi, hblk]
  rfl

section
variable {c : W64} (hal : (lane s (l.val + i.val)).aligned = true)
include hal

theorem exec_align_expected (hok : alignValid (widthCode s l.val) c = true)
    (hidx : fld c 12 2 = (lane s (l.val + i.val)).logical) (skew : Nat) :
    ∃ e, exec (.align l i c skew) s = .next (updLane s (l.val + i.val) fun _ =>
      { lane s (l.val + i.val) with bip := 0, bipErr := e, skew := skew, alnSeq := 0 }) := by
  change ∃ e, execAlign l i c skew s = _
  simp only [execAlign, align_notIgnored hl hup hi hblk, hal, hok, hidx, beq_self_eq_true, Bool.and_self,
    Bool.false_eq_true, if_false, if_true]
  exact ⟨_, rfl⟩

section
variable (hno : alignValid (widthCode s l.val) c = false)
include hno

theorem exec_align_missed (hmiss : (lane s (l.val + i.val)).alnSeq < 3) (skew : Nat) :
    exec (.align l i c skew) s = .next (updLane s (l.val + i.val) fun _ =>
      { lane s (l.val + i.val) with bip := 0, skew := skew, alnSeq := (lane s (l.val + i.val)).alnSeq + 1 }) := by
  change execAlign l i c skew s = _
  have hfew : ¬ 4 ≤ (lane s (l.val + i.val)).alnSeq + 1 := by omega
  simp only [execAlign, align_notIgnored hl hup hi hblk, hal, hno, hfew, Bool.false_and, Bool.false_eq_true,
    if_false, if_true]

theorem exec_align_fourthMiss (hmiss : 3 ≤ (lane s (l.val + i.val)).alnSeq) (skew : Nat) :
    exec (.align l i c skew) s = .next (lockLost (updLane s (l.val + i.val) fun _ =>
      { lane s (l.val + i.val) with
        bip := 0, skew := skew, aligned := false, alnSeq := 0, evt := (lane s (l.val + i.val)).evt ||| 4 }) l.val) := by
  change execAlign l i c skew s = _
  have hfour : 4 ≤ (lane s (l.val + i.val)).alnSeq + 1 := by omega
  simp only [execAlign, align_notIgnored hl hup hi hblk, hal, hno, hfour, Bool.false_and, Bool.false_eq_true,
    if_false, if_true]

end

end

section
variable {c : W64} (hhunt : (lane s (l.val + i.val)).aligned = false)
include hhunt

theorem exec_align_second (hok : alignValid (widthCode s l.val) c = true)
    (hseq : (lane s (l.val + i.val)).alnSeq = 1) (hidx : fld c 12 2 = (lane s (l.val + i.val)).logical) (skew : Nat) :
    exec (.align l i c skew) s = .next (deskew (updLane s (l.val + i.val) fun _ =>
      { lane s (l.val + i.val) with bip := 0, skew := skew, aligned := true, alnSeq := 0 }) l.val) := by
  change execAlign l i c skew s = _
  simp only [execAlign, align_notIgnored hl hup hi hblk, hhunt, hok, hseq, hidx, Bool.and_false, Bool.not_true,
    decide_true, beq_self_eq_true, Bool.and_self, Bool.false_eq_true, if_false, if_true]

theorem exec_align_first (hok : alignValid (widthCode s l.val) c = true)
    (hseq : (lane s (l.val + i.val)).alnSeq = 0) (skew : Nat) :
    exec (.align l i c skew) s = .next (updLane s (l.val + i.val) fun _ =>
      { lane s (l.val + i.val) with bip := 0, skew := skew, alnSeq := 1, logical := fld c 12 2 }) := by
  change execAlign l i c skew s = _
  have hnotSecond : ¬ (0 : Nat) = 1 := by decide
  simp only [execAlign, align_notIgnored hl hup hi hblk, hhunt, hok, hseq, hnotSecond, Bool.and_false, Bool.not_true,
    decide_false, Bool.false_and, Bool.false_eq_true, if_false]

theorem exec_align_invalid (hno : alignValid (widthCode s l.val) c = false) (skew : Nat) :
    exec (.align l i c skew) s = .next (updLane s (l.val + i.val) fun _ =>
      { lane s (l.val + i.val) with bip := 0, skew := skew, alnSeq := 0 }) := by
  change execAlign l i c skew s = _
  simp only [execAlign, align_notIgnored hl hup hi hblk, hhunt, hno, Bool.and_false, Bool.not_false,
    Bool.false_eq_true, if_false, if_true]

end

end

end

/-- Settles O6, from the equations above. -/
theorem blockAndAlignmentLock : Obligations.BlockAndAlignmentLock := by
  unfold Obligations.BlockAndAlignmentLock
  refine ⟨fun x hhunt => ⟨fun hgood => ?valid, fun hgood => ?sixtyFourth, ?invalid⟩,
    fun x hlock hmany => blockHeader_16thInvalid hlock hmany,
    fun l i c s hl hup hi hcw hkeep => exec_blockReceive_data hl hup hi hcw hkeep c,
    fun l i c skew s hl hup hi hblk => ⟨fun hal hok hidx => ?expected, fun hal hno hmiss => ?missed,
      fun hal hno hmiss => ?fourthMiss, fun hhunt hok hseq hidx => ?second, fun hhunt hok hseq => ?first,
      fun hhunt hno => ?hunting⟩⟩
  case valid => rw [blockHeader_huntValid hhunt hgood]
  case sixtyFourth => rw [blockHeader_hunt64th hhunt hgood]
  case invalid => rw [blockHeader_huntInvalid hhunt]
  case expected => exact exec_align_expected hl hup hi hblk hal hok hidx skew
  case missed => exact exec_align_missed hl hup hi hblk hal hno hmiss skew
  case fourthMiss => exact exec_align_fourthMiss hl hup hi hblk hal hno hmiss skew
  case second => exact exec_align_second hl hup hi hblk hhunt hok hseq hidx skew
  case first => exact exec_align_first hl hup hi hblk hhunt hok hseq skew
  case hunting => exact exec_align_invalid hl hup hi hblk hhunt hno skew

end Sys2Proof.Machine
end

section
/-! ## Writes without privilege (R92, R320, R347)

Each privileged row is a register write, or a register or object write, at its own address; what such a write does
from a view without privilege does not depend on the operation behind it. -/

namespace Sys2Proof.Machine

/-! ### A write refused for want of privilege, whatever the operation -/

theorem regAct_shut {s : State} {p : Path} (hs : regShut s p) (off : Nat) (h : Half) (f : State → State) :
    regAct s p off h f = deny s p (denyReg p off) := by
  obtain ⟨hawake, hpath, hlive, hserved, hpriv⟩ := hs
  exact regAct_denied hawake hpath hlive hserved hpriv off f

theorem objAct_shut {s : State} {p : Path} {idx : Nat} (hs : objShut s p idx) (sub : Nat) (h : Half)
    (f : State → State) : objAct s p idx sub h f = deny s p (denyObj p idx sub) := by
  obtain ⟨hawake, hpath, hlive, hrun, harea, hpriv⟩ := hs
  cases p <;> simp_all [objAct, objPath, accessWake_awake]

theorem regOrObj_reg (s : State) (k : HL) (g : Fn) (off idx sub : Nat) (h : Half) (f : State → State) :
    regOrObj s (.reg k g) off idx sub h f = regAct s (.reg k g) off h f := rfl

theorem regOrObj_obj {p : Path} (hp : objPath p = true) (s : State) (off idx sub : Nat) (h : Half)
    (f : State → State) : regOrObj s p off idx sub h f = objAct s p idx sub h f := by
  cases p with
  | reg k g => exact absurd hp Bool.false_ne_true
  | mbx m => rfl
  | field n => rfl
  | steward h => rfl

/-! ### The rows -/

/-- Every row of the registers is a register write at its offset. -/
theorem exec_privRegRow {p : Path} {l : LL} {n : LaneNo} {m : HL} {f : Fn} {q : DQ} {e : SE} {h : Half} {v : Bool}
    {c : BitVec 14} {i : Instr} {off : Nat} (hrow : privRegRow p l n m f q e h v c i off) (s : State) :
    ∃ k act, exec i s = .next (regAct s p off k act) := by
  rcases hrow with ⟨rfl, rfl⟩ | ⟨rfl, rfl⟩ | ⟨rfl, rfl⟩ | ⟨rfl, rfl⟩ | ⟨rfl, rfl⟩ | ⟨rfl, rfl⟩ | ⟨rfl, rfl⟩ |
    ⟨rfl, rfl⟩ | ⟨rfl, rfl⟩ | ⟨rfl, rfl⟩ | ⟨rfl, rfl⟩ | ⟨rfl, rfl⟩ | ⟨rfl, rfl⟩ | ⟨rfl, rfl⟩ | ⟨rfl, rfl⟩ |
    ⟨rfl, rfl⟩ | ⟨rfl, rfl⟩ | ⟨rfl, rfl⟩ | ⟨rfl, rfl⟩ | ⟨rfl, rfl⟩ | ⟨rfl, rfl⟩ | ⟨rfl, rfl⟩ | ⟨rfl, rfl⟩ <;>
  exact ⟨_, _, rfl⟩

/-- Every row with a register and an object is a write of whichever the path reaches. -/
theorem exec_privBothRow {p : Path} {l : LL} {g : MG} {n : ES} {h : Half} {v : Bool} {c : BitVec 14} {i : Instr}
    {off idx sub : Nat} (hrow : privBothRow p l g n h v c i off idx sub) (s : State) :
    ∃ k act, exec i s = .next (regOrObj s p off idx sub k act) := by
  rcases hrow with ⟨rfl, rfl, rfl, rfl⟩ | ⟨rfl, rfl, rfl, rfl⟩ | ⟨rfl, rfl, rfl, rfl⟩ | ⟨rfl, rfl, rfl, rfl⟩ |
    ⟨rfl, rfl, rfl, rfl⟩ | ⟨rfl, rfl, rfl, rfl⟩ <;>
  exact ⟨_, _, rfl⟩

/-! ### The denial -/

/-- The denial is counted and remembered in the dictionary that serves the path's half: half B's own where there is
one. -/
theorem deny_eq (s : State) (p : Path) (code : Nat) : deny s p code =
    if ownB s = true ∧ pathHalf s p = .b
    then { s with dictB := { s.dictB with denied := min 0xFFFFFFFF (s.dictB.denied + 1), privLast := code } }
    else { s with dict := { s.dict with denied := min 0xFFFFFFFF (s.dict.denied + 1), privLast := code } } := by
  simp only [deny, updDict, Bool.and_eq_true, beq_iff_eq]

/-- Settles O52: every row is a write at its address, and such a write leaves the denial. -/
theorem unprivilegedWritesOnlyLeaveADenial : Obligations.UnprivilegedWritesOnlyLeaveADenial := by
  unfold Obligations.UnprivilegedWritesOnlyLeaveADenial
  refine ⟨fun p s l n m f q e h v c i off hshut hrow => ?register,
    fun p s l g n h v c i off idx sub hrow => ⟨fun hreg hshut => ?bothRegister, fun hshut => ?bothObject⟩,
    fun p s => deny_eq s p⟩
  case register =>
    obtain ⟨k, act, hexec⟩ := exec_privRegRow hrow s
    rw [hexec, regAct_shut hshut]
  case bothRegister =>
    obtain ⟨k, act, hexec⟩ := exec_privBothRow hrow s
    obtain ⟨m, f, rfl⟩ := hreg
    rw [hexec, regOrObj_reg, regAct_shut hshut]
  case bothObject =>
    obtain ⟨k, act, hexec⟩ := exec_privBothRow hrow s
    have ⟨_, hpath, _⟩ := hshut
    rw [hexec, regOrObj_obj hpath, objAct_shut hshut]

end Sys2Proof.Machine
end

section
/-! ## Event messages (R114, R293 to R295)

A message formed, its outcome at the commit point, and the end of a hold-off: one equation per outcome. -/

namespace Sys2Proof.Machine

/-! ### Formed (R293) -/

theorem exec_hostMessageForm_stays {n : ES} {s : State} (hno : mayForm s n.val = false) :
    exec (.hostMessageForm n) s = .next s := by
  change execHostMessageForm n s = _
  rw [execHostMessageForm, hno, onlyIf_false]

theorem exec_hostMessageForm_forms {n : ES} {s : State} (hyes : mayForm s n.val = true) :
    exec (.hostMessageForm n) s = .next (formMessage s n.val) := by
  change execHostMessageForm n s = _
  rw [execHostMessageForm, hyes, onlyIf_true]

/-! ### Committed (R114, R294) -/

/-- The source is idle again, its counter at `c`, or as it stood. -/
def srcDone (s : State) (n : Nat) (c : Option Nat) : State :=
  updSrc s n fun x => { x with pos := .idle, count := c.getD x.count }

/-- The form a message was made for, MSI-X for an odd `k`, is the one the function has enabled. -/
def formEnabled (s : State) (f k : Nat) : Bool := if k % 2 = 1 then msixEn s f else !msixEn s f && msiEn s f

theorem exec_hostMessageCommit_formed {n : ES} {k : Nat} {t : Txn} {s : State}
    (ht : (s.fab.txns.find? fun t => t.op == .message n.val) = some t) (hk : (src s n.val).pos = .formed k)
    (hfence : t.fenceOk = true) (hfree : egressBlocked s t = false)
    (hup : (hl s (srcFnNow s n.val / 64)).dlActive = true) :
    exec (.hostMessageCommit n) s = .next (messageOutcome (dropTxn s t.id) n.val k) := by
  change execHostMessageCommit n s = _
  simp only [execHostMessageCommit, ht, hk, hfence, hfree, hup, Bool.not_false, Bool.and_self, if_true]

section
variable {s : State} {n k : Nat}

theorem messageOutcome_held (hoff : masterOn s (srcFnNow s n) = false) :
    messageOutcome s n k = updFn s (srcFnNow s n) fun x => { x with held := x.held ++ [(n + 1, k)] } := by
  simp only [messageOutcome, hoff, Bool.not_false, if_true]

variable (hon : masterOn s (srcFnNow s n) = true)
include hon

theorem messageOutcome_discarded (hform : formEnabled s (srcFnNow s n) k = false) :
    messageOutcome s n k = intxUpdate (srcDone s n (some 1)) (srcFnNow s n / 64) := by
  rw [formEnabled] at hform
  simp only [messageOutcome, hon, hform, Bool.not_true, Bool.not_false, Bool.false_eq_true, if_false, if_true]
  rfl

variable (hform : formEnabled s (srcFnNow s n) k = true)
include hform

theorem messageOutcome_pended (hmask : vecMasked s (srcFnNow s n) (k / 2) = true) :
    messageOutcome s n k =
      bump (setPba (srcDone s n none) (srcFnNow s n) (k / 2) true) 0x6C26 (hsub (halfOfSrc n)) := by
  rw [formEnabled] at hform
  simp only [messageOutcome, hon, hform, hmask, Bool.not_true, Bool.false_eq_true, if_false, if_true]
  rfl

theorem messageOutcome_sent (hmask : vecMasked s (srcFnNow s n) (k / 2) = false) :
    messageOutcome s n k = startHoldoff (sendVec (srcDone s n none) (srcFnNow s n) (k / 2)) n := by
  rw [formEnabled] at hform
  simp only [messageOutcome, hon, hform, hmask, Bool.not_true, Bool.false_eq_true, if_false]
  rfl

end

/-! ### The end of a hold-off (R295) -/

theorem exec_holdoffEnd_none {g : SG} {s : State} (hnot : Tab.get false s.evc.hold g.val = false) :
    exec (.holdoffEnd g) s = .next s := by
  change execHoldoffEnd g s = _
  simp only [execHoldoffEnd, hnot, Bool.false_eq_true, if_false]

theorem exec_holdoffEnd_held {g : SG} {s : State} (hheld : Tab.get false s.evc.hold g.val = true) :
    exec (.holdoffEnd g) s = .next
      (let s1 := { s with evc := { s.evc with hold := Tab.set false s.evc.hold g.val false } }
       forAll s1 (groupSrcs s1 g.val) fun u n => if mayForm u n then formMessage u n else u) := by
  change execHoldoffEnd g s = _
  simp only [execHoldoffEnd, hheld, if_true, onlyIf]

/-- Settles O21, from the equations above. -/
theorem eventMessagesAreFormedAndCommitted : Obligations.EventMessagesAreFormedAndCommitted := by
  unfold Obligations.EventMessagesAreFormedAndCommitted
  refine ⟨fun n s => ⟨?stays, ?forms⟩, fun n k t s ht hk hfence hfree hup => ?commit, fun g s => ⟨?none, ?held⟩⟩
  case stays => exact exec_hostMessageForm_stays
  case forms => exact exec_hostMessageForm_forms
  case commit =>
    have hexec := exec_hostMessageCommit_formed ht hk hfence hfree hup
    refine ⟨fun hoff => ?kept, fun hon hform => ?discarded, fun hon hform hmask => ?pended,
      fun hon hform hmask => ?sent⟩
    case kept => rw [hexec, messageOutcome_held hoff]
    case discarded => rw [hexec, messageOutcome_discarded hon hform]; rfl
    case pended => rw [hexec, messageOutcome_pended hon hform hmask]; rfl
    case sent => rw [hexec, messageOutcome_sent hon hform hmask]; rfl
  case none => exact exec_holdoffEnd_none
  case held => exact exec_holdoffEnd_held

end Sys2Proof.Machine
end

section
/-! ## Register BARs, the ROM, configuration and stray requests (R90, R98 to R100, R118, R307, R425)

What each request comes to over a live host link: an answer, a write, a count, or a refusal that the function
records. -/

namespace Sys2Proof.Machine

/-! ### Register BARs (R98, R99) -/

section
variable {m : HL} {f : Fn} {bar2 : Bool} {off : Nat} {b : HostHit} {s : State} (hlive : hostLive s m.val)
  (hbar : namedBar m.val f.val bar2 (off / 4 * 4) = some b)
include hlive hbar

/-- A read of one or two words is answered from the registers, another length refused. -/
theorem exec_bar0Read_answers (hans : barAnswers s m.val f.val = true) (dws : Nat) (tag : BitVec 14) :
    exec (.bar0Read m f bar2 off dws tag) s = .next (if dws = 1 ∨ dws = 2 then
        let x := barRead s b (off / 4 * 4) dws
        tlpOut x.2 m.val (.cplData tag.toNat x.1 0 false false (idoCpl s (64 * m.val + f.val)))
      else hostRefuse s m.val (64 * m.val + f.val) tag.toNat .ca (4 * dws)) := by
  obtain ⟨hawake, hup⟩ := hlive
  change execBar0Read m f bar2 off dws tag s = _
  simp only [execBar0Read, tlpWake_awake hawake, hup, hbar, hans, Bool.not_true, Bool.false_eq_true, if_false]

theorem exec_bar0Read_silent (hsil : barAnswers s m.val f.val = false) (dws : Nat) (tag : BitVec 14) :
    exec (.bar0Read m f bar2 off dws tag) s =
      .next (hostRefuse s m.val (64 * m.val) tag.toNat .ur (4 * dws)) := by
  obtain ⟨hawake, hup⟩ := hlive
  change execBar0Read m f bar2 off dws tag s = _
  simp only [execBar0Read, tlpWake_awake hawake, hup, hbar, hsil, Bool.not_true, Bool.not_false, Bool.false_eq_true,
    if_false, if_true]

/-- A write of one or two whole words reaches the registers, another is counted. -/
theorem exec_registerWrite_answers (hans : barAnswers s m.val f.val = true) (ws : List W32) (en : Bool) :
    exec (.registerWrite (.reg m f) bar2 off ws en) s = .next (if en = true ∧ (ws.length = 1 ∨ ws.length = 2)
      then barWrite s b (off / 4 * 4) ws else bumpR s (hpReg m.val 0x1C)) := by
  obtain ⟨hawake, hup⟩ := hlive
  change execRegisterWrite (.reg m f) bar2 off ws en s = _
  simp only [execRegisterWrite, tlpWake_awake hawake, hup, hbar, hans, badAccess, Bool.not_true, Bool.false_eq_true,
    if_false, Bool.and_eq_true, Bool.or_eq_true, beq_iff_eq]

end

theorem exec_registerWrite_steward {h : Half} {off : Nat} {s : State} (hlive : pathLive s (.steward h) = true)
    (hoff : off < 2 ^ 26) (ws : List W32) (en : Bool) :
    exec (.registerWrite (.steward h) false off ws en) s = .next (regWrite s (.steward h) (off / 4 * 4) ws) := by
  change execRegisterWrite (.steward h) false off ws en s = _
  simp only [execRegisterWrite, hlive, decide_eq_true hoff, Bool.not_false, Bool.and_self, if_true]

/-! ### The expansion ROM (R100) -/

section
variable {m : HL} {a : W32} {s : State} (hlive : hostLive s m.val)
include hlive

section
variable {off : Nat} (hhit : romHit s m.val a.toNat = some off)
include hhit

theorem exec_expansionRomRead_hit (len : Nat) (tag : BitVec 14) :
    exec (.expansionRomRead m a len tag) s = .next (tlpOut s m.val
      (.cplData tag.toNat (romBytesAt s (halfOfHl m.val) off len) 0 false false false)) := by
  obtain ⟨hawake, hup⟩ := hlive
  change execExpansionRomRead m a len tag s = _
  simp only [execExpansionRomRead, tlpWake_awake hawake, hup, hhit, Bool.not_true, Bool.false_eq_true, if_false]

theorem exec_expansionRomWrite_hit : exec (.expansionRomWrite m a) s = .next (bumpR s (hpReg m.val 0x1C)) := by
  obtain ⟨hawake, hup⟩ := hlive
  change execExpansionRomWrite m a s = _
  simp only [execExpansionRomWrite, tlpWake_awake hawake, hup, hhit, badAccess, Bool.not_true, Bool.false_eq_true,
    if_false]

end

variable (hmiss : romHit s m.val a.toNat = none)
include hmiss

theorem exec_expansionRomRead_miss (len : Nat) (tag : BitVec 14) :
    exec (.expansionRomRead m a len tag) s = .next (hostRefuse s m.val (64 * m.val) tag.toNat .ur len) := by
  obtain ⟨hawake, hup⟩ := hlive
  change execExpansionRomRead m a len tag s = _
  simp only [execExpansionRomRead, tlpWake_awake hawake, hup, hmiss, Bool.not_true, Bool.false_eq_true, if_false]

theorem exec_expansionRomWrite_miss : exec (.expansionRomWrite m a) s = .next (aerUR s (64 * m.val)) := by
  obtain ⟨hawake, hup⟩ := hlive
  change execExpansionRomWrite m a s = _
  simp only [execExpansionRomWrite, tlpWake_awake hawake, hup, hmiss, Bool.not_true, Bool.false_eq_true, if_false]

end

/-! ### Stray requests (R90, R118) -/

section
variable {m : HL} {s : State} (hawake : awake s)
include hawake

theorem exec_ioRequest_awake (tag : BitVec 14) : exec (.ioRequest m tag) s =
    .next (onlyIf (hlUp s m.val) (fun t => hostRefuse t m.val (64 * m.val) tag.toNat .ur 4) s) := by
  change execIoRequest m tag s = _
  simp only [execIoRequest, tlpWake_awake hawake]

theorem exec_mrdlk_awake (tag : BitVec 14) : exec (.mrdlk m tag) s =
    .next (onlyIf (hlUp s m.val) (fun t => hostRefuse t m.val (64 * m.val) tag.toNat .ur 4) s) := by
  change execMrdlk m tag s = _
  simp only [execMrdlk, tlpWake_awake hawake]

theorem exec_vendorDefinedType0_awake :
    exec (.vendorDefinedType0 m) s = .next (onlyIf (hlUp s m.val) (fun t => aerUR t (64 * m.val)) s) := by
  change execVendorDefinedType0 m s = _
  simp only [execVendorDefinedType0, tlpWake_awake hawake]

theorem exec_vendorDefinedType1_awake : exec (.vendorDefinedType1 m) s = .next s := by
  change execVendorDefinedType1 m s = _
  rw [execVendorDefinedType1, tlpWake_awake hawake]

end

/-! ### Configuration (R90, R425) -/

theorem configRequest_supported {m : HL} {c : CfgReq} {s : State} (h0 : c.type1 = false) (hfn : c.fn.toNat ≤ 63)
    (hex : fnExists s (64 * m.val + c.fn.toNat) = true) :
    (c.type1 || decide (63 < c.fn.toNat) || !fnExists s (64 * m.val + c.fn.toNat)) = false := by
  simp only [h0, hex, decide_eq_false (Nat.not_lt.mpr hfn), Bool.not_true, Bool.or_self]

section
variable {m : HL} {c : CfgReq} {s : State} (hlive : hostLive s m.val)
include hlive

theorem exec_configRequest_retry (hstart : startedUp s (halfOfHl m.val) = false) :
    exec (.configRequest m c) s = .next (tlpOut s m.val (.cpl c.tag.toNat .other 4)) := by
  obtain ⟨hawake, hup⟩ := hlive
  change execConfigRequest m c s = _
  simp only [execConfigRequest, tlpWake_awake hawake, hup, hstart, Bool.not_true, Bool.not_false, Bool.false_eq_true,
    if_false, if_true]

variable (hstart : startedUp s (halfOfHl m.val) = true)
include hstart

theorem exec_configRequest_unsupported
    (hno : c.type1 = true ∨ 63 < c.fn.toNat ∨ fnExists s (64 * m.val + c.fn.toNat) = false) :
    exec (.configRequest m c) s = .next (hostRefuse s m.val (64 * m.val) c.tag.toNat .ur 4) := by
  obtain ⟨hawake, hup⟩ := hlive
  have hrefused : (c.type1 || decide (63 < c.fn.toNat) || !fnExists s (64 * m.val + c.fn.toNat)) = true := by
    simpa [or_assoc] using hno
  change execConfigRequest m c s = _
  simp only [execConfigRequest, tlpWake_awake hawake, hup, hstart, hrefused, Bool.not_true, Bool.false_eq_true,
    if_false, if_true]

variable (h0 : c.type1 = false) (hfn : c.fn.toNat ≤ 63) (hex : fnExists s (64 * m.val + c.fn.toNat) = true)
include h0 hfn hex

theorem exec_configRequest_read (hwr : c.wr = none) :
    exec (.configRequest m c) s = .next (tlpOut s m.val (.cplData c.tag.toNat
      (bytesLE 4 (csRead s (64 * m.val + c.fn.toNat) (c.off.toNat / 4 * 4)).toNat) 0 false false false)) := by
  have hsup := configRequest_supported h0 hfn hex
  obtain ⟨hawake, hup⟩ := hlive
  change execConfigRequest m c s = _
  simp only [execConfigRequest, tlpWake_awake hawake, hup, hstart, hsup, hwr, Bool.not_true, Bool.false_eq_true,
    if_false]

theorem exec_configRequest_write {v : W32} {be : BitVec 4} (hwr : c.wr = some (v, be)) :
    exec (.configRequest m c) s = .next (tlpOut (csEffect s (64 * m.val + c.fn.toNat) (c.off.toNat / 4 * 4)
      (csMerge s (64 * m.val + c.fn.toNat) (c.off.toNat / 4 * 4) v be)) m.val (.cpl c.tag.toNat .sc 0)) := by
  have hsup := configRequest_supported h0 hfn hex
  obtain ⟨hawake, hup⟩ := hlive
  change execConfigRequest m c s = _
  simp only [execConfigRequest, tlpWake_awake hawake, hup, hstart, hsup, hwr, Bool.not_true, Bool.false_eq_true,
    if_false]

end

/-- Settles O35, from the equations above. -/
theorem barsRomConfigurationAndStrayRequestsAreAnswered :
    Obligations.BarsRomConfigurationAndStrayRequestsAreAnswered := by
  unfold Obligations.BarsRomConfigurationAndStrayRequestsAreAnswered
  refine ⟨fun m f bar2 off dws tag b s hlive hbar => ⟨fun hans hlen => ?readWords, fun hans h1 h2 => ?readLong,
      fun hsil => ?readSilent⟩,
    fun m f bar2 off ws en b s hlive hbar hans => exec_registerWrite_answers hlive hbar hans ws en,
    fun h off ws en s hlive hoff => exec_registerWrite_steward hlive hoff ws en,
    fun m a len tag s hlive => ⟨fun off hhit => ⟨?romRead, ?romWrite⟩, fun hmiss => ⟨?romReadMiss, ?romWriteMiss⟩⟩,
    fun m tag s ⟨hawake, hup⟩ => ⟨?io, ?locked, ?vendor0, ?vendor1⟩,
    fun m c s hlive => ⟨?retry, fun hstart hno => ?unsupported, fun hstart h0 hfn hex => ⟨fun hwr => ?cfgRead,
      fun v be hwr => ?cfgWrite⟩⟩,
    fun m tag s hawake hdown => ⟨?ioDown, ?vendorDown⟩⟩
  case readWords => rw [exec_bar0Read_answers hlive hbar hans, if_pos hlen]
  case readLong =>
    have hlong : ¬ (dws = 1 ∨ dws = 2) := not_or.mpr ⟨h1, h2⟩
    rw [exec_bar0Read_answers hlive hbar hans, if_neg hlong]
    rfl
  case readSilent => exact exec_bar0Read_silent hlive hbar hsil dws tag
  case romRead => exact exec_expansionRomRead_hit hlive hhit len tag
  case romWrite => exact exec_expansionRomWrite_hit hlive hhit
  case romReadMiss => exact exec_expansionRomRead_miss hlive hmiss len tag
  case romWriteMiss => exact exec_expansionRomWrite_miss hlive hmiss
  case io => rw [exec_ioRequest_awake hawake, hup]; rfl
  case locked => rw [exec_mrdlk_awake hawake, hup]; rfl
  case vendor0 => rw [exec_vendorDefinedType0_awake hawake, hup]; rfl
  case vendor1 => exact exec_vendorDefinedType1_awake hawake
  case retry => exact exec_configRequest_retry hlive
  case unsupported => exact exec_configRequest_unsupported hlive hstart hno
  case cfgRead => exact exec_configRequest_read hlive hstart h0 hfn hex hwr
  case cfgWrite => exact exec_configRequest_write hlive hstart h0 hfn hex hwr
  case ioDown => rw [exec_ioRequest_awake hawake, hdown]; rfl
  case vendorDown => rw [exec_vendorDefinedType0_awake hawake, hdown]; rfl

end Sys2Proof.Machine
end

section
/-! ## Host links (R82, R84, R85, R96, R109 to R111, R116, R118, R393)

PERST_N, the entry into DL_Active and the exit from it, retraining, and the states an idle link rests in: one equation
per outcome. -/

namespace Sys2Proof.Machine

/-! ### Nothing wakes a device that is awake (R388, R393) -/

theorem wakeSrc_awake {s : State} (h : awake s) (c i : Nat) : wakeSrc s c i = s := by
  simp only [wakeSrc, onlyIf, wakeBy_awake h, ite_self]

/-! ### PERST_N (R85, R116) -/

section
variable {p : HP} {s : State} (hawake : awake s)
include hawake

theorem exec_perstNAssert_released (hrel : s.sys.perst.getD p.val true = false)
    (hon : portsOn s (halfOfHl (4 * p.val)) = true) :
    let s2 := updSys s fun y => { y with
      perst := y.perst.set p.val true
      cfgActive := y.cfgActive.set p.val (if starterServed s (halfOfHl (4 * p.val)) then 0
        else cfg s (halfOfHl (4 * p.val)) (0x2000 + 0x100 * p.val) 1) }
    exec (.perstNAssert p) s = .next (forAll s2 ((span (4 * p.val) 4).filter fun m =>
      ((span (4 * p.val) 4).filter (hlPresent s)).contains m || hlPresent s2 m) fun u m => hlReinit u m 1) := by
  obtain ⟨hsleep, -⟩ := hawake
  have hs0 : (s.pwr.sleep == 1) = false := by rw [hsleep]; rfl
  change execPerstNAssert p s = _
  simp only [execPerstNAssert, hs0, onlyIf_false, hrel, hon, Bool.not_true, Bool.or_self, Bool.false_eq_true, if_false]
  rfl

theorem exec_perstNDeassert_asserted (hlow : s.sys.perst.getD p.val true = true) :
    exec (.perstNDeassert p) s = .next
      (updPwr (updSys s fun y => { y with perst := y.perst.set p.val false }) fun x => { x with wakeLow := false }) := by
  have hstill : awake (updSys s fun y => { y with perst := y.perst.set p.val false }) := hawake
  change execPerstNDeassert p s = _
  simp only [execPerstNDeassert, hlow, wakeSrc_awake hstill, Bool.not_true, Bool.false_eq_true, if_false]

end

theorem exec_perstNDeassert_released {p : HP} {s : State} (hrel : s.sys.perst.getD p.val true = false) :
    exec (.perstNDeassert p) s = .next s := by
  change execPerstNDeassert p s = _
  simp only [execPerstNDeassert, hrel, Bool.not_false, if_true]

/-! ### Reset, entry and exit (R82, R84, R96, R118) -/

theorem exec_hotReset (m : HL) (s : State) :
    exec (.hotReset m) s = .next (onlyIf (hlUp s m.val) (fun t => hlReinit t m.val 2) s) := rfl

theorem exec_dlActiveExit (m : HL) (s : State) :
    exec (.dlActiveExit m) s = .next (onlyIf (hlUp s m.val) (fun t => hlReinit t m.val 0) s) := rfl

/-- What a link must be, and what it may have negotiated, to enter DL_Active. -/
def mayEnter (s : State) (k : Nat) (flit : Bool) (r w : Nat) : Prop :=
  hlPresent s k = true ∧ (hl s k).dlActive = false ∧ portsOn s (halfOfHl k) = true ∧
  s.sys.perst.getD (k / 4) true = false ∧ s.sys.hrefOk.getD (k / 4) true = true ∧ 1 ≤ r ∧
  r ≤ hlObj s k 1 ∧ w ∈ [1, 2, 4, 8, 16] ∧ w ≤ subWidth (cfgActive s (k / 4)) (k % 4) ∧
  (flit = true ∨ r ≤ 5) ∧ (flit = false ∨ hlObj s k 2 = 1 ∨ r = 6)

/-- The model's own test of the entry. -/
theorem mayEnter_iff (s : State) (k : Nat) (flit : Bool) (r w : Nat) :
    (hlPresent s k && !(hl s k).dlActive && portsOn s (halfOfHl k) && !s.sys.perst.getD (k / 4) true &&
      s.sys.hrefOk.getD (k / 4) true && decide (1 ≤ r) && decide (r ≤ hlObj s k 1) && [1, 2, 4, 8, 16].contains w &&
      decide (w ≤ subWidth (cfgActive s (k / 4)) (k % 4)) && (flit || decide (r ≤ 5)) &&
      (!flit || hlObj s k 2 == 1 || r == 6)) = true ↔ mayEnter s k flit r w := by
  simp only [mayEnter, Bool.and_eq_true, Bool.or_eq_true, Bool.not_eq_true', decide_eq_true_eq, beq_iff_eq,
    List.contains_iff_mem, and_assoc, or_assoc]

/-- The link in DL_Active with what it negotiated. -/
def enteredDl (s : State) (k : Nat) (flit : Bool) (r w : Nat) (rev vc1 : Bool) : State :=
  updHl (updPwr s fun x => { x with wakeLow := false }) k fun x =>
    { x with dlActive := true, flit := flit, rate := r, width := w, reversed := rev, vc1 := vc1, pwr := 0, narrow := 0,
             turnOff := false }

/-- Device Readiness Status is sent once after start-up. -/
def drsOnce (t : State) (k : Nat) : State :=
  if startedUp t (halfOfHl k) = true ∧ (hl t k).drsSent = false
  then tlpOut (updHl t k fun x => { x with drsSent := true }) k .drs else t

/-- The model's own test of it. -/
theorem drsOnce_test (t : State) (k : Nat) :
    (if startedUp t (halfOfHl k) && !(hl t k).drsSent then tlpOut (updHl t k fun x => { x with drsSent := true }) k .drs
      else t) = drsOnce t k :=
  ite_congr (by rw [Bool.and_eq_true, Bool.not_eq_true']) (fun _ => rfl) (fun _ => rfl)

section
variable {m : HL} {flit : Bool} {rate : BitVec 3} {width : BitVec 5} {s : State}

theorem exec_dlActiveEnter_enters (hable : mayEnter s m.val flit rate.toNat width.toNat) (rev vc1 : Bool) :
    exec (.dlActiveEnter m flit rate width rev vc1) s =
      .next (drsOnce (enteredDl s m.val flit rate.toNat width.toNat rev vc1) m.val) := by
  rw [← mayEnter_iff] at hable
  change execDlActiveEnter m flit rate width rev vc1 s = _
  simp only [execDlActiveEnter, hable, onlyIf_true]
  exact congrArg Host.Outcome.next (drsOnce_test _ m.val)

theorem exec_dlActiveEnter_stays (hunable : ¬ mayEnter s m.val flit rate.toNat width.toNat) (rev vc1 : Bool) :
    exec (.dlActiveEnter m flit rate width rev vc1) s = .next s := by
  rw [← mayEnter_iff, Bool.not_eq_true] at hunable
  change execDlActiveEnter m flit rate width rev vc1 s = _
  simp only [execDlActiveEnter, hunable, onlyIf_false]

end

/-! ### Retraining (R84, R96) -/

theorem exec_hostLinkRateChange_up {m : HL} {rate : BitVec 3} {width : BitVec 5} {s : State} (hup : hlUp s m.val = true)
    (hlo : 1 ≤ rate.toNat) (hhi : rate.toNat ≤ hlObj s m.val 1) (hw : width.toNat ∈ [1, 2, 4, 8, 16])
    (hdiv : width.toNat ≤ subWidth (cfgActive s (m.val / 4)) (m.val % 4))
    (hflit : (hl s m.val).flit = true ∨ rate.toNat ≤ 5) :
    exec (.hostLinkRateChange m rate width) s = .next (updHl s m.val fun x => { x with
      evt := x.evt ||| BitVec.ofNat 32 (flag (x.rate != rate.toNat) 3 + flag (x.width != width.toNat) 4)
      rate := rate.toNat
      width := width.toNat }) := by
  have hin : [1, 2, 4, 8, 16].contains width.toNat = true := List.contains_iff_mem.mpr hw
  have hrate : ((hl s m.val).flit || decide (rate.toNat ≤ 5)) = true := by simpa using hflit
  change execHostLinkRateChange m rate width s = _
  simp only [execHostLinkRateChange, hup, hlo, hhi, hin, hdiv, hrate, decide_true, Bool.and_self, onlyIf_true]

/-! ### Idle links (R109 to R111) -/

section
variable {m : HL} {s : State} (hup : hlUp s m.val = true)
include hup

section
variable (hc0 : c0OnLink s m.val = false)
include hc0

theorem exec_l0sIdleTimer_rests (hflit : (hl s m.val).flit = false) (hrate : (hl s m.val).rate ≠ 6)
    (haspm : (aspm s m.val).testBit 0 = true) (hl0 : (hl s m.val).pwr = 0) (hidle : hlSending s m.val = false) :
    exec (.l0sIdleTimer m) s = .next (updHl s m.val fun x => { x with pwr := 1 }) := by
  have hr : ((hl s m.val).rate != 6) = true := bne_iff_ne.mpr hrate
  change execL0sIdleTimer m s = _
  simp only [execL0sIdleTimer, hup, hc0, hflit, hr, haspm, hl0, hidle, Bool.not_false, beq_self_eq_true, Bool.and_self,
    onlyIf_true]

theorem exec_aspmL1IdleTimer_rests (haspm : (aspm s m.val).testBit 1 = true) (hpwr : (hl s m.val).pwr ∈ [0, 1, 5])
    (hidle : hlBusy s m.val = false) :
    exec (.aspmL1IdleTimer m) s = .next (updHl s m.val fun x => { x with pwr := l1State s m.val }) := by
  have hin : [0, 1, 5].contains (hl s m.val).pwr = true := List.contains_iff_mem.mpr hpwr
  change execAspmL1IdleTimer m s = _
  simp only [execAspmL1IdleTimer, hup, hc0, haspm, hin, hidle, Bool.not_false, Bool.and_self, onlyIf_true]

end

section
variable (hflit : (hl s m.val).flit = true) (hen : bit (cs s (64 * m.val) 0x2F8) 3 = true)
include hflit hen

/-- A link at full width narrows where its traffic is below half of what the narrower width carries. -/
theorem exec_l0pEvaluation_wide (hc0 : c0OnLink s m.val = false) (hl0 : (hl s m.val).pwr = 0)
    (hfull : (hl s m.val).narrow = 0) (hobj : hlObj s m.val 6 = 1) (hmin : 2 < (hl s m.val).width) (b : Nat) :
    exec (.l0pEvaluation m b) s =
      .next (if 2 * b < rawPer100us (hl s m.val).rate (narrower (hl s m.val).width)
        then updHl s m.val fun y => { y with narrow := narrower (hl s m.val).width, pwr := 5 } else s) := by
  change execL0pEvaluation m b s = _
  simp [execL0pEvaluation, hup, hflit, hen, hc0, hl0, hfull, hobj, hmin]

/-- A narrowed link widens above three quarters of what its width carries. -/
theorem exec_l0pEvaluation_widens (hl0p : (hl s m.val).pwr = 5) (hnar : (hl s m.val).narrow ≠ 0) {b : Nat}
    (hload : 3 * rawPer100us (hl s m.val).rate (hl s m.val).narrow < 4 * b) :
    exec (.l0pEvaluation m b) s = .next (let v := wider (hl s m.val).narrow (hl s m.val).width
      updHl s m.val fun y =>
        { y with narrow := if v = y.width then 0 else v, pwr := if v = y.width then 0 else 5 }) := by
  change execL0pEvaluation m b s = _
  simp [execL0pEvaluation, hup, hflit, hen, hl0p, hnar, hload]

end

end

section
variable {m : HL} {s : State} (hc0 : c0OnLink s m.val = true)
include hc0

theorem exec_l0sIdleTimer_c0 : exec (.l0sIdleTimer m) s = .next s := by
  change execL0sIdleTimer m s = _
  rw [execL0sIdleTimer, hc0, Bool.not_true, Bool.and_false, onlyIf_false]

theorem exec_aspmL1IdleTimer_c0 : exec (.aspmL1IdleTimer m) s = .next s := by
  change execAspmL1IdleTimer m s = _
  rw [execAspmL1IdleTimer, hc0, Bool.not_true, Bool.and_false, onlyIf_false]

end

theorem exec_hostInitiatedExit_rests {m : HL} {s : State} (hlive : hostLive s m.val) (hlo : 1 ≤ (hl s m.val).pwr)
    (hhi : (hl s m.val).pwr ≤ 4) :
    exec (.hostInitiatedExit m) s = .next (updHl s m.val fun x => { x with pwr := 0 }) := by
  obtain ⟨hawake, hup⟩ := hlive
  have hstill : awake (updHl s m.val fun x => { x with pwr := 0 }) := hawake
  change execHostInitiatedExit m s = _
  simp only [execHostInitiatedExit, hup, hlo, hhi, decide_true, Bool.and_self, onlyIf_true, wakeArrival_awake hstill]

/-- Settles O37, from the equations above. -/
theorem hostLinksEnterLeaveAndRest : Obligations.HostLinksEnterLeaveAndRest := by
  unfold Obligations.HostLinksEnterLeaveAndRest
  refine ⟨fun p s hawake => ⟨?assert, ?deassert, ?released⟩, fun m s hup => ⟨?hotReset, ?exit⟩,
    fun m s hdown => ⟨?hotResetDown, ?exitDown⟩,
    fun m flit rate width rev vc1 s => ⟨fun hable => ?enters, fun hunable => ?stays⟩,
    fun m rate width s hup hlo hhi hw hdiv hflit => exec_hostLinkRateChange_up hup hlo hhi hw hdiv hflit,
    fun m s hup hc0 => ⟨?l0s, ?l1, fun b hflit hen hl0 hfull hobj hmin => ?narrows,
      fun b hflit hen hl0p hnar hload => ?widens⟩,
    fun m s hc0 => ⟨exec_l0sIdleTimer_c0 hc0, exec_aspmL1IdleTimer_c0 hc0⟩,
    fun m s hlive hlo hhi => exec_hostInitiatedExit_rests hlive hlo hhi⟩
  case assert => exact fun hrel hon => exec_perstNAssert_released hawake hrel hon
  case deassert => exact exec_perstNDeassert_asserted hawake
  case released => exact exec_perstNDeassert_released
  case hotReset => rw [exec_hotReset, hup, onlyIf_true]
  case exit => rw [exec_dlActiveExit, hup, onlyIf_true]
  case hotResetDown => rw [exec_hotReset, hdown, onlyIf_false]
  case exitDown => rw [exec_dlActiveExit, hdown, onlyIf_false]
  case enters => exact exec_dlActiveEnter_enters hable rev vc1
  case stays => exact exec_dlActiveEnter_stays hunable rev vc1
  case l0s => exact exec_l0sIdleTimer_rests hup hc0
  case l1 => exact exec_aspmL1IdleTimer_rests hup hc0
  case narrows => exact exec_l0pEvaluation_wide hup hflit hen hc0 hl0 hfull hobj hmin b
  case widens => exact exec_l0pEvaluation_widens hup hflit hen hl0p hnar hload

end Sys2Proof.Machine
end

section
/-! ## Mailboxes, host completions, split writes and pairs (R98, R101, R102, R120 to R122, R166, R205, R210, R211)

One equation per outcome of each command. -/

namespace Sys2Proof.Machine

/-! ### The mailbox (R98, R101, R102) -/

theorem badLen_eq_false {n : Nat} (hlo : 1 ≤ n) (hhi : n ≤ 2048) : badLen n = false := by
  rw [badLen, decide_eq_false (Nat.not_lt.mpr hhi), beq_eq_false_iff_ne.mpr (Nat.one_le_iff_ne_zero.mp hlo)]
  rfl

theorem badLen_eq_true {n : Nat} (h : n = 0 ∨ 2048 < n) : badLen n = true := by
  simpa [badLen] using h

section
variable {s : State} {m : Nat} (hup : (mbx s m).down = false)
include hup

section
variable (hbusy : (mbx s m).busy = false) (hready : (mbx s m).ready = false)
include hbusy hready

theorem mbxSubmit_starts {len : Nat} (hlen : badLen len = false) :
    mbxSubmit s m len = updMbx s m fun y => { y with busy := true, reqLen := len, taken := false, answer := none } := by
  simp [mbxSubmit, hup, hbusy, hready, hlen]

theorem mbxSubmit_lenErr {len : Nat} (hlen : badLen len = true) :
    mbxSubmit s m len = updMbx s m fun y => { y with lenErr := true } := by
  simp [mbxSubmit, hup, hbusy, hready, hlen]

end

theorem mbxSubmit_overrun (hfull : (mbx s m).busy = true ∨ (mbx s m).ready = true) {len : Nat}
    (hlen : badLen len = false) : mbxSubmit s m len = updMbx s m fun y => { y with overrun := true } := by
  have hf : ((mbx s m).busy || (mbx s m).ready) = true := Bool.or_eq_true_iff.mpr hfull
  simp [mbxSubmit, hup, hf, hlen]

end

section
variable {m : HL} {s : State} (hawake : awake s) (hreach : mbxReach s m.val = true)
include hawake hreach

theorem exec_mbxSubmit_reached (len : BitVec 12) :
    exec (.mbxSubmit m len) s = .next (mbxSubmit s m.val len.toNat) := by
  change execMbxSubmit m len s = _
  simp only [execMbxSubmit, tlpWake_awake hawake, hreach, onlyIf_true]

theorem exec_mbxReqWrite_reached (off : BitVec 11) (data : List Byte) :
    exec (.mbxReqWrite m off data) s = .next (
      if off.toNat % 4 = 0 ∧ (data.length = 4 ∨ data.length = 8) then
        (if (mbx s m.val).busy then s
         else updMbx s m.val fun x => { x with req := writeBytes 0 x.req off.toNat (data.take (2048 - off.toNat)) })
      else bumpR s (hpReg m.val 0x1C)) := by
  change execMbxReqWrite m off data s = _
  simp only [execMbxReqWrite, tlpWake_awake hawake, hreach, onlyIf_true, mbxReqPut, badAccess, Bool.and_eq_true,
    Bool.or_eq_true, beq_iff_eq]
  cases (mbx s m.val).busy <;> rfl

theorem exec_mbxAck_reached (v : Bool) :
    exec (.mbxAck m v) s = .next (onlyIf v (fun t => mbxAckNow t m.val) s) := by
  change execMbxAck m v s = _
  simp only [execMbxAck, tlpWake_awake hawake, hreach, Bool.true_and]

end

theorem exec_mbxResponse_busy {m : HL} {bs : List Byte} {s : State} (hans : (mbx s m.val).answer = some bs)
    (hbusy : (mbx s m.val).busy = true) :
    exec (.mbxResponse m) s = .next (mbxDone (updMbx s m.val fun x =>
      { x with rsp := writeBytes 0 [] 0 bs, rspLen := bs.length, busy := false, ready := true, answer := none,
               taken := false }) m.val) := by
  change execMbxResponse m s = _
  simp only [execMbxResponse, hans, hbusy, if_true]

/-! ### Completions of a host (R205, R210, R211) -/

/-- No perturbation holds a completion, or one before it, back (R442). -/
theorem exec_hostCompletion_unheld {m : HL} {c : HostCpl} {s : State} (hlive : hostLive s m.val)
    (hslot : delaySlot s (unitHl m.val) = none)
    (hbehind : (s.test.delayed.any fun d => d.host.any fun x => x.1 == m.val) = false) :
    exec (.hostCompletion m c) s = .next (hostCplNow s m.val c) := by
  obtain ⟨hawake, hup⟩ := hlive
  change execHostCompletion m c s = _
  simp only [execHostCompletion, tlpWake_awake hawake, hup, onlyIf_true, hostCplIn, hslot, hbehind, Bool.false_eq_true,
    if_false]

/-- What tag `tag` of host link `m` stands for. -/
def hostTagUse (s : State) (m tag : Nat) : Option TagUse :=
  s.fab.tags.find? fun u => (u.side == hostSide m) && u.tag == tag

/-- Tag `tag` of host link `m` is in quarantine. -/
def hostTagQuarantined (s : State) (m tag : Nat) : Bool :=
  s.fab.quars.any fun q => (q.side == hostSide m) && q.tag == tag

section
variable {s : State} {m : Nat} {c : HostCpl}

theorem hostCplNow_known {u : TagUse} (hu : hostTagUse s m c.tag.toNat = some u) :
    hostCplNow s m c = hostCplMatch s m c u := by
  rw [hostTagUse] at hu
  simp only [hostCplNow, hu]

theorem hostCplNow_quarantined (hnone : hostTagUse s m c.tag.toNat = none)
    (hq : hostTagQuarantined s m c.tag.toNat = true) :
    hostCplNow s m c =
      bump (logC s (halfOfHl m) 0x09 (unitHl m) (tag := c.tag.toNat)) 0x5E13 (hsub (halfOfHl m)) := by
  rw [hostTagUse] at hnone
  rw [hostTagQuarantined] at hq
  simp only [hostCplNow, hnone, hq, if_true]

theorem hostCplNow_unknown (hnone : hostTagUse s m c.tag.toNat = none)
    (hq : hostTagQuarantined s m c.tag.toNat = false) :
    hostCplNow s m c = bump (aerUnexp (logC s (halfOfHl m) 0x0A (unitHl m) (tag := c.tag.toNat)) (ridFn s m c)) 0x5E14
      (hsub (halfOfHl m)) := by
  rw [hostTagUse] at hnone
  rw [hostTagQuarantined] at hq
  simp only [hostCplNow, hnone, hq, Bool.false_eq_true, if_false]

variable {u : TagUse} (hreq : u.req ≠ 0) (hgood : c.ep = false)
include hreq hgood

/-- Data that arrive are the part's; the last of them free the tag. -/
theorem hostCplMatch_data (hst : c.status = .sc) :
    hostCplMatch s m c u =
      gotPart (if partLack s u.req u.part ≤ c.data.length then freeTag s u.side u.tag else s) u.req u.part
        (c.data.take (partLack s u.req u.part)) false (halfOfHl m) := by
  have hstatus : hostStatus c = 0 := by rw [hostStatus, hst, hgood]; rfl
  simp [hostCplMatch, hreq, hgood, hstatus, onlyIf]

theorem hostCplMatch_unsupported (hst : c.status = .ur) :
    hostCplMatch s m c u = failPart (freeTag s u.side u.tag) u.req u.part 1 (halfOfHl m) := by
  have hstatus : hostStatus c = 1 := by rw [hostStatus, hst]
  simp [hostCplMatch, hreq, hgood, hstatus, onlyIf]

end

/-- A tag freed leaves what its request still lacks. -/
theorem partLack_freeTag (s : State) (side : TagSide) (tag rid i : Nat) :
    partLack (freeTag s side tag) rid i = partLack s rid i := rfl

/-! ### Split writes (R166) -/

section
variable {id : Nat} {f : SplitFail} {s : State} (hf : (s.fab.splits.find? fun g => g.id == id) = some f)
include hf

theorem exec_splitWriteCommitted_waits (hopen : splitDone s id = false) :
    exec (.splitWriteCommitted id) s = .next s := by
  change execSplitWriteCommitted id s = _
  simp only [execSplitWriteCommitted, hf, hopen, Bool.false_eq_true, if_false]

theorem exec_splitWriteCommitted_done (hdone : splitDone s id = true) :
    exec (.splitWriteCommitted id) s = .next (bump (logC
      (updFab s fun x => { x with splits := x.splits.filter fun g => g.id != id }) f.half 0x02 f.win (addr := f.addr))
      0x480B (hsub f.half)) := by
  change execSplitWriteCommitted id s = _
  simp only [execSplitWriteCommitted, hf, hdone, if_true]

end

/-! ### Pairs of functions (R120 to R122) -/

theorem exec_switchRequest_open {p : Path} {m : HL} {f : Fn} {s : State}
    (ho : objOpen s p (fnIdx m.val 11) (halfOfHl m.val)) (v : Bool) :
    exec (.switchRequest p m f v) s = .next (onlyIf v (fun u => switchTo u (64 * m.val + f.val)) s) := by
  change execSwitchRequest p m f v s = _
  rw [execSwitchRequest, objAct_open ho]

theorem switchTo_standby {s : State} {n q : Nat} (hpair : partnerFn s n = some q) (hel : eligible s n = true)
    (hact : activeFn s n = q) (hhost : (fn s q).noHost = false) :
    switchTo s n = updFn s q fun x => { x with switching := true } := by
  simp only [switchTo, hpair, hel, hact, hhost, beq_self_eq_true, Bool.not_false, Bool.and_self, if_true]

section
variable {m : HL} {f : Fn} {q : Nat} {s : State} (hpair : partnerFn s (64 * m.val + f.val) = some q)
include hpair

theorem exec_protectionSwitchOver_idle (hidle : (fn s (activeFn s (64 * m.val + f.val))).switching = false) :
    exec (.protectionSwitchOver m f) s = .next s := by
  change execProtectionSwitchOver m f s = _
  simp only [execProtectionSwitchOver, hpair, hidle, Bool.false_eq_true, if_false]

theorem exec_protectionSwitchOver_started
    (hsw : (fn s (activeFn s (64 * m.val + f.val))).switching = true) :
    exec (.protectionSwitchOver m f) s = .next (
      let a := activeFn s (64 * m.val + f.val)
      let o := if a = 64 * m.val + f.val then q else 64 * m.val + f.val
      let t := endOfHost s a
      if eligible t o then becomeActive t a o else pairNoHost t a o) := by
  change execProtectionSwitchOver m f s = _
  simp only [execProtectionSwitchOver, hpair, hsw, if_true]

theorem exec_pairMemberEligible_becomes (hno : (fn s (64 * m.val + f.val)).noHost = true)
    (hel : eligible s (64 * m.val + f.val) = true) :
    exec (.pairMemberEligible m f) s = .next (becomeActive s q (64 * m.val + f.val)) := by
  change execPairMemberEligible m f s = _
  simp only [execPairMemberEligible, hpair, hno, hel, Bool.and_self, if_true]

theorem exec_pairMemberEligible_hosted (hhost : (fn s (64 * m.val + f.val)).noHost = false) :
    exec (.pairMemberEligible m f) s = .next s := by
  change execPairMemberEligible m f s = _
  simp only [execPairMemberEligible, hpair, hhost, Bool.false_and, Bool.false_eq_true, if_false]

end

/-- Settles O38, from the equations above. -/
theorem mailboxCompletionsSplitsAndPairs : Obligations.MailboxCompletionsSplitsAndPairs := by
  unfold Obligations.MailboxCompletionsSplitsAndPairs
  refine ⟨fun m s hawake hreach hup => ⟨fun len hbusy hready hlo hhi => ?submit, fun len hfull hlo hhi => ?overrun,
      fun len hbusy hready hlen => ?lenErr, fun off data => exec_mbxReqWrite_reached hawake hreach off data,
      exec_mbxAck_reached hawake hreach true, exec_mbxAck_reached hawake hreach false⟩,
    fun m bs s hans hbusy => exec_mbxResponse_busy hans hbusy,
    fun m c s hlive hslot hbehind => ?completions,
    fun id f s hf => ⟨exec_splitWriteCommitted_waits hf, exec_splitWriteCommitted_done hf⟩,
    fun p m f q s ho hpair hel hact hhost => ⟨?switch, exec_switchRequest_open ho false⟩,
    fun m f q s hpair => ⟨exec_protectionSwitchOver_idle hpair, exec_protectionSwitchOver_started hpair,
      exec_pairMemberEligible_becomes hpair, exec_pairMemberEligible_hosted hpair⟩⟩
  case submit => rw [exec_mbxSubmit_reached hawake hreach, mbxSubmit_starts hup hbusy hready (badLen_eq_false hlo hhi)]
  case overrun => rw [exec_mbxSubmit_reached hawake hreach, mbxSubmit_overrun hup hfull (badLen_eq_false hlo hhi)]
  case lenErr => rw [exec_mbxSubmit_reached hawake hreach, mbxSubmit_lenErr hup hbusy hready (badLen_eq_true hlen)]
  case completions =>
    have hexec := exec_hostCompletion_unheld (c := c) hlive hslot hbehind
    refine ⟨fun u hu hreq hst hgood => ?data, fun u hu hreq hst hgood => ?unsupported, fun hnone hq => ?quarantined,
      fun hnone hq => ?unknown⟩
    case data =>
      rw [hexec, hostCplNow_known hu, hostCplMatch_data hreq hgood hst]
      dsimp only
      split
      · rw [partLack_freeTag]
      · rfl
    case unsupported => rw [hexec, hostCplNow_known hu, hostCplMatch_unsupported hreq hgood hst]
    case quarantined => rw [hexec, hostCplNow_quarantined hnone hq]
    case unknown => rw [hexec, hostCplNow_unknown hnone hq]
  case switch => rw [exec_switchRequest_open ho, onlyIf_true, switchTo_standby hpair hel hact hhost]

end Sys2Proof.Machine
end

section
/-! ## A failed bring-up attempt (R129, R140, R468)

A timeout is `failAttempt`; what `failAttempt` leaves of the sub-link is one record, read off it once. -/

namespace Sys2Proof.Machine

/-! ### The sub-link enters Detect -/

/-- A sub-link that enters Detect holds electrical idle and forgets what its attempt had gathered. -/
def detectEntered (x : LlSt) : LlSt :=
  { x with st := .detect, idle := true, gen := 0, rdyCount := [0, 0, 0, 0],
           rdySeen := [false, false, false, false], sentAck := [0, 0, 0, 0], frameOk := false,
           ackFrame := false, capSent := 0 }

@[simp] theorem resetLanes_links (s : State) (l : Nat) : (resetLanes s l).links = s.links := by
  rw [resetLanes]
  refine forAll_keeps (fun u => u.links = s.links) _ _ (fun u n hu => ?_) s rfl
  exact hu

@[simp] theorem portIdle_links (s : State) (p : Nat) : (portIdle s p).links = s.links := by
  unfold portIdle
  split <;> rfl

@[simp] theorem sendDown_links (s : State) (l r : Nat) : (sendDown s l r).links = s.links := by
  rw [sendDown]
  refine forAll_keeps (fun u => u.links = s.links) _ _ (fun u n hu => ?_) s rfl
  exact hu

theorem toDetect_links (s : State) (l : Nat) : (toDetect s l).links = (updLink s l detectEntered).links := by
  rw [toDetect, portIdle_links]
  change Tab.upd LlSt.reset (resetLanes s l).links l detectEntered = _
  rw [resetLanes_links]
  rfl

section
variable {s : State} (hw : Tab.wf LlSt.reset s.links = true)
include hw

theorem toDetect_wf (l : Nat) : Tab.wf LlSt.reset (toDetect s l).links = true := by
  rw [toDetect_links]
  exact updLink_wf hw l _

theorem link_toDetect (l : Nat) : link (toDetect s l) l = detectEntered (link s l) := by
  rw [link, toDetect_links]
  exact (link_updLink hw l l detectEntered).trans (if_pos rfl)

end

/-! ### The attempt fails (R129, R468) -/

/-- The generation of the attempt after one that fails: under the port's generation there is no step. -/
def genAfterFailure (s : State) (l : Nat) : Nat :=
  if siblingUp s l && Tab.get 0 s.sys.portGen (l / 4) != 0 then (link s l).nextGen
  else stepDown s l (link s l).gen

theorem genAfterFailure_alone {s : State} {l : Nat} (h : siblingUp s l = false) :
    genAfterFailure s l = if (link s l).gen ≤ minGen s l then maxGen s l else (link s l).gen - 1 := by
  simp only [genAfterFailure, h, Bool.false_and, Bool.false_eq_true, if_false, stepDown]

/-- A sub-link after a failed attempt. -/
def attemptFailed (reason : Option Nat) (next : Nat) (x : LlSt) : LlSt :=
  { detectEntered x with evt := x.evt ||| 4, nextGen := next, reason := reason.getD x.reason }

theorem link_updLink_toDetect {s : State} (hw : Tab.wf LlSt.reset s.links = true) (l next : Nat)
    (reason : Option Nat) :
    link (updLink (toDetect s l) l fun x =>
      { x with evt := x.evt ||| 4, nextGen := next, reason := reason.getD x.reason }) l =
      attemptFailed reason next (link s l) := by
  rw [link_updLink (toDetect_wf hw l), if_pos rfl, link_toDetect hw]
  rfl

/-- The DOWN blocks of a failure are no matter of the sub-link's own record. -/
theorem link_failAttempt {s : State} (hw : Tab.wf LlSt.reset s.links = true) (l : Nat) (downs reason : Option Nat) :
    link (failAttempt s l downs reason) l = attemptFailed reason (genAfterFailure s l) (link s l) := by
  cases downs with
  | none => exact link_updLink_toDetect hw l (genAfterFailure s l) reason
  | some r =>
    have hlinks : (sendDown s l r).links = s.links := sendDown_links s l r
    have hsame : link (sendDown s l r) l = link s l := by rw [link, hlinks, link]
    have hw1 : Tab.wf LlSt.reset (sendDown s l r).links = true := by rw [hlinks, hw]
    exact (link_updLink_toDetect hw1 l (genAfterFailure s l) reason).trans
      (congrArg (attemptFailed reason (genAfterFailure s l)) hsame)

/-! ### The commands -/

section
variable {l : LL} {s : State}

theorem exec_trainTimeout_train (h : (link s l.val).st = .train) :
    exec (.trainTimeout l) s = .next (failTrain s l.val) := by
  change execTrainTimeout l s = _
  rw [execTrainTimeout, h]
  rfl

theorem exec_lockTimeout_lock (h : (link s l.val).st = .lock) :
    exec (.lockTimeout l) s = .next (failAttempt s l.val (some 2) (some 2)) := by
  change execLockTimeout l s = _
  rw [execLockTimeout, h]
  rfl

theorem exec_exchangeTimeout_exchange (h : (link s l.val).st = .exchange) :
    exec (.exchangeTimeout l) s = .next (failAttempt s l.val (some 3) (some 3)) := by
  change execExchangeTimeout l s = _
  rw [execExchangeTimeout, h]
  rfl

theorem exec_electricalIdleEnd_detect (h : (link s l.val).st = .detect) :
    exec (.electricalIdleEnd l) s = .next (updLink s l.val fun x => { x with idle := false }) := by
  change execElectricalIdleEnd l s = _
  rw [execElectricalIdleEnd, h]
  rfl

end

/-- Settles O3: each timeout is `failAttempt`, whose effect on the sub-link is `attemptFailed`. -/
theorem failedAttemptsStepTheGeneration : Obligations.FailedAttemptsStepTheGeneration := by
  unfold Obligations.FailedAttemptsStepTheGeneration
  refine ⟨fun l s => exec_trainTimeout_train, fun l s => exec_lockTimeout_lock,
    fun l s => exec_exchangeTimeout_exchange, fun l s downs reason hw => ?failed,
    fun l s => exec_electricalIdleEnd_detect⟩
  case failed =>
    have hevt : bit ((link s l.val).evt ||| 4) 2 = true := by simp [bit]
    dsimp only
    rw [link_failAttempt hw]
    exact ⟨rfl, rfl, hevt, rfl, genAfterFailure_alone⟩

end Sys2Proof.Machine
end

section
/-! ## Retry (R141, R142)

What an acknowledgement finds in the replay buffer, and what sending it all again comes to. -/

namespace Sys2Proof.Machine

/-- Two changes of a sub-link that agree on what it holds are one change. -/
theorem updLink_congr {s : State} {l : Nat} {f g : LlSt → LlSt} (hfg : f (link s l) = g (link s l)) :
    updLink s l f = updLink s l g :=
  congrArg (fun x => { s with links := Tab.set LlSt.reset s.links l x }) hfg

/-! ### The acknowledgement (R141) -/

/-- Packets `a` and older are acknowledged: those behind them stay, in order. -/
theorem ackTo_frees {s : State} {l q : Nat} {a b : List Replay} (hrep : (link s l).replay = a ++ b) (ha : a ≠ [])
    (hb : b.length ≤ 511) (hlt : q < 1024) (hq : (q + 1 + b.length) % 1024 = (link s l).txSeq % 1024)
    (hno : ∀ r ∈ a, r.pkt.typ ≠ 5) :
    ackTo s l q = some (updLink s l fun x => { x with replay := b, ackedSeq := (q + 1) % 1024 }) := by
  have hahead : (q + 1024 - ((link s l).txSeq + 1023) % 1024) % 1024 = (1024 - b.length) % 1024 := by omega
  have hsent : (decide (1 ≤ (1024 - b.length) % 1024) && decide ((1024 - b.length) % 1024 ≤ 511)) = false := by
    rw [Bool.and_eq_false_iff, decide_eq_false_iff_not, decide_eq_false_iff_not]
    omega
  have hage : (1024 - (1024 - b.length) % 1024) % 1024 = b.length := by omega
  have hpos : 0 < a.length := List.length_pos_iff.mpr ha
  have hcut : (a ++ b).length - b.length = a.length := by rw [List.length_append]; omega
  have hyoung : b.length < (a ++ b).length := by rw [List.length_append]; omega
  have hnone : (a.filter fun r => r.pkt.typ == 5) = [] :=
    List.filter_eq_nil_iff.mpr fun r hr h5 => hno r hr (beq_iff_eq.mp h5)
  have hfull : a.isEmpty = false := List.isEmpty_eq_false_iff.mpr ha
  simp only [ackTo, hahead, hsent, hage, hrep, hcut, hyoung, List.take_left, hnone, hfull, Bool.false_eq_true, if_false,
    if_true, forAll_nil]
  exact congrArg some (updLink_congr (by rw [hrep, List.drop_left]))

/-- A SEQ `d` ahead of the last one sent has not been sent. -/
theorem ackTo_unsent {s : State} {l d : Nat} (hlo : 1 ≤ d) (hhi : d ≤ 511) :
    ackTo s l (((link s l).txSeq + 1023 + d) % 1024) = none := by
  have hahead : (((link s l).txSeq + 1023 + d) % 1024 + 1024 - ((link s l).txSeq + 1023) % 1024) % 1024 = d := by omega
  simp only [ackTo, hahead, hlo, hhi, decide_true, Bool.and_self, if_true]

/-! ### Everything again (R142) -/

section
variable {s : State} {l : Nat}

theorem replayAll_nothing (h : (link s l).replay = []) : replayAll s l = s := by
  simp only [replayAll, h, List.isEmpty_nil, if_true]

theorem replayAll_exhausted (hsome : (link s l).replay ≠ [])
    (hany : (link s l).replay.any (fun r => decide (8 ≤ r.tries)) = true) : replayAll s l = leaveActive s l 6 := by
  simp only [replayAll, List.isEmpty_eq_false_iff.mpr hsome, hany, Bool.false_eq_true, if_false, if_true]

theorem replayAll_again (hsome : (link s l).replay ≠ [])
    (hany : (link s l).replay.any (fun r => decide (8 ≤ r.tries)) = false) :
    replayAll s l = forAll (updLink (bumpR (emit s (.block l .idle)) (llReg l 0x020)) l fun y =>
      { y with replay := y.replay.map fun r => { r with tries := r.tries + 1 } }) (link s l).replay
      fun u r => emit u (.packet l r.pkt) := by
  simp only [replayAll, List.isEmpty_eq_false_iff.mpr hsome, hany, Bool.false_eq_true, if_false]

end

/-- A list sent one by one goes out in its order. -/
theorem forAll_emit_out {α : Type} (e : α → Emission) (xs : List α) (s : State) :
    (forAll s xs fun u x => emit u (e x)).out = s.out ++ xs.map e := by
  induction xs generalizing s with
  | nil => exact (List.append_nil _).symm
  | cons x xs ih =>
    rw [forAll_cons, ih, List.map_cons]
    exact List.append_assoc _ _ _

theorem replayAll_out {s : State} {l : Nat} (hsome : (link s l).replay ≠ [])
    (hany : (link s l).replay.any (fun r => decide (8 ≤ r.tries)) = false) :
    (replayAll s l).out = s.out ++ .block l .idle :: (link s l).replay.map fun r => .packet l r.pkt := by
  rw [replayAll_again hsome hany, forAll_emit_out]
  exact List.append_assoc _ _ _

/-! ### The commands -/

section
variable {l : LL} {s : State} (hon : layerOn s l.val = true)
include hon

theorem exec_ack_on (q : BitVec 10) :
    exec (.ack l q) s = .next
      ((ackTo s l.val q.toNat).elim (bumpR s (llReg l.val 0x028)) fun t => drainOwed t l.val) := by
  change execAck l q s = _
  simp only [execAck, hon, Bool.not_true, Bool.false_eq_true, if_false]
  cases ackTo s l.val q.toNat <;> rfl

theorem exec_nak_on (q : BitVec 10) :
    exec (.nak l q) s = .next
      ((ackTo s l.val q.toNat).elim (bumpR s (llReg l.val 0x028)) fun t => drainOwed (replayAll t l.val) l.val) := by
  change execNak l q s = _
  simp only [execNak, hon, Bool.not_true, Bool.false_eq_true, if_false]
  cases ackTo s l.val q.toNat <;> rfl

theorem exec_ackDue_on (h : (link s l.val).rxAcked ≠ 0) : exec (.ackDue l) s = .next (sendAck s l.val false) := by
  change execAckDue l s = _
  rw [execAckDue, hon, Bool.true_and, if_pos (bne_iff_ne.mpr h)]

theorem exec_replayTimerExpiry_on : exec (.replayTimerExpiry l) s = .next (replayAll s l.val) := by
  change execReplayTimerExpiry l s = _
  rw [execReplayTimerExpiry, if_pos hon]

end

/-- Settles O10: ACK and NAK through `ackTo`, the replay timer through `replayAll`. -/
theorem acknowledgementsFreeTheReplayBuffer : Obligations.AcknowledgementsFreeTheReplayBuffer := by
  unfold Obligations.AcknowledgementsFreeTheReplayBuffer
  refine ⟨fun l q s a b hon hrep ha hb hq hno => ?frees, fun l q d s hon hlo hhi hq => ?ignored,
    fun l s hon hrx => exec_ackDue_on hon hrx, fun l s hon => exec_replayTimerExpiry_on hon,
    fun s l => ⟨replayAll_nothing, replayAll_exhausted, replayAll_out⟩⟩
  case frees =>
    have hfound := ackTo_frees hrep ha hb q.isLt hq hno
    rw [exec_ack_on hon, exec_nak_on hon, hfound]
    exact ⟨rfl, rfl⟩
  case ignored =>
    have hnone : ackTo s l.val q.toNat = none := hq ▸ ackTo_unsent hlo hhi
    rw [exec_ack_on hon, exec_nak_on hon, hnone]
    exact ⟨rfl, rfl⟩

end Sys2Proof.Machine
end

section
/-! ## Packets in order, ahead and behind (R133, R134, R136, R137, R141, R142, R311, R336)

The tests of the receiver in their order: what a packet that fails one of them comes to, and what one that passes
them all leaves of the sub-link. -/

namespace Sys2Proof.Machine

/-! ### The number and the CRC (R133, R141, R142) -/

section
variable {s : State} {l : Nat} {p : Pkt}

theorem rxPacket_shut (h : linkActive s l = false ∨ ingressOn s (halfOfLink l) = false) : rxPacket s l p = s := by
  have hshut : (!linkActive s l || !ingressOn s (halfOfLink l)) = true := by
    simpa only [Bool.or_eq_true, Bool.not_eq_true'] using h
  simp only [rxPacket, hshut, if_true]

/-- The receiver's own test of an error or of a gap. -/
theorem rxBad_eq_true_iff (s : State) (l : Nat) (p : Pkt) :
    (p.errored || p.crc != pktCrc p || (decide (1 ≤ rxAhead s l p) && decide (rxAhead s l p ≤ 511))) = true ↔
      ¬ rxGood p ∨ (1 ≤ rxAhead s l p ∧ rxAhead s l p ≤ 511) := by
  rw [Bool.or_eq_true, Bool.or_eq_true, Bool.and_eq_true, decide_eq_true_iff, decide_eq_true_iff, bne_iff_ne, rxGood,
    Classical.not_and_iff_not_or_not, Bool.not_eq_false]

section
variable (hable : rxAble s l)
include hable

/-- The tests before the packet's own are passed. -/
theorem rxPacket_able :
    rxPacket s l p =
      if (p.errored || p.crc != pktCrc p || (decide (1 ≤ rxAhead s l p) && decide (rxAhead s l p ≤ 511))) then
        if (link s l).nakSent then s
        else sendAck (bumpR (updLink s l fun x => { x with nakSent := true }) (llReg l 0x024)) l true
      else if rxAhead s l p != 0 then sendAck s l false
      else rxInOrder (rxTook s l) l p := by
  obtain ⟨hawake, hact, hon, hstay⟩ := hable
  simp only [rxPacket, hact, hon, hstay, wakeArrival_awake hawake, Bool.not_true, Bool.or_false, Bool.false_eq_true,
    if_false]
  rfl

/-- A packet in error or after a gap: one NAK, until a good one comes. -/
theorem rxPacket_bad (hbad : ¬ rxGood p ∨ 1 ≤ rxAhead s l p ∧ rxAhead s l p ≤ 511) :
    rxPacket s l p =
      if (link s l).nakSent then s
      else sendAck (bumpR (updLink s l fun x => { x with nakSent := true }) (llReg l 0x024)) l true := by
  rw [rxPacket_able hable, if_pos ((rxBad_eq_true_iff s l p).mpr hbad)]

theorem rxPacket_duplicate (hgood : rxGood p) (hold : 512 ≤ rxAhead s l p) : rxPacket s l p = sendAck s l false := by
  have hfine : ¬ (¬ rxGood p ∨ (1 ≤ rxAhead s l p ∧ rxAhead s l p ≤ 511)) := by
    rintro (hno | ⟨-, hhi⟩)
    · exact hno hgood
    · omega
  have hbehind : (rxAhead s l p != 0) = true := bne_iff_ne.mpr (by omega)
  rw [rxPacket_able hable, if_neg (mt (rxBad_eq_true_iff s l p).mp hfine), if_pos hbehind]

end

/-! ### What the packet itself is (R134, R136, R137, R311, R336) -/

section
variable (h : rxOpen s l p)
include h

theorem rxPacket_ping (hping : isPing p = true) :
    rxPacket s l p = linkSend (rxTook s l) l (mkPkt 3 0 0 p.tag.toNat 0 0 []) 0 none := by
  rw [rxPacket_open h, rxInOrder, if_pos hping, rxPing]

section
variable (hping : isPing p = false)
include hping

theorem rxPacket_malformed (hmal : malformed (isTether (rxTook s l) l) p = true) :
    rxPacket s l p = onMalformed (rxTaken s l p) l p := by
  rw [rxPacket_open h]
  simp only [rxInOrder, hping, hmal, Bool.false_eq_true, if_false, if_true, rxTaken]

theorem rxPacket_miswired (hmal : malformed (isTether (rxTook s l) l) p = false)
    (hwire : miswired (rxTaken s l p) l = true) :
    rxPacket s l p = turnAway (bump (rxTaken s l p) 0x9008 (hsub (halfOfLink l))) l p 1 := by
  rw [rxTaken] at hwire ⊢
  rw [rxPacket_open h]
  simp only [rxInOrder, hping, hmal, hwire, Bool.false_eq_true, if_false, if_true]

end
end

theorem rxPacket_frozen (h : rxClean s l p) (hfrozen : isFrozen (rxTaken s l p) (tetherName (rxTook s l) l) = true)
    (h3 : p.typ.toNat ≠ 3) (h9 : p.typ.toNat ≠ 9) :
    rxPacket s l p =
      turnAway (bump (rxTaken s l p) 0x8007 ((if isNpType p then 1 else 3) + halfIdx (halfOfLink l))) l p 2 := by
  have hno3 : (p.typ == 3) = false := beq_eq_false_iff_ne.mpr fun hp => h3 (congrArg BitVec.toNat hp)
  have hno9 : (p.typ == 9) = false := beq_eq_false_iff_ne.mpr fun hp => h9 (congrArg BitVec.toNat hp)
  rw [rxPacket_clean h]
  simp only [hno3, hno9, hfrozen, Bool.false_eq_true, if_false, if_true]

end

theorem exec_ping_isPing {l : LL} {p : Pkt} (hping : isPing p = true) (s : State) :
    exec (.ping l p) s = .next (rxPacket s l.val p) := by
  change execPing l p s = _
  rw [execPing, hping, Bool.true_or, onlyIf_true]

/-! ### The sub-link after a packet in order (R141, R142) -/

/-- A sub-link that has received the packet it expected. -/
def tookNext (x : LlSt) : LlSt :=
  { x with rxSeq := (x.rxSeq + 1) % 1024, rxAcked := x.rxAcked + 1, nakSent := false }

theorem link_sendAck {s : State} {l : Nat} (hw : Tab.wf LlSt.reset s.links = true) (nak : Bool) :
    link (sendAck s l nak) l = { link s l with rxAcked := if nak then (link s l).rxAcked else 0 } := by
  rw [sendAck, emit_link_eq, link_updLink hw, if_pos rfl]

section
variable {s : State} {l : Nat} (hw : Tab.wf LlSt.reset s.links = true)
include hw

theorem link_counted (a : Nat) : link (bumpR (updLink s l tookNext) a) l = tookNext (link s l) := by
  rw [bumpR_link_eq, link_updLink hw, if_pos rfl]

/-- The 32nd packet not acknowledged is, with those before it. -/
theorem rxTook_eq :
    rxTook s l =
      let s1 := bumpR (updLink s l tookNext) (llReg l 0x018)
      if 32 ≤ (link s l).rxAcked + 1 then sendAck s1 l false else s1 := by
  change (if 32 ≤ (link (bumpR (updLink s l tookNext) (llReg l 0x018)) l).rxAcked then _ else _) = _
  rw [link_counted hw]
  rfl

theorem link_rxTook :
    link (rxTook s l) l =
      { tookNext (link s l) with rxAcked := if 32 ≤ (link s l).rxAcked + 1 then 0 else (link s l).rxAcked + 1 } := by
  have hw1 : Tab.wf LlSt.reset (bumpR (updLink s l tookNext) (llReg l 0x018)).links = true := updLink_wf hw l _
  rw [rxTook_eq hw]
  dsimp only
  split
  · rw [link_sendAck hw1, link_counted hw]
    rfl
  · rw [link_counted hw]
    rfl

theorem rxTook_out :
    (rxTook s l).out = if 32 ≤ (link s l).rxAcked + 1
      then s.out ++ [.block l (.ack false ((((link s l).rxSeq + 1) % 1024 + 1023) % 1024))] else s.out := by
  rw [rxTook_eq hw]
  dsimp only
  split
  · rw [sendAck, link_counted hw]
    rfl
  · rfl

end

/-- Settles O31, from the receiver's tests above. -/
theorem packetsAreTakenInOrder : Obligations.PacketsAreTakenInOrder := by
  unfold Obligations.PacketsAreTakenInOrder
  refine ⟨fun l p c t s hc ht => ?rows, fun l p s h hping => ?ping, fun l s hw => ?took⟩
  case rows =>
    rw [exec_pktRows hc ht]
    refine ⟨fun hshut => ?shut, fun hable hbad => ?bad, fun hable hgood hold => ?duplicate, fun h hping => ?pingRow,
      fun h hping hmal => ?malformed, fun h hping hmal hwire => ?miswired, fun h hfrozen h3 h9 => ?frozen⟩
    case shut => rw [rxPacket_shut hshut]
    case bad => rw [rxPacket_bad hable hbad]; rfl
    case duplicate => rw [rxPacket_duplicate hable hgood hold]; rfl
    case pingRow => rw [rxPacket_ping h hping]
    case malformed => rw [rxPacket_malformed h hping hmal]
    case miswired => rw [rxPacket_miswired h hping hmal hwire]
    case frozen => rw [rxPacket_frozen h hfrozen (ht ▸ h3) (ht ▸ h9)]
  case ping => rw [exec_ping_isPing hping, rxPacket_ping h hping]
  case took =>
    rw [link_rxTook hw]
    exact ⟨rfl, rfl, rxTook_out hw⟩

end Sys2Proof.Machine
end

section
/-! ## Capability frames, DOWN and a bond's lane moving back (R129, R138 to R140, R150)

One equation per outcome of each command. -/

namespace Sys2Proof.Machine

/-! ### The partner's frame (R138, R139) -/

/-- Frame `f` lists the generation in force and names the sub-link's width. -/
def frameFits (s : State) (l : Nat) (f : List Byte) : Bool :=
  (f.getD 2 0).toNat.testBit ((link s l).gen - 1) && (f.getD 3 0).toNat % 4 == widthCode s l

theorem exec_capf_badCrc {f : List Byte} (hf : frameValid f = false) (l : LL) (s : State) :
    exec (.capf l f) s = .next s := by
  change execCapf l f s = _
  simp only [execCapf, hf, Bool.not_false, Bool.or_true, if_true]

section
variable {l : LL} {s : State} (hl : laneLink s l.val = some l.val) (hst : (link s l.val).st = .exchange)
include hl hst

/-- A frame whose CRC holds is kept, and judged in the state that keeps it. -/
theorem exec_capf_valid {f : List Byte} (hf : frameValid f = true) :
    let s1 := updLink s l.val fun x => { x with frame := f }
    exec (.capf l f) s = .next (if frameFits s1 l.val f then
        updLink s1 l.val fun x => { x with frameOk := true, ackFrame := x.ackFrame || (f.getD 1 0).getLsbD 7 }
      else failAttempt s1 l.val (some 4) (some 4)) := by
  intro s1
  have hread : (laneLink s l.val != some l.val || (link s l.val).st != .exchange || !frameValid f) = false := by
    rw [hl, hst, hf]
    simp
  have hunfit : (!(f.getD 2 0).toNat.testBit ((link s1 l.val).gen - 1) ||
      (f.getD 3 0).toNat % 4 != widthCode s1 l.val) = !frameFits s1 l.val f := (Bool.not_and _ _).symm
  refine congrArg Host.Outcome.next ((if_neg (Bool.eq_false_iff.mp hread)).trans ?_)
  dsimp only
  rw [hunfit]
  cases frameFits s1 l.val f <;> rfl

/-! ### The bridge's own frame (R138) -/

theorem exec_capabilityFrameSent_exchange :
    let s1 := emit s (.block l.val (.capf (ownFrame s l.val)))
    let s2 := updLink s1 l.val fun x => { x with capSent := x.capSent + 1 }
    exec (.capabilityFrameSent l) s = .next (if (link s l.val).frameOk && (link s l.val).ackFrame then
        if 2 ≤ (link s2 l.val).capSent then enterActive s2 l.val else s2
      else s1) := by
  have hsend : (laneLink s l.val != some l.val || (link s l.val).st != .exchange) = false := by
    rw [hl, hst]
    simp
  exact congrArg Host.Outcome.next (if_neg (Bool.eq_false_iff.mp hsend))

end

/-! ### DOWN (R129, R140) -/

section
variable {l : LL} {s : State}

theorem exec_down_active (h : (link s l.val).st = .active) (r : BitVec 8) :
    exec (.down l r) s = .next (leaveActive s l.val 7) := by
  change execDown l r s = _
  simp only [execDown, h]

theorem exec_down_bringUp (h : (link s l.val).st = .lock ∨ (link s l.val).st = .exchange) (r : BitVec 8) :
    exec (.down l r) s = .next (failAttempt s l.val none (some 7)) := by
  change execDown l r s = _
  rcases h with h | h <;> simp only [execDown, h]

end

/-! ### A bond's lane moves back (R150) -/

/-- The first sub-link of the tethers bonded as group `g` in half `h`. -/
def bondFirst (s : State) (h : Half) (g : Nat) : Nat :=
  (((List.range 48).filter fun p => halfOfLp p == h && portBond s p == g && portTether s p).headD 0) * 4

theorem exec_bondLaneMoveBack_idle {h : Half} {g : Fin 7} {f : FlowNo} {s : State} (hg : g.val ≠ 0)
    (hidle : (busyLanes s (bondFirst s h g.val)).contains (laneKey s h f.val) = false) :
    let key := halfIdx h * 8 + g.val
    let b := Tab.get (([], []) : List Nat × List Nat) s.fab.bonds key
    let keep := (b.1.zip b.2).filter fun p => p.1 != laneKey s h f.val
    exec (.bondLaneMoveBack h g f) s = .next (updFab s fun x => { x with
      bonds := Tab.set (([], []) : List Nat × List Nat) x.bonds key (keep.map (·.1), keep.map (·.2)) }) := by
  have hmove : ¬ (g.val = 0 ∨ (busyLanes s (bondFirst s h g.val)).contains (laneKey s h f.val) = true) := by
    simp only [hg, hidle, Bool.false_eq_true, or_self, not_false_eq_true]
  change execBondLaneMoveBack h g f s = _
  simp only [bondFirst] at hmove
  simp only [execBondLaneMoveBack, Bool.or_eq_true, decide_eq_true_eq, if_neg hmove]

/-- Settles O7, from the equations above. -/
theorem capabilityExchangeEntersActive : Obligations.CapabilityExchangeEntersActive := by
  unfold Obligations.CapabilityExchangeEntersActive
  refine ⟨fun l f s hl hst => ⟨fun hf => exec_capf_badCrc hf l s, fun hf => ⟨fun hfits => ?fits, fun hunfit => ?unfit⟩⟩,
    fun l s hl hst => ⟨fun hno => ?early, fun hyes => ?counted⟩,
    fun l r s => ⟨fun h => exec_down_active h r, fun h => exec_down_bringUp h r⟩,
    fun h g f s hg hidle => exec_bondLaneMoveBack_idle hg hidle⟩
  case fits => exact (exec_capf_valid hl hst hf).trans (congrArg Host.Outcome.next (if_pos hfits))
  case unfit =>
    exact (exec_capf_valid hl hst hf).trans (congrArg Host.Outcome.next (if_neg (Bool.eq_false_iff.mp hunfit)))
  case early => simp only [exec_capabilityFrameSent_exchange hl hst, hno, Bool.false_eq_true, if_false]
  case counted => simp only [exec_capabilityFrameSent_exchange hl hst, hyes, if_true]

end Sys2Proof.Machine
end

section
/-! ## Credit, pause and the registers of a sub-link (R136, R140, R144 to R146, R149, R152)

One equation per outcome of each command; for PING_GO, what it sends and what it remembers. -/

namespace Sys2Proof.Machine

/-! ### Credit and pause (R144 to R146, R149) -/

/-- The largest LIMIT - CONSUMED of each class so far, with limits `lim` in force (R145). -/
def mostShown (lim old con : List Nat) : List Nat :=
  (List.range 4).map fun c => max (old.getD c 0) ((lim.getD c 0 + 4096 - con.getD c 0) % 4096)

section
variable {l : LL} {s : State} (hon : layerOn s l.val = true)
include hon

theorem exec_credit_on (np : Bool) (c0 c1 c2 c3 : BitVec 12) :
    let lim := [c0.toNat, c1.toNat, c2.toNat, c3.toNat]
    exec (.credit l np c0 c1 c2 c3) s = .next (updLink s l.val fun x =>
      if np then { x with limNp := lim, maxNp := mostShown lim x.maxNp x.conNp, gotNp := true }
      else { x with limP := lim, maxP := mostShown lim x.maxP x.conP, gotP := true }) := by
  change execCredit l np c0 c1 c2 c3 s = _
  simp only [execCredit, hon, Bool.not_true, Bool.false_eq_true, if_false]
  cases np <;> rfl

theorem exec_creditRefresh_on :
    exec (.creditRefresh l) s = .next (creditBlock (creditBlock s l.val false) l.val true) := by
  change execCreditRefresh l s = _
  rw [execCreditRefresh, if_pos hon]

theorem exec_pause_local (ht : isTether s l.val = false) (xoff : Bool) (f : FlowNo) :
    exec (.pause l xoff f) s = .next (bumpR s (llReg l.val 0x028)) := by
  change execPause l xoff f s = _
  simp only [execPause, hon, ht, Bool.not_true, Bool.not_false, Bool.false_eq_true, if_false, if_true]

theorem exec_pause_tether (ht : isTether s l.val = true) (xoff : Bool) (f : FlowNo) :
    exec (.pause l xoff f) s = .next (updLink s l.val fun y =>
      { y with paused := (y.paused.filter fun p => p.1 != f.val) ++ (if xoff then [(f.val, s.clk)] else []) }) := by
  change execPause l xoff f s = _
  simp only [execPause, hon, ht, Bool.not_true, Bool.false_eq_true, if_false]
  cases xoff with
  | true => rfl
  | false => simp only [Bool.false_eq_true, if_false, List.append_nil]

theorem exec_pauseRefresh_held {f : FlowNo} (hx : (link s l.val).xoff.any (fun p => p.1 == f.val) = true) :
    exec (.pauseRefresh l f) s = .next (emit s (.block l.val (.pause true f.val))) := by
  change execPauseRefresh l f s = _
  rw [execPauseRefresh, hon, hx, Bool.true_and, if_pos rfl]

end

/-! ### FORCE_DOWN and the counters (R140, R152) -/

/-- A seal pass that has to start again is no matter of a sub-link. -/
theorem link_sealTouch (s : State) (h : Half) (c : Bool) (k : Nat) : link (sealTouch s h c) k = link s k := by
  rw [sealTouch_frame]
  rfl

/-- The state after FORCE_DOWN of sub-link `l` has been written 1. -/
def forcedDown (s : State) (l : Nat) : State :=
  sealTouch (updLink s l fun x => { x with forceDown := true }) (halfOfLink l) ((link s l).forceDown != true)

theorem link_forcedDown_st {s : State} (hw : Tab.wf LlSt.reset s.links = true) (l : Nat) :
    (link (forcedDown s l) l).st = (link s l).st := by
  rw [forcedDown, link_sealTouch, link_updLink hw, if_pos rfl]

theorem forceDown_active {s : State} {l : Nat} (hw : Tab.wf LlSt.reset s.links = true) (h : (link s l).st = .active) :
    forceDown s l true = leaveActive (forcedDown s l) l 8 := by
  have hst : (link (forcedDown s l) l).st = .active := (link_forcedDown_st hw l).trans h
  rw [forcedDown] at hst ⊢
  simp only [forceDown, hst, Bool.not_true, Bool.false_eq_true, if_false]

theorem forceDown_detect {s : State} {l : Nat} (hw : Tab.wf LlSt.reset s.links = true) (h : (link s l).st = .detect) :
    forceDown s l true = forcedDown s l := by
  have hst : (link (forcedDown s l) l).st = .detect := (link_forcedDown_st hw l).trans h
  rw [forcedDown] at hst ⊢
  simp only [forceDown, hst, Bool.not_true, Bool.false_eq_true, if_false]

/-! ### PING_GO (R136, R152) -/

/-- Taking a tag uses one free value and nothing else. -/
theorem pickTag_some {s s2 : State} {side : TagSide} {sp : Nat × Nat × Nat} {tag : Nat}
    (h : pickTag s side sp = (some tag, s2)) : s2 = { s with freeCtr := s.freeCtr + 1 } := by
  rw [pickTag] at h
  split at h
  · exact absurd (congrArg Prod.fst h) (Option.some_ne_none tag).symm
  · exact (congrArg Prod.snd h).symm

/-- With room in the replay buffer and nothing kept back, a packet of the link layer's own leaves at once. -/
theorem linkSend_room {s : State} {l : Nat} (hroom : (link s l).replay.length < 256) (howed : (link s l).owed = [])
    (p : Pkt) (txn : Nat) (src : Option End) : linkSend s l p txn src = sendPkt s l p txn src := by
  simp only [linkSend, hroom, howed, List.isEmpty_nil, decide_true, Bool.and_self, if_true]

/-- A packet as it leaves: it takes the sub-link's next SEQ, and its CRC. -/
def stamped (s : State) (l : Nat) (p : Pkt) : Pkt :=
  let p1 := { p with seq := BitVec.ofNat 10 (link s l).txSeq }
  { p1 with crc := pktCrc p1 }

theorem sendPkt_out (s : State) (l : Nat) (p : Pkt) (txn : Nat) (src : Option End) :
    (sendPkt s l p txn src).out = s.out ++ [.packet l (stamped s l p)] := rfl

theorem link_sendPkt_ping {s : State} (hw : Tab.wf LlSt.reset s.links = true) (l : Nat) (p : Pkt) (txn : Nat)
    (src : Option End) : (link (sendPkt s l p txn src) l).ping = (link s l).ping := by
  simp only [sendPkt, emit_link_eq, bumpR_link_eq, link_updLink hw, if_true]

/-- The state in which sub-link `l` has taken a tag for a PING that leaves now. -/
def pingTagTaken (s : State) (l tag : Nat) : State :=
  updFab { s with freeCtr := s.freeCtr + 1 } fun x =>
    { x with tags := x.tags ++ [⟨linkSide (tetherName s l), tag, 0, 0, l, s.clk, true, false⟩] }

/-- ... and remembers its tag and time. -/
def pingTagged (s : State) (l tag : Nat) : State :=
  updLink (pingTagTaken s l tag) l fun x => { x with ping := some (tag, s.clk) }

section
variable {s : State} {l tag : Nat}

theorem pingGo_tagged {s2 : State} (hon : layerOn s l = true)
    (hpick : pickTag s (linkSide (tetherName s l)) (0, 4096, 4096) = (some tag, s2)) :
    pingGo s l = linkSend (pingTagged s l tag) l (mkPkt 0 0 0 tag 0 0 []) 0 none := by
  have hs2 := pickTag_some hpick
  simp only [pingGo, hon, hpick, Bool.not_true, Bool.false_eq_true, if_false, hs2]
  rfl

variable (hw : Tab.wf LlSt.reset s.links = true)
include hw

theorem link_pingTagged : link (pingTagged s l tag) l = { link s l with ping := some (tag, s.clk) } := by
  have hlinks : Tab.wf LlSt.reset (pingTagTaken s l tag).links = true := hw
  rw [pingTagged, link_updLink hlinks, if_pos rfl]
  rfl

/-- The PING leaves, and the sub-link remembers its tag and time. -/
theorem pingGo_sends {s2 : State} (hon : layerOn s l = true) (hroom : (link s l).replay.length < 256)
    (howed : (link s l).owed = [])
    (hpick : pickTag s (linkSide (tetherName s l)) (0, 4096, 4096) = (some tag, s2)) :
    (link (pingGo s l) l).ping = some (tag, s.clk) ∧
      (pingGo s l).out = s.out ++ [.packet l (stamped (pingTagged s l tag) l (mkPkt 0 0 0 tag 0 0 []))] := by
  have hlink : link (pingTagged s l tag) l = { link s l with ping := some (tag, s.clk) } := link_pingTagged hw
  have hsend : pingGo s l = sendPkt (pingTagged s l tag) l (mkPkt 0 0 0 tag 0 0 []) 0 none := by
    rw [pingGo_tagged hon hpick, linkSend_room (by rw [hlink]; exact hroom) (by rw [hlink]; exact howed)]
  have hwt : Tab.wf LlSt.reset (pingTagged s l tag).links = true := updLink_wf (s := pingTagTaken s l tag) hw l _
  rw [hsend, link_sendPkt_ping hwt, hlink]
  exact ⟨rfl, sendPkt_out _ _ _ _ _⟩

end

/-! ### The registers over an open path (R152) -/

section
variable {s : State} {p : Path} {l : LL} (ho : regOpen s p (halfOfLink l.val))
include ho

theorem exec_lpForceDown_open (v : Bool) : exec (.lpForceDown p l v) s = .next (forceDown s l.val v) := by
  change execLpForceDown p l v s = _
  rw [execLpForceDown, regAct_open ho]

theorem exec_pingGo_open : exec (.pingGo p l) s = .next (pingGo s l.val) := by
  change execPingGo p l s = _
  rw [execPingGo, regAct_open ho]

theorem exec_lpCntClr_open :
    exec (.lpCntClr p l) s = .next (clearCounts s (llCounters.map fun o => rkey (llReg l.val o))) := by
  change execLpCntClr p l s = _
  rw [execLpCntClr, regAct_open ho]

end

/-- Settles O11, from the lemmas above. -/
theorem creditPauseAndLinkControls : Obligations.CreditPauseAndLinkControls := by
  unfold Obligations.CreditPauseAndLinkControls
  refine ⟨fun l np c0 c1 c2 c3 s hon => exec_credit_on hon np c0 c1 c2 c3, fun l s hon => exec_creditRefresh_on hon,
    fun l x f s hon => ⟨fun ht => exec_pause_local hon ht x f, fun ht => exec_pause_tether hon ht x f,
      fun hx => exec_pauseRefresh_held hon hx⟩,
    fun l f s => rfl, fun p l s ho hw => ⟨fun hst => ?forceActive, fun hst => ?forceDetect,
      fun hon hroom howed tag s2 hpick => ?ping, exec_lpCntClr_open ho⟩⟩
  case forceActive => rw [exec_lpForceDown_open ho, forceDown_active hw hst]; rfl
  case forceDetect => rw [exec_lpForceDown_open ho, forceDown_detect hw hst]; rfl
  case ping =>
    obtain ⟨hping, hout⟩ := pingGo_sends hw hon hroom howed hpick
    exact ⟨pingGo s l.val, exec_pingGo_open ho, hping, _, hout, rfl, rfl⟩

end Sys2Proof.Machine
end

section
/-! ## Shapers, packet starts and the credit-wait report (R141, R144, R145, R219, R229, R230)

One equation per outcome of each command. -/

namespace Sys2Proof.Machine

/-! ### The shaper of a flow (R219) -/

/-- Flow `f`'s first transaction with payload that its shaper has not released. -/
def firstUnreleased (s : State) (f : Nat) : Option Txn :=
  s.fab.txns.find? fun t => t.flow == f && !t.released && t.kind != .cpl && payLen t != 0

theorem exec_shaperRelease_shaped {f : FlowNo} {t : Txn} {s : State} (ht : firstUnreleased s f.val = some t)
    (hs : shaped s t.home f.val = true) :
    let x := refilled s t.home f.val
    exec (.shaperRelease f) s = .next (
      if (payLen t : Int) ≤ x.tokens ∨
          (flowBurst s t.home f.val < payLen t ∧ x.tokens = (flowBurst s t.home f.val : Int)) then
        updTxn (updFlow s f.val fun _ => { x with tokens := x.tokens - (payLen t : Int) }) t.id
          fun u => { u with released := true }
      else updFlow s f.val fun _ => x) := by
  rw [firstUnreleased] at ht
  change execShaperRelease f s = _
  simp only [execShaperRelease, ht, hs, Bool.not_true, Bool.false_eq_true, if_false, Bool.or_eq_true, Bool.and_eq_true,
    decide_eq_true_eq]

/-! ### The shaper of a link, and a link without one (R141, R229, R230) -/

/-- What a packet that may start costs the shaper: its length on the link. -/
def shaperCost (s : State) (l : Nat) (t : Txn) : Nat :=
  onLink (match t.op with | .read => 0 | _ => nextLen s l t)

/-- A C0 packet could go before a packet of another class. -/
def c0Ahead (s : State) (l : Nat) (t : Txn) : Bool :=
  t.cls != 0 && s.fab.txns.any fun u => u.cls == 0 && mayStart s l u

theorem c0Ahead_eq_true_iff (s : State) (l : Nat) (t : Txn) :
    c0Ahead s l t = true ↔ t.cls ≠ 0 ∧ (s.fab.txns.any fun u => u.cls == 0 && mayStart s l u) = true := by
  rw [c0Ahead, Bool.and_eq_true, bne_iff_ne]

section
variable {l : LL} {id : Nat} {t : Txn} {s : State} (ht : txn? s id = some t)
  (hcar : carries s (halfOfLink l.val) = true) (hg : gateTxn s t = none)
include ht hcar hg

theorem exec_egressPacketStart_unshaped (hsh : (link s l.val).shTok = none) :
    exec (.egressPacketStart l id) s = .next (if mayStart s l.val t then startPacket s l.val t else s) := by
  change execEgressPacketStart l id s = _
  simp only [execEgressPacketStart, ht, hcar, hg, hsh, Option.isSome_none, Bool.not_true, Bool.or_false,
    Bool.false_eq_true, if_false]

section
variable (hsh : (link s l.val).shTok ≠ none) (hmay : mayStart s l.val t = true)
include hsh hmay

theorem exec_linkShaperPacketStart_may :
    let x := shRefill s (link s l.val)
    exec (.linkShaperPacketStart l id) s = .next (
      if decide ((shaperCost s l.val t : Int) ≤ x.shTok.getD 0) && !c0Ahead s l.val t then
        startPacket (updFlow (updLink s l.val fun _ =>
          { x with shTok := some (x.shTok.getD 0 - (shaperCost s l.val t : Int)) }) t.flow
          fun y => { y with capHeld := false }) l.val t
      else updFlow (updLink s l.val fun _ => x) t.flow fun y => { y with capHeld := true }) := by
  have hin : (link s l.val).shTok.isNone = false :=
    Option.isNone_eq_false_iff.mpr (Option.isSome_iff_ne_none.mpr hsh)
  change execLinkShaperPacketStart l id s = _
  simp only [execLinkShaperPacketStart, ht, hcar, hg, hin, hmay, Bool.not_true, Bool.or_false, Bool.false_eq_true,
    if_false]
  rfl

theorem exec_linkShaperPacketStart_leaves
    (hcost : (shaperCost s l.val t : Int) ≤ (shRefill s (link s l.val)).shTok.getD 0)
    (hahead : c0Ahead s l.val t = false) :
    let x := shRefill s (link s l.val)
    exec (.linkShaperPacketStart l id) s = .next (startPacket (updFlow (updLink s l.val fun _ =>
      { x with shTok := some (x.shTok.getD 0 - (shaperCost s l.val t : Int)) }) t.flow
      fun y => { y with capHeld := false }) l.val t) := by
  intro x
  rw [exec_linkShaperPacketStart_may ht hcar hg hsh hmay, hahead, decide_eq_true hcost]
  rfl

theorem exec_linkShaperPacketStart_waits
    (hwait : (shRefill s (link s l.val)).shTok.getD 0 < (shaperCost s l.val t : Int) ∨ c0Ahead s l.val t = true) :
    exec (.linkShaperPacketStart l id) s = .next (updFlow (updLink s l.val fun _ => shRefill s (link s l.val)) t.flow
      fun y => { y with capHeld := true }) := by
  have hno : (decide ((shaperCost s l.val t : Int) ≤ (shRefill s (link s l.val)).shTok.getD 0) &&
      !c0Ahead s l.val t) = false := by
    rcases hwait with hlow | hahead
    · rw [decide_eq_false (Int.not_le.mpr hlow), Bool.false_and]
    · rw [hahead, Bool.not_true, Bool.and_false]
  rw [exec_linkShaperPacketStart_may ht hcar hg hsh hmay, hno]
  rfl

end
end

/-! ### The credit-wait report (R145) -/

/-- Kind and units of credit that a transaction's next packet asks for. -/
def nextCost (s : State) (l : Nat) (t : Txn) : Option Kind × Nat :=
  pktCost (pktOf t (nextLen s l t) 0).typ.toNat (nextLen s l t)

section
variable {l : LL} {id a : Nat} {t : Txn} {s : State} (ht : txn? s id = some t) (hsink : t.sink = .link a)
  (hmem : (bondMembers s a).contains l.val = true) (hact : linkActive s l.val = true)
include ht hsink hmem hact

/-- More credit is asked for than the partner ever showed of that kind. -/
theorem exec_creditWaitTimeout_short {k : Kind} (hk : (nextCost s l.val t).1 = some k)
    (hmost : (if k = .np then (link s l.val).maxNp else (link s l.val).maxP).getD t.cls 0 < (nextCost s l.val t).2) :
    exec (.creditWaitTimeout l id) s = .next (updLink s l.val fun y => { y with evt := y.evt ||| 0x40 }) := by
  rw [nextCost] at hk hmost
  change execCreditWaitTimeout l id s = _
  simp only [execCreditWaitTimeout, ht, hk, hact, hsink, hmem, Option.isSome_some, Bool.true_and, Bool.and_true,
    decide_eq_true_eq]
  cases k <;> exact congrArg Host.Outcome.next (if_pos hmost)

end

/-- Settles O28, from the equations above. -/
theorem shapersReleaseAgainstTheirTokens : Obligations.ShapersReleaseAgainstTheirTokens := by
  unfold Obligations.ShapersReleaseAgainstTheirTokens
  refine ⟨fun f t s ht hs => exec_shaperRelease_shaped ht hs, fun h f s => rfl,
    fun l id t s ht hcar hg hsh hmay => ⟨fun hcost hahead => ?leaves, fun hwait => ?waits⟩,
    fun l id t s ht hcar hg hsh => exec_egressPacketStart_unshaped ht hcar hg hsh,
    fun l id t a s ht hsink hmem hact => ⟨fun hk hmost => exec_creditWaitTimeout_short ht hsink hmem hact hk hmost,
      fun hk hmost => exec_creditWaitTimeout_short ht hsink hmem hact hk hmost⟩⟩
  case leaves =>
    have hfirst : c0Ahead s l.val t = false := Bool.eq_false_iff.mpr (mt (c0Ahead_eq_true_iff s l.val t).mp hahead)
    exact exec_linkShaperPacketStart_leaves ht hcar hg hsh hmay hcost hfirst
  case waits =>
    exact exec_linkShaperPacketStart_waits ht hcar hg hsh hmay (hwait.imp_right (c0Ahead_eq_true_iff s l.val t).mpr)

end Sys2Proof.Machine
end

section
/-! ## Units, slots, tags, DMA queues and the flow window (R171, R174, R208, R209, R235 to R237, R242, R254)

One equation per outcome of each command: an expiry that finds what it names, one that finds nothing, and a register
over an open path. -/

namespace Sys2Proof.Machine

/-! ### Prefetch units (R171) -/

section
variable {m : HL} {f : Fn} {w : Fin 8} {off : Nat} {u : PfUnit} {s : State}
  (hu : (s.brdg.units.find? fun u => u.fn == 64 * m.val + f.val && u.w == w.val && u.off == off) = some u)
include hu

theorem exec_prefetchLifetimeExpiry_held {d : List Byte} {se : Bool} (hst : u.st = .got d se) :
    exec (.prefetchLifetimeExpiry m f w off) s = .next (pfDiscard s u) := by
  change execPrefetchLifetimeExpiry m f w off s = _
  simp only [execPrefetchLifetimeExpiry, hu, hst]

theorem exec_prefetchLifetimeExpiry_inFlight (hst : u.st = .waiting) :
    exec (.prefetchLifetimeExpiry m f w off) s = .next s := by
  change execPrefetchLifetimeExpiry m f w off s = _
  simp only [execPrefetchLifetimeExpiry, hu, hst]

end

/-! ### The side-effect slot (R174) -/

section
variable {m : HL} {f : Fn} {s : State}

theorem exec_slotHoldExpiry_occupied (hval : (fn s (64 * m.val + f.val)).slotVal = true) :
    exec (.slotHoldExpiry m f) s = .next (bump (logC
      (updFn s (64 * m.val + f.val) fun x => { x with slotVal := false, slotData := [] }) (halfOfHl m.val) 0x05
      (64 * m.val + f.val) (addr := (fn s (64 * m.val + f.val)).slotTag)) 0x4807 2) := by
  change execSlotHoldExpiry m f s = _
  simp only [execSlotHoldExpiry, hval, if_true]

theorem exec_slotHoldExpiry_empty (hval : (fn s (64 * m.val + f.val)).slotVal = false) :
    exec (.slotHoldExpiry m f) s = .next s := by
  change execSlotHoldExpiry m f s = _
  simp only [execSlotHoldExpiry, hval, Bool.false_eq_true, if_false]

theorem exec_winSlotFree_open {p : Path} (ho : regOpen s p (halfOfHl m.val)) :
    exec (.winSlotFree p m f) s = .next (slotFree s (64 * m.val + f.val)) := by
  change execWinSlotFree p m f s = _
  rw [execWinSlotFree, regAct_open ho]

end

/-! ### Requests that time out (R208, R254) and quarantine (R209) -/

/-- The request, no PING, that tag `tag` of `side` stands for. -/
def awaitedTag (s : State) (side : TagSide) (tag : Nat) : Option TagUse :=
  s.fab.tags.find? fun u => u.side == side && u.tag == tag && !u.ping

theorem exec_completionTimeout_noTag {side : TagSide} {tag : BitVec 14} {s : State}
    (hnone : awaitedTag s side tag.toNat = none) (hside : ∀ e, side ≠ .move e) :
    exec (.completionTimeout side tag) s = .next s := by
  rw [awaitedTag] at hnone
  change execCompletionTimeout side tag s = _
  cases side with
  | host m => simp only [execCompletionTimeout, hnone]
  | link l => simp only [execCompletionTimeout, hnone]
  | move e => exact absurd rfl (hside e)

theorem exec_completionTimeout_host {m : HL} {tag : BitVec 14} {u : TagUse} {s : State}
    (hu : awaitedTag s (.host m) tag.toNat = some u) (hreq : u.req ≠ 0) :
    exec (.completionTimeout (.host m) tag) s = .next (failPart
      (bump (aerCTO (quarantine s (.host m) tag.toNat (tagUs s u)) u.fn) 0x5E11 (hsub (sideHalf (.host m))))
      u.req u.part 3 (sideHalf (.host m))) := by
  rw [awaitedTag] at hu
  change execCompletionTimeout (.host m) tag s = _
  simp only [execCompletionTimeout, hu, if_neg hreq]

theorem exec_completionTimeout_link {l : LL} {tag : BitVec 14} {u : TagUse} {s : State}
    (hu : awaitedTag s (.link l) tag.toNat = some u) (hreq : u.req ≠ 0) :
    exec (.completionTimeout (.link l) tag) s = .next (failPart
      (bump (quarantine s (.link l) tag.toNat (tagUs s u)) 0x5E12 (hsub (sideHalf (.link l))))
      u.req u.part 3 (sideHalf (.link l))) := by
  rw [awaitedTag] at hu
  change execCompletionTimeout (.link l) tag s = _
  simp only [execCompletionTimeout, hu, if_neg hreq]

section
variable {e : SE} {tag : BitVec 14} {s : State}

theorem exec_completionTimeout_noMove (hnone : engineMove s e tag.toNat = none) :
    exec (.completionTimeout (.move e) tag) s = .next s := by
  change execCompletionTimeout (.move e) tag s = _
  simp only [execCompletionTimeout, moveTimeout, hnone]

theorem exec_completionTimeout_move {r : Req} (hr : engineMove s e tag.toNat = some r) :
    exec (.completionTimeout (.move e) tag) s = .next (failReq s r.id 3 (halfOfEng e.val)) := by
  change execCompletionTimeout (.move e) tag s = _
  simp only [execCompletionTimeout, moveTimeout, hr]

end

theorem exec_quarantineEnd (side : TagSide) (tag : BitVec 14) (s : State) :
    exec (.quarantineEnd side tag) s =
      .next (updFab s fun x => { x with quars := x.quars.filter fun q => !(q.side == side && q.tag == tag.toNat) }) :=
  rfl

/-! ### DMA queues (R235 to R237) -/

section
variable {p : Path} {q : DQ} {s : State}

/-- A path other than an unprivileged function's writes the privileged register. -/
theorem exec_flowDqProd_open (ho : regOpen s p (halfOfDq q.val)) (hpriv : ∀ m f, p = .reg m f → f.val = 0)
    (v : BitVec 16) : exec (.flowDqProd p q v) s = .next (dqProd s q.val v.toNat) := by
  change execFlowDqProd p q v s = _
  cases p with
  | reg m f =>
    have hpf0 : ¬ (f.val ≠ 0 ∧ dqEn s q.val = true ∧ dqOwner s q.val = 64 * m.val + f.val) :=
      fun ⟨hf, _⟩ => hf (hpriv m f rfl)
    simp only [execFlowDqProd, if_neg hpf0, regAct_open ho]
  | mbx m => simp only [execFlowDqProd, regAct_open ho]
  | field n => simp only [execFlowDqProd, regAct_open ho]
  | steward h => simp only [execFlowDqProd, regAct_open ho]

/-- The owner writes its own view. -/
theorem exec_flowDqProd_owner {m : HL} {f : Fn} (hf : f.val ≠ 0) (hen : dqEn s q.val = true)
    (hown : dqOwner s q.val = 64 * m.val + f.val) (hlive : pathLive s (.reg m f) = true) (v : BitVec 16) :
    exec (.flowDqProd (.reg m f) q v) s = .next (dqProd s q.val v.toNat) := by
  change execFlowDqProd (.reg m f) q v s = _
  simp only [execFlowDqProd, if_pos (And.intro hf (And.intro hen hown)), if_pos hlive]

theorem exec_flowDqRestart_open (ho : regOpen s p (halfOfDq q.val)) :
    exec (.flowDqRestart p q) s = .next (dqRestart s q.val) := by
  change execFlowDqRestart p q s = _
  rw [execFlowDqRestart, regAct_open ho]

end

/-! ### The flow window (R242) -/

theorem exec_flowSel_open {p : Path} {s : State} (ho : regOpen s p (pathHalf s p)) (f : BitVec 14) :
    exec (.flowSel p f) s = .next (flowSelSet s p f.toNat) := by
  change execFlowSel p f s = _
  rw [execFlowSel, regAct_open ho]

/-- Settles O39, from the equations above. -/
theorem unitsSlotsTagsAndQueuesAdvance : Obligations.UnitsSlotsTagsAndQueuesAdvance := by
  unfold Obligations.UnitsSlotsTagsAndQueuesAdvance
  refine ⟨fun m f w off u s hu => ⟨fun d se => exec_prefetchLifetimeExpiry_held hu,
      exec_prefetchLifetimeExpiry_inFlight hu⟩,
    fun m f p s => ⟨exec_slotHoldExpiry_occupied, exec_slotHoldExpiry_empty, exec_winSlotFree_open⟩,
    fun side tag s => ⟨exec_completionTimeout_noTag, fun u hu hreq => ⟨?host, ?link⟩, exec_quarantineEnd side tag s⟩,
    fun e tag s => ⟨exec_completionTimeout_noMove, fun r => exec_completionTimeout_move⟩,
    fun p q v s => ⟨fun ho hpriv => exec_flowDqProd_open ho hpriv v, ?owner, exec_flowDqRestart_open⟩,
    fun p f s ho => exec_flowSel_open ho f⟩
  case host =>
    rintro m rfl
    exact exec_completionTimeout_host hu hreq
  case link =>
    rintro l rfl
    exact exec_completionTimeout_link hu hreq
  case owner =>
    rintro m f rfl hf hen hown hlive
    exact exec_flowDqProd_owner hf hen hown hlive v

end Sys2Proof.Machine
end

section
/-! ## Semaphore units, waits and holds (R185, R186, R189, R190)

What one turn of the queue does, what the release of a unit leads to, and then one equation per outcome of each
command. -/

namespace Sys2Proof.Machine

/-! ### The queue (R185) -/

theorem semServe_waiting {s : State} {n l rid : Nat} {rest : List (Nat × Nat)}
    (hw : (sem s n).waiters = (l, rid) :: rest) (k : Nat) :
    semServe (k + 1) s n = if semEn s n ∧ semUsed (sem s n) < semCount s n then
      semServe k (semGrant (updSem s n fun y => { y with waiters := rest }) n l rid) n else s := by
  simp only [semServe, hw, Bool.and_eq_true, decide_eq_true_eq]

/-! ### A released unit (R189) -/

section
variable {n : Sem} {l : LL} {p : Nat × Nat} {s : State}
  (hp : ((sem s n.val).freeing.find? fun p => p.1 == tetherName s l.val) = some p)
include hp

theorem exec_semaphoreUnitFree_open (hopen : semCommitted s (tetherName s l.val) p.2 = false) :
    exec (.semaphoreUnitFree n l) s = .next s := by
  change execSemaphoreUnitFree n l s = _
  simp only [execSemaphoreUnitFree, semFree, hp, hopen, Bool.false_eq_true, if_false]

theorem exec_semaphoreUnitFree_committed (hdone : semCommitted s (tetherName s l.val) p.2 = true) :
    exec (.semaphoreUnitFree n l) s =
      .next (semServe 192 (updSem s n.val fun x => { x with freeing := x.freeing.erase p }) n.val) := by
  change execSemaphoreUnitFree n l s = _
  simp only [execSemaphoreUnitFree, semFree, hp, hdone, if_true]

end

/-! ### Waits that end (R186) and holds that end (R190) -/

section
variable {n : Sem} {l : LL} {s : State}

theorem exec_acquireTimeout_idle
    (hnone : ((sem s n.val).waiters.find? fun p => p.1 == tetherName s l.val) = none) :
    exec (.acquireTimeout n l) s = .next s := by
  change execAcquireTimeout n l s = _
  simp only [execAcquireTimeout, hnone]

theorem exec_acquireTimeout_waiting {k rid : Nat}
    (hw : ((sem s n.val).waiters.find? fun p => p.1 == tetherName s l.val) = some (k, rid)) :
    exec (.acquireTimeout n l) s = .next (failPart (bump (updSem s n.val fun x =>
      { x with waiters := x.waiters.filter fun q => q.1 != tetherName s l.val }) 0x5E01 (hsub (halfOfSem n.val)))
      rid 0 3 (halfOfSem n.val)) := by
  change execAcquireTimeout n l s = _
  simp only [execAcquireTimeout, hw]

theorem exec_holdLimitExpiry_idle
    (hnone : ((sem s n.val).holders.any fun p => p.1 == tetherName s l.val) = false) :
    exec (.holdLimitExpiry n l) s = .next s := by
  change execHoldLimitExpiry n l s = _
  simp only [execHoldLimitExpiry, hnone, Bool.false_eq_true, if_false]

theorem exec_holdLimitExpiry_holder
    (hheld : ((sem s n.val).holders.any fun p => p.1 == tetherName s l.val) = true) :
    exec (.holdLimitExpiry n l) s = .next (semFree
      (semRelease (semForced s n.val (tetherName s l.val) 2) n.val (tetherName s l.val)) n.val
      (tetherName s l.val)) := by
  change execHoldLimitExpiry n l s = _
  simp only [execHoldLimitExpiry, hheld, if_true]

end

/-- Settles O30, from the equations above. -/
theorem semaphoreUnitsFreeTimeOutAndExpire : Obligations.SemaphoreUnitsFreeTimeOutAndExpire := by
  unfold Obligations.SemaphoreUnitsFreeTimeOutAndExpire
  exact ⟨fun n l k b s hp => ⟨exec_semaphoreUnitFree_open hp, exec_semaphoreUnitFree_committed hp⟩,
    fun n l s => ⟨exec_acquireTimeout_idle, fun k rid => exec_acquireTimeout_waiting⟩,
    fun n l s => ⟨exec_holdLimitExpiry_idle, exec_holdLimitExpiry_holder⟩,
    fun n l rid k rest s hw => semServe_waiting hw k⟩

end Sys2Proof.Machine
end

section
/-! ## Mirror groups (R194, R198, R200, R201, R203, R204)

A boundary is one of three things: a pass, a skip, a note to resume. Then what a pass writes into its group when it
begins and ends, what a restart leaves, and the budget. -/

namespace Sys2Proof.Machine

/-! ### Boundaries (R198, R200, R201, R203) -/

section
variable {g : Nat} {s : State} {pass : State → Nat → State}

theorem mgBoundary_paused (hp : mgPaused s g ≠ 0) :
    mgBoundary s g pass = updMg s g fun x => { x with resume := true } := by
  simp only [mgBoundary, bne_iff_ne, if_pos hp]

section
variable (hp : mgPaused s g = 0)
include hp

theorem mgBoundary_running (hrun : (mg s g).running = true) : mgBoundary s g pass = mgSkip s g := by
  simp only [mgBoundary, hp, bne_self_eq_false, Bool.false_eq_true, if_false, hrun, if_true]

theorem mgBoundary_passes (hidle : (mg s g).running = false) : mgBoundary s g pass = pass s g := by
  simp only [mgBoundary, hp, bne_self_eq_false, hidle, Bool.false_eq_true, if_false]

end
end

section
variable {g : MG} {s : State} (hlive : mgLive s g.val = true)
include hlive

theorem exec_mirrorBoundaryUp_live (hup : mgDown s g.val = false) :
    exec (.mirrorBoundaryUp g) s = .next (mgBoundary s g.val mgPassUp) := by
  change execMirrorBoundaryUp g s = _
  simp only [execMirrorBoundaryUp, hlive, hup, Bool.not_false, Bool.and_self, if_true]

theorem exec_mirrorBoundaryDown_live (hdown : mgDown s g.val = true) :
    exec (.mirrorBoundaryDown g) s = .next (mgBoundary s g.val mgPassDown) := by
  change execMirrorBoundaryDown g s = _
  simp only [execMirrorBoundaryDown, hlive, hdown, Bool.and_self, if_true]

/-- The boundary of the group's own direction. -/
theorem exec_mirrorBoundary_live :
    exec (if mgDown s g.val then .mirrorBoundaryDown g else .mirrorBoundaryUp g) s =
      .next (mgBoundary s g.val (if mgDown s g.val then mgPassDown else mgPassUp)) := by
  cases hd : mgDown s g.val with
  | false => exact exec_mirrorBoundaryUp_live hlive hd
  | true => exact exec_mirrorBoundaryDown_live hlive hd

end

/-- The stretch grows up to its largest value, with an event at the first growth and at each skip from there on. -/
theorem mgSkip_eq (s : State) (g : Nat) :
    mgSkip s g = (
      let s1 := bump s 0x5E0A (hsub (halfOfMg g))
      let k := (mg s1 g).stretch
      if k < mgStretchMax s1 g then
        let t := updMg s1 g fun x => { x with stretch := x.stretch + 1, halfRuns := 0 }
        if k = 0 then raiseEv t (halfOfMg g) 8 g 1 0 else t
      else raiseEv s1 (halfOfMg g) 9 g k 0) := by
  simp only [mgSkip, onlyIf, beq_iff_eq]

/-! ### A pass begins (R198) -/

theorem mgPassUp_nothing {s : State} {g : Nat} (hfresh : (mg s g).fresh = false) (hresume : (mg s g).resume = false)
    (hnone : (mg s g).changed = []) : mgPassUp s g = s := by
  simp only [mgPassUp, hfresh, hresume, hnone, Bool.or_self, Bool.false_eq_true, if_false, List.isEmpty_nil, if_true]

section
variable {s : State} (hw : Tab.wf MgSt.reset s.brdg.mgs = true)
include hw

theorem mg_updMg_same (g : Nat) (f : MgSt → MgSt) : mg (updMg s g f) g = f (mg s g) := by
  rw [mg_updMg hw, if_pos rfl]

theorem mg_updMg_other {g k : Nat} (hk : k ≠ g) (f : MgSt → MgSt) : mg (updMg s g f) k = mg s k := by
  rw [mg_updMg hw, if_neg hk]

theorem mg_mgStart_same (g : Nat) : mg (mgStart s g) g =
    { mg s g with seq := if (mg s g).fresh then 1 else ((mg s g).seq + 1) % 2 ^ 64, fresh := false,
                  resume := false, running := true, started := s.clk, changed := [], readDone := false } :=
  mg_updMg_same hw g _

theorem mg_mgStart_other {g k : Nat} (hk : k ≠ g) : mg (mgStart s g) k = mg s k := mg_updMg_other hw hk _

end

/-! ### A pass ends (R200, R201) -/

section
variable {g : MG} {s : State}

theorem exec_mirrorPassEnd_committed (hrun : (mg s g.val).running = true) (hup : mgDown s g.val = false)
    (hend : (s.fab.txns.any fun t => t.mark == .mirrorEnd g.val) = false) :
    exec (.mirrorPassEnd g) s = .next (mgPassDone s g.val) := by
  change execMirrorPassEnd g s = _
  simp only [execMirrorPassEnd, hrun, hup, hend, Bool.not_false, Bool.and_self, if_true]

theorem exec_mirrorPassEnd_open (hend : (s.fab.txns.any fun t => t.mark == .mirrorEnd g.val) = true) :
    exec (.mirrorPassEnd g) s = .next s := by
  change execMirrorPassEnd g s = _
  simp only [execMirrorPassEnd, hend, Bool.not_true, Bool.and_false, Bool.false_eq_true, if_false]

theorem exec_downwardPassAcked_acked (hrun : (mg s g.val).running = true) (hdown : mgDown s g.val = true)
    (hread : (mg s g.val).readDone = true) (hacked : stateUnacked s g.val = false) :
    exec (.downwardPassAcked g) s = .next (mgPassDone (mgWrite s g.val (.mirror g.val) 0
      (bytesLE 8 (mg s g.val).seq ++ bytesLE 8 (mg s g.val).readTime)) g.val) := by
  change execDownwardPassAcked g s = _
  simp only [execDownwardPassAcked, hrun, hread, hdown, hacked, Bool.not_false, Bool.and_self, if_true]

theorem exec_downwardPassAcked_unacked (hopen : stateUnacked s g.val = true) :
    exec (.downwardPassAcked g) s = .next s := by
  change execDownwardPassAcked g s = _
  simp only [execDownwardPassAcked, hopen, Bool.not_true, Bool.and_false, Bool.false_eq_true, if_false]

end

/-- The sixteenth pass in a row within half the spacing lowers the stretch and counts anew. -/
theorem mg_mgPassDone_sixteenth {s : State} {g : Nat} (hw : Tab.wf MgSt.reset s.brdg.mgs = true)
    (hruns : (mg s g).halfRuns = 15) (hquick : 2 * (s.clk - (mg s g).started) ≤ nsToClk (1000 * mgSpacing s g)) :
    mg (mgPassDone s g) g = { mg s g with running := false, doneSeq := (mg s g).seq, readDone := false,
                                          halfRuns := 0, stretch := (mg s g).stretch - 1 } := by
  simp only [mgPassDone, mg_updMg_same hw, hquick, decide_true, if_true, hruns]

/-! ### A restart (R203) -/

theorem exec_flowMgRestart_open {p : Path} {g : MG} {s : State}
    (ho : wideOpen s p (0x5C00 + g.val) (halfOfMg g.val)) :
    exec (.flowMgRestart p g) s = .next (mgRestart s g.val) := by
  change execFlowMgRestart p g s = _
  rw [execFlowMgRestart, regOrObj_open ho]

/-- A group whose progress is forgotten: its next pass is the first. -/
def mgForgotten (x : MgSt) : MgSt :=
  { x with seq := 0, doneSeq := 0, running := false, stretch := 0, halfRuns := 0, reason := 0, fresh := true,
           resume := false, changed := [], sentVals := [], sentAny := false, acks := 0, readDone := false }

section
variable {s : State} (hw : Tab.wf MgSt.reset s.brdg.mgs = true) (g : Nat)
include hw

theorem mg_mgRestart_same : mg (mgRestart s g) g = mgForgotten (mg s g) :=
  mg_updMg_same (s := updFab s _) hw g mgForgotten

theorem mg_mgRestart_other {k : Nat} (hk : k ≠ g) : mg (mgRestart s g) k = mg s k :=
  mg_updMg_other (s := updFab s _) hw hk mgForgotten

end

/-- What has not begun to leave is abandoned. -/
theorem mgRestart_txns (s : State) (g : Nat) :
    (mgRestart s g).fab.txns = s.fab.txns.filter fun t => !(mgOf t == some g && t.left == t.size) := rfl

/-! ### The budget (R200) -/

theorem exec_mirrorBudgetRefill_idle {m : HL} {s : State} (hnone : mirrorTurn s m.val = none) :
    exec (.mirrorBudgetRefill m) s = .next s := by
  change execMirrorBudgetRefill m s = _
  simp only [execMirrorBudgetRefill, hnone]

theorem exec_mirrorBudgetRefill_turn {m : HL} {t : Txn} {s : State} (ht : mirrorTurn s m.val = some t) :
    exec (.mirrorBudgetRefill m) s =
      .next (budgetPut s m.val (min (budgetSpent s m.val) (4096 - t.data.length))) := by
  change execMirrorBudgetRefill m s = _
  simp only [execMirrorBudgetRefill, ht]

/-- Settles O40, from the equations above. -/
theorem mirrorGroupsPassSkipEndAndRestart : Obligations.MirrorGroupsPassSkipEndAndRestart := by
  unfold Obligations.MirrorGroupsPassSkipEndAndRestart
  refine ⟨fun g s hlive => ⟨fun hup hp hidle => ⟨?nothing, ?passUp⟩, ?passDown, ?skips, ?pauses⟩,
    fun g s hw => ⟨mg_mgStart_same hw g, fun k => mg_mgStart_other hw⟩,
    fun g s hrun => ⟨exec_mirrorPassEnd_committed hrun, exec_mirrorPassEnd_open,
      exec_downwardPassAcked_acked hrun, exec_downwardPassAcked_unacked⟩,
    ?sixteenth,
    fun p g s ho hw => ⟨_, exec_flowMgRestart_open ho, mg_mgRestart_same hw g.val, fun k => mg_mgRestart_other hw g.val,
      mgRestart_txns s g.val⟩,
    fun m s => ⟨exec_mirrorBudgetRefill_idle,
      fun t ht _ => ⟨_, exec_mirrorBudgetRefill_turn ht, rfl, rfl⟩⟩⟩
  case passUp => rw [exec_mirrorBoundaryUp_live hlive hup, mgBoundary_passes hp hidle]
  case nothing =>
    intro hfresh hresume hnone
    rw [exec_mirrorBoundaryUp_live hlive hup, mgBoundary_passes hp hidle, mgPassUp_nothing hfresh hresume hnone]
  case passDown =>
    intro hdown hp hidle
    rw [exec_mirrorBoundaryDown_live hlive hdown, mgBoundary_passes hp hidle]
  case skips =>
    intro hp hrun
    rw [exec_mirrorBoundary_live hlive, mgBoundary_running hp hrun, mgSkip_eq]
  case pauses =>
    intro hp
    rw [exec_mirrorBoundary_live hlive, mgBoundary_paused hp]
  case sixteenth =>
    intro g s hw hruns hquick
    rw [mg_mgPassDone_sixteenth hw hruns hquick]
    exact ⟨rfl, rfl, rfl⟩

end Sys2Proof.Machine
end

section
/-! ## The brine (R223, R224, R225, R227, R240, R241)

What an update of a half's brine leaves in it, then one equation per outcome of each command: a segment that is
written, one that a full channel keeps in the tail, a read above and below REFILL, one channel at the end of a window,
and a training. -/

namespace Sys2Proof.Machine

@[simp] theorem brine_updBrine (s : State) (h : Half) (f : BrineSt → BrineSt) :
    brine (updBrine s h f) h = f (brine s h) := by cases h <;> rfl

/-! ### A segment is written (R223, R224, R225) -/

/-- The epoch of a half's current interleave key (CUR_EPOCH, R225). -/
def writeEpoch (s : State) (h : Half) : Nat := cfg s h 0x5605 (hsub h) % 2

/-- The channel that the current key selects for flow `f`'s next segment. -/
def nextChan (s : State) (h : Half) (f : Nat) : Nat :=
  brineChannel (brineKey s h (writeEpoch s h)) (BitVec.ofNat 32 f) (BitVec.ofNat 32 (flowSt s f).bseq)

section
variable {f : FlowNo} {c : Cell} {s : State} (hc : tailCell s f.val = some c) (hcar : carries s c.half = true)
  (hup : brineUp s c.half = true) (hceil : brineOcc s c.half f.val < flowBrineCeil s c.half f.val)
include hc hcar hup hceil

theorem exec_brineSegmentWrite_up :
    exec (.brineSegmentWrite f) s = .next (
      if brineSegs s c.half ≤ chanUsed s c.half (nextChan s c.half f.val) then
        (let s1 := bump s 0x5702 (hsub c.half)
         match cellTxn s1 c with
         | some t => holdBack s1 t
         | none => s1)
      else brineMoved
        (updFlow (moveCell s c.id (.brine (nextChan s c.half f.val) (writeEpoch s c.half) (flowSt s f.val).bseq)) f.val
          fun x => { x with bseq := (x.bseq + 1) % 2 ^ 32, epoch := writeEpoch s c.half == 1 })
        c.half (nextChan s c.half f.val)) := by
  change execBrineSegmentWrite f s = _
  simp only [execBrineSegmentWrite, hc, hcar, hup, Nat.not_le.mpr hceil, Bool.not_true, Bool.or_self,
    decide_false, Bool.false_eq_true, if_false]
  rfl

theorem exec_brineSegmentWrite_room
    (hroom : chanUsed s c.half (nextChan s c.half f.val) < brineSegs s c.half) :
    exec (.brineSegmentWrite f) s = .next (brineMoved
      (updFlow (moveCell s c.id (.brine (nextChan s c.half f.val) (writeEpoch s c.half) (flowSt s f.val).bseq)) f.val
        fun x => { x with bseq := (x.bseq + 1) % 2 ^ 32, epoch := writeEpoch s c.half == 1 })
      c.half (nextChan s c.half f.val)) := by
  rw [exec_brineSegmentWrite_up hc hcar hup hceil, if_neg (Nat.not_le.mpr hroom)]

theorem exec_brineSegmentWrite_full {t : Txn}
    (hfull : brineSegs s c.half ≤ chanUsed s c.half (nextChan s c.half f.val))
    (ht : cellTxn (bump s 0x5702 (hsub c.half)) c = some t) :
    exec (.brineSegmentWrite f) s = .next (holdBack (bump s 0x5702 (hsub c.half)) t) := by
  rw [exec_brineSegmentWrite_up hc hcar hup hceil, if_pos hfull]
  simp only [ht]

end

/-! ### A segment is read (R223) -/

section
variable {f : FlowNo} {c : Cell} {ch ep seq : Nat} {s : State} (hc : brineCell s f.val = some c)
  (hpl : c.place = .brine ch ep seq)
include hc hpl

theorem exec_brineSegmentRead_deep (hdeep : flowRefill s c.half f.val ≤ headOcc s c.half f.val) :
    exec (.brineSegmentRead f .clean) s = .next s := by
  change execBrineSegmentRead f .clean s = _
  simp only [execBrineSegmentRead, hc, hpl, hdeep, decide_true, Bool.or_true, if_true]

theorem exec_brineSegmentRead_refills (hcar : carries s c.half = true) (htr : (brine s c.half).trained = true)
    (hlow : headOcc s c.half f.val < flowRefill s c.half f.val) :
    exec (.brineSegmentRead f .clean) s = .next (tryLetGo
      (tailJoins (brineMoved (moveCell s c.id .head) c.half ch) c.half f.val) c.half f.val c.cls) := by
  change execBrineSegmentRead f .clean s = _
  simp only [execBrineSegmentRead, hc, hpl, hcar, htr, Nat.not_le.mpr hlow, Bool.not_true, Bool.or_self, decide_false,
    Bool.false_eq_true, if_false, brineEcc]

end

/-! ### The monitor (R227) -/

theorem exec_brineMonitorWindow_carries {h : Half} {s : State} (hcar : carries s h = true) :
    exec (.brineMonitorWindow h) s =
      .next (updBrine (forAll s (List.range 8) fun v ch => chanWindow v h ch) h fun b =>
        { b with wrBytes := List.replicate 8 0 }) := by
  change execBrineMonitorWindow h s = _
  rw [execBrineMonitorWindow, hcar, onlyIf_true]

/-- Channel `ch`'s share of the window's bytes, in % (R227). -/
def BrineSt.shareNow (b : BrineSt) (ch : Nat) : Nat := 100 * b.wrBytes.getD ch 0 / b.wrBytes.sum

section
variable {h : Half} {s : State} (hfed : 1025000 ≤ (brine s h).wrBytes.sum) (ch : Nat)
include hfed

theorem brine_chanWindow_quiet
    (hquiet : 100 * (brine s h).wrBytes.getD ch 0 ≤ cfg s h 0x5606 1 * (brine s h).wrBytes.sum) :
    brine (chanWindow s h ch) h =
      { brine s h with share := setAt (brine s h).share ch ((brine s h).shareNow ch),
                       hotCount := setAt (brine s h).hotCount ch 0,
                       hotRaised := (brine s h).hotRaised.mapIdx fun i v => v && i != ch } := by
  have hsome : (brine s h).wrBytes.sum ≠ 0 := by omega
  simp only [chanWindow, Nat.not_lt.mpr hfed, hsome, Nat.not_lt.mpr hquiet, if_false, brine_updBrine,
    BrineSt.shareNow]

theorem brine_chanWindow_counts
    (hover : cfg s h 0x5606 1 * (brine s h).wrBytes.sum < 100 * (brine s h).wrBytes.getD ch 0)
    (hdwell : (brine s h).hotCount.getD ch 0 + 1 < cfg s h 0x5606 2) :
    brine (chanWindow s h ch) h =
      { brine s h with share := setAt (brine s h).share ch ((brine s h).shareNow ch),
                       hotCount := setAt (brine s h).hotCount ch ((brine s h).hotCount.getD ch 0 + 1) } := by
  have hsome : (brine s h).wrBytes.sum ≠ 0 := by omega
  simp only [chanWindow, Nat.not_lt.mpr hfed, hsome, hover, Nat.not_le.mpr hdwell, decide_false, Bool.false_and,
    Bool.false_eq_true, if_false, if_true, brine_updBrine, BrineSt.shareNow]

end

/-! ### Training (R240, R241) -/

/-- The half's brine after a training that ended well, or failed on a channel. -/
def trainingEnded (s : State) (h : Half) : Option (Fin 8) → State
  | none => updBrine s h fun b => { b with trained := true, down := false }
  | some ch => brineLost
      (raiseEv (updBrine s h fun b => { b with trained := false, down := true }) h 5 (8 * halfIdx h + ch.val) 0 0) h

theorem exec_brineTrainingDone_awaited {h : Half} {s : State} (hrun : (half s h).boot ≠ .reset)
    (hfit : cfg s h 0x5602 (hsub h) % 4 ≠ 0) (hnew : (brine s h).trained = false) (hup : (brine s h).down = false)
    (failed : Option (Fin 8)) :
    exec (.brineTrainingDone h failed) s = .next (trainingEnded s h failed) := by
  change execBrineTrainingDone h failed s = _
  simp only [execBrineTrainingDone, hfit, beq_false_of_ne hrun, hnew, hup, decide_false, Bool.false_and, Bool.or_self,
    Bool.false_eq_true, if_false]
  cases failed <;> rfl

theorem exec_brineTrackingPass (c : BC) (s : State) : exec (.brineTrackingPass c) s = .next s := rfl

/-- Settles O29, from the equations above. -/
theorem brineSegmentsMonitorsAndTraining : Obligations.BrineSegmentsMonitorsAndTraining := by
  unfold Obligations.BrineSegmentsMonitorsAndTraining
  exact ⟨fun f c s hc hcar hup hceil => ⟨exec_brineSegmentWrite_room hc hcar hup hceil,
      fun t => exec_brineSegmentWrite_full hc hcar hup hceil⟩,
    fun f c ch ep seq s hc hpl hcar htr => ⟨exec_brineSegmentRead_deep hc hpl,
      exec_brineSegmentRead_refills hc hpl hcar htr⟩,
    fun h s => exec_brineMonitorWindow_carries,
    fun h ch s hfed => ⟨brine_chanWindow_quiet hfed ch, brine_chanWindow_counts hfed ch⟩,
    fun h s hrun hfit hnew hup => ⟨exec_brineTrainingDone_awaited hrun hfit hnew hup none,
      fun ch => exec_brineTrainingDone_awaited hrun hfit hnew hup (some ch)⟩,
    exec_brineTrackingPass⟩

end Sys2Proof.Machine
end

section
/-! ## The canonical form (R244, R245, R413)

It holds after reset and every step keeps it: each command by `exec_kept`, the idle cycle by `tick_kept`. -/

namespace Sys2Proof.Machine

/-- Settles O56: after reset every table is empty and every engine reads its reset value. -/
theorem resetIsCanonical : Obligations.ResetIsCanonical := by
  unfold Obligations.ResetIsCanonical
  have htabs : tablesWf State.reset := by unfold tablesWf; decide
  exact ⟨htabs, fun _ => engGood_reset, fun _ => rfl⟩

/-- A step keeps what every command keeps, of the state whose queue has lost its front command. -/
theorem step_kept {s t : State} (h : step s = .next t) : Keeps { s with pending := s.pending.tail } t := by
  unfold step at h
  cases hq : s.pending with
  | nil =>
    rw [hq] at h
    cases h
    have hs : { s with pending := [].tail } = s := by rw [List.tail_nil, ← hq]
    rw [hs]
    exact tick_kept Keeps.rfl
  | cons c rest =>
    rw [hq] at h
    obtain ⟨u, hu, hkept⟩ := exec_kept (i := c) (Keeps.rfl (s := { s with pending := rest }))
    cases hu.symm.trans h
    exact hkept

/-- Settles O58, by `step_kept`: the canonical form does not speak of the queue. -/
theorem everyStepKeepsTheStateCanonical : Obligations.EveryStepKeepsTheStateCanonical := by
  unfold Obligations.EveryStepKeepsTheStateCanonical
  intro s t hstep hs
  obtain ⟨-, -, -, hcanonical⟩ := step_kept hstep
  exact hcanonical hs

end Sys2Proof.Machine
end

section
/-! ## Engine instructions that write a register (R244, R247 to R249, R259)

On an engine that can execute, each is one `engRd`, and `engRd_wrote` says what that leaves unchanged. -/

namespace Sys2Proof.Machine

/-! ### The instructions by format (R248) -/

section
variable (e : SE) (x : EngWord) (s : State)

theorem exec_engAdd : exec (.engAdd e x) s = engR s e 0x00 x (· + ·) := rfl
theorem exec_engSub : exec (.engSub e x) s = engR s e 0x01 x (· - ·) := rfl
theorem exec_engAnd : exec (.engAnd e x) s = engR s e 0x02 x (· &&& ·) := rfl
theorem exec_engOr : exec (.engOr e x) s = engR s e 0x03 x (· ||| ·) := rfl
theorem exec_engXor : exec (.engXor e x) s = engR s e 0x04 x (· ^^^ ·) := rfl
theorem exec_engSll : exec (.engSll e x) s = engR s e 0x05 x (fun a b => a <<< shamt b) := rfl
theorem exec_engSrl : exec (.engSrl e x) s = engR s e 0x06 x (fun a b => a >>> shamt b) := rfl
theorem exec_engSra : exec (.engSra e x) s = engR s e 0x07 x (fun a b => a.sshiftRight (shamt b)) := rfl
theorem exec_engMul : exec (.engMul e x) s = engR s e 0x08 x (· * ·) := rfl
theorem exec_engSlt : exec (.engSlt e x) s = engR s e 0x0A x (fun a b => b64 (BitVec.slt a b)) := rfl
theorem exec_engSltu : exec (.engSltu e x) s = engR s e 0x0B x (fun a b => b64 (BitVec.ult a b)) := rfl
theorem exec_engHash : exec (.engHash e x) s = engR s e 0x0C x (fun a b => mix (a ^^^ b)) := rfl
theorem exec_engAddi : exec (.engAddi e x) s = engI s e x (· + immS x) := rfl
theorem exec_engAndi : exec (.engAndi e x) s = engI s e x (· &&& immZ x) := rfl
theorem exec_engOri : exec (.engOri e x) s = engI s e x (· ||| immZ x) := rfl
theorem exec_engXori : exec (.engXori e x) s = engI s e x (· ^^^ immZ x) := rfl
theorem exec_engSlli : exec (.engSlli e x) s = engI s e x (fun a => a <<< shamt (immS x)) := rfl
theorem exec_engSrli : exec (.engSrli e x) s = engI s e x (fun a => a >>> shamt (immS x)) := rfl
theorem exec_engSrai : exec (.engSrai e x) s = engI s e x (fun a => a.sshiftRight (shamt (immS x))) := rfl

end

/-! ### One write of rd (R244) -/

/-- The command's outcome is a state in which it wrote `v` to its rd and changed nothing else. -/
def writesRd (s : State) (e : SE) (x : EngWord) (o : Out) (v : W64) : Prop :=
  ∃ t, o = .next t ∧ wroteRd s t e.val (opA x) v

theorem shamt_eq_mod (v : W64) : shamt v = v.toNat % 64 := rfl

theorem shamt_immS (x : EngWord) : shamt (immS x) = x.toNat % 64 := by
  have h : (immS x).setWidth 6 = x.setWidth 6 := by
    apply BitVec.eq_of_getLsbD_eq
    intro i hi
    have : i < 64 := by omega
    have : i < 16 := by omega
    simp [immS, BitVec.getElem_signExtend, *]
  simpa [shamt_eq_mod] using congrArg BitVec.toNat h

theorem b64_slt (a b : W64) : b64 (BitVec.slt a b) = if a.toInt < b.toInt then 1 else 0 := by
  simp [b64, BitVec.slt]

theorem b64_ult (a b : W64) : b64 (BitVec.ult a b) = if a.toNat < b.toNat then 1 else 0 := by
  simp [b64, BitVec.ult]

section
variable {e : SE} {x : EngWord} {s : State} (hr : engReady s e.val) (hw : engWf s e.val)
include hr hw

theorem engDo_engRd {v : W64} {f : State → State} (hf : f s = engRd s e.val (opA x) v) :
    writesRd s e x (engDo s e f) v := by
  rw [engDo_ready hr, hf]
  exact ⟨_, rfl, engRd_wrote hw _ (opA_lt x) v⟩

theorem engR_writesRd (hfn : opFn x = 0) (op : Nat) (f : W64 → W64 → W64) :
    writesRd s e x (engR s e op x f) (f (engReg s e.val (opB x)) (engReg s e.val (opC x))) :=
  engDo_engRd hr hw (if_neg (not_not_intro hfn))

theorem engI_writesRd (f : W64 → W64) : writesRd s e x (engI s e x f) (f (engReg s e.val (opB x))) :=
  engDo_engRd hr hw rfl

theorem execEngCrc_writesRd (hlo : 1 ≤ opFn x) (hhi : opFn x ≤ 8) :
    writesRd s e x (execEngCrc e x s) ((crcUpdate ((engReg s e.val (opB x)).setWidth 32)
      (bytesLE (opFn x) (engReg s e.val (opC x)).toNat)).setWidth 64) :=
  engDo_engRd hr hw (if_neg (by omega))

theorem execEngLui_writesRd (hrs : opB x = 0) : writesRd s e x (execEngLui e x s) (immU x) :=
  engDo_engRd hr hw (if_neg (not_not_intro hrs))

theorem execEngCsrr_writesRd {v : W64} (hrs : opB x = 0) (hv : csrRead s e.val (opImm x) = some v) :
    writesRd s e x (execEngCsrr e x s) v :=
  engDo_engRd hr hw (by simp only [hrs, if_true, hv])

end

theorem immU_eq (x : EngWord) : immU x = (((x.setWidth 16).setWidth 32) <<< 16 : W32).signExtend 64 := by
  refine congrArg (BitVec.signExtend 64) (BitVec.eq_of_toNat_eq ?_)
  refine (BitVec.toNat_append _ _).trans ?_
  simp [Nat.shiftLeft_eq]
  omega

/-- Settles O13: each format is one write of rd, by the lemmas above. -/
theorem engineRegisterInstructionsWriteTheirResult : Obligations.EngineRegisterInstructionsWriteTheirResult := by
  unfold Obligations.EngineRegisterInstructionsWriteTheirResult
  intro e x s hr hw
  have himm {i f} (hi : exec i s = engI s e x f) : writesRd s e x (exec i s) (f (engReg s e.val (opB x))) :=
    hi ▸ engI_writesRd hr hw f
  have hreg {i op f} (hfn : opFn x = 0) (hi : exec i s = engR s e op x f) :
      writesRd s e x (exec i s) (f (engReg s e.val (opB x)) (engReg s e.val (opC x))) :=
    hi ▸ engR_writesRd hr hw hfn op f
  refine ⟨fun hfn => ⟨hreg hfn (exec_engAdd e x s), hreg hfn (exec_engSub e x s), hreg hfn (exec_engAnd e x s),
      hreg hfn (exec_engOr e x s), hreg hfn (exec_engXor e x s), hreg hfn (exec_engSll e x s),
      hreg hfn (exec_engSrl e x s), hreg hfn (exec_engSra e x s), hreg hfn (exec_engMul e x s), ?slt, ?sltu,
      hreg hfn (exec_engHash e x s)⟩,
    execEngCrc_writesRd hr hw, himm (exec_engAddi e x s), himm (exec_engAndi e x s), himm (exec_engOri e x s),
    himm (exec_engXori e x s), ?slli, ?srli, ?srai, ?lui, fun v => execEngCsrr_writesRd hr hw⟩
  case slt => exact b64_slt _ _ ▸ hreg hfn (exec_engSlt e x s)
  case sltu => exact b64_ult _ _ ▸ hreg hfn (exec_engSltu e x s)
  case slli => exact shamt_immS x ▸ himm (exec_engSlli e x s)
  case srli => exact shamt_immS x ▸ himm (exec_engSrli e x s)
  case srai => exact shamt_immS x ▸ himm (exec_engSrai e x s)
  case lui => exact immU_eq x ▸ execEngLui_writesRd hr hw

end Sys2Proof.Machine
end

section
/-! ## HASH and CRC (R133, R224, R259, R263)

The CRC loop of the model, a recursion of one bit step, against the spec's nested loop. -/

namespace Sys2Proof.Machine

theorem mix_eq (x : W64) :
    mix x = (x * 0xA24B1F6D9C35E817 ^^^ ((x * 0xA24B1F6D9C35E817) >>> 29)) * 0xA24B1F6D9C35E817 := rfl

/-! ### The loop of R259 -/

/-- The spec's bit step: shift right, and exclusive-or with the polynomial where bit 0 was 1. -/
theorem crcBit_eq (d : W32) : crcBit d = (d >>> 1) ^^^ (if d &&& 1 = 1 then 0x82F63B78 else 0) := by
  have hbit : (d &&& 1 = 1) = (d.getLsbD 0 = true) := by
    rw [show d &&& 1 = _ from BitVec.and_one_eq_setWidth_ofBool_getLsbD]
    cases d.getLsbD 0 <;> decide
  simp only [crcBit, hbit]
  split
  · rfl
  · exact (BitVec.xor_zero).symm

theorem foldl_crcBit (l : List Nat) (d : W32) : l.foldl (fun d _ => crcBit d) d = crcByteSteps l.length d := by
  induction l generalizing d with
  | nil => rfl
  | cons i l ih => exact ih _

theorem crcByte_eq_foldl (c : W32) (b : Byte) : crcByte c b = (List.range 8).foldl
    (fun (d : W32) _ => (d >>> 1) ^^^ (if d &&& 1 = 1 then 0x82F63B78 else 0)) (c ^^^ b.setWidth 32) := by
  simp only [← crcBit_eq, foldl_crcBit, List.length_range, crcByte]

theorem bytesLE_eq_map (n v : Nat) : bytesLE n v = (List.range n).map fun i => BitVec.ofNat 8 (v / 256 ^ i) := by
  induction n generalizing v with
  | zero => rfl
  | succ n ih =>
    rw [bytesLE, ih, List.range_succ_eq_map, List.map_cons, List.map_map]
    simp [Function.comp_def, Nat.div_div_eq_div_mul, Nat.pow_succ, Nat.mul_comm]

/-- Byte `i` of a doubleword, as the spec's shift and mask. -/
theorem byte_setWidth_eq (v : W64) (i : Nat) :
    (BitVec.ofNat 8 (v.toNat / 256 ^ i)).setWidth 32 = ((v >>> (8 * i)) &&& 0xFF).setWidth 32 := by
  apply BitVec.eq_of_toNat_eq
  have hmask (k : Nat) : k &&& 255 = k % 256 := Nat.and_two_pow_sub_one_eq_mod k 8
  simp [hmask, Nat.shiftRight_eq_div_pow, Nat.pow_mul]
  omega

theorem crcUpdate_bytesLE (c : W32) (v : W64) (n : Nat) : crcUpdate c (bytesLE n v.toNat) =
    (List.range n).foldl (fun c i => (List.range 8).foldl
      (fun (d : W32) _ => (d >>> 1) ^^^ (if d &&& 1 = 1 then 0x82F63B78 else 0))
      (c ^^^ ((v >>> (8 * i)) &&& 0xFF).setWidth 32)) c := by
  rw [crcUpdate, bytesLE_eq_map, List.foldl_map]
  simp only [crcByte_eq_foldl, byte_setWidth_eq]

theorem pktCrc_eq_not (p : Pkt) :
    pktCrc p = ~~~ crcUpdate 0xFFFFFFFF (hdrBytes p ++ [0, 0, 0, 0] ++ p.payload) := by
  rw [pktCrc, crc32c]
  exact BitVec.xor_allOnes

/-! ### The instructions -/

theorem execEngCrc_illegal {e : SE} {x : EngWord} {s : State} (hr : engReady s e.val)
    (hfn : opFn x = 0 ∨ 8 < opFn x) : execEngCrc e x s = .next (engIllegal s e.val 0x0D x) := by
  rw [execEngCrc, engDo_ready hr, if_pos hfn]

/-- Settles O49: the loop by `crcUpdate_bytesLE`, the instructions by what a write of rd is. -/
theorem hashAndCrcComputeTheirFunctions : Obligations.HashAndCrcComputeTheirFunctions := by
  unfold Obligations.HashAndCrcComputeTheirFunctions
  exact ⟨mix_eq, fun c v n _ => crcUpdate_bytesLE c v n, pktCrc_eq_not, fun _ _ _ => ⟨rfl, rfl⟩,
    fun e x s hr hw => ⟨fun hfn => exec_engHash e x s ▸ engR_writesRd hr hw hfn _ _, execEngCrc_writesRd hr hw,
      execEngCrc_illegal hr⟩⟩

end Sys2Proof.Machine
end

section
/-! ## Branches and jumps (R244, R248, R249) -/

namespace Sys2Proof.Machine

theorem engNext_eq_engJump (s : State) (e : Nat) : engNext s e = engJump s e ((eng s e).pc + 4) := rfl

theorem shiftLeft_two_eq_mul (v : W64) : v <<< 2 = v * 4 := by
  apply BitVec.eq_of_toNat_eq
  simp [Nat.shiftLeft_eq]

/-! ### Branches -/

theorem offB_eq (x : EngWord) : offB x = (x.setWidth 16).signExtend 64 * 4 := shiftLeft_two_eq_mul _

/-- A branch whose test decides `p` only moves the counter. -/
theorem engBranch_wentTo {e : SE} {x : EngWord} {s : State} (hr : engReady s e.val) {c : W64 → W64 → Bool} {p : Prop}
    [Decidable p] (hp : c (engReg s e.val (opA x)) (engReg s e.val (opB x)) = decide p) :
    ∃ t, engBranch s e x c = .next t ∧ wentTo s t e.val
      (if p then (eng s e.val).pc + (x.setWidth 16).signExtend 64 * 4 else (eng s e.val).pc + 4) := by
  rw [engBranch, engDo_ready hr, hp, engNext_eq_engJump, offB_eq]
  refine ⟨_, rfl, ?_⟩
  by_cases h : p <;> simp only [h, decide_true, decide_false, Bool.false_eq_true, if_true, if_false] <;> rfl

/-! ### JAL and JALR -/

theorem offJ_eq (x : EngWord) : offJ x = (x.setWidth 21).signExtend 64 * 4 := shiftLeft_two_eq_mul _

theorem setReg_wf {s : State} (h : Tab.wf EngSt.reset s.eng.engs = true) (e r : Nat) (v : W64) :
    Tab.wf EngSt.reset (setReg s e r v).eng.engs = true := by
  unfold setReg
  split
  · exact h
  · exact updEng_wf h _ _

theorem eng_setReg_of_ne {s : State} (h : Tab.wf EngSt.reset s.eng.engs = true) {e k : Nat} (hk : k ≠ e) (r : Nat)
    (v : W64) : eng (setReg s e r v) k = eng s k := by
  unfold setReg
  split
  · rfl
  · rw [eng_updEng h, if_neg hk]

theorem engReg_setReg_of_ne {s : State} (h : Tab.wf EngSt.reset s.eng.engs = true) {r k : Nat} (hk : k ≠ r) (e : Nat)
    (v : W64) : engReg (setReg s e r v) e k = engReg s e k := by
  unfold setReg
  split
  · rfl
  · simp [engReg, eng_updEng h, List.getD_eq_getElem?_getD, List.getElem?_set_ne (Ne.symm hk)]

theorem engReg_setReg_same {s : State} {e : Nat} (h : engWf s e) {r : Nat} (hr : r < 32) (h0 : r ≠ 0) (v : W64) :
    engReg (setReg s e r v) e r = v := by
  obtain ⟨htab, hlen⟩ := h
  simp [engReg, setReg, h0, eng_updEng htab, List.getD_eq_getElem?_getD, hlen, hr]

theorem engReg_engJump {s : State} (h : Tab.wf EngSt.reset s.eng.engs = true) (e k : Nat) (pc : W64) :
    engReg (engJump s e pc) e k = engReg s e k := by
  simp [engReg, engJump, eng_updEng h]

/-- What a jump that links leaves: the target, the return address, and everything else as it was. -/
def linked (s t : State) (e rd : Nat) (target ret : W64) : Prop :=
  (eng t e).pc = target ∧ (rd ≠ 0 → engReg t e rd = ret) ∧ (∀ r, r ≠ rd → engReg t e r = engReg s e r) ∧
  (∀ k, k ≠ e → eng t k = eng s k) ∧ t = { s with eng := { s.eng with engs := t.eng.engs } }

theorem engJump_setReg_linked {s : State} {e : Nat} (hw : engWf s e) {rd : Nat} (hrd : rd < 32) (target ret : W64) :
    linked s (engJump (setReg s e rd ret) e target) e rd target ret := by
  have hwf := setReg_wf hw.1 e rd ret
  refine ⟨?pc, fun h0 => ?rd, fun r hne => ?others, fun k hk => ?engines, ?frame⟩
  case pc => rw [engJump, eng_updEng hwf, if_pos rfl]
  case rd => rw [engReg_engJump hwf, engReg_setReg_same hw hrd h0]
  case others => rw [engReg_engJump hwf, engReg_setReg_of_ne hw.1 hne]
  case engines => rw [engJump, eng_updEng hwf, if_neg hk, eng_setReg_of_ne hw.1 hk]
  case frame => unfold engJump setReg; split <;> rfl

section
variable {e : SE} {x : EngWord} {s : State} (hr : engReady s e.val) (hw : engWf s e.val)
include hr hw

theorem execEngJal_linked : ∃ t, execEngJal e x s = .next t ∧ linked s t e.val (opA x)
    ((eng s e.val).pc + (x.setWidth 21).signExtend 64 * 4) ((eng s e.val).pc + 4) := by
  rw [execEngJal, engDo_ready hr, ← offJ_eq]
  exact ⟨_, rfl, engJump_setReg_linked hw (opA_lt x) _ _⟩

theorem execEngJalr_linked : ∃ t, execEngJalr e x s = .next t ∧ linked s t e.val (opA x)
    ((engReg s e.val (opB x) + (x.setWidth 16).signExtend 64) &&& 0xFFFFFFFFFFFFFFFC#64) ((eng s e.val).pc + 4) := by
  rw [execEngJalr, engDo_ready hr]
  exact ⟨_, rfl, engJump_setReg_linked hw (opA_lt x) _ _⟩

end

/-- Settles O14: the branches by their tests, the jumps by what writing a link register leaves. -/
theorem engineBranchesAndJumps : Obligations.EngineBranchesAndJumps := by
  unfold Obligations.EngineBranchesAndJumps
  intro e x s hr hw
  refine ⟨?beq, ?bne, ?blt, ?bge, ?bltu, ?bgeu, execEngJal_linked hr hw, execEngJalr_linked hr hw⟩
  case beq => exact engBranch_wentTo hr (c := fun a b => a == b) rfl
  case bne => exact engBranch_wentTo hr (c := fun a b => a != b) decide_not.symm
  case blt => exact engBranch_wentTo hr (c := BitVec.slt) rfl
  case bge => exact engBranch_wentTo hr (c := fun a b => !BitVec.slt a b) (by simp [BitVec.slt, ← decide_not])
  case bltu => exact engBranch_wentTo hr (c := BitVec.ult) rfl
  case bgeu => exact engBranch_wentTo hr (c := fun a b => !BitVec.ult a b) (by simp [BitVec.ult, ← decide_not])

end Sys2Proof.Machine
end

section
/-! ## Loads, stores and atomics (R245, R246, R248, R249, R257, R260)

The checks of an access say which of three things an instruction does: the access, fault ALIGN or fault ADDR. -/

namespace Sys2Proof.Machine

@[simp] theorem length_bytesLE (n v : Nat) : (bytesLE n v).length = n := by
  rw [bytesLE_eq_map, List.length_map, List.length_range]

@[simp] theorem engRd_zero (s : State) (e : Nat) (v : W64) : engRd s e 0 v = engNext s e := rfl

/-! ### The checks (R245, R246) -/

section
variable {e a n : Nat}

theorem accessFault_misaligned (h : a % n ≠ 0) : accessFault e a n = some fAlign := if_pos h

theorem accessFault_unmapped (h : a % n = 0) (hreg : engRegion a n = none) : accessFault e a n = some fAddr := by
  simp [accessFault, h, hreg]

theorem engRegion_isSome (h : accessFault e a n = none) : (engRegion a n).isSome = true := by
  cases hreg : engRegion a n with
  | none => simp only [accessFault, hreg] at h; split at h <;> simp at h
  | some k => rfl

theorem storeFault_of_accessFault {f : Nat} (h : accessFault e a n = some f) (s : State) :
    storeFault s e a n = some f := by
  simp only [storeFault, h]

theorem accessFault_of_storeFault {s : State} (h : storeFault s e a n = none) : accessFault e a n = none := by
  cases hf : accessFault e a n with
  | none => rfl
  | some f => rw [storeFault_of_accessFault hf] at h; cases h

end

theorem engMemWf.engWf {s : State} {e : Nat} (h : engMemWf s e) : engWf s e := by
  obtain ⟨hengs, -, hregs, -, -⟩ := h
  exact ⟨hengs, hregs⟩

section
variable {e : SE} {x : EngWord} {s : State} (hr : engReady s e.val)
include hr

/-! ### Loads -/

theorem engLoad_clean (hw : engMemWf s e.val) {n : Nat} (hf : accessFault e.val (engAddr s e.val x).toNat n = none) :
    writesRd s e x (engLoad s e x n .clean)
      (BitVec.ofNat 64 (ofBytesLE (engBytes s e.val (engAddr s e.val x).toNat n))) :=
  engDo_engRd hr hw.engWf (by simp only [hf])

theorem engLoad_faults {n f : Nat} (hf : accessFault e.val (engAddr s e.val x).toNat n = some f) (c : MemEcc) :
    engLoad s e x n c = .next (engFault s e.val f (engAddr s e.val x)) := by
  simp only [engLoad, engDo_ready hr, hf]

/-! ### Stores -/

theorem engStore_allowed (hw : engMemWf s e.val) {n : Nat} (hn : 0 < n)
    (hf : storeFault s e.val (engAddr s e.val x).toNat n = none) :
    ∃ t, engStore s e x n = .next t ∧
      putBytes s t e.val (engAddr s e.val x).toNat (bytesLE n (engReg s e.val (opA x)).toNat) ∧
      onlyEngine s t e.val ∧ ∀ r, engReg t e.val r = engReg s e.val r := by
  have hreg := engRegion_isSome (accessFault_of_storeFault hf)
  obtain ⟨hput, honly, -, hregs⟩ := engPut_rd hw (bs := bytesLE n (engReg s e.val (opA x)).toNat)
    (by rwa [length_bytesLE]) (by rwa [length_bytesLE]) 0 (by decide) 0
  refine ⟨_, by simp only [engStore, engDo_ready hr, hf, engRd_zero], hput, honly, fun r => ?_⟩
  by_cases h0 : r = 0
  · simp only [engReg, h0, if_true]
  · exact hregs r h0

theorem engStore_faults {n f : Nat} (hf : accessFault e.val (engAddr s e.val x).toNat n = some f) :
    engStore s e x n = .next (engFault s e.val f (engAddr s e.val x)) := by
  simp only [engStore, engDo_ready hr, storeFault_of_accessFault hf]

/-! ### Atomics (R257) -/

/-- fn 0 is an atomic of 8 bytes, fn 1 one of 4. -/
def atomicSize (x : EngWord) (n : Nat) : Prop := opFn x = 0 ∧ n = 8 ∨ opFn x = 1 ∧ n = 4

omit hr in
theorem atomicSize_iff {n : Nat} :
    atomicSize x n ↔ ¬ 2 ≤ opFn x ∧ (if opFn x = 1 then 4 else 8) = n := by
  unfold atomicSize
  split <;> omega

/-- The value an atomic of `n` bytes leaves in memory, from the old one, rs2 and rd. -/
def engAtomicNew (s : State) (e : Nat) (x : EngWord) (n old : Nat) (f : Nat → Nat → Nat → Nat) : Nat :=
  f old ((engReg s e (opC x)).toNat % 2 ^ (8 * n)) ((engReg s e (opA x)).toNat % 2 ^ (8 * n)) % 2 ^ (8 * n)

theorem engAtomic_allowed (hw : engMemWf s e.val) {n : Nat} (hn : atomicSize x n) (op : Nat)
    (f : Nat → Nat → Nat → Nat) (hf : storeFault s e.val (engReg s e.val (opB x)).toNat n = none) :
    let a := (engReg s e.val (opB x)).toNat
    let old := ofBytesLE (engBytes s e.val a n)
    ∃ t, engAtomic s e op x f = .next t ∧ putBytes s t e.val a (bytesLE n (engAtomicNew s e.val x n old f)) ∧
      onlyEngine s t e.val ∧ (opA x ≠ 0 → engReg t e.val (opA x) = BitVec.ofNat 64 old) ∧
      ∀ r, r ≠ opA x → engReg t e.val r = engReg s e.val r := by
  intro a old
  obtain ⟨hfn, hsize⟩ := atomicSize_iff.mp hn
  have hpos : 0 < n := by rw [← hsize]; split <;> decide
  have hreg := engRegion_isSome (accessFault_of_storeFault hf)
  refine ⟨_, ?_, engPut_rd hw (by rwa [length_bytesLE]) (by rwa [length_bytesLE]) (opA x) (opA_lt x) _⟩
  simp only [engAtomic, engDo_ready hr, hsize, hfn, if_false, hf]
  rfl

theorem engAtomic_misaligned {n : Nat} (hn : atomicSize x n) (op : Nat) (f : Nat → Nat → Nat → Nat)
    (ha : (engReg s e.val (opB x)).toNat % n ≠ 0) :
    engAtomic s e op x f = .next (engFault s e.val fAlign (engReg s e.val (opB x))) := by
  obtain ⟨hfn, hsize⟩ := atomicSize_iff.mp hn
  simp only [engAtomic, engDo_ready hr, hsize, hfn, if_false,
    storeFault_of_accessFault (accessFault_misaligned ha)]

end

/-! ### The instructions by width -/

section
variable (e : SE) (x : EngWord) (c : MemEcc) (s : State)

theorem exec_engLd : exec (.engLd e x c) s = engLoad s e x 8 c := rfl
theorem exec_engLw : exec (.engLw e x c) s = engLoad s e x 4 c := rfl
theorem exec_engLh : exec (.engLh e x c) s = engLoad s e x 2 c := rfl
theorem exec_engLb : exec (.engLb e x c) s = engLoad s e x 1 c := rfl
theorem exec_engSd : exec (.engSd e x) s = engStore s e x 8 := rfl
theorem exec_engSw : exec (.engSw e x) s = engStore s e x 4 := rfl
theorem exec_engSh : exec (.engSh e x) s = engStore s e x 2 := rfl
theorem exec_engSb : exec (.engSb e x) s = engStore s e x 1 := rfl
theorem exec_engAadd : exec (.engAadd e x) s = engAtomic s e 0x30 x fun old v _ => old + v := rfl
theorem exec_engAswp : exec (.engAswp e x) s = engAtomic s e 0x31 x fun _ v _ => v := rfl
theorem exec_engAcas : exec (.engAcas e x) s = engAtomic s e 0x32 x fun old v c => if old = c then v else old := rfl

end

/-- Settles O15: each width is one case of the load, the store and the atomic above. -/
theorem engineLoadsStoresAndAtomicsReachTheirBytesOnly :
    Obligations.EngineLoadsStoresAndAtomicsReachTheirBytesOnly := by
  unfold Obligations.EngineLoadsStoresAndAtomicsReachTheirBytesOnly
  intro e x s hr hw
  simp only [exec_engLd, exec_engLw, exec_engLh, exec_engLb, exec_engSd, exec_engSw, exec_engSh, exec_engSb,
    exec_engAadd, exec_engAswp, exec_engAcas]
  have hload (n : Nat) := And.intro (engLoad_clean (x := x) hr hw (n := n)) <| And.intro
    (fun ha => engLoad_faults (x := x) hr (accessFault_misaligned (n := n) ha))
    (fun ha hreg => engLoad_faults (x := x) hr (accessFault_unmapped (n := n) ha hreg))
  have hstore {n : Nat} (hn : 0 < n) := And.intro (engStore_allowed (x := x) hr hw hn) <| And.intro
    (fun ha => engStore_faults (x := x) hr (accessFault_misaligned (n := n) ha))
    (fun ha hreg => engStore_faults (x := x) hr (accessFault_unmapped (n := n) ha hreg))
  have hatomic (op : Nat) (f : Nat → Nat → Nat → Nat) (n : Nat) (hn : atomicSize x n) :=
    And.intro (engAtomic_allowed hr hw hn op f) (engAtomic_misaligned hr hn op f)
  exact ⟨hload 8, hload 4, hload 2, hload 1, hstore (by decide), hstore (by decide), hstore (by decide),
    hstore (by decide), hatomic 0x30 _, hatomic 0x31 _, hatomic 0x32 _⟩

end Sys2Proof.Machine
end

section
/-! ## Faults, interrupts and waiting (R247 to R249, R260, R285, R287, R288) -/

namespace Sys2Proof.Machine

section
variable {e : SE} {x : EngWord} {s : State} (hr : engReady s e.val)
include hr

/-! ### Special registers and waiting (R247, R249) -/

theorem exec_engCsrw_fvec (hrd : opA x = 0) (hk : opImm x = 3) : exec (.engCsrw e x) s =
    .next (engNext (updEng s e.val fun g => { g with fvec := engReg s e.val (opB x) }) e.val) := by
  change execEngCsrw e x s = _
  simp only [execEngCsrw, engDo_ready hr, hrd, hk, ne_eq, not_true_eq_false, if_false]

theorem exec_engCsrw_fret (hrd : opA x = 0) (hk : opImm x = 7) : exec (.engCsrw e x) s =
    .next (engNext (updEng s e.val fun g => { g with fret := engReg s e.val (opB x) }) e.val) := by
  change execEngCsrw e x s = _
  simp only [execEngCsrw, engDo_ready hr, hrd, hk, ne_eq, not_true_eq_false, if_false]

theorem exec_engWait (hx : x = 0) : exec (.engWait e x) s = .next
    (if (eng s e.val).inbox.any (fun q => !q.popped) then engNext s e.val else enterWait s e.val) := by
  change execEngWait e x s = _
  simp only [execEngWait, engDo_ready hr, hx, ne_eq, not_true_eq_false, if_false]

theorem exec_engFence (hrd : opA x = 0) (hrs1 : opB x = 0) (hrs2 : opC x = 0) (hfn : opFn x < 4) :
    exec (.engFence e x) s = .next
      (if fenceMet s e.val ((opFn x).testBit 1) then engNext s e.val
       else updEng s e.val fun g => { g with waitFor := .fence ((opFn x).testBit 0) ((opFn x).testBit 1) }) := by
  have hok : ¬ (opA x ≠ 0 ∨ opB x ≠ 0 ∨ opC x ≠ 0 ∨ 4 ≤ opFn x) := by omega
  change execEngFence e x s = _
  rw [execEngFence, engRun_fromReady hr rfl, if_neg hok]

/-! ### Instructions that fault (R248, R260) -/

theorem exec_engBreak (hx : x = 0) : exec (.engBreak e x) s = .next (engFault s e.val fBreak 0) := by
  change execEngBreak e x s = _
  rw [execEngBreak, engDo_ready hr, if_neg (not_not_intro hx)]

theorem exec_reservedOpcode {w : W32} (hop : reservedOp (fld w 26 6) = true) :
    exec (.reservedOpcode e w) s = .next (engFault s e.val fIllegal (w.setWidth 64)) := by
  change execReservedOpcode e w s = _
  rw [execReservedOpcode, if_pos hop, engDo_ready hr]

/-! ### Returns and the end of an interrupt (R260, R288) -/

theorem exec_engReti_fault (hx : x = 0) (hfault : (eng s e.val).inFault = true) : exec (.engReti e x) s =
    .next (updEng s e.val fun g => { g with inFault := false, pc := g.fret }) := by
  change execEngReti e x s = _
  simp only [execEngReti, engDo_ready hr, hx, hfault, ne_eq, not_true_eq_false, if_false, if_true]

theorem exec_engReti_pending {a : W64} (hx : x = 0) (hfault : (eng s e.val).inFault = false)
    (hpend : (eng s e.val).pendRet = some a) (hoffer : (eng s e.val).offer = none) : exec (.engReti e x) s =
    .next (updEng s e.val fun g => { g with pendRet := none, pc := a }) := by
  change execEngReti e x s = _
  simp only [execEngReti, engDo_ready hr, hx, hfault, hpend, hoffer, ne_eq, not_true_eq_false, if_false,
    Bool.false_eq_true]

section
variable {top : StackEnt} {rest : List StackEnt} (hrd : opA x = 0) (hrs2 : opC x = 0) (hfn : opFn x = 0)
  (hstack : (eng s e.val).stack = top :: rest) (hpend : (eng s e.val).pendRet = none)
include hrd hrs2 hfn hstack hpend

theorem exec_engEoi_top (htop : top.src = (engReg s e.val (opB x)).toNat % 16384) : exec (.engEoi e x) s =
    .next (srcRoute (srcLeave (engNext (updEng s e.val fun g =>
      { g with stack := rest, pendRet := some top.ret }) e.val) top.src) top.src (some e.val)) := by
  have hsrc : top.src = fld (engReg s e.val (opB x)) 0 14 := htop
  change execEngEoi e x s = _
  simp only [execEngEoi, engDo_ready hr, hrd, hrs2, hfn, hstack, hpend, ← hsrc, ne_eq, not_true_eq_false, or_self,
    if_false, if_true]

theorem exec_engEoi_other (hother : top.src ≠ (engReg s e.val (opB x)).toNat % 16384) : exec (.engEoi e x) s =
    .next (engFault (bump s 0x6C23 (hsub (halfOfEng e.val))) e.val fStack
      (BitVec.ofNat 64 ((engReg s e.val (opB x)).toNat % 16384))) := by
  have hsrc : top.src ≠ fld (engReg s e.val (opB x)) 0 14 := hother
  change execEngEoi e x s = _
  simp only [execEngEoi, engDo_ready hr, hrd, hrs2, hfn, hstack, hpend, hsrc, ne_eq, not_true_eq_false, or_self,
    if_false]
  rfl

end
end

/-! ### What ends a wait, and the entry to a handler (R249, R287) -/

theorem exec_fenceComplete_met {e : SE} {m mv : Bool} {s : State} (hwait : (eng s e.val).waitFor = .fence m mv)
    (hmet : fenceMet s e.val mv = true) (hup : engUp s e.val = true) (hsleep : s.pwr.sleep = 0) :
    exec (.fenceComplete e) s = .next (engNext s e.val) := by
  change execFenceComplete e s = _
  simp only [execFenceComplete, hwait, hmet, hup, hsleep, BEq.rfl, Bool.and_self, if_true]

theorem exec_offerAccept_taken {e : SE} {o : Offer} {s : State} (hoffer : (eng s e.val).offer = some o)
    (hpend : (eng s e.val).pendRet = none) (hup : engUp s e.val = true) (hsleep : s.pwr.sleep = 0)
    (hmapped : (engRegion o.handler.toNat 4).isSome = true) :
    exec (.offerAccept e) s = .next (offerTake s e.val o (eng s e.val).pc) := by
  have hentry : (engRegion o.handler.toNat 4).isNone = false := Option.isNone_eq_false_iff.mpr hmapped
  change execOfferAccept e s = _
  simp only [execOfferAccept, enterHandler, hoffer, hpend, hup, hsleep, hentry, Option.isNone_none, BEq.rfl,
    Bool.and_self, if_true, Bool.false_eq_true, if_false]

/-! ### A fault that its handler takes (R260) -/

/-- The engine as a handled fault leaves it. -/
def EngSt.faulted (g : EngSt) (code : Nat) (info : W64) : EngSt :=
  { g with
    faults := (g.faults + 1) % 2 ^ 32, fstat := code, fpc := g.pc, finfo := info, waitFor := .none,
    st := if g.st = .waiting then .running else g.st,
    fret := if code = 10 then g.pc + 4 else g.pc, inFault := true, pc := g.fvec }

theorem engFault_took {g : EngSt} (hvec : g.fvec ≠ 0) (hnot : g.inFault = false) :
    (g.fvec != 0 && !g.inFault) = true := by
  simpa [hnot] using hvec

section
variable {s : State} {e : Nat} (hwf : Tab.wf EngSt.reset s.eng.engs = true) (hvec : (eng s e).fvec ≠ 0)
  (hnot : (eng s e).inFault = false) (code : Nat) (info : W64)
include hwf hvec hnot

theorem eng_engFault_handled (k : Nat) :
    eng (engFault s e code info) k = if k = e then (eng s e).faulted code info else eng s k := by
  simp only [engFault, engFault_took hvec hnot, if_true, eng_updEng (updEng_wf hwf _ _), eng_updEng hwf]
  split
  · simp [EngSt.faulted]
  · rfl

omit hwf in
theorem engFault_handled_frame : engFault s e code info =
    { s with eng := { s.eng with engs := (engFault s e code info).eng.engs } } := by
  simp only [engFault, engFault_took hvec hnot, if_true, updEng]

end

/-- Settles O16, from the equations above. -/
theorem engineFaultsInterruptsAndWaiting : Obligations.EngineFaultsInterruptsAndWaiting := by
  unfold Obligations.EngineFaultsInterruptsAndWaiting
  refine ⟨fun e x s hr => ⟨exec_engCsrw_fvec hr, exec_engCsrw_fret hr, exec_engWait hr, exec_engFence hr,
      exec_engBreak hr, fun w => exec_reservedOpcode hr, exec_engReti_fault hr, fun a => exec_engReti_pending hr,
      fun top rest hrd hrs2 hfn hstack hpend =>
        ⟨exec_engEoi_top hr hrd hrs2 hfn hstack hpend, exec_engEoi_other hr hrd hrs2 hfn hstack hpend⟩⟩,
    fun e m mv s => exec_fenceComplete_met, fun e o s => exec_offerAccept_taken, ?_⟩
  intro e code info s hwf hvec hnot
  have heng := eng_engFault_handled hwf hvec hnot code info
  exact ⟨(heng e).trans (if_pos rfl), fun k hk => (heng k).trans (if_neg hk),
    engFault_handled_frame hvec hnot code info⟩

end Sys2Proof.Machine
end

section
/-! ## Flows, service events, clusters and restarts (R251, R261, R263 to R265, R269, R270, R432) -/

namespace Sys2Proof.Machine

/-! ### Idle points (R263, R264) -/

section
variable {s : State} {f e : Nat} (hbucket : flowBucketEng s (flowSvcHalf s f) f = some e)

theorem flowIdle_busy (hbusy : flowBusy s f = true) : flowIdle s f = s := if_pos hbusy

include hbucket

theorem flowIdle_new (hidle : flowBusy s f = false) (hnew : (flowSt s f).assigned = none) :
    flowIdle s f = updFlow s f fun x => { x with assigned := some e, asgEpoch := curEpoch s (flowSvcHalf s f) } := by
  simp [flowIdle, flowAssign, hidle, hnew, hbucket]

theorem flowIdle_moves {a : Nat} (hidle : flowBusy s f = false) (hat : (flowSt s f).assigned = some a) (hne : a ≠ e) :
    flowIdle s f = bump (updFlow s f fun x =>
      { x with assigned := some e, asgEpoch := curEpoch s (flowSvcHalf s f) }) 0x6203 (hsub (flowSvcHalf s f)) := by
  have hmoved : (some a != some e) = true := by simpa using hne
  simp [flowIdle, flowAssign, hidle, hat, hbucket, hmoved]

theorem flowIdle_right (hat : (flowSt s f).assigned = some e)
    (hepoch : (flowSt s f).asgEpoch = curEpoch s (flowSvcHalf s f)) : flowIdle s f = s := by
  simp [flowIdle, hat, hbucket, hepoch]

end

theorem exec_flowIdlePoint_of {f : FlowNo} {s t : State} (h : flowIdle s f.val = t) :
    exec (.flowIdlePoint f) s = .next t := congrArg Host.Outcome.next h

/-! ### Delivery (R251, R264, R265) -/

section
variable {f : FlowNo} {e v : Nat} {s : State} (hcar : carries s (flowSvcHalf s f.val) = true)
  (hidle : flowIdle s f.val = s) (hat : (flowSt s f.val).assigned = some e)
  (hsvc : flowSvc s (flowSvcHalf s f.val) f.val = some v) (hrot : engInRot s v e = true)
include hcar hidle hat hsvc hrot

section
variable {t : Txn} (hev : nextEvent s f.val = some t)
include hev

theorem exec_serviceEventDeliver_early (hceil : s.eng.cyc < (flowSt s f.val).nextEv) :
    exec (.serviceEventDeliver f) s = .next (seenOnce s f.val 1 0x6204 (hsub (flowSvcHalf s f.val))) := by
  change execServiceEventDeliver f s = _
  simp [execServiceEventDeliver, hcar, hidle, hat, hsvc, hrot, hev, hceil]

theorem exec_serviceEventDeliver_full (hceil : (flowSt s f.val).nextEv ≤ s.eng.cyc)
    (hfull : inboxPlace (eng s e) (recNeed t) = none) :
    exec (.serviceEventDeliver f) s = .next (seenOnce s f.val 2 0x6209 (hsub (flowSvcHalf s f.val))) := by
  change execServiceEventDeliver f s = _
  simp [execServiceEventDeliver, hcar, hidle, hat, hsvc, hrot, hev, Nat.not_lt.mpr hceil, hfull]

theorem exec_serviceEventDeliver_txn {off : Nat} (hceil : (flowSt s f.val).nextEv ≤ s.eng.cyc)
    (hplace : inboxPlace (eng s e) (recNeed t) = some off) :
    exec (.serviceEventDeliver f) s = .next (deliverTxn s e off t) := by
  change execServiceEventDeliver f s = _
  simp [execServiceEventDeliver, hcar, hidle, hat, hsvc, hrot, hev, Nat.not_lt.mpr hceil, hplace]

end

theorem exec_serviceEventDeliver_dq {q off : Nat} (hnone : nextEvent s f.val = none)
    (hready : readyDq s (flowSvcHalf s f.val) f.val = some q) (hceil : (flowSt s f.val).nextEv ≤ s.eng.cyc)
    (hplace : inboxPlace (eng s e) 32 = some off) :
    exec (.serviceEventDeliver f) s = .next (deliverDq s e off q f.val) := by
  change execServiceEventDeliver f s = _
  simp [execServiceEventDeliver, hcar, hidle, hat, hsvc, hrot, hnone, hready, Nat.not_lt.mpr hceil, hplace]

end

/-! ### Clusters (R269, R270, R432) -/

theorem exec_clusterDrained_drained {c : EC} {v : Nat} {p : Program} {s : State} (hdrained : drained s c.val = true)
    (hup : stewardUp s (if c.val < 12 then .a else .b) = true) (hsleep : s.pwr.sleep = 0)
    (hsvc : svcOfCluster s c.val = some v) (hprog : svcProgram s v = some p) :
    exec (.clusterDrained c) s =
      .next (if p.ver = (clus s c.val).version then s else clusterLoad s c.val) := by
  change execClusterDrained c s = _
  simp only [execClusterDrained, hdrained, hup, hsleep, hsvc, hprog, BEq.rfl, Bool.and_self, if_true, ite_not]

/-- The cluster's section is loaded: its memory stands and every engine starts (R269). -/
def clusterStarted (s : State) (c v : Nat) (p : Program) : State :=
  svDeal (forAll (updClus s c fun x =>
      { x with mem := clusterMem s v c p, svc := v + 1, version := p.ver, loaded := true })
    (clusterEngs c) fun u e => engStart u v p e) v

/-- The section's hash failed: the cluster stays out (R432). -/
def clusterRefused (s : State) (c v : Nat) : State :=
  svcHashFail (updClus (forAll s (clusterEngs c) fun u e =>
    updEng u e fun g => { g with loading := false, st := .notLoaded }) c fun x => { x with loaded := false })
    (halfOfSvc v)

theorem exec_clusterLoadComplete_loading {c : EC} {v : Nat} {p : Program} {s : State}
    (hload : (clus s c.val).loading = true) (hup : stewardUp s (if c.val < 12 then .a else .b) = true)
    (hsleep : s.pwr.sleep = 0) :
    let s1 := updClus s c.val fun x => { x with loading := false }
    svcOfCluster s1 c.val = some v → svcProgram s1 v = some p →
    exec (.clusterLoadComplete c) s = .next (
      if sectionOk (flash s1 (halfOfSvc v)) p.slot p.sec = true then clusterStarted s1 c.val v p
      else clusterRefused s1 c.val v) := by
  intro s1 hsvc hprog
  change execClusterLoadComplete c s = _
  simp only [execClusterLoadComplete, clusterLoaded, hload, hup, hsleep, BEq.rfl, Bool.and_self, if_true]
  rw [hsvc]
  dsimp only
  rw [hprog]
  cases hok : sectionOk (flash s1 (halfOfSvc v)) p.slot p.sec <;> simp [hok, clusterStarted, clusterRefused, s1]

/-! ### A started engine (R269) -/

theorem eng_engStart {s : State} (hwf : Tab.wf EngSt.reset s.eng.engs = true) (v : Nat) (p : Program) (e k : Nat)
    (hk : k ≠ e) : eng (engStart s v p e) k = eng s k := by
  rw [engStart, eng_updEng hwf, if_neg hk]

/-- The registers of a started engine: g1 to g3 as Table 09 has them, every other register 0. -/
theorem startRegs_getD (a b c : W64) (i : Nat) :
    ((((List.replicate 32 (0 : W64)).set 1 a).set 2 b).set 3 c).getD i 0 =
      if i = 1 then a else if i = 2 then b else if i = 3 then c else 0 := by
  obtain rfl | h1 := Decidable.em (i = 1)
  · simp
  obtain rfl | h2 := Decidable.em (i = 2)
  · simp
  obtain rfl | h3 := Decidable.em (i = 3)
  · simp
  rw [List.getD_eq_getElem?_getD, List.getElem?_set_ne (Ne.symm h3), List.getElem?_set_ne (Ne.symm h2),
    List.getElem?_set_ne (Ne.symm h1), List.getElem?_replicate, if_neg h1, if_neg h2, if_neg h3]
  split <;> rfl

/-! ### Restarts (R261) -/

section
variable {p : Path} {e : SE} {s : State} (hopen : objOpen s p 0x6100 (halfOfEng e.val))
include hopen

theorem exec_engineRestart_open : exec (.engineRestart p e) s = .next (engRestart s e.val) := by
  change execEngineRestart p e s = _
  rw [execEngineRestart, objAct_open hopen]

theorem exec_engineRestart_notHalted (hst : (eng s e.val).st ≠ .halted) : exec (.engineRestart p e) s = .next s := by
  simp [exec_engineRestart_open hopen, engRestart, hst]

theorem exec_engineRestart_halted {v : Nat} {q : Program} (hst : (eng s e.val).st = .halted)
    (hnot : isSteward e.val = false) (hup : stewardUp s (halfOfEng e.val) = true)
    (hsvc : svcOfEng s e.val = some v) (hprog : svcProgram s v = some q) :
    exec (.engineRestart p e) s = .next (
      if sectionOk (flash s (halfOfSvc v)) q.slot q.sec = true then svDeal (engStart (engQuit s e.val) v q e.val) v
      else svcHashFail s (halfOfSvc v)) := by
  simp [exec_engineRestart_open hopen, engRestart, hst, hnot, hup, hsvc, hprog]

end

/-- Settles O18, from the equations above. -/
theorem serviceEventsFlowsAndClusters : Obligations.ServiceEventsFlowsAndClusters := by
  unfold Obligations.ServiceEventsFlowsAndClusters
  refine ⟨?idle, ?deliver, fun c v p s => exec_clusterDrained_drained, fun c v p s => exec_clusterLoadComplete_loading,
    ?start, fun p e s hopen => ⟨exec_engineRestart_notHalted hopen, fun v q => exec_engineRestart_halted hopen⟩⟩
  case idle =>
    intro f e s h hbucket
    exact ⟨fun hbusy => exec_flowIdlePoint_of (flowIdle_busy hbusy),
      fun hidle hnew => exec_flowIdlePoint_of (flowIdle_new hbucket hidle hnew),
      fun a hidle hat hne => exec_flowIdlePoint_of (flowIdle_moves hbucket hidle hat hne),
      fun hat hepoch => exec_flowIdlePoint_of (flowIdle_right hbucket hat hepoch)⟩
  case deliver =>
    intro f e v s h hcar hidle hat hsvc hrot
    exact ⟨fun t hev => ⟨exec_serviceEventDeliver_early hcar hidle hat hsvc hrot hev,
        exec_serviceEventDeliver_full hcar hidle hat hsvc hrot hev,
        fun off => exec_serviceEventDeliver_txn hcar hidle hat hsvc hrot hev⟩,
      fun q off => exec_serviceEventDeliver_dq hcar hidle hat hsvc hrot⟩
  case start =>
    intro v e p s hwf
    dsimp only
    rw [engStart, eng_updEng hwf e e, if_pos rfl]
    exact ⟨rfl, rfl, rfl, rfl, rfl, by simp, startRegs_getD _ _ _, fun k => eng_engStart hwf v p e k⟩

end Sys2Proof.Machine
end

section
/-! ## The inbox, moves, doorbells and contexts of an engine (R251 to R256, R258) -/

namespace Sys2Proof.Machine

section
variable {e : SE} {x : EngWord} {s : State} (hr : engReady s e.val)
include hr

/-! ### The inbox (R251, R252) -/

theorem exec_engQpop (hrs1 : opB x = 0) (hrs2 : opC x = 0) (hfn : opFn x = 0) : exec (.engQpop e x) s = .next
    (match (eng s e.val).inbox.find? fun r => !r.popped with
     | none => engRd s e.val (opA x) 0
     | some r => engRd (updRec s e.val r.addr fun y => { y with popped := true }) e.val (opA x)
         (BitVec.ofNat 64 r.addr)) := by
  have hok : ¬ (opB x ≠ 0 ∨ opC x ≠ 0 ∨ opFn x ≠ 0) := by omega
  change execEngQpop e x s = _
  exact (engDo_ready hr _).trans (congrArg Host.Outcome.next (if_neg hok))

theorem exec_engQdone (hrd : opA x = 0) (hrs2 : opC x = 0) (hfn : opFn x = 0) : exec (.engQdone e x) s = .next
    (match openRec (eng s e.val) (engReg s e.val (opB x)) with
     | none => engFault s e.val fQueue (engReg s e.val (opB x))
     | some r => engNext (finishRec s e.val r) e.val) := by
  have hok : ¬ (opA x ≠ 0 ∨ opC x ≠ 0 ∨ opFn x ≠ 0) := by omega
  change execEngQdone e x s = _
  exact (engDo_ready hr _).trans (congrArg Host.Outcome.next (if_neg hok))

theorem exec_engReply_ok {r : InRec} {w : W64} (hw : engReg s e.val (opC x) = w) (hrd : opA x = 0) (hfn : opFn x = 0)
    (hrec : openRec (eng s e.val) (engReg s e.val (opB x)) = some r) (hkind : r.kind = 2 ∨ r.kind = 3)
    (hnew : r.replied = false) (hword : replyBad w r.want = false)
    (hres : engReserved e.val (rpLaddr w) (rpLen w) = false) (hreq : r.req ≠ 0) (hst : rpStatus w = 0) :
    let t := engNext (updRec s e.val r.addr fun y => { y with replied := true }) e.val
    exec (.engReply e x) s = .next
      (gotPart t r.req r.part (engBytes t e.val (rpLaddr w) (rpLen w)) false (halfOfEng e.val)) := by
  have hanswers : (r.kind == 2 || r.kind == 3) = true := by simpa using hkind
  change execEngReply e x s = _
  simp only [execEngReply, engDo_ready hr, hw, hrd, hfn, hrec, hanswers, hnew, hword, hres, hreq, hst, ne_eq,
    not_true_eq_false, or_self, Bool.not_true, Bool.or_self, Bool.false_and, Bool.false_eq_true, if_false, if_true]

/-! ### Moves (R253, R254) -/

section
variable {ra i : Nat} {w : W64} {s1 : State} (hra : (engReg s e.val (opB x)).toNat = ra)
  (hw : engReg s e.val (opC x) = w) (hfn : opFn x = 0) (hrsvd : mvRsvd w = false)
  (hres : engReserved e.val (mvLaddr w) (mvLen w) = false)
include hra hw hfn hrsvd hres

section
variable {op : Nat} {bad : Nat → W64 → Bool} {len : W64 → Nat} {go : State → Nat → Nat → W64 → State}
  (h4k : in4k ra (len w) = true) (hword : bad ra w = false)
include h4k hword

/-- A well-formed move with a free slot, of an allowed flow, is issued. -/
theorem engMove_issued (hpick : pickSlot s e.val = (some i, s1)) (hlen : 1 ≤ mvLen w)
    (hallowed : moveAllowed (engRd s1 e.val (opA x) (BitVec.ofNat 64 i)) e.val (mvFlow w) = true) :
    engMove s e op x bad len go = .next (go (engRd s1 e.val (opA x) (BitVec.ofNat 64 i)) i ra w) := by
  have hsome : mvLen w ≠ 0 := by omega
  simp [engMove, engRun_fromReady hr, hra, hw, hfn, hrsvd, h4k, hword, hres, hpick, hsome, hallowed]

/-- ... without a free slot it waits for one. -/
theorem engMove_waits (hpick : pickSlot s e.val = (none, s1)) : engMove s e op x bad len go =
    .next (updEng s e.val fun g => { g with waitFor := .freeSlot }) := by
  simp [engMove, engRun_fromReady hr, hra, hw, hfn, hrsvd, h4k, hword, hres, hpick]

end

variable (h4k : in4k ra (mvLen w) = true) (haop : mvAop w = 0) (hhi : mvLen w ≤ 4096)
include h4k haop hhi

theorem exec_engMvr_waits (hdest : destOk (mvLaddr w) (mvLen w) = true) (hpick : pickSlot s e.val = (none, s1)) :
    exec (.engMvr e x) s = .next (updEng s e.val fun g => { g with waitFor := .freeSlot }) := by
  change execEngMvr e x s = _
  exact engMove_waits hr hra hw hfn hrsvd hres h4k (by simp [haop, hhi, hdest]) hpick

variable (hpick : pickSlot s e.val = (some i, s1)) (hlo : 1 ≤ mvLen w)
  (hallowed : moveAllowed (engRd s1 e.val (opA x) (BitVec.ofNat 64 i)) e.val (mvFlow w) = true)
include hpick hlo hallowed

theorem exec_engMvr_issued (hdest : destOk (mvLaddr w) (mvLen w) = true) : exec (.engMvr e x) s =
    .next (moveReq (engRd s1 e.val (opA x) (BitVec.ofNat 64 i)) e.val i .read ra (mvLen w) [] w) := by
  change execEngMvr e x s = _
  exact engMove_issued hr hra hw hfn hrsvd hres h4k (by simp [haop, hhi, hdest]) hpick hlo hallowed

theorem exec_engMvw_issued (hrange : rangeOk (mvLaddr w) (mvLen w) = true) : exec (.engMvw e x) s =
    .next (moveWrite (engRd s1 e.val (opA x) (BitVec.ofNat 64 i)) e.val i ra w) := by
  change execEngMvw e x s = _
  exact engMove_issued hr hra hw hfn hrsvd hres h4k (by simp [haop, hhi, hrange]) hpick hlo hallowed

omit hhi in
theorem exec_engMva_issued (hlen : mvLen w = 8) (hdest : destOk (mvLaddr w) 8 = true) (halign : ra % 8 = 0) :
    exec (.engMva e x) s = .next (
      let t := engRd s1 e.val (opA x) (BitVec.ofNat 64 i)
      moveReq t e.val i (.atomic .fetchAdd) ra 8 (engBytes t e.val (mvLaddr w) 8) w) := by
  have hop : aopOf 0 = .fetchAdd := rfl
  have hsize : operandSize .fetchAdd 8 = 8 := rfl
  have hok : atomicLenOk .fetchAdd 8 = true := rfl
  change execEngMva e x s = _
  refine (engMove_issued hr hra hw hfn hrsvd hres (by rw [haop, hlen]; exact hlen ▸ h4k)
    (by simp [haop, hop, hsize, hok, hlen, hdest, halign]) hpick hlo hallowed).trans ?_
  simp only [haop, hop, hsize, hlen]

end

/-! ### MWAIT, doorbells and contexts (R255, R256, R258) -/

theorem exec_engMwait_done (hrs2 : opC x = 0) (hfn : opFn x = 0)
    (hdone : slotDone (eng s e.val) ((engReg s e.val (opB x)).toNat % 16) = true) : exec (.engMwait e x) s = .next
    (match (eng s e.val).slots.getD ((engReg s e.val (opB x)).toNat % 16) .free with
     | .kept st => engRd (setSlot s e.val ((engReg s e.val (opB x)).toNat % 16) .free) e.val (opA x)
         (BitVec.ofNat 64 st)
     | _ => engRd s e.val (opA x) 0) := by
  have hok : ¬ (opC x ≠ 0 ∨ 2 ≤ opFn x) := by omega
  have hone : ¬ (opFn x = 1 && !(List.range 16).all (slotDone (eng s e.val))) = true := by simp [hfn]
  have hslot : ¬ (!slotDone (eng s e.val) ((engReg s e.val (opB x)).toNat % 16)) = true := by simp [hdone]
  change execEngMwait e x s = _
  exact (engRun_fromReady hr rfl _).trans
    (congrArg Host.Outcome.next ((if_neg hok).trans ((if_neg hone).trans (if_neg hslot))))

theorem exec_engDbell_now (hrd : opA x = 0) (hfn : opFn x = 0) (hsrc : (engReg s e.val (opB x)).toNat ≤ 16383)
    (hnow : bit (engReg s e.val (opC x)) 14 = false) : exec (.engDbell e x) s =
    .next (doorbellAt (engNext s e.val) (halfOfEng e.val) (engReg s e.val (opB x)).toNat true) := by
  have hok : ¬ (opA x ≠ 0 ∨ opFn x ≠ 0 ∨ 16383 < (engReg s e.val (opB x)).toNat) := by omega
  change execEngDbell e x s = _
  simp only [execEngDbell, engDo_ready hr, if_neg hok, hnow, Bool.false_and, Bool.false_eq_true, if_false]

section
variable (hfn : opFn x = 0) (hhome : flowHome s ((engReg s e.val (opB x)).toNat % 16384) = halfOfEng e.val)
include hfn hhome

theorem exec_engCtxr_home : exec (.engCtxr e x) s = .next (engRd s e.val (opA x)
    ((flowWord s (halfOfEng e.val) ((engReg s e.val (opB x)).toNat % 16384)
      ((engReg s e.val (opC x)).toNat % 64)).setWidth 64)) := by
  have hhome' : flowHome s (fld (engReg s e.val (opB x)) 0 14) = halfOfEng e.val := hhome
  change execEngCtxr e x s = _
  simp only [execEngCtxr, engDo_ready hr, hfn, hhome', ne_eq, not_true_eq_false, if_false]
  rfl

theorem exec_engCtxw_home (hk : 48 ≤ (engReg s e.val (opC x)).toNat % 64) : exec (.engCtxw e x) s =
    .next (engNext (updFlow s ((engReg s e.val (opB x)).toNat % 16384) fun y => { y with
      words := Tab.set 0 y.words ((engReg s e.val (opC x)).toNat % 64) ((engReg s e.val (opA x)).setWidth 32) })
      e.val) := by
  have hhome' : flowHome s (fld (engReg s e.val (opB x)) 0 14) = halfOfEng e.val := hhome
  have hk' : ¬ fld (engReg s e.val (opC x)) 0 6 < 48 := Nat.not_lt.mpr hk
  change execEngCtxw e x s = _
  simp only [execEngCtxw, engDo_ready hr, hfn, hhome', hk', ne_eq, not_true_eq_false, if_false, decide_false,
    Bool.or_self, Bool.false_eq_true]
  rfl

end
end

/-! ### The end of a move (R254, R255) -/

section
variable {e : SE} {i : Fin 16} {fl la : Nat} {nf : Bool} {s : State} (hup : engUp s e.val = true)
include hup

theorem exec_moveComplete_write (hslot : (eng s e.val).slots.getD i.val .free = .busy fl la nf true) :
    exec (.moveComplete e i) s = .next (engWake (setSlot s e.val i.val .free) e.val) := by
  change execMoveComplete e i s = _
  simp only [execMoveComplete, hup, hslot, Bool.not_true, Bool.false_eq_true, if_false, if_true, slotEnd]

theorem exec_moveComplete_data {t : Txn} {m : Nat} {o : Nat} {k : Nat}
    (hslot : (eng s e.val).slots.getD i.val .free = .busy fl la nf false)
    (hcpl : slotCpl s e.val i.val = some t) (hop : t.op = .cpl 0 m o k) :
    exec (.moveComplete e i) s = .next
      (engWake (setSlot (engPut (dropTxn s t.id) e.val la t.data) e.val i.val .free) e.val) := by
  change execMoveComplete e i s = _
  simp only [execMoveComplete, hup, hslot, hcpl, hop, Bool.not_true, Bool.false_eq_true, if_false, if_true, slotEnd]

end

/-- Settles O17, from the equations above; the three moves share `engMove`. -/
theorem engineInboxMovesDoorbellsAndContexts : Obligations.EngineInboxMovesDoorbellsAndContexts := by
  unfold Obligations.EngineInboxMovesDoorbellsAndContexts
  refine ⟨fun e x s hr => ⟨exec_engQpop hr, exec_engQdone hr,
      fun r => exec_engReply_ok hr rfl, ?moves, ?noSlot,
      exec_engMwait_done hr, exec_engDbell_now hr,
      fun hfn hhome => ⟨exec_engCtxr_home hr hfn hhome, exec_engCtxw_home hr hfn hhome⟩⟩,
    fun e i fl la nf s hup => ⟨exec_moveComplete_write hup, fun t m o k => exec_moveComplete_data hup⟩⟩
  case moves =>
    intro i s1 hfn hrsvd h4k haop hlo hhi hres hpick t hallowed
    exact ⟨exec_engMvr_issued hr rfl rfl hfn hrsvd hres h4k haop hhi hpick hlo hallowed,
      exec_engMvw_issued hr rfl rfl hfn hrsvd hres h4k haop hhi hpick hlo hallowed,
      exec_engMva_issued hr rfl rfl hfn hrsvd hres h4k haop hpick hlo hallowed⟩
  case noSlot =>
    intro s1 hfn hrsvd h4k haop hhi hdest hres hpick
    exact exec_engMvr_waits hr rfl rfl hfn hrsvd hres h4k haop hhi hdest hpick

end Sys2Proof.Machine
end

section
/-! ## Hot windows, engine counters and the memory window (R266, R272, R320) -/

namespace Sys2Proof.Machine

/-! ### Hot engines (R266) -/

theorem exec_engineHotWindow_carries {h : Half} {s : State} (hcar : carries s h = true) :
    exec (.engineHotWindow h) s = .next (forAll s ((svcsOf h).filter (svcEn s)) fun u v =>
      updSvc (forAll u (svcEngines u v) fun t e => hotEngine t h (svcEngines u v).length (svc u v).winEv e) v
        fun x => { x with winEv := 0 }) := by
  change execEngineHotWindow h s = _
  simp only [execEngineHotWindow, hcar, Bool.not_true, Bool.false_eq_true, if_false]

section
variable {h : Half} {n total e : Nat} {s : State} (hwf : Tab.wf EngSt.reset s.eng.engs = true) (hn : 1 < n)
  (htotal : 10000 ≤ total)
include hwf hn htotal

/-- A window above the threshold counts, and at the dwell the engine is hot. -/
theorem eng_hotEngine_over (hover : cfg s h 0x6042 1 * total < (eng s e).winEv * n * 100) :
    (eng (hotEngine s h n total e) e).hotWin = (eng s e).hotWin + 1 ∧
    (eng (hotEngine s h n total e) e).hot =
      ((eng s e).hot || decide (cfg s h 0x6042 2 ≤ (eng s e).hotWin + 1)) := by
  have hjudged : ¬ (total < 10000 ∨ n ≤ 1) := by omega
  have hwf1 (f : EngSt → EngSt) := updEng_wf hwf e f
  have hwf2 (f g : EngSt → EngSt) := updEng_wf (hwf1 f) e g
  simp only [hotEngine, if_neg hjudged, if_pos hover]
  split
  case isTrue hraise =>
    obtain ⟨hdwell, -⟩ := Bool.and_eq_true_iff.mp hraise
    simp [eng_raiseEv, eng_updEng hwf, eng_updEng (hwf1 _), eng_updEng (hwf2 _ _), of_decide_eq_true hdwell]
  case isFalse hkeep =>
    have hhot : cfg s h 0x6042 2 ≤ (eng s e).hotWin + 1 → (eng s e).hot = true := by simpa using hkeep
    simpa [eng_updEng hwf, eng_updEng (hwf1 _)] using hhot

/-- A window at or below it ends the episode. -/
theorem eng_hotEngine_under (hunder : (eng s e).winEv * n * 100 ≤ cfg s h 0x6042 1 * total) :
    eng (hotEngine s h n total e) e = { eng s e with
      hotWin := 0, hot := false, winEv := 0, share := (eng s e).winEv * n * 100 / total } := by
  have hjudged : ¬ (total < 10000 ∨ n ≤ 1) := by omega
  have hsome : total ≠ 0 := by omega
  simp [hotEngine, hjudged, Nat.not_lt.mpr hunder, hotShare, hsome, eng_updEng, updEng_wf, hwf]

end

/-! ### SE_CNT_CLR and SE_MEM_SEL (R272, R320) -/

theorem exec_seCntClr_open {p : Path} {e : SE} {s : State} (hopen : regOpen s p (halfOfEng e.val)) :
    exec (.seCntClr p e) s = .next (updEng s e.val fun g => { g with events := 0, faults := 0 }) :=
  congrArg Host.Outcome.next (regAct_open hopen _ fun t => seClear t e.val)

theorem exec_seMemSel_open {p : Path} {s : State} (v : BitVec 8) (hopen : regOpen s p (pathHalf s p)) :
    exec (.seMemSel p v) s = .next
      (if pathOwnB s p then { s with eng := { s.eng with memSelB := v.toNat } }
       else { s with eng := { s.eng with memSel := v.toNat } }) :=
  congrArg Host.Outcome.next (regAct_open hopen _ fun t => memSelSet t p v.toNat)

/-! ### The memory window (R272) -/

theorem exec_engineMemoryWindowWrite_open {p : Path} {s : State} (off : BitVec 21) (w : W32)
    (hopen : regOpen s p (halfOfEng (memSelOf s p))) :
    exec (.engineMemoryWindowWrite p off w) s = .next (windowPut s (memSelOf s p) off.toNat w) :=
  congrArg Host.Outcome.next (regAct_open hopen _ fun t => windowPut t (memSelOf s p) off.toNat w)

section
variable {s : State} {e off : Nat} (hlt : e < 192) (w : W32)
include hlt

theorem windowPut_refused (hno : isSteward e = true ∨ engReserved e (off / 4 * 4) 4 = true ∨
      ((eng s e).st ≠ .halted ∧ drained s (e / 8) = false)) :
    windowPut s e off w = bump s 0x6201 (hsub (halfOfEng e)) := by
  have href : (isSteward e || engReserved e (off / 4 * 4) 4 ||
      !((eng s e).st == .halted || drained s (e / 8))) = true := by
    rcases hno with hno | hno | ⟨hst, hdr⟩
    · simp [hno]
    · simp [hno]
    · simp [hst, hdr]
  simp only [windowPut, Nat.not_le.mpr hlt, href, if_false, if_true]

theorem windowPut_stores (hnot : isSteward e = false) (hres : engReserved e (off / 4 * 4) 4 = false)
    (hidle : (eng s e).st = .halted ∨ drained s (e / 8) = true) :
    windowPut s e off w =
      if (engRegion (off / 4 * 4) 4).isSome then engPut s e (off / 4 * 4) (bytesLE 4 w.toNat) else s := by
  have hallowed : ((eng s e).st == .halted || drained s (e / 8)) = true := by simpa using hidle
  cases hreg : engRegion (off / 4 * 4) 4 <;> simp [windowPut, Nat.not_le.mpr hlt, hnot, hres, hallowed, hreg]

end

/-- Settles O19, from the equations above. -/
theorem hotEnginesCountersAndTheMemoryWindow : Obligations.HotEnginesCountersAndTheMemoryWindow := by
  unfold Obligations.HotEnginesCountersAndTheMemoryWindow
  refine ⟨fun h s => exec_engineHotWindow_carries, fun h n total e s hwf hn htotal =>
      ⟨eng_hotEngine_over hwf hn htotal, eng_hotEngine_under hwf hn htotal⟩,
    fun p e s => exec_seCntClr_open, fun p v s => exec_seMemSel_open v, ?window⟩
  intro p off w s e a hopen hlt
  rw [exec_engineMemoryWindowWrite_open off w hopen]
  exact ⟨fun hno => congrArg _ (windowPut_refused hlt w hno),
    fun hnot hres hidle => congrArg _ (windowPut_stores hlt w hnot hres hidle)⟩

end Sys2Proof.Machine
end

section
/-! ## Sources: doorbells, offers, holds and masks (R278 to R280, R284 to R286, R302)

A doorbell is an arrival; what follows an arrival (PM_PME, INTx, a wake) leaves the event controllers as they
are, so the counter's own equation says what became of the source. -/

namespace Sys2Proof.Machine

/-! ### What follows an arrival leaves the controllers (R113, R105, R388) -/

theorem wakeBy_evc (s : State) (c i : Nat) : (wakeBy s c i).evc = s.evc := by
  unfold wakeBy onlyIf avsBoth avsStart
  dsimp only
  (repeat' split) <;> rfl

theorem pmEvent_evc (s : State) (n : Nat) : (pmEvent s n).evc = s.evc := by
  unfold pmEvent tlpOut
  (repeat' split) <;> rfl

theorem intxUpdate_evc (s : State) (m : Nat) : (intxUpdate s m).evc = s.evc := by
  unfold intxUpdate tlpOut
  dsimp only
  (repeat' split) <;> rfl

/-- A step that never moves the controllers does not move them where it depends on a condition either. -/
theorem onlyIf_evc {f : State → State} (hf : ∀ t, (f t).evc = t.evc) (c : Bool) (s : State) :
    (onlyIf c f s).evc = s.evc := by
  cases c
  · rfl
  · exact hf s

/-! ### Arrivals (R279) -/

/-- The source after one more arrival: at 255 the counter stays; the first cause makes it pending from `clk`. -/
def SrcSt.arrived (x : SrcSt) (clk : Nat) : SrcSt :=
  if x.count = 255 then x
  else { x with count := x.count + 1, order := if x.count = 0 then clk else x.order }

theorem SrcSt.arrived_count (x : SrcSt) (clk : Nat) :
    (x.arrived clk).count = if x.count = 255 then 255 else x.count + 1 := by
  unfold SrcSt.arrived
  split
  case isTrue hfull => exact hfull
  case isFalse => rfl

theorem SrcSt.arrived_pos (x : SrcSt) (clk : Nat) : (x.arrived clk).pos = x.pos := by
  unfold SrcSt.arrived
  split <;> rfl

theorem SrcSt.arrived_masked (x : SrcSt) (clk : Nat) : (x.arrived clk).masked = x.masked := by
  unfold SrcSt.arrived
  split <;> rfl

/-- An admitted arrival moves the controllers by its count alone. -/
theorem arriveAdmitted_evc (s : State) (n : Nat) : (arriveAdmitted s n).evc =
    if (src s n).count = 255 then s.evc
    else (updSrc s n fun x =>
      { x with count := x.count + 1, order := if x.count = 0 then s.clk else x.order }).evc := by
  unfold arriveAdmitted
  dsimp only
  rw [onlyIf_evc fun t => wakeBy_evc t 4 n, onlyIf_evc fun t => (intxUpdate_evc _ _).trans (pmEvent_evc _ _),
    bump_src_eq]
  by_cases hfull : (src s n).count = 255
  · simp only [if_pos hfull, bump_evc]
  · simp only [if_neg hfull]
    rfl

theorem src_arriveAdmitted {s : State} (hwf : Tab.wf SrcSt.reset s.evc.srcs = true) (n k : Nat) :
    src (arriveAdmitted s n) k = if k = n then (src s n).arrived s.clk else src s k := by
  change Tab.get SrcSt.reset (arriveAdmitted s n).evc.srcs k = _
  rw [arriveAdmitted_evc, SrcSt.arrived]
  by_cases hfull : (src s n).count = 255
  · simp only [if_pos hfull]
    split
    case isTrue hk => rw [hk]; rfl
    case isFalse => rfl
  · simp only [if_neg hfull]
    exact src_updSrc hwf n k _

/-! ### Doorbells (R278) -/

section
variable {s : State} {h : Half} {n : Nat}

/-- A doorbell for the other half that cannot cross is counted where it was rung. -/
theorem doorbellAt_cannotCross (hacross : halfOfSrc n ≠ h) (hdie : dieUp s = false) (adm : Bool) :
    doorbellAt s h n adm = bump s 0x6C21 (hsub h) := by
  have hno : (halfOfSrc n != h && !dieUp s) = true := by simp [hacross, hdie]
  exact if_pos hno

variable (hown : halfOfSrc n = h)
include hown

/-- In its own half a doorbell is refused, or arrives. -/
theorem doorbellAt_own (adm : Bool) : doorbellAt s h n adm =
    if !adm || 8064 ≤ n % 8192 then bump s 0x6C21 (hsub h) else arrive s n := by
  have hhere : ¬ (halfOfSrc n != h && !dieUp s) = true := by simp [hown]
  rw [doorbellAt, if_neg hhere, hown]

theorem doorbellAt_refused {adm : Bool} (hno : adm = false ∨ 8064 ≤ n % 8192 ∨ srcEn s n = false ∨
      srcDormant s n = true ∨ srcLevel s n = true) :
    doorbellAt s h n adm = bump s 0x6C21 (hsub h) := by
  rw [doorbellAt_own hown, arrive, hown]
  rcases hno with hno | hno | hno | hno | hno <;> simp [hno]

theorem doorbellAt_admitted (hext : n % 8192 < 8064) (hen : srcEn s n = true) (hdor : srcDormant s n = false)
    (hedge : srcLevel s n = false) : doorbellAt s h n true = arriveAdmitted s n := by
  have hopen : ¬ 8064 ≤ n % 8192 := Nat.not_le.mpr hext
  rw [doorbellAt_own hown, arrive]
  simp [hopen, hen, hdor, hedge]

end

theorem exec_evcDbell_open {p : Path} {h : Half} {s : State} (ho : regOpen s p h) (n : BitVec 14) :
    exec (.evcDbell p h n) s = .next (doorbellAt s h n.toNat true) := by
  change execEvcDbell p h n s = _
  rw [execEvcDbell, regAct_open ho]

/-- Table 10.2: which origin a source admits of a function's doorbell. -/
theorem fnDbell_eq (s : State) (n k : Nat) : fnDbell s n k = doorbellAt s (halfOfHl (n / 64)) k
    (if fld (sw s k 0) 8 2 = 2 then fld (sw s k 1) 0 10 == n else fld (sw s k 0) 8 2 == 3) := by
  rw [fnDbell]
  congr 1
  split
  case h_1 hfn => rw [if_pos hfn]
  case h_2 hany => rw [hany]; rfl
  case h_3 hfn hany => rw [if_neg hfn, beq_eq_false_iff_ne.mpr hany]

theorem exec_evcFnDbell_served {m : HL} {f : Fn} {s : State} (hawake : awake s) (hregs : fnRegs s m.val f.val = true)
    (n : BitVec 14) : exec (.evcFnDbell m f n) s = .next (fnDbell s (64 * m.val + f.val) n.toNat) := by
  change execEvcFnDbell m f n s = _
  simp only [execEvcFnDbell, tlpWake_awake hawake, hregs, if_true]

/-! ### Offers and holds (R284 to R286) -/

theorem offerTo_free {s : State} {e : Nat} (hfree : (eng s e).offer = none) (n : Nat) : offerTo s n e =
    updSrc (updEng s e fun g => { g with offer := some ⟨n, srcPri s n, (sw s n 3).setWidth 64⟩ }) n
      fun x => { x with pos := .offered e } := by
  simp only [offerTo, offerDrop, hfree, if_true]

theorem srcRoute_chosen {s : State} {n e : Nat} (hpend : srcPending s n = true) (hch : srcChoose s n = some e) :
    srcRoute s n = if (eng s e).st = .waiting ∨ engWindow s e = 0 then offerTo s n e
      else updSrc s n fun x => { x with pos := .held e } := by
  simp [srcRoute, hpend, hch]

theorem exec_sourceOffer_first {n : ES} {e : Nat} {s : State} (hidle : (src s n.val).pos = .idle)
    (hch : srcChoose s n.val = some e) (hfirst : srcFirst s n.val e = true) :
    exec (.sourceOffer n) s = .next (srcRoute s n.val) := by
  change execSourceOffer n s = _
  simp only [execSourceOffer, hidle, hch, hfirst, BEq.rfl, Bool.and_self, if_true]

theorem exec_coalescingHoldEnd_held {n : ES} {k : Nat} {s : State} (hheld : (src s n.val).pos = .held k) :
    exec (.coalescingHoldEnd n) s = .next (
      let s1 := updSrc s n.val fun x => { x with pos := .idle }
      match srcChoose s1 n.val with
      | some e => if srcPending s1 n.val then offerTo s1 n.val e else s1
      | none => s1) := by
  change execCoalescingHoldEnd n s = _
  simp only [execCoalescingHoldEnd, hheld] <;> rfl

/-! ### The mask (R286, R302) -/

theorem exec_evcSrcMask_open {p : Path} {n : ES} {s : State}
    (ho : wideOpen s p (0x6D00 + n.val / 128) (halfOfSrc n.val)) (v : Bool) :
    exec (.evcSrcMask p n v) s = .next (setMask s n.val v) := by
  change execEvcSrcMask p n v s = _
  rw [execEvcSrcMask, regOrObj_open ho]

section
variable {s : State} {n : Nat}

theorem setMask_offered {e : Nat} (hpos : (src s n).pos = .offered e) : setMask s n true =
    bump (offerDrop (updSrc s n fun y => { y with masked := true }) e) 0x6C24 (hsub (halfOfSrc n)) := by
  simp only [setMask, hpos, if_true]

theorem setMask_idle (hpos : (src s n).pos = .idle) :
    setMask s n true = updSrc s n fun y => { y with masked := true } := by
  simp only [setMask, hpos, if_true]

/-- The mask taken off a source that calls for service. -/
theorem setMask_cleared (hmask : (src s n).masked = true) (hwants : srcWants s n = true) : setMask s n false =
    updSrc (updSrc s n fun y => { y with masked := false }) n fun y => { y with order := s.clk } := by
  simp only [setMask, hmask, hwants, Bool.and_self, onlyIf_true, updSrc_clk, Bool.false_eq_true, if_false]

end

/-- Settles O20, from the equations above. -/
theorem sourcesCountAreOfferedHeldAndMasked : Obligations.SourcesCountAreOfferedHeldAndMasked := by
  unfold Obligations.SourcesCountAreOfferedHeldAndMasked
  refine ⟨fun p h n s ho => exec_evcDbell_open ho n, fun m f n s hawake hregs => ?fnDoorbell,
    fun h n adm s hwf => ⟨fun hacross hdie => doorbellAt_cannotCross hacross hdie adm,
      fun hown hno => doorbellAt_refused hown hno, ?counts⟩,
    fun n e s hidle hpend hch hfirst => ?offer, fun n e s hfree => offerTo_free hfree n,
    fun n k s hheld => exec_coalescingHoldEnd_held hheld,
    fun p n s ho => ⟨fun e hpos => ?withdrawn, fun hpos => ?masked, fun hmask hwants => ?cleared⟩⟩
  case fnDoorbell => rw [exec_evcFnDbell_served hawake hregs, fnDbell_eq]
  case counts =>
    intro hown hadm hext hen hdor hedge
    subst hadm
    have hsrc (k : Nat) : src (doorbellAt s h n true) k = if k = n then (src s n).arrived s.clk else src s k := by
      rw [doorbellAt_admitted hown hext hen hdor hedge, src_arriveAdmitted hwf]
    have hself : src (doorbellAt s h n true) n = (src s n).arrived s.clk := (hsrc n).trans (if_pos rfl)
    exact ⟨hself ▸ SrcSt.arrived_count _ _, hself ▸ SrcSt.arrived_pos _ _, hself ▸ SrcSt.arrived_masked _ _,
      fun k hk => (hsrc k).trans (if_neg hk)⟩
  case offer => rw [exec_sourceOffer_first hidle hch hfirst, srcRoute_chosen hpend hch]
  case withdrawn => rw [exec_evcSrcMask_open ho, setMask_offered hpos]
  case masked => rw [exec_evcSrcMask_open ho, setMask_idle hpos]
  case cleared => rw [exec_evcSrcMask_open ho, setMask_cleared hmask hwants]

end Sys2Proof.Machine
end

section
/-! ## An EOI out of order (R289) -/

namespace Sys2Proof.Machine

section
variable {e : SE} {x : EngWord} {s : State} (hr : engReady s e.val) (hrd : opA x = 0) (hrs2 : opC x = 0)
  (hfn : opFn x = 0)
include hr hrd hrs2 hfn

/-- With an empty stack, or while a return is pending, an EOI of any source is out of order. -/
theorem exec_engEoi_noEntry (hnone : (eng s e.val).stack = [] ∨ (eng s e.val).pendRet ≠ none) :
    exec (.engEoi e x) s = .next (engFault (bump s 0x6C23 (hsub (halfOfEng e.val))) e.val fStack
      (BitVec.ofNat 64 ((engReg s e.val (opB x)).toNat % 16384))) := by
  change execEngEoi e x s = _
  simp only [execEngEoi, engDo_ready hr, hrd, hrs2, hfn, ne_eq, not_true_eq_false, or_self, if_false]
  split
  case h_1 hstack hpend => simp [hstack, hpend] at hnone
  case h_2 => rfl

theorem exec_engEoi_outOfOrder (hbad : (eng s e.val).stack = [] ∨ (eng s e.val).pendRet ≠ none ∨
      ∀ top ∈ (eng s e.val).stack.head?, top.src ≠ (engReg s e.val (opB x)).toNat % 16384) :
    exec (.engEoi e x) s = .next (engFault (bump s 0x6C23 (hsub (halfOfEng e.val))) e.val fStack
      (BitVec.ofNat 64 ((engReg s e.val (opB x)).toNat % 16384))) := by
  cases hstack : (eng s e.val).stack with
  | nil => exact exec_engEoi_noEntry hr hrd hrs2 hfn (.inl hstack)
  | cons top rest =>
    by_cases hpend : (eng s e.val).pendRet = none
    · refine exec_engEoi_other hr hrd hrs2 hfn hstack hpend ?_
      simpa [hstack, hpend] using hbad
    · exact exec_engEoi_noEntry hr hrd hrs2 hfn (.inr hpend)

end

/-- Settles O51: the fault is raised in every case out of order, and a fault its handler takes changes the
engine as `EngSt.faulted` says and no controller. -/
theorem eoiOutOfOrderFaults : Obligations.EoiOutOfOrderFaults := by
  unfold Obligations.EoiOutOfOrderFaults
  intro e x s hr ⟨hwf, _⟩ hrd hrs2 hfn n g hbad
  refine ⟨exec_engEoi_outOfOrder hr hrd hrs2 hfn hbad, fun hvec hnot => ?handled⟩
  case handled =>
    intro t
    have heng : eng t e.val = g.faulted fStack (BitVec.ofNat 64 n) :=
      (eng_engFault_handled (s := bump s 0x6C23 _) hwf hvec hnot _ _ e.val).trans (if_pos rfl)
    have hevc : t.evc = s.evc := by
      change (engFault (bump s 0x6C23 _) e.val fStack _).evc = s.evc
      rw [engFault_handled_frame (s := bump s 0x6C23 _) hvec hnot, bump_evc]
    rw [heng]
    exact ⟨rfl, rfl, hevc, rfl, rfl, rfl, rfl, rfl⟩

end Sys2Proof.Machine
end

section
/-! ## A function's event registers and the record ring (R283, R296 to R298, R301) -/

namespace Sys2Proof.Machine

/-! ### Claims (R296) -/

theorem claimRead_zero {s : State} {n : Nat} (hno : msixEn s n = true ∨ msiEn s n = true ∨ claimable s n = none) :
    claimRead s n = (0, s) := by
  rcases hno with hmsix | hmsi | hnone
  · simp [claimRead, hmsix]
  · simp [claimRead, hmsi]
  · simp [claimRead, hnone]

section
variable {s : State} {n k : Nat} (hmsix : msixEn s n = false) (hmsi : msiEn s n = false)
  (hk : claimable s n = some k)
include hmsix hmsi hk

theorem claimRead_edge (hedge : srcLevel s k = false) : claimRead s n =
    (k + 2 ^ 15 + (src s k).count * 2 ^ 16, intxUpdate (updSrc s k fun x => { x with count := 0 }) (n / 64)) := by
  simp only [claimRead, hmsix, hmsi, hk, hedge, Bool.or_self, Bool.false_eq_true, if_false]

theorem claimRead_level (hlevel : srcLevel s k = true) : claimRead s n =
    (k + 2 ^ 14 + 2 ^ 15, updSrc s k fun x => { x with pos := .claimed, vanished := false }) := by
  simp only [claimRead, hmsix, hmsi, hk, hlevel, Bool.or_self, Bool.false_eq_true, if_false, if_true]

end

/-! ### The registers where they answer -/

section
variable {m : HL} {f : Fn} {s : State} (hawake : awake s) (hregs : fnRegs s m.val f.val = true)
include hawake hregs

theorem exec_evcFnClaim_served (hlink : (hl s m.val).dlActive = true) (tag : BitVec 14) {v : Nat} {t : State}
    (hclaim : claimRead s (64 * m.val + f.val) = (v, t)) : exec (.evcFnClaim m f tag) s =
    .next (tlpOut t m.val (.cplData tag.toNat (bytesLE 4 v) 0 false false false)) := by
  change execEvcFnClaim m f tag s = _
  simp only [execEvcFnClaim, tlpWake_awake hawake, hlink, hregs, hclaim, Bool.not_true, Bool.false_eq_true, if_false]

theorem exec_evcFnDone_served (k : BitVec 14) :
    exec (.evcFnDone m f k) s = .next (fnDone s (64 * m.val + f.val) k.toNat) := by
  change execEvcFnDone m f k s = _
  simp only [execEvcFnDone, tlpWake_awake hawake, hregs, if_true]

theorem exec_evcFnEvt_served (v : W32) :
    exec (.evcFnEvt m f v) s = .next (fnEvtClr s (64 * m.val + f.val) v) := by
  change execEvcFnEvt m f v s = _
  simp only [execEvcFnEvt, tlpWake_awake hawake, hregs, if_true]

theorem exec_evcFnEvtEn_served (v : W32) :
    exec (.evcFnEvtEn m f v) s = .next (fnEvtEn s (64 * m.val + f.val) v) := by
  change execEvcFnEvtEn m f v s = _
  simp only [execEvcFnEvtEn, tlpWake_awake hawake, hregs, if_true]

end

theorem fnDone_eq (s : State) (n k : Nat) : fnDone s n k =
    if srcFnNow s k = n ∧ (src s k).pos = .claimed then
      intxUpdate (updSrc s k fun x => { x with pos := .idle, vanished := false }) (n / 64)
    else s := by
  simp [fnDone]

/-- The notify vector is signalled where a bit that is set was off and comes on (R298). -/
theorem fnEvtEn_eq (s : State) (n : Nat) (v : W32) : fnEvtEn s n v =
    intxUpdate (if v &&& 0x3F#32 &&& ~~~(fn s n).evtEn &&& (fn s n).evt = 0
      then updFn s n fun y => { y with evtEn := v &&& 0x3F#32 }
      else notify (updFn s n fun y => { y with evtEn := v &&& 0x3F#32 }) n) (n / 64) := by
  rw [fnEvtEn]
  congr 1
  by_cases hnew : v &&& 0x3F#32 &&& ~~~(fn s n).evtEn &&& (fn s n).evt = 0
  · simp only [hnew, bne_self_eq_false, onlyIf_false, if_true]
  · simp only [bne_iff_ne.mpr hnew, onlyIf_true, if_neg hnew]

/-! ### The record ring (R283) -/

theorem exec_evcErecPop_open {p : Path} {h : Half} {s : State} (ho : regOpen s p h) :
    exec (.evcErecPop p h) s = .next (erecPop s h) := by
  change execEvcErecPop p h s = _
  rw [execEvcErecPop, regAct_open ho]

/-- Settles O22, from the equations above. -/
theorem functionEventRegistersClaimAndClear : Obligations.FunctionEventRegistersClaimAndClear := by
  unfold Obligations.FunctionEventRegistersClaimAndClear
  refine ⟨fun m f s hawake hregs hlink => ?registers, fun p s => ⟨exec_evcErecPop_open, exec_evcErecPop_open⟩⟩
  intro n answer
  have hclaim {v : Nat} {t : State} (tag : BitVec 14) (h : claimRead s n = (v, t)) :
      exec (.evcFnClaim m f tag) s = .next (answer t v tag) := exec_evcFnClaim_served hawake hregs hlink tag h
  refine ⟨fun tag hno => hclaim tag (claimRead_zero hno),
    fun tag k hmsix hmsi hk => ⟨fun hedge => hclaim tag (claimRead_edge hmsix hmsi hk hedge),
      fun hlevel => hclaim tag (claimRead_level hmsix hmsi hk hlevel)⟩,
    fun k => ?done, exec_evcFnEvt_served hawake hregs, fun v => ?enable⟩
  case done => rw [exec_evcFnDone_served hawake hregs, fnDone_eq]
  case enable => rw [exec_evcFnEvtEn_served hawake hregs, fnEvtEn_eq]

end Sys2Proof.Machine
end

section
/-! ## One command a step, and fuses that only gain (R413, R431) -/

namespace Sys2Proof.Machine

/-- Settles O59: the queue, the cycles and the fuses are what every step keeps. -/
theorem everyStepTakesOneCommandAndFusesOnlyGain : Obligations.EveryStepTakesOneCommandAndFusesOnlyGain := by
  unfold Obligations.EveryStepTakesOneCommandAndFusesOnlyGain
  intro s t hstep
  obtain ⟨hpending, hclk, hfuses, -⟩ := step_kept hstep
  exact ⟨hpending, hclk, hfuses⟩

end Sys2Proof.Machine
end

section
/-! ## The reset state (R398, R413, R422, R466) -/

namespace Sys2Proof.Machine

theorem runVal_reset (idx sub : Nat) : runVal DictSt.reset idx sub = odDefault idx sub := rfl

/-- With nothing written and no check under way the shadow reads the running value. -/
theorem shadowVal_reset (idx sub : Nat) : shadowVal DictSt.reset idx sub = odDefault idx sub := rfl

/-- Settles O55: every table is empty, and each block's record is its reset value. -/
theorem resetLeavesEveryBlockInItsResetState : Obligations.ResetLeavesEveryBlockInItsResetState := by
  unfold Obligations.ResetLeavesEveryBlockInItsResetState
  refine ⟨rfl, rfl, fun h => ?halves, fun _ => rfl, fun _ => ⟨rfl, rfl, rfl, rfl, rfl, rfl, rfl, rfl, rfl⟩,
    rfl, rfl, rfl, rfl, rfl, rfl, rfl, ⟨rfl, rfl, rfl, rfl, rfl, rfl, rfl, rfl⟩, rfl, rfl, rfl, rfl, rfl, rfl⟩
  case halves =>
    have hdict : dictOf State.reset h = DictSt.reset := by cases h <;> rfl
    have hhalf : half State.reset h = HalfSt.reset := by cases h <;> rfl
    rw [hdict, hhalf]
    exact ⟨rfl, rfl, rfl, rfl, rfl, rfl, fun idx sub => ⟨runVal_reset idx sub, shadowVal_reset idx sub⟩⟩

end Sys2Proof.Machine
end

section
/-! ## Containment (R309, R310, R312, R313, R317, R318, R320, R321)

A link is frozen, its freeze timer ends, it is released; a worker is released; the log and its counters. -/

namespace Sys2Proof.Machine

/-! ### A link is frozen (R309, R310) -/

theorem llFreeze_run {s : State} {l : Nat} (hones : onesModel s l = false) (hrun : containOf s l = 1) :
    llFreeze s l =
      let h := halfOfLink l
      let s1 := updLink s l fun x => { x with contain := 2, cause := 5, present := false, applied := false }
      let s2 := raiseEv s1 h 19 l 5 0
      let s3 := forAll s2 (fnsTargeting s2 l) fun u n => fnEvent u n 5
      let s4 := bump (logC s3 h 0x10 l (detail := 5)) 0x8003 (l + 1)
      semDropLink (dropLocked (dropAnswers (markOld s4 l) l) l) l := by
  simp only [llFreeze, hones, Bool.false_eq_true, if_false, freezeLink, hrun]

theorem exec_errLlFreeze_open {s : State} {p : Path} {l : LL} (ho : regOpen s p (halfOfLink l.val)) :
    exec (.errLlFreeze p l) s = .next (llFreeze s l.val) := by
  change execErrLlFreeze p l s = _
  rw [execErrLlFreeze, regAct_open ho]

/-! ### The freeze timer ends (R312, R387) -/

theorem exec_freezeTimeout_otherwise {s : State} {l : LL} (hno : containOf s l.val ≠ 2 ∨ 1 < s.pwr.sleep) :
    exec (.freezeTimeout l) s = .next s := by
  change execFreezeTimeout l s = _
  rw [execFreezeTimeout]
  rcases hno with hcontain | hsleep
  · simp only [freezeExpires, bne_iff_ne.mpr hcontain, if_true, ite_self]
  · rw [if_neg (Nat.not_le.mpr hsleep)]

theorem exec_freezeTimeout_held {s : State} {l : LL} (hheld : containOf s l.val = 2) (hsleep : s.pwr.sleep ≤ 1) :
    exec (.freezeTimeout l) s = .next (
      let h := halfOfLink l.val
      let np := (s.fab.txns.filter fun t => t.kind == .np && t.sink == .link l.val).length +
        (s.fab.tags.filter fun t => (t.side == linkSide l.val) && t.old && t.req != 0).length
      let ps := (s.fab.txns.filter fun t => t.kind == .p && t.sink == .link l.val).length
      let s1 := updLink s l.val fun x => { x with contain := 3 }
      let s2 := endAll s1 (fun t => t.kind != .cpl && t.sink == .link l.val) 2 fun u t => countFrozen u t.home t.kind
      raiseEv (logC (endOld s2 l.val) h 0x11 l.val (addr := np) (addr2 := ps)) h 20 l.val 0 (min np 65535)) := by
  change execFreezeTimeout l s = _
  simp only [execFreezeTimeout, if_pos hsleep, freezeExpires, hheld, bne_self_eq_false, Bool.false_eq_true, if_false]

/-! ### A link is released (R313, R317) -/

section
variable {s : State} {l : Nat} (hnot : isWorker s = false)
  (hheld : (link s l).contain = 2 ∨ (link s l).contain = 3)
include hnot hheld

theorem releaseLink_notActive (hdown : linkActive s l = false) :
    releaseLink s l = releaseRefused s (halfOfLink l) l 1 := by
  rcases hheld with h | h <;> simp [releaseLink, h, hnot, hdown]

theorem releaseLink_notApplied (hup : linkActive s l = true) (hpresent : (link s l).present = true)
    (happlied : (link s l).applied = false) : releaseLink s l = releaseRefused s (halfOfLink l) l 2 := by
  rcases hheld with h | h <;> simp [releaseLink, h, hnot, hup, hpresent, happlied]

theorem releaseLink_released (hup : linkActive s l = true)
    (happlied : (link s l).present = true → (link s l).applied = true) :
    releaseLink s l = settle (raiseEv (logC (updLink (endOld s l) l fun y =>
      { y with contain := 1, present := false, applied := false, cause := 0 }) (halfOfLink l) 0x12 l)
      (halfOfLink l) 21 l 0 0) := by
  rcases hheld with h | h <;> simpa [releaseLink, h, hnot, hup] using
    fun hpresent hno => absurd (happlied hpresent) (Bool.eq_false_iff.mp hno)

end

theorem exec_errLlRelease_open {s : State} {p : Path} {l : LL} (ho : wideOpen s p 0x8002 (halfOfLink l.val))
    (hsteward : (half s (halfOfLink l.val)).stewardHalted = false) :
    exec (.errLlRelease p l) s = .next (releaseLink s l.val) := by
  change execErrLlRelease p l s = _
  simp only [execErrLlRelease, regOrObj_open ho, llRelease, hsteward, Bool.false_eq_true, if_false]

/-! ### A worker is released (R317) -/

theorem releaseWorker_applied {s : State} {d : Nat} (hlost : (worker s d).1 = 4) (hreach : reachable s d = true)
    (happlied : (worker s d).2.2.1 = true) :
    releaseWorker s d =
      let s1 := updWorker s d fun _ => (1, false, false, false)
      logC (match workerTether s1 d with
        | some t => updLink s1 t fun x => { x with contain := 1, cause := 0 }
        | none => s1) (leadHalf s) 0x12 (0x100 + d) := by
  simp only [releaseWorker, hlost, hreach, happlied, if_true, Bool.not_true, Bool.false_eq_true, if_false] <;> rfl

theorem exec_errWkRelease_open {s : State} {p : Path} {d : Fin 16} (hd : d.val ≠ 0) (hmanager : isManager s = true)
    (ho : wideOpen s p 0x8005 (leadHalf s)) :
    exec (.errWkRelease p d) s = .next (releaseWorker s d.val) := by
  change execErrWkRelease p d s = _
  rw [execErrWkRelease, if_neg hd, regOrObj_open ho, hmanager, onlyIf_true]

/-! ### The log and the counters (R318, R321) -/

theorem exec_errLogPop_open {s : State} {p : Path} {h : Half} (ho : regOpen s p h) :
    exec (.errLogPop p h) s = .next (logPop s h) := by
  change execErrLogPop p h s = _
  rw [execErrLogPop, regAct_open ho]

theorem exec_errCntClr_open {s : State} {p : Path} (ho : regOpen s p (pathHalf s p)) :
    exec (.errCntClr p) s = .next (clearCounts s errCounters) := by
  change execErrCntClr p s = _
  rw [execErrCntClr, regAct_open ho]

theorem exec_errCntClr_shut {s : State} {p : Path} (hs : regShut s p) :
    exec (.errCntClr p) s = .next (deny s p (denyReg p 0x1E00000)) := by
  change execErrCntClr p s = _
  rw [execErrCntClr, regAct_shut hs]

/-- Settles O12, from the equations above. -/
theorem containmentIsEnteredAndLeftByItsRules : Obligations.ContainmentIsEnteredAndLeftByItsRules := by
  unfold Obligations.ContainmentIsEnteredAndLeftByItsRules
  refine ⟨fun p l s ho hones hrun => ?freeze, fun l s => ⟨exec_freezeTimeout_otherwise, exec_freezeTimeout_held⟩,
    fun p l s ho hsteward hnot hheld => ?link, fun p d s hd hmanager ho hlost hreach happlied => ?worker,
    fun p s => ⟨exec_errLogPop_open, exec_errLogPop_open, exec_errCntClr_open,
      fun hawake hpath hlive hserved hpriv => exec_errCntClr_shut ⟨hawake, hpath, hlive, hserved, hpriv⟩⟩⟩
  case freeze => rw [exec_errLlFreeze_open ho, llFreeze_run hones hrun]
  case link =>
    rw [exec_errLlRelease_open ho hsteward]
    refine ⟨fun hdown => ?_, fun hup hpresent hno => ?_, fun hup happlied => ?_⟩
    · rw [releaseLink_notActive hnot hheld hdown]
    · rw [releaseLink_notApplied hnot hheld hup hpresent hno]
    · rw [releaseLink_released hnot hheld hup happlied]
  case worker =>
    exact (exec_errWkRelease_open hd hmanager ho).trans
      (congrArg Host.Outcome.next (releaseWorker_applied hlost hreach happlied))

end Sys2Proof.Machine
end

section
/-! ## ID_CLK_STAT and its object (R467)

Both the register at 0x310 and OD 0x1030:01 read `clkStatWord`, which fits 32 bits. -/

namespace Sys2Proof.Machine

/-- The line of OD 0x1030:01. -/
def clkStatRow : OdRow := odRow 0x1030 1 1 1 1 .u32 .ro false noGrp 0

theorem odFind_clkStat : odFind 0x1030 1 = some clkStatRow := rfl

theorem odHighest_clkStat : odHighest 0x1030 = some 1 := by decide +kernel

theorem odDefault_clkStat : odDefault 0x1030 1 = 0 := by
  simp only [odDefault, odFind_clkStat, clkStatRow, odRow]

theorem clkStatWord_lt (s : State) : clkStatWord s < 2 ^ 32 := by
  have hflag (b : Bool) (i : Nat) : flag b i ≤ 2 ^ i := by cases b <;> simp [flag]
  have hA := hflag (s.sys.thermtrip.getD 0 false) 16
  have hB := hflag (s.sys.thermtrip.getD 1 false) 17
  unfold clkStatWord
  omega

/-- The object's value is the word itself. -/
theorem odData_clkStat (s : State) (h : Half) (shadow : Bool) (len off : Nat) :
    odData s h clkStatRow 0x1030 1 shadow len off = bytesLE 4 (clkStatWord s) := by
  have hword : odNow s h clkStatRow 0x1030 1 = clkStatWord s := Nat.mod_eq_of_lt (clkStatWord_lt s)
  rw [← hword]
  rfl

/-- A READ of the whole object where it is served. -/
theorem odRead_clkStat {s : State} {p : Path} {h : Half} (harea : areaServed s (pathHalf s p) 0x1030 = true)
    (hserves : odServes s (pathHalf s p) 0x1030 1 = some h) (shadow : Bool) :
    odRead s p shadow 0x1030 1 4 0 = (stOk, bytesLE 4 (clkStatWord s)) := by
  simp only [odRead, odHighest_clkStat, harea, odFind_clkStat, hserves, odData_clkStat]
  rfl

/-- A read of the register by PF0 of a link. -/
theorem regRead_clkStat {s : State} {m : HL} (hreach : pathReaches s (.reg m 0) (pathHalf s (.reg m 0)) = true) :
    regRead s (.reg m 0) 0x310 1 = (bytesLE 4 (clkStatWord s), s) := by
  have hreg : regOf s (.reg m 0) 0x310 = some (0x310, ⟨false, false, false, none, [], fun _ => clkStatWord s⟩) := rfl
  have hval : regVal s (.reg m 0) ⟨false, false, false, none, [], fun _ => clkStatWord s⟩ = (clkStatWord s, s) := by
    have hlt : clkStatWord s < 2 ^ 64 := (clkStatWord_lt s).trans (by decide)
    simpa [regVal, hreach] using hlt
  have hread : readDw s (.reg m 0) 0x310 = (clkStatWord s, s) := by
    have hevt : fnEvtAt (.reg m 0) 0x310 = none := rfl
    simpa [readDw, hevt, hreg, hval] using clkStatWord_lt s
  simp [regRead, hread]

/-- Settles O50: register and object both read the word. -/
theorem clockStatusIsMirroredByItsObject : Obligations.ClockStatusIsMirroredByItsObject := by
  unfold Obligations.ClockStatusIsMirroredByItsObject
  refine ⟨⟨clkStatRow, odFind_clkStat, rfl, rfl, rfl, odDefault_clkStat⟩, fun m shadow h s harea hserves hreach => ?_⟩
  rw [odRead_clkStat harea hserves, regRead_clkStat hreach]
  exact ⟨rfl, rfl⟩

end Sys2Proof.Machine
end

section
/-! ## Measurements, corrections, calibration and the rind (R398, R403 to R406, R408) -/

namespace Sys2Proof.Machine

/-! ### PTM dialogues (R403) -/

theorem exec_ptmDialogue_linked {s : State} {m : Nat} (hm : ptmLink s = some m) (hrun : s.time.running = true)
    (hsleep : s.pwr.sleep = 0) :
    exec .ptmDialogue s = .next (tlpOut (updTime s fun t =>
      { t with ptm := some (timeNs s * 65536 + t.frac / 65536) }) m .ptmRequest) := by
  change execPtmDialogue s = _
  simp only [execPtmDialogue, hm, hrun, hsleep, decide_true, Bool.and_self, if_true]

theorem exec_ptmDialogue_unlinked {s : State} (hm : ptmLink s = none) : exec .ptmDialogue s = .next s := by
  change execPtmDialogue s = _
  rw [execPtmDialogue, hm]

theorem exec_ptmResponse_idle {s : State} (h : s.time.ptm = none) (answer : Option (BitVec 64 × BitVec 32)) :
    exec (.ptmResponse answer) s = .next s := by
  change execPtmResponse answer s = _
  rw [execPtmResponse, h]

theorem exec_ptmResponse_missing {s : State} {t1 : Nat} (h : s.time.ptm = some t1) :
    exec (.ptmResponse none) s = .next (bump (updTime s fun t => { t with ptm := none }) 0x7410 3) := by
  change execPtmResponse none s = _
  rw [execPtmResponse, h]

theorem exec_ptmResponse_measures {s : State} {t1 : Nat} (h : s.time.ptm = some t1) (master : BitVec 64)
    (prop : BitVec 32) :
    exec (.ptmResponse (some (master, prop))) s = .next (
      let delay := (timeNs s * 65536 + s.time.frac / 65536 - t1 - prop.toNat * 65536) / 2
      measure (updTime s fun t => { t with ptm := none }) 2 (timeFmt (t1 / 65536))
        (Int.ofNat (master.toNat * 65536) - Int.ofNat delay - Int.ofNat t1) delay) := by
  change execPtmResponse (some (master, prop)) s = _
  simp only [execPtmResponse, h]

/-! ### A correction record (R398, R404) -/

section
variable {s : State} {c : Nat} (hc : servoCluster s = some c)
include hc

theorem exec_servoPoll_seen (hseen : servoWord s c 0x80 8 = s.time.cSeen) : exec .servoPoll s = .next s := by
  change execServoPoll s = _
  simp only [execServoPoll, hc, hseen, beq_self_eq_true, Bool.true_or, if_true]

variable (hsleep : s.pwr.sleep ≤ 1) (hnew : servoWord s c 0x80 8 ≠ s.time.cSeen)
include hsleep hnew

/-- A sequence number not seen is remembered, and acted on unless it is 0. -/
theorem exec_servoPoll_new :
    exec .servoPoll s = .next (
      let u := updTime s fun t => { t with cSeen := servoWord s c 0x80 8 }
      if servoWord s c 0x80 8 = 0 then u else servoAct u c) := by
  have hawake : decide (2 ≤ s.pwr.sleep) = false := decide_eq_false (by omega)
  change execServoPoll s = _
  simp only [execServoPoll, hc, beq_eq_false_iff_ne.mpr hnew, hawake, Bool.or_self, Bool.false_eq_true, if_false]
  split
  case isTrue h0 => rw [h0]
  case isFalse => rfl

end

theorem exec_servoPoll_noService {s : State} (hc : servoCluster s = none) : exec .servoPoll s = .next s := by
  change execServoPoll s = _
  rw [execServoPoll, hc]

section
variable {u : State} {c : Nat}

theorem servoAct_rejected (h0 : servoWord u c 0x88 8 ≠ 0) (hbad : incrOk (servoWord u c 0x88 8) = false) :
    servoAct u c = raiseEv (bump u 0x7420 2) (rindHalf u) 44 0 0 0 := by
  simp only [servoAct, bne_iff_ne.mpr h0, hbad, Bool.not_false, Bool.and_self, if_true]

theorem servoAct_incr (h0 : servoWord u c 0x88 8 ≠ 0) (hok : incrOk (servoWord u c 0x88 8) = true)
    (hstep : (BitVec.ofNat 64 (servoWord u c 0x90 8)).toInt = 0) (hflags : servoWord u c 0x98 4 = 0) :
    servoAct u c = updTime u fun t => { t with incr := servoWord u c 0x88 8 } := by
  simp only [servoAct, h0, hok, hstep, hflags, Bool.not_true, Bool.and_false, Bool.false_eq_true, if_false, if_true,
    Nat.zero_testBit]

/-- Without an INCR the step and the flags are all there is to do. -/
theorem servoAct_noIncr (h0 : servoWord u c 0x88 8 = 0) :
    servoAct u c =
      let step := (BitVec.ofNat 64 (servoWord u c 0x90 8)).toInt
      let s2 := if step = 0 then u else timeStepped (updTime (timeAdd u step) fun t => { t with valid := true }) 3
      let s3 := if (servoWord u c 0x98 4).testBit 0 then servoLock s2 else s2
      if (servoWord u c 0x98 4).testBit 1 then servoUnlock s3 else s3 := by
  simp only [servoAct, h0, bne_self_eq_false, Bool.false_and, Bool.false_eq_true, if_false, if_true]

variable (h0 : servoWord u c 0x88 8 = 0)
include h0

theorem servoAct_step (hstep : (BitVec.ofNat 64 (servoWord u c 0x90 8)).toInt ≠ 0)
    (hflags : servoWord u c 0x98 4 = 0) :
    servoAct u c = timeStepped (updTime (timeAdd u (BitVec.ofNat 64 (servoWord u c 0x90 8)).toInt) fun t =>
      { t with valid := true }) 3 := by
  simp only [servoAct_noIncr h0, hstep, hflags, if_false, Nat.zero_testBit, Bool.false_eq_true]

theorem servoAct_lock (hstep : (BitVec.ofNat 64 (servoWord u c 0x90 8)).toInt = 0)
    (hflags : servoWord u c 0x98 4 = 1) : servoAct u c = servoLock u := by
  have hbits : Nat.testBit 1 0 = true ∧ Nat.testBit 1 1 = false := by decide
  simp only [servoAct_noIncr h0, hstep, hflags, hbits, if_true, Bool.false_eq_true, if_false]

theorem servoAct_unlock (hstep : (BitVec.ofNat 64 (servoWord u c 0x90 8)).toInt = 0)
    (hflags : servoWord u c 0x98 4 = 2) : servoAct u c = servoUnlock u := by
  have hbits : Nat.testBit 2 0 = false ∧ Nat.testBit 2 1 = true := by decide
  simp only [servoAct_noIncr h0, hstep, hflags, hbits, if_true, Bool.false_eq_true, if_false]

end

/-- LOCKED takes lock where the last measurement is at most 2 s old. -/
theorem servoLock_measured {u : State} {k : Nat} (hk : u.time.mClk = some k) :
    servoLock u = if clkToNs (u.clk - k) ≤ 2000000000 then raiseEv (updTime u fun t =>
        { t with uncertain := false, valid := true, locked := true, bound := 0 }) (rindHalf u) 40 0 0 0 else u := by
  simp only [servoLock, hk, decide_eq_true_eq]

theorem servoLock_unmeasured {u : State} (hk : u.time.mClk = none) : servoLock u = u := by
  simp only [servoLock, hk, Bool.false_eq_true, if_false]

/-! ### Calibration (R406) -/

/-- The ratios after a capture `now` that follows another: the last 64. -/
def ratiosAfter (rs : List Nat) (r : Nat) : List Nat := (rs ++ [r]).drop ((rs ++ [r]).length - 64)

theorem ratiosAfter_length (rs : List Nat) (r : Nat) : (ratiosAfter rs r).length ≤ 64 := by
  simp only [ratiosAfter, List.length_drop]
  omega

theorem ratiosAfter_ne_nil (rs : List Nat) (r : Nat) : ratiosAfter rs r ≠ [] := by
  simp only [ratiosAfter, ne_eq, List.drop_eq_nil_iff, List.length_append, List.length_singleton]
  omega

section
variable {s : State} (hsleep : s.pwr.sleep = 0) (hsteward : stewardUp s (rindHalf s) = true)
  (hrun : s.time.running = true)
include hsleep hsteward hrun

theorem exec_calibrationCapture_first (hcap : s.time.capNs = none) (hnone : s.time.ratios = []) :
    exec .calibrationCapture s = .next (updTime s fun t => { t with capNs := some (timeNs s, t.tick) }) := by
  change execCalibrationCapture s = _
  simp only [execCalibrationCapture, hsleep, hsteward, hrun, hcap, hnone, bne_self_eq_false, Bool.not_true,
    Bool.or_self, Bool.false_eq_true, if_false, List.isEmpty_nil, if_true]
  rw [← hnone]
  rfl

theorem exec_calibrationCapture_next {n0 t0 : Nat} (hcap : s.time.capNs = some (n0, t0)) (htick : t0 < s.time.tick)
    (hns : n0 ≤ timeNs s) :
    exec .calibrationCapture s = .next (
      let rs := ratiosAfter s.time.ratios ((timeNs s - n0) * 2 ^ 32 / (s.time.tick - t0))
      updTime s fun t => { t with
        capNs := some (timeNs s, t.tick), ratios := rs, ratio := rs.sum / rs.length, unc := (ratioOf rs).2 }) := by
  have hfull := ratiosAfter_ne_nil s.time.ratios ((timeNs s - n0) * 2 ^ 32 / (s.time.tick - t0))
  rw [ne_eq, ← List.isEmpty_iff, Bool.not_eq_true] at hfull
  unfold ratiosAfter at hfull ⊢
  change execCalibrationCapture s = _
  simp only [execCalibrationCapture, hsleep, hsteward, hrun, hcap, htick, hns, hfull, bne_self_eq_false, Bool.not_true,
    Bool.or_self, Bool.false_eq_true, if_false, decide_true, Bool.and_self, if_true]
  rfl

end

theorem exec_calibrationCapture_asleep {s : State} (h : s.pwr.sleep ≠ 0) :
    exec .calibrationCapture s = .next s := by
  change execCalibrationCapture s = _
  simp only [execCalibrationCapture, bne_iff_ne.mpr h, Bool.true_or, if_true]

/-! ### Timestamps and the rind (R405, R408) -/

theorem exec_timeTsrPop_open {s : State} {p : Path} {h : Half} (ho : regOpen s p h) :
    exec (.timeTsrPop p h) s = .next (tsrPop s h) := by
  change execTimeTsrPop p h s = _
  rw [execTimeTsrPop, regAct_open ho]

/-- Settles O47, from the equations above. -/
theorem measurementsCorrectionsAndTimestampsAreHandled :
    Obligations.MeasurementsCorrectionsAndTimestampsAreHandled := by
  unfold Obligations.MeasurementsCorrectionsAndTimestampsAreHandled
  refine ⟨fun m s => exec_ptmDialogue_linked, fun s => exec_ptmDialogue_unlinked,
    fun t1 master prop s h => ⟨exec_ptmResponse_missing h, exec_ptmResponse_measures h master prop⟩,
    fun answer s h => exec_ptmResponse_idle h answer, ?servo,
    fun s => exec_servoPoll_noService, fun s hsleep hsteward hrun => ⟨?first, ?next⟩,
    fun s => exec_calibrationCapture_asleep, fun p h s => exec_timeTsrPop_open, fun s => ⟨rfl, rfl⟩⟩
  case servo =>
    intro c n incr flags step s hc hsleep hn hincr hflags hstep u
    refine ⟨fun hseen => exec_servoPoll_seen hc (hn.trans hseen), fun h0 hnew => ?_, fun h0 hnew => ?_⟩
    · rw [exec_servoPoll_new hc hsleep (hn ▸ hnew), if_pos (hn.trans h0), hn]
    · have hact : exec .servoPoll s = .next (servoAct u c) := by
        rw [exec_servoPoll_new hc hsleep (hn ▸ hnew), if_neg (hn ▸ h0), hn]
      have hwords (k m : Nat) : servoWord u c k m = servoWord s c k m := rfl
      have hhalf : rindHalf u = rindHalf s := rfl
      have hclk : u.clk = s.clk := rfl
      have hmclk : u.time.mClk = s.time.mClk := rfl
      clear_value u
      rw [← hwords] at hincr hflags hstep
      subst hincr hflags hstep
      rw [hact, ← hhalf, ← hclk, ← hmclk]
      refine ⟨fun h hbad => ?_, fun h hok hs hf => ?_, fun h hs hf => ?_, fun h hs hf => ?_, fun h hs hf => ?_⟩
      · rw [servoAct_rejected h hbad]
      · rw [servoAct_incr h hok hs hf]
      · rw [servoAct_step h hs hf]
      · rw [servoAct_lock h hs hf]
        cases hlast : u.time.mClk with
        | none => rw [servoLock_unmeasured hlast]
        | some k => rw [servoLock_measured hlast]
      · rw [servoAct_unlock h hs hf, servoUnlock]
  case first => exact exec_calibrationCapture_first hsleep hsteward hrun
  case next =>
    intro n0 t0 hcap htick hns
    exact ⟨ratiosAfter_length _ _, ratiosAfter_ne_nil _ _,
      exec_calibrationCapture_next hsleep hsteward hrun hcap htick hns, Nat.le_max_left _ _⟩

end Sys2Proof.Machine
end

section
/-! ## Performance levels and their voltages (R377, R379 to R381) -/

namespace Sys2Proof.Machine

@[simp] theorem updPwr_pwr (s : State) (f : PwrSt → PwrSt) : (updPwr s f).pwr = f s.pwr := rfl

/-! ### The switch point (R379) -/

theorem exec_levelSwitchPoint_none {s : State} (ht : s.pwr.target = none) : exec .levelSwitchPoint s = .next s := by
  change execLevelSwitchPoint s = _
  rw [execLevelSwitchPoint, ht]

theorem exec_levelSwitchPoint_switches {s : State} {v : Nat} (ht : s.pwr.target = some v) (hsleep : s.pwr.sleep = 0)
    (havs : s.pwr.avs = none) (hv : v ≠ s.pwr.level) :
    exec .levelSwitchPoint s = .next (
      let s1 := c0Judge (updPwr s fun p => { p with level := v }) v
      if v < s.pwr.level then levelDone s1 else avsBoth s1 (levelMv v) .level) := by
  change execLevelSwitchPoint s = _
  simp only [execLevelSwitchPoint, ht, hsleep, havs, beq_eq_false_iff_ne.mpr hv, bne_self_eq_false,
    Option.isSome_none, Bool.or_self, Bool.false_eq_true, if_false, decide_eq_true_eq]

/-! ### AVSBus (R381) -/

section
variable {s : State} (hno : s.pwr.avs = none)
include hno

theorem exec_avsResponse_idle (fr : AvsFrame) : exec (.avsResponse fr) s = .next s := by
  change execAvsResponse fr s = _
  rw [execAvsResponse, hno]

theorem exec_avsStatusPoll_idle : exec .avsStatusPoll s = .next s := by
  change execAvsStatusPoll s = _
  rw [execAvsStatusPoll, hno]

theorem exec_avsRequestTimeout_idle (rail : Bool) : exec (.avsRequestTimeout rail) s = .next s := by
  change execAvsRequestTimeout rail s = _
  rw [execAvsRequestTimeout, hno]

end

section
variable {s : State} {r : AvsReq} (hr : s.pwr.avs = some r)
include hr

theorem exec_avsStatusPoll_waiting : exec .avsStatusPoll s = .next (emit s (.avs r.rail false 0)) := by
  change execAvsStatusPoll s = _
  rw [execAvsStatusPoll, hr]

theorem exec_avsResponse_ack : exec (.avsResponse (.writeAck r.rail 0)) s =
    .next (updPwr s fun p => { p with avs := some { r with acked := true } }) := by
  change execAvsResponse (.writeAck r.rail 0) s = _
  simp only [execAvsResponse, hr, beq_self_eq_true, Bool.and_self, if_true]

theorem exec_avsResponse_nack {v : Bool} {a : BitVec 2} (hbad : v ≠ r.rail ∨ a ≠ 0) :
    exec (.avsResponse (.writeAck v a)) s = .next s := by
  have hno : (v == r.rail && a == 0) = false := by
    rcases hbad with h | h
    · rw [beq_eq_false_iff_ne.mpr h, Bool.false_and]
    · rw [beq_eq_false_iff_ne.mpr h, Bool.and_false]
  change execAvsResponse (.writeAck v a) s = _
  simp only [execAvsResponse, hr, hno, Bool.false_eq_true, if_false]

theorem exec_avsResponse_notDone : exec (.avsResponse (.status r.rail false)) s = .next s := by
  change execAvsResponse (.status r.rail false) s = _
  simp only [execAvsResponse, hr, Bool.and_false, Bool.false_and, Bool.false_eq_true, if_false]

/-- VDone of an accepted request of a level change. -/
theorem exec_avsResponse_level (hack : r.acked = true) (htries : r.tries < 3) (huse : r.use = .level) :
    exec (.avsResponse (.status r.rail true)) s = .next (avsAcked s r) := by
  have hexit : (r.use == AvsUse.exit) = false := by rw [huse]; rfl
  change execAvsResponse (.status r.rail true) s = _
  simp only [execAvsResponse, hr, hack, htries, hexit, beq_self_eq_true, decide_true, Bool.and_self, Bool.false_and,
    Bool.false_eq_true, if_false, if_true]

theorem exec_avsRequestTimeout_first (htries : r.tries = 1) :
    exec (.avsRequestTimeout r.rail) s = .next (avsAgain s r 2) := by
  have hfew : decide (3 ≤ 1) = false := by decide
  change execAvsRequestTimeout r.rail s = _
  simp only [execAvsRequestTimeout, hr, htries, hfew, bne_self_eq_false, Bool.or_self, Bool.false_eq_true, if_false,
    if_true]

theorem exec_avsRequestTimeout_second (htries : r.tries = 2) (huse : r.use = .level) :
    exec (.avsRequestTimeout r.rail) s = .next (avsLevelFail s r) := by
  have hfew : ¬ 3 ≤ r.tries := by omega
  have hnot : ¬ r.tries = 1 := by omega
  change execAvsRequestTimeout r.rail s = _
  simp only [execAvsRequestTimeout, hr, hfew, hnot, huse, bne_self_eq_false, decide_false, Bool.or_self,
    Bool.false_eq_true, if_false]

theorem exec_avsRequestTimeout_otherRail : exec (.avsRequestTimeout (!r.rail)) s = .next s := by
  change execAvsRequestTimeout (!r.rail) s = _
  simp [execAvsRequestTimeout, hr]

end

/-- The request of a rail is over: its voltage is recorded. -/
def railReached (s : State) (r : AvsReq) : State := updPwr s fun p => { p with
  vcore := if r.rail then p.vcore else r.mv, veng := if r.rail then r.mv else p.veng, avs := none, avsFail := false }

section
variable {s : State} {r : AvsReq} (hok : s.pwr.avsFail = false)
include hok

theorem avsAcked_next {m : Bool × Nat} {rest : List (Bool × Nat)} (hnext : r.next = m :: rest) :
    avsAcked s r = avsStart (railReached s r) m.1 m.2 r.use rest := by
  simp only [avsAcked, hok, hnext, onlyIf_false]
  rfl

theorem avsAcked_levelDone (hnext : r.next = []) (huse : r.use = .level) (ht : s.pwr.target = some s.pwr.level) :
    avsAcked s r = levelDone (railReached s r) := by
  simp only [avsAcked, hok, hnext, huse, onlyIf_false, updPwr_pwr, ht, beq_self_eq_true, if_true]
  rfl

end

/-- A raise that fails asks the old voltage of both rails, a lowering keeps its new divider. -/
theorem avsLevelFail_eq {s : State} {r : AvsReq} {v : Nat} (ht : s.pwr.target = some v) :
    avsLevelFail s r =
      let t := updPwr (raiseEv (alertOn (updPwr s fun p => { p with avsFail := true }) 3) (rindHalf s) 34
        (if r.rail then 1 else 0) 1 0) fun p => { p with target := none, avs := none }
      if v < s.pwr.level then avsBoth t (levelMv s.pwr.level) .restore else t := by
  have hlevel : (avsFailed s r 1).pwr.level = s.pwr.level := (raiseEv_levelSame _ _ _ _ _ _).2.1
  simp only [avsLevelFail, ht, decide_eq_true_eq, updPwr_pwr, hlevel]
  rfl

/-! ### The hot grade (R380) -/

/-- The level asked for, and the half that holds the rind, do not depend on power. -/
theorem levelAsked_updPwr (s : State) (f : PwrSt → PwrSt) : levelAsked (updPwr s f) = levelAsked s := rfl

theorem rindHalf_updPwr (s : State) (f : PwrSt → PwrSt) : rindHalf (updPwr s f) = rindHalf s := rfl

section
variable {u : State} (hasked : levelAsked u = 0) (hsleep : u.pwr.sleep = 0) (htarget : u.pwr.target = none)
include hasked hsleep htarget

/-- A half above the limit holds the device at P1. -/
theorem levelGo_holds (hlevel : u.pwr.level = 0) (hheld : u.pwr.held = false) (hhot : tooHot u = true) :
    levelGo u = updPwr (raiseEv (updPwr u fun p => { p with held := true }) (rindHalf u) 33 0 1 0) fun p =>
      { p with target := some 1 } := by
  have hhold : levelHold u = raiseEv (updPwr u fun p => { p with held := true }) (rindHalf u) 33 0 1 0 := by
    simp only [levelHold, hasked, hheld, hhot, bne_self_eq_false, Bool.false_eq_true, if_false, if_true]
  obtain ⟨etarget, elevel, eheld, esleep, -, -⟩ :=
    raiseEv_levelSame (updPwr u fun p => { p with held := true }) (rindHalf u) 33 0 1 0
  simp only [levelGo, levelWant, hhold, etarget, elevel, eheld, esleep, updPwr_pwr, htarget, hlevel, hsleep]
  rfl

/-- Both halves cool again: the device returns to P0 by way of its voltages. -/
theorem levelGo_returns (hlevel : u.pwr.level = 1) (hheld : u.pwr.held = true) (hcool : coolAgain u = true) :
    levelGo u = avsBoth (updPwr (raiseEv (updPwr u fun p => { p with held := false }) (rindHalf u) 33 0 0 0) fun p =>
      { p with target := some 0 }) 800 .level := by
  have hhold : levelHold u = raiseEv (updPwr u fun p => { p with held := false }) (rindHalf u) 33 0 0 0 := by
    simp only [levelHold, hasked, hheld, hcool, bne_self_eq_false, Bool.false_eq_true, if_false, if_true]
  obtain ⟨etarget, elevel, eheld, esleep, -, -⟩ :=
    raiseEv_levelSame (updPwr u fun p => { p with held := false }) (rindHalf u) 33 0 0 0
  have easked := levelAsked_evOnly (raiseEv_evOnly (updPwr u fun p => { p with held := false }) (rindHalf u) 33 0 0 0)
  simp only [levelGo, levelWant, hhold, etarget, elevel, eheld, esleep, easked, levelAsked_updPwr, hasked, updPwr_pwr,
    htarget, hlevel, hsleep]
  rfl

end

/-- A sensor's reading. -/
def tempRead (s : State) (h : Half) (tj : Int) : State :=
  updPwr s fun p => match h with | .a => { p with tjA := tj } | .b => { p with tjB := tj }

theorem exec_tempThresholdCross (h : Half) (tj : Int) (s : State) :
    exec (.tempThresholdCross h tj) s = .next (levelGo (tempRead s h tj)) := rfl

/-- A reading moves no level, no target, no hold and no sleep. -/
theorem tempRead_pwr (s : State) (h : Half) (tj : Int) :
    (tempRead s h tj).pwr.sleep = s.pwr.sleep ∧ (tempRead s h tj).pwr.target = s.pwr.target ∧
      (tempRead s h tj).pwr.level = s.pwr.level ∧ (tempRead s h tj).pwr.held = s.pwr.held := by
  cases h <;> exact ⟨rfl, rfl, rfl, rfl⟩

theorem tooHot_tempRead {s : State} {tj : Int} (hgrade : s.nv.fuses.gradeE = true) (hhot : 420 < tj) (h : Half) :
    tooHot (tempRead s h tj) = true := by
  cases h <;> simp [tooHot, tempRead, hgrade, hhot]

/-- Settles O44, from the equations above. -/
theorem performanceLevelsMoveWithTheirVoltages : Obligations.PerformanceLevelsMoveWithTheirVoltages := by
  unfold Obligations.PerformanceLevelsMoveWithTheirVoltages
  refine ⟨fun v s ht hsleep havs hv => exec_levelSwitchPoint_switches ht hsleep havs hv,
    fun s => exec_levelSwitchPoint_none, fun r s hr => ⟨exec_avsStatusPoll_waiting hr, exec_avsResponse_ack hr,
      fun v a => exec_avsResponse_nack hr, exec_avsResponse_notDone hr, ?next, ?done, ?first, ?second,
      exec_avsRequestTimeout_otherRail hr⟩,
    fun fr rail s hno => ⟨exec_avsResponse_idle hno fr, exec_avsStatusPoll_idle hno, exec_avsRequestTimeout_idle hno rail⟩,
    fun h tj s hsleep htarget hasked => ?temperature⟩
  case next =>
    intro m rest hack htries huse hnext hok
    rw [exec_avsResponse_level hr hack htries huse, avsAcked_next hok hnext, huse]
    rfl
  case done =>
    intro hack htries huse hnext hok htarget
    rw [exec_avsResponse_level hr hack htries huse, avsAcked_levelDone hok hnext huse htarget]
    rfl
  case first => exact exec_avsRequestTimeout_first hr
  case second =>
    intro v htries huse htarget
    rw [exec_avsRequestTimeout_second hr htries huse, avsLevelFail_eq htarget]
    rfl
  case temperature =>
    intro u
    obtain ⟨esleep, etarget, elevel, eheld⟩ := tempRead_pwr s h tj
    have hasked' : levelAsked (tempRead s h tj) = 0 := hasked
    refine ⟨fun hgrade hlevel hheld hhot => ?_, fun hheld hlevel hA hB => ?_⟩
    · rw [exec_tempThresholdCross, levelGo_holds hasked' (esleep.trans hsleep) (etarget.trans htarget)
        (elevel.trans hlevel) (eheld.trans hheld) (tooHot_tempRead hgrade hhot h)]
      rfl
    · have hcool : coolAgain (tempRead s h tj) = true := by
        rw [coolAgain, Bool.and_eq_true, decide_eq_true_eq, decide_eq_true_eq]
        exact ⟨hA, hB⟩
      rw [exec_tempThresholdCross, levelGo_returns hasked' (esleep.trans hsleep) (etarget.trans htarget)
        (elevel.trans hlevel) (eheld.trans hheld) hcool]
      rfl

end Sys2Proof.Machine
end

section
/-! ## Sleep: asked for, checked, entered and left (R384 to R389, R393, R394, R396) -/

namespace Sys2Proof.Machine

/-! ### The request (R384) -/

theorem exec_pwrSleep_open {s : State} {p : Path} (ho : wideOpen s p 0x7001 (pathHalf s p)) (v : BitVec 2) :
    exec (.pwrSleep p v) s = .next (sleepRequest s (pathHalf s p) v.toNat) := by
  change execPwrSleep p v s = _
  rw [execPwrSleep, regOrObj_open ho]

theorem awake_of_wideOpen {s : State} {p : Path} {idx : Nat} {h : Half} (ho : wideOpen s p idx h) : awake s := by
  cases p <;> exact ho.1

/-- With nothing under way and the other half silent, the half's own request is the device's. -/
theorem sleepRequest_asks {s : State} {h : Half} {v : Nat} (ha : awake s) (hv : v ≠ 0)
    (hother : s.pwr.reqHalf.getD (1 - halfIdx h) 0 = 0) :
    sleepRequest s h v = updPwr s fun x =>
      { x with request := some v, reqHalf := s.pwr.reqHalf.set (halfIdx h) v } := by
  obtain ⟨hsleep, hrequest, hcommit⟩ := ha
  have hone : ((s.pwr.reqHalf.set (halfIdx h) v).getD 0 0 != 0 &&
      (s.pwr.reqHalf.set (halfIdx h) v).getD 1 0 != 0) = false := by
    cases h <;> simp_all [halfIdx, List.getD_eq_getElem?_getD, List.getElem?_set]
  simp only [sleepRequest, hv, hsleep, hrequest, hcommit, hone, onlyIf_false, if_false, Option.isSome_none,
    Bool.false_and, Bool.or_self, Bool.false_eq_true, Nat.reduceBEq]

/-! ### The entry check (R385, R386) -/

theorem exec_sleepEntryCheck_unasked {s : State} (hr : s.pwr.request = none) :
    exec .sleepEntryCheck s = .next s := by
  change execSleepEntryCheck s = _
  rw [execSleepEntryCheck, hr]

section
variable {s : State} {v : Nat} (hr : s.pwr.request = some v) (hsleep : s.pwr.sleep = 0)
  (hcommit : s.pwr.commit = false)
include hr hsleep hcommit

theorem exec_sleepEntryCheck_refused {c i : Nat} (hrow : sleepBlocked s v false = some (c, i)) :
    exec .sleepEntryCheck s = .next (sleepRefuse s c i v) := by
  change execSleepEntryCheck s = _
  simp only [execSleepEntryCheck, hr, hsleep, hcommit, hrow, bne_self_eq_false, Bool.or_self, Bool.false_eq_true,
    if_false]

theorem exec_sleepEntryCheck_commits (hrow : sleepBlocked s v false = none) :
    exec .sleepEntryCheck s = .next (sleepCommit s v) := by
  change execSleepEntryCheck s = _
  simp only [execSleepEntryCheck, hr, hsleep, hcommit, hrow, bne_self_eq_false, Bool.or_self, Bool.false_eq_true,
    if_false]

end

/-- No row of Table 14.4 that is asked fails. -/
theorem sleepBlocked_eq_none_iff (s : State) (v : Nat) (auto : Bool) : sleepBlocked s v auto = none ↔
    rowSequencing s = none ∧ rowHalf s = none ∧ (auto = false → rowOther s = none) ∧
    (2 ≤ v → rowHostLink s = none) ∧ (v = 1 → rowLocalLink s = none) ∧ rowFlow s = none ∧ rowRequests s = none ∧
    rowEngine s = none ∧ rowQueue s = none ∧ rowMirror s = none ∧ (2 ≤ v → rowSemaphore s = none) := by
  simp only [sleepBlocked, Option.map_eq_none_iff, List.find?_eq_none, List.forall_mem_cons, Bool.and_eq_true,
    not_and, Option.not_isSome_iff_eq_none, forall_const, decide_eq_true_eq, beq_iff_eq, Bool.not_eq_true',
    List.not_mem_nil, false_imp_iff, and_true]

theorem exec_s1IdleTimer_idle {s : State} (hsleep : s.pwr.sleep = 0) (hr : s.pwr.request = none)
    (hcommit : s.pwr.commit = false) (hup : s.sys.resetLow = false) :
    exec .s1IdleTimer s = .next (if cfg s (rindHalf s) 0x7002 1 ≠ 0 ∧ sleepBlocked s 1 true = none then
      updPwr s fun p => { p with commit := true, request := some 1 } else s) := by
  change execS1IdleTimer s = _
  simp only [execS1IdleTimer, hsleep, hr, hcommit, hup, decide_true, Option.isNone_none, Bool.not_false,
    Bool.true_and, Bool.and_true, Bool.and_eq_true, bne_iff_ne, Option.isNone_iff_eq_none, sleepCommit, if_true]

/-! ### The entry completes (R387 to R389) -/

theorem exec_sleepEntryComplete_uncommitted {s : State} (hcommit : s.pwr.commit = false) :
    exec .sleepEntryComplete s = .next s := by
  change execSleepEntryComplete s = _
  simp only [execSleepEntryComplete, hcommit, Bool.not_false, if_true]

section
variable {s : State} {v : Nat} (hcommit : s.pwr.commit = true) (hr : s.pwr.request = some v)
include hcommit hr

theorem exec_sleepEntryComplete_enters (havs : s.pwr.avs = none) :
    exec .sleepEntryComplete s = .next (sleepEnter s v) := by
  change execSleepEntryComplete s = _
  simp only [execSleepEntryComplete, hcommit, hr, havs, Bool.not_true, Bool.false_eq_true, if_false]

theorem exec_sleepEntryComplete_aborts {r : AvsReq} (havs : s.pwr.avs = some r) (hv : v ≠ 1) (huse : r.use = .entry)
    (htries : r.tries = 3) : exec .sleepEntryComplete s = .next (sleepAbort s r.rail v) := by
  change execSleepEntryComplete s = _
  simp only [execSleepEntryComplete, hcommit, hr, havs, bne_iff_ne.mpr hv, huse, htries, beq_self_eq_true,
    Bool.and_self, Bool.not_true, Bool.false_eq_true, if_false, if_true]

end

/-! ### Wakes (R388, R393, R394, R396) -/

theorem exec_wake_awake {s : State} (ha : awake s) (c : WakeCause) : exec (.wake c) s = .next s := by
  change execWake c s = _
  cases c <;> simp only [execWake, wakeSrc_awake ha, onlyIf, ite_self]

section
variable {s : State} (hidle : s.pwr.exiting = false)
include hidle

/-- A wake of S1 begins the exit and asks no voltage. -/
theorem wakeBy_s1 (hsleep : s.pwr.sleep = 1) (c i : Nat) :
    wakeBy s c i = updPwr s fun p =>
      { p with exiting := true, cause := c, inst := i, exitStart := s.clk, wakeLow := false } := by
  simp [wakeBy, hsleep, hidle, onlyIf]

/-- A wake of S3 by a comparator asks the voltages of P3 and drives WAKE_N. -/
theorem wakeBy_s3_timer (hsleep : s.pwr.sleep = 3) (i : Nat) :
    wakeBy s 3 i = avsBoth (updPwr s fun p =>
      { p with exiting := true, cause := 3, inst := i, exitStart := s.clk, wakeLow := true }) 600 .exit := by
  simp [wakeBy, hsleep, hidle, onlyIf, levelMv]

theorem exec_wake_management_s1 (hsleep : s.pwr.sleep = 1) :
    exec (.wake .management) s = .next (updPwr s fun p =>
      { p with exiting := true, cause := 7, inst := 0, exitStart := s.clk, wakeLow := false }) := by
  change execWake .management s = _
  simp only [execWake, wakeCode, wakeSrc, hsleep, Nat.le_refl, decide_true, onlyIf_true]
  rw [wakeBy_s1 hidle hsleep]

theorem exec_wake_timer0_s3 (hsleep : s.pwr.sleep = 3) (hen : (cfg s (leadHalf s) 0x7003 1).testBit 8 = true) :
    exec (.wake (.timer 0)) s = .next (avsBoth (updPwr s fun p =>
      { p with exiting := true, cause := 3, inst := 0, exitStart := s.clk, wakeLow := true }) 600 .exit) := by
  have hsrc : wakeSrc s 3 0 = wakeBy s 3 0 := by
    simp only [wakeSrc, Nat.add_zero, hen, onlyIf_true]
  change Host.Outcome.next (wakeSrc s 3 0) = _
  rw [hsrc, wakeBy_s3_timer hidle hsleep]

theorem exec_sleepExitComplete_idle : exec .sleepExitComplete s = .next s := by
  change execSleepExitComplete s = _
  simp only [execSleepExitComplete, hidle, Bool.not_false, Bool.true_or, if_true]

end

/-- In S2 and S3 a management access is no wake. -/
theorem exec_wake_management_deep {s : State} (hdeep : 1 < s.pwr.sleep) :
    exec (.wake .management) s = .next s := by
  have hno : decide (s.pwr.sleep ≤ 1) = false := decide_eq_false (by omega)
  change execWake .management s = _
  simp only [execWake, wakeCode, wakeSrc, hno, onlyIf_false]

/-! ### The exit is over (R396) -/

section
variable {s : State} (hexit : s.pwr.exiting = true) (havs : s.pwr.avs = none)
include hexit havs

theorem exec_sleepExitComplete_s1 (hsleep : s.pwr.sleep = 1) : exec .sleepExitComplete s = .next (exitDone s) := by
  change execSleepExitComplete s = _
  simp only [execSleepExitComplete, hexit, havs, hsleep, Bool.not_true, Option.isSome_none, Bool.or_self,
    Bool.false_eq_true, if_false, if_true]

theorem exec_sleepExitComplete_s2 (hsleep : s.pwr.sleep = 2) (hcave : s.pwr.cave.valid = true) :
    exec .sleepExitComplete s = .next (exitDone (timeRestore (flopsLost s))) := by
  change execSleepExitComplete s = _
  simp [execSleepExitComplete, exitFull, hexit, havs, hsleep, hcave]

end

/-- Settles O45, from the equations above. -/
theorem sleepIsAskedCheckedEnteredAndLeft : Obligations.SleepIsAskedCheckedEnteredAndLeft := by
  unfold Obligations.SleepIsAskedCheckedEnteredAndLeft
  refine ⟨fun p v s ho => ⟨fun hv => ?nothing, fun hv hother _ => ?asked⟩,
    fun v s hr hsleep hcommit => ⟨fun c i hrow => ?refused, fun hrow => ?commits⟩,
    fun v auto s hrow => ?rows, fun s => exec_s1IdleTimer_idle,
    fun v s hcommit hr => ?complete,
    fun s => exec_sleepEntryComplete_uncommitted, fun s => exec_sleepEntryCheck_unasked,
    fun s hidle => ⟨exec_wake_management_s1 hidle, exec_wake_timer0_s3 hidle, exec_wake_management_deep,
      exec_sleepExitComplete_idle hidle⟩,
    fun c s ha => exec_wake_awake ha c, fun s hexit havs hsleep => ?s1, fun s => exec_sleepExitComplete_s2,
    fun s => rfl⟩
  case nothing => rw [hv, exec_pwrSleep_open ho]; rfl
  case asked =>
    have hnat : v.toNat ≠ 0 := fun h => hv (BitVec.eq_of_toNat_eq h)
    rw [exec_pwrSleep_open ho, sleepRequest_asks (awake_of_wideOpen ho) hnat hother]
  case refused => rw [exec_sleepEntryCheck_refused hr hsleep hcommit hrow, sleepRefuse]
  case commits => rw [exec_sleepEntryCheck_commits hr hsleep hcommit hrow, sleepCommit]
  case rows =>
    obtain ⟨h1, h2, h3, h4, h5, h6, h7, h8, h9, hA, hB⟩ := (sleepBlocked_eq_none_iff s v auto).mp hrow
    exact ⟨h1, h2, h3, h6, h7, h8, h9, hA, fun hv => ⟨h4 hv, hB hv⟩, h5⟩
  case complete =>
    refine ⟨fun havs => ?_, fun r => exec_sleepEntryComplete_aborts hcommit hr⟩
    rw [exec_sleepEntryComplete_enters hcommit hr havs, sleepEnter]
  case s1 => rw [exec_sleepExitComplete_s1 hexit havs hsleep, exitDone, hsleep]

end Sys2Proof.Machine
end

section
/-! ## Self-tests, perturbations, scan and clocks (R438, R439, R442, R444 to R446, R460, R463, R466) -/

namespace Sys2Proof.Machine

/-! ### Self-tests (R438, R439) -/

/-- A self-test may start: TEST mode, no flow homed in the half, no service enabled there. -/
def bistAllowed (s : State) (h : Half) : Prop :=
  isTest s = true ∧ homesFlow s h = false ∧ enabledSvcs s h = []

theorem exec_bistStart_open {s : State} {p : Path} {h : Half} (ho : wideOpen s p 0xA010 h) (blocks : BitVec 5) :
    exec (.bistStart p h blocks) s = .next (bistGo s h blocks.toNat) := by
  change execBistStart p h blocks s = _
  rw [execBistStart, regOrObj_open ho]

theorem bistGo_running {s : State} {h : Half} (hrun : (bist s h).running = true) (blocks : Nat) :
    bistGo s h blocks = s := by
  rw [bistGo, if_pos hrun]

section
variable {s : State} {h : Half} (hidle : (bist s h).running = false) (blocks : BitVec 5)
include hidle

theorem bistGo_starts (hsleep : s.pwr.sleep = 0) (hcommit : s.pwr.commit = false) (hok : bistAllowed s h) :
    bistGo s h blocks.toNat = updBist s h fun _ => ⟨true, blocks.toNat, 0, 0, 0⟩ := by
  obtain ⟨htest, hflows, hsvcs⟩ := hok
  simp [bistGo, hidle, htest, hsleep, hcommit, hflows, hsvcs, Nat.mod_eq_of_lt blocks.isLt]

theorem bistGo_refused (hno : ¬ bistAllowed s h) :
    bistGo s h blocks.toNat = updBist s h fun b => { b with blocks := blocks.toNat, result := 3 } := by
  have hshut : (isTest s && s.pwr.sleep == 0 && !s.pwr.commit && !homesFlow s h && (enabledSvcs s h).isEmpty) = false := by
    rw [Bool.eq_false_iff]
    intro hall
    simp only [Bool.and_eq_true, Bool.not_eq_true', List.isEmpty_iff] at hall
    obtain ⟨⟨⟨⟨htest, -⟩, -⟩, hflows⟩, hsvcs⟩ := hall
    exact hno ⟨htest, hflows, hsvcs⟩
  have hblocks : blocks.toNat % 32 = blocks.toNat := Nat.mod_eq_of_lt blocks.isLt
  simp only [bistGo, hidle, hshut, hblocks, Bool.false_eq_true, if_false]

end

theorem exec_bistComplete_idle {s : State} {h : Half} (hidle : (bist s h).running = false) (failed : BitVec 5)
    (addr : W64) : exec (.bistComplete h failed addr) s = .next s := by
  change execBistComplete h failed addr s = _
  simp only [execBistComplete, hidle, Bool.not_false, if_true]

theorem exec_bistComplete_running {s : State} {h : Half} (hrun : (bist s h).running = true) (failed : BitVec 5)
    (addr : W64) : exec (.bistComplete h failed addr) s = .next (
      let t := forAll s ((List.range 5).filter fun i => (bist s h).blocks.testBit i) fun u i => bistZero u h i
      if failed.toNat &&& (bist s h).blocks = 0 then
        updBist t h fun x => { x with running := false, result := 1, failed := 0, addr := 0 }
      else updBist t h fun x =>
        { x with running := false, result := 2, failed := failed.toNat &&& (bist s h).blocks, addr := addr }) := by
  change execBistComplete h failed addr s = _
  simp only [execBistComplete, hrun, Bool.not_true, Bool.false_eq_true, if_false]
  by_cases hbad : failed.toNat &&& (bist s h).blocks = 0
  · simp only [hbad, if_true]
  · simp only [hbad, if_false]

/-! ### Perturbation slots (R442, R444) -/

theorem exec_tstStop_open {s : State} {p : Path} (ho : wideOpen s p 0xA020 (pathHalf s p)) :
    exec (.tstStop p) s = .next (testStop s) := by
  change execTstStop p s = _
  rw [execTstStop, regOrObj_open ho]

/-- No starvation under way: nothing is sent, and AG22 alone changes. -/
theorem testStop_nothingStarved {s : State} (hno : ∀ i, i < 16 → s.test.starved.getD i false = false) :
    testStop s = { s with dict := stopDict s.dict, dictB := stopDict s.dictB } := by
  have hnone : ((List.range 16).filter fun i => s.test.starved.getD i false) = [] :=
    List.filter_eq_nil_iff.mpr fun i hi => by rw [hno i (List.mem_range.mp hi)]; exact Bool.false_ne_true
  rw [testStop, hnone]
  rfl

/-- A key that no kept entry can have reads its default. -/
theorem get_keep_dropped {α : Type} {d : α} {p : Nat → α → Bool} {k : Nat} (hk : ∀ v, p k v = false) (t : Tab α) :
    Tab.get d (Tab.keep p t) k = d := by
  induction t with
  | nil => rfl
  | cons e t ih =>
    obtain ⟨j, v⟩ := e
    rw [Tab.keep]
    split
    case isFalse => exact ih
    case isTrue hkept =>
      have hne : j ≠ k := by
        rintro rfl
        exact Bool.false_ne_true ((hk v).symm.trans hkept)
      rw [Tab.get, if_neg hne, ih, ite_self]

/-- AG22 reads its defaults after a stop, and its shadow holds nothing. -/
theorem stopDict_ag22 (d : DictSt) {idx sub : Nat} (v : Nat) (hlo : 0xA000 ≤ idx) (hhi : idx < 0xA010)
    (hsub : sub < 256) :
    Tab.get v (stopDict d).run (okey 0 idx sub) = v ∧
      Tab.get (none : Option Nat) (stopDict d).shadow (okey 0 idx sub) = none := by
  have hge : okey 0 0xA000 0 ≤ okey 0 idx sub := by unfold okey; omega
  have hlt : okey 0 idx sub < okey 0 0xA010 0 := by unfold okey; omega
  constructor <;> exact get_keep_dropped (fun _ => by simp [hge, hlt]) _

theorem exec_delayedCompletionRelease_none {s : State} (hno : s.test.delayed = []) (i : Fin 16) :
    exec (.delayedCompletionRelease i) s = .next s := by
  change Host.Outcome.next (delayRelease s i.val) = _
  rw [delayRelease, hno]
  rfl

/-- The only completion held goes, then what waits behind it on its link. -/
theorem delayRelease_single {s : State} {d : Delayed} (hone : s.test.delayed = [d]) :
    delayRelease s d.slot =
      delayFollow 1 (delayMatch (updTest s fun t => { t with delayed := [] }) d) (delayKey d) := by
  have herase : [d].erase d = [] := by simp
  simp only [delayRelease, hone, List.find?_cons, beq_self_eq_true, if_true, List.length_singleton]
  rw [updTest, hone, herase]
  rfl

section
variable {s : State} {i : Fin 16}

theorem exec_creditStarvationEnd_starved (hstarved : s.test.starved.getD i.val false = true)
    (hon : tpOn s i.val 6 = true) (htimed : tpw s i.val 3 ≠ 0) :
    exec (.creditStarvationEnd i) s = .next (starveEnd s i.val) := by
  change execCreditStarvationEnd i s = _
  simp only [execCreditStarvationEnd, hstarved, hon, bne_iff_ne.mpr htimed, Bool.and_self, if_true]

theorem exec_creditStarvationEnd_idle (hno : s.test.starved.getD i.val false = false) :
    exec (.creditStarvationEnd i) s = .next s := by
  change execCreditStarvationEnd i s = _
  simp only [execCreditStarvationEnd, hno, Bool.false_and, Bool.false_eq_true, if_false]

end

/-! ### Scan (R445, R446) -/

theorem exec_tapInstructionLoad (h : Half) (code : Byte) (s : State) :
    exec (.tapInstructionLoad h code) s = .next (updTest s fun t =>
      let c : Byte := if 1 ≤ code.toNat ∧ code.toNat ≤ 7 then code else 0xFF
      let leaves := decide (3 ≤ code.toNat ∧ code.toNat ≤ 7)
      match h with
      | .a => { t with tapA := c, offA := t.offA || leaves }
      | .b => { t with tapB := c, offB := t.offB || leaves }) := by
  change execTapInstructionLoad h code s = _
  cases h <;> simp [execTapInstructionLoad, tapLeaves]

/-! ### Clocks (R460, R466) -/

theorem exec_sysclkAbsent_starters {s : State} (hup : s.sys.resetLow = false) (hA : s.sys.a.boot = .starter)
    (hB : s.sys.b.boot = .starter) : exec .sysclkAbsent s = .next (alertOn (updSys s fun y =>
      { y with sysclkOk := false, clkStat := y.clkStat - (y.clkStat &&& 1) }) 4) := by
  change execSysclkAbsent s = _
  simp only [execSysclkAbsent, hup, hA, hB, beq_self_eq_true, Bool.not_false, Bool.and_self, if_true]

theorem exec_sysclkAbsent_complete {s : State} (hA : s.sys.a.boot = .complete) :
    exec .sysclkAbsent s = .next s := by
  have hno : (Boot.complete == Boot.starter) = false := rfl
  change execSysclkAbsent s = _
  simp only [execSysclkAbsent, hA, hno, Bool.and_false, Bool.false_and, Bool.false_eq_true, if_false]

/-- The presence bits as a clock check records them. -/
def clocksSeen (s : State) (present : BitVec 10) : State :=
  let b := present.getLsbD
  updSys s fun y => { y with clkStat := present.toNat, sysclkOk := b 0, hrefOk := [b 2, b 3, b 4, b 5],
                             lrefOk := [b 6, b 7, b 8, b 9] }

theorem exec_clockCheck_up {s : State} (hup : s.sys.resetLow = false) (present : BitVec 10) :
    exec (.clockCheck present) s = .next (
      onlyIf (s.time.ppsOut && !present.getLsbD 6) (fun t => emit (updTime t fun x => { x with ppsOut := false }) (.pulse 0 0))
        (onlyIf (present.getLsbD 0) (fun t => alertOff t 4) (clocksSeen s present))) := by
  have htime (c : Bool) (u : State) : (onlyIf c (fun t => alertOff t 4) u).time = u.time := by cases c <;> rfl
  change execClockCheck present s = _
  simp only [execClockCheck, hup, htime, updSys_time, clocksSeen, Bool.false_eq_true, if_false]

/-- Settles O48, from the equations above. -/
theorem testsPerturbationsScanAndClocksActAndEnd : Obligations.TestsPerturbationsScanAndClocksActAndEnd := by
  unfold Obligations.TestsPerturbationsScanAndClocksActAndEnd
  refine ⟨fun p h blocks s ho => ⟨fun hrun => ?running, fun hidle => ?idle⟩,
    fun h failed addr s => ⟨fun hidle => exec_bistComplete_idle hidle failed addr,
      fun hrun => exec_bistComplete_running hrun failed addr⟩,
    fun p s ho hno => ?stop, fun d idx sub v => stopDict_ag22 d v,
    fun i s => ⟨fun hno => exec_delayedCompletionRelease_none hno i, fun l p hone => ?link, fun m c hone => ?host⟩,
    fun i s => ⟨exec_creditStarvationEnd_starved, exec_creditStarvationEnd_idle⟩,
    exec_tapInstructionLoad, fun s => rfl, fun h s => rfl, fun s => exec_sysclkAbsent_starters,
    fun s => exec_sysclkAbsent_complete, fun present s hup => ?clocks⟩
  case running => rw [exec_bistStart_open ho, bistGo_running hrun]
  case idle =>
    have ⟨hsleep, _, hcommit⟩ := awake_of_wideOpen ho
    rw [exec_bistStart_open ho]
    by_cases hok : bistAllowed s h
    · rw [bistGo_starts hidle blocks hsleep hcommit hok]
      exact congrArg (fun f => Host.Outcome.next (updBist s h f)) (if_pos hok).symm
    · rw [bistGo_refused hidle blocks hok]
      exact congrArg (fun f => Host.Outcome.next (updBist s h f)) (if_neg hok).symm
  case stop => rw [exec_tstStop_open ho, testStop_nothingStarved hno]
  case link => exact congrArg Host.Outcome.next (delayRelease_single hone)
  case host => exact congrArg Host.Outcome.next (delayRelease_single hone)
  case clocks =>
    have hexec := exec_clockCheck_up hup present
    refine ⟨fun h0 h6 => ?_, fun h0 h6 => ?_, fun h0 h6 hpps => ?_⟩
    · rw [h0, h6, Bool.not_true, Bool.and_false, onlyIf_false, onlyIf_true] at hexec
      exact hexec
    · rw [h0, h6, Bool.not_true, Bool.and_false, onlyIf_false, onlyIf_false] at hexec
      exact hexec
    · rw [h0, h6, hpps, Bool.not_false, Bool.and_self, onlyIf_true, onlyIf_false] at hexec
      exact hexec

end Sys2Proof.Machine
end

section
/-! ## Slots, key slots and the device key (R358, R418, R420, R428 to R431, R469)

Over an open dictionary each command is its operation at the half that serves; a refused operation leaves the state. -/

namespace Sys2Proof.Machine

/-! ### The commands over an open dictionary -/

section
variable {s : State} {p : Path} {h : Half} (hh : servHalf s (pathHalf s p) = h)
include hh

theorem exec_erase_open (ho : instOpen s p 0x1021) (v : Byte) :
    exec (.erase p v) s = .next (eraseWr s h v.toNat).2 := by
  change execErase p v s = _
  rw [execErase, wideAct_open ho, hh]

theorem exec_verify_open (ho : instOpen s p 0x1021) (v : Byte) :
    exec (.verify p v) s = .next (verifyWr s h v.toNat).2 := by
  change execVerify p v s = _
  rw [execVerify, wideAct_open ho, hh]

theorem exec_imageWindowWrite_open (ho : instOpen s p 0x1021) (off : BitVec 16) (bs : List Byte) :
    exec (.imageWindowWrite p off bs) s = .next (windowWr s h off.toNat bs).2 := by
  change execImageWindowWrite p off bs s = _
  rw [execImageWindowWrite, wideAct_open ho, hh]

theorem exec_activate_open (ho : instOpen s p 0x1022) (v : Byte) :
    exec (.activate p v) s = .next (activateWr s h v.toNat).2 := by
  change execActivate p v s = _
  rw [execActivate, wideAct_open ho, hh]

theorem exec_confirm_open (ho : instOpen s p 0x1022) (v : Byte) :
    exec (.confirm p v) s = .next (confirmWr s h v.toNat).2 := by
  change execConfirm p v s = _
  rw [execConfirm, wideAct_open ho, hh]

theorem exec_commit_open (ho : instOpen s p 0x1022) (v : Byte) :
    exec (.commit p v) s = .next (commitWr s h v.toNat).2 := by
  change execCommit p v s = _
  rw [execCommit, wideAct_open ho, hh]

theorem exec_fuseKeySlot_open (ho : instOpen s p 0x1023) (k : Fin 4) (off : BitVec 16) (hash : List Byte) :
    exec (.fuseKeySlot p k off hash) s = .next (fuseWr s h k.val off.toNat hash).2 := by
  change execFuseKeySlot p k off hash s = _
  rw [execFuseKeySlot, wideAct_open ho, hh]

theorem exec_revokeKeySlot_open (ho : instOpen s p 0x1023) (v : Byte) :
    exec (.revokeKeySlot p v) s = .next (revokeWr s h v.toNat).2 := by
  change execRevokeKeySlot p v s = _
  rw [execRevokeKeySlot, wideAct_open ho, hh]

/-- An object path that is not the field port is a mailbox or the steward. -/
theorem exec_deviceKeyWrite_open (ho : instOpen s p 0x1100) (hfield : ∀ n, p ≠ .field n) (off : BitVec 16)
    (bs : List Byte) : exec (.deviceKeyWrite p off bs) s = .next (keyWr s h off.toNat bs).2 := by
  change execDeviceKeyWrite p off bs s = _
  have ⟨⟨_, hobj, _⟩, _⟩ := ho
  cases p with
  | reg m f => exact absurd hobj Bool.false_ne_true
  | field n => exact absurd rfl (hfield n)
  | mbx m => simp only [execDeviceKeyWrite, wideAct_open ho, hh]
  | steward g => simp only [execDeviceKeyWrite, wideAct_open ho, hh]

end

theorem exec_deviceKeyWrite_field {s : State} {n : BitVec 16} (hp : pathPriv s (.field n) = true) (off : BitVec 16)
    (bs : List Byte) : exec (.deviceKeyWrite (.field n) off bs) s = .next s := by
  change execDeviceKeyWrite (.field n) off bs s = _
  rw [execDeviceKeyWrite, if_pos hp]

section
variable {s : State} {h : Half}

/-! ### Slots (R428, R429) -/

theorem slotOp_noSlot {v : Nat} (hv : 2 ≤ v) (f : State → Wr) : slotOp s h v f = (stRange, s) := by
  rw [slotOp, if_pos (by omega)]

theorem slotOp_allowed {v : Nat} (hv : v < 2) (hshut : flashShut s h = false) (hbusy : upBusy s h = false)
    (hrun : runSlot s h ≠ v) (f : State → Wr) : slotOp s h v f = f s := by
  have hnot : ¬ 1 < v := by omega
  simp only [slotOp, hnot, hshut, hbusy, beq_eq_false_iff_ne.mpr hrun, Bool.or_self, Bool.false_eq_true, if_false]

theorem windowWr_fits {off sl : Nat} {bs : List Byte} (hfit : off + bs.length ≤ 65536) (hshut : flashShut s h = false)
    (hbusy : upBusy s h = false) (hlast : (upSt s h).last = some sl) (hrun : runSlot s h ≠ sl) :
    windowWr s h off bs = (stOk, programSlot s h sl ((upSt s h).base + off) bs) := by
  simp only [windowWr, Nat.not_lt.mpr hfit, hshut, hbusy, hlast, beq_eq_false_iff_ne.mpr hrun, Bool.or_self,
    Bool.false_eq_true, if_false]

theorem activateWr_valid {v : Nat} (hv : v < 2) (hshut : flashShut s h = false) (hbusy : upBusy s h = false)
    (hrun : runSlot s h ≠ v) (hvalid : slotState s h v = .valid) :
    activateWr s h v = (stOk, updUp (forAll s (flashTargets s h) fun u k => updFlash u k fun f =>
      putBootRec f fun r => { r.put v .trial 3 with pref := v }) h fun u => { u with prog := 2 }) := by
  simp only [activateWr, slotOp_allowed hv hshut hbusy hrun, hvalid, bne_self_eq_false, Bool.false_eq_true, if_false]

/-! ### Confirm and commit (R430, R431) -/

section
variable (hshut : flashShut s h = false)
include hshut

theorem confirmWr_zero : confirmWr s h 0 = (stOk, s) := by
  simp only [confirmWr, hshut, Nat.not_lt_zero, Bool.false_eq_true, if_false, if_true]

theorem confirmWr_trial (hslot : runSlot s h < 2) (htrial : slotState s h (runSlot s h) = .trial) :
    confirmWr s h 1 = (stOk, setSlotState s h (runSlot s h) .confirmed) := by
  simp only [confirmWr, hshut, hslot, htrial, Nat.lt_irrefl, Nat.one_ne_zero, Bool.false_eq_true, beq_self_eq_true,
    decide_true, Bool.and_self, if_false, if_true]

theorem commitWr_zero : commitWr s h 0 = (stOk, s) := by
  simp only [commitWr, hshut, Nat.not_lt_zero, Bool.false_eq_true, if_false, if_true]

variable (hconf : runConfirmed s h = true)
include hconf

theorem commitWr_confirmed : commitWr s h 1 = (stOk, outdated (updNv s fun n => { n with fuses := { n.fuses with
    counter := max n.fuses.counter (min 63 (imgSvn (flash s h) (runSlot s h))) } }) h) := by
  simp only [commitWr, hshut, hconf, Nat.lt_irrefl, Nat.one_ne_zero, Bool.false_eq_true, if_false, if_true]

/-! ### Key slots (R418, R420, R431) -/

theorem fuseWr_empty {k : Nat} {hash : List Byte} (hlen : hash.length = 48) (h0 : k ≠ 0) (h3 : k ≤ 3)
    (hfree : s.nv.fuses.keys.getD k [] = []) :
    fuseWr s h k 0 hash =
      (stOk, updNv s fun n => { n with fuses := { n.fuses with keys := n.fuses.keys.set k hash } }) := by
  simp only [fuseWr, hlen, hshut, hconf, h0, hfree, Nat.not_lt.mpr h3, bne_self_eq_false, List.isEmpty_nil,
    Bool.not_true, Bool.or_self, decide_false, Bool.false_eq_true, if_false]

theorem revokeWr_other {k : Nat} (h3 : k ≤ 3) (hother : imgKey (flash s h) (runSlot s h) ≠ k) :
    revokeWr s h k =
      (stOk, updNv s fun n => { n with fuses := { n.fuses with revoked := n.fuses.revoked.set k true } }) := by
  simp only [revokeWr, Nat.not_lt.mpr h3, hshut, hconf, beq_eq_false_iff_ne.mpr hother, Bool.not_true, Bool.or_self,
    Bool.false_eq_true, if_false]

end

/-- Key slot 0 and a slot fused already take nothing. -/
theorem fuseWr_refused {k : Nat} (hno : k = 0 ∨ s.nv.fuses.keys.getD k [] ≠ []) (off : Nat) (hash : List Byte) :
    (fuseWr s h k off hash).2 = s := by
  have hshut : (flashShut s h || !runConfirmed s h || decide (k = 0) || decide (3 < k) ||
      !(s.nv.fuses.keys.getD k []).isEmpty) = true := by
    rcases hno with rfl | hfused
    · simp
    · simp [-List.getD_eq_getElem?_getD, hfused]
  rw [fuseWr, hshut, if_pos rfl]
  split <;> rfl

theorem revokeWr_noSlot {k : Nat} (h3 : 3 < k) : revokeWr s h k = (stRange, s) := by
  rw [revokeWr, if_pos h3]

/-! ### The device key (R358) -/

theorem keyWr_fits {off : Nat} {bs : List Byte} (hfit : off + bs.length ≤ 32) (hshut : flashShut s h = false) :
    keyWr s h off bs = (stOk, forAll s (flashTargets s h) fun u k => updFlash u k fun f =>
      { f with key := (exactly 32 f.key).take off ++ bs ++ (exactly 32 f.key).drop (off + bs.length) }) := by
  simp only [keyWr, Nat.not_lt.mpr hfit, hshut, Bool.false_eq_true, if_false]

end

/-! ### Erase and verify end (R429) -/

section
variable {s : State} {sl : Nat}

theorem exec_eraseComplete_erasing (hop : (upSt s (leadHalf s)).op = .erase sl) :
    exec .eraseComplete s = .next (updUp (setSlotState (forAll s (flashTargets s (leadHalf s)) fun u k =>
      updFlash u k fun f => { f with bytes := clearBytes f.bytes (slotBase sl) (slotBase sl + 31 * 1048576) })
      (leadHalf s) sl .empty) (leadHalf s) fun u => { u with op := .none, prog := 2, last := some sl }) := by
  change execEraseComplete s = _
  simp only [execEraseComplete, eraseDone, hop]
  rfl

theorem exec_verifyComplete_verifying (hop : (upSt s (leadHalf s)).op = .verify sl) :
    exec .verifyComplete s = .next (
      if imageOk s (flash s (leadHalf s)) sl
      then updUp (setSlotState s (leadHalf s) sl .valid) (leadHalf s) fun u => { u with op := .none, prog := 2 }
      else updUp (setSlotState s (leadHalf s) sl .bad) (leadHalf s) fun u => { u with op := .none, prog := 3 }) := by
  change execVerifyComplete s = _
  simp only [execVerifyComplete, verifyDone, hop]
  cases imageOk s (flash s (leadHalf s)) sl <;> rfl

variable (hA : (upSt s .a).op = .none) (hB : (upSt s .b).op = .none)
include hA hB

theorem upSt_lead_idle : (upSt s (leadHalf s)).op = .none := by
  cases leadHalf s with
  | a => exact hA
  | b => exact hB

theorem exec_eraseComplete_idle : exec .eraseComplete s = .next s := by
  change execEraseComplete s = _
  simp only [execEraseComplete, eraseDone, upSt_lead_idle hA hB, hB]
  rfl

theorem exec_verifyComplete_idle : exec .verifyComplete s = .next s := by
  change execVerifyComplete s = _
  simp only [execVerifyComplete, verifyDone, upSt_lead_idle hA hB, hB]
  rfl

end

/-- Settles O43, from the equations above. -/
theorem flashIsErasedWrittenVerifiedAndCommitted : Obligations.FlashIsErasedWrittenVerifiedAndCommitted := by
  unfold Obligations.FlashIsErasedWrittenVerifiedAndCommitted
  refine ⟨fun p v s ho => ⟨fun hv => ?noSlot, fun hv hshut hbusy hrun => ?started⟩,
    fun sl s => ⟨exec_eraseComplete_erasing, exec_verifyComplete_verifying, fun hA hB =>
      ⟨exec_eraseComplete_idle hA hB, exec_verifyComplete_idle hA hB⟩⟩,
    fun p off bs sl s ho hfit hshut hbusy hlast hrun => ?window,
    fun p v s ho hshut => ⟨fun hv hbusy hrun hvalid => ?activate, fun hv hslot htrial => ?confirm,
      fun hv hconf => ?commit, fun hv => ?nothing⟩,
    fun p k hash s ho hlen hshut hconf h0 hfree => ?fuse,
    fun p k off hash s ho hno => ?fuseRefused,
    fun p v s ho => ⟨fun h3 => ?noKey, fun h3 hshut hconf hother => ?revoke⟩,
    fun p off bs s ho hfield hfit hshut => ?key,
    fun n off bs s hp => exec_deviceKeyWrite_field hp off bs⟩
  case noSlot =>
    rw [exec_erase_open rfl ho, exec_verify_open rfl ho, eraseWr, verifyWr, slotOp_noSlot hv, slotOp_noSlot hv]
    exact ⟨rfl, rfl⟩
  case started =>
    rw [exec_erase_open rfl ho, exec_verify_open rfl ho, eraseWr, verifyWr, slotOp_allowed hv hshut hbusy hrun,
      slotOp_allowed hv hshut hbusy hrun]
    exact ⟨rfl, rfl⟩
  case window => rw [exec_imageWindowWrite_open rfl ho, windowWr_fits hfit hshut hbusy hlast hrun, programSlot]
  case activate => rw [exec_activate_open rfl ho, activateWr_valid hv hshut hbusy hrun hvalid]
  case confirm => rw [exec_confirm_open rfl ho, hv, confirmWr_trial hshut hslot htrial]
  case commit => rw [exec_commit_open rfl ho, hv, commitWr_confirmed hshut hconf]
  case nothing =>
    rw [exec_confirm_open rfl ho, exec_commit_open rfl ho, hv, confirmWr_zero hshut, commitWr_zero hshut]
    exact ⟨rfl, rfl⟩
  case fuse =>
    rw [exec_fuseKeySlot_open rfl ho]
    exact congrArg (Host.Outcome.next ·.2) (fuseWr_empty hshut hconf hlen h0 (by omega) hfree)
  case fuseRefused => rw [exec_fuseKeySlot_open rfl ho, fuseWr_refused hno]
  case noKey => rw [exec_revokeKeySlot_open rfl ho, revokeWr_noSlot h3]
  case revoke =>
    rw [exec_revokeKeySlot_open rfl ho, revokeWr_other hshut hconf h3 hother]
    rfl
  case key => rw [exec_deviceKeyWrite_open rfl ho hfield, keyWr_fits hfit hshut]

end Sys2Proof.Machine
end

section
/-! ## Roles, firmware and the end of start-up (R326, R328, R329, R422 to R424, R427, R435) -/

namespace Sys2Proof.Machine

theorem half_of_sys {s t : State} (h : t.sys = s.sys) (k : Half) : half t k = half s k := by
  cases k <;> simp only [half, h]

/-! ### A half in LEAD_UNRESOLVED (R329) -/

/-- What LEAD_UNRESOLVED makes of a half. -/
def HalfSt.unresolved (x : HalfSt) : HalfSt :=
  { x with role := .unresolved, exch := true, dlUp := false, trained := false }

/-- Half B's own registers and the event change no role. -/
theorem unresolve_sys (s : State) (h : Half) : (unresolve s h).sys = (updHalf s h HalfSt.unresolved).sys := by
  unfold unresolve
  rw [evOnly_sys (raiseEv_evOnly _ _ _ _ _ _)]
  split <;> rfl

theorem half_unresolve (s : State) (h : Half) : half (unresolve s h) h = (half s h).unresolved := by
  rw [half_of_sys (unresolve_sys s h), updHalf_half]

theorem half_unresolve_other (s : State) {h k : Half} (hk : k ≠ h) : half (unresolve s h) k = half s k := by
  rw [half_of_sys (unresolve_sys s h), updHalf_half_other _ _ _ _ hk]

/-! ### The exchange (R326, R424) -/

/-- A half after an exchange that gives it a role. -/
def HalfSt.withRole (x : HalfSt) (r : Role) (clk : Nat) : HalfSt :=
  { x with role := r, exch := true, dlUp := true, trained := true, hbCount := 0, hbClk := clk }

/-- Both halves take their roles; the die link is up. -/
def rolesTaken (s : State) (x y : Role) : State :=
  updHalf (updHalf s .a (·.withRole x s.clk)) .b (·.withRole y s.clk)

theorem half_followChoice_slot (s : State) (l f : Half) :
    (half (followChoice s l f) f).slot = if (half s l).slot < 2 then (half s l).slot else 3 := by
  unfold followChoice
  dsimp only
  split <;> rw [updHalf_half]

/-- The lead's choice changes no role and not the die link. -/
theorem half_followChoice_role (s : State) (l f k : Half) :
    (half (followChoice s l f) k).role = (half s k).role ∧ (half (followChoice s l f) k).dlUp = (half s k).dlUp := by
  unfold followChoice
  dsimp only
  split <;> cases f <;> cases k <;> exact ⟨rfl, rfl⟩

section
variable {s : State} (hA : exchOpen s .a = true) (hB : exchOpen s .b = true)
include hA hB

/-- With both exchanges open, what the straps say decides. -/
theorem exec_tokenExchange_open : exec .tokenExchange s = .next (
    if s.sys.straps.mode != s.sys.strapsB.mode then unresolve (unresolve s .a) .b
    else if isSplit s then rolesTaken s .split .split
    else if isRecovery s then rolesTaken s .lead .follower
    else if s.sys.straps.halfLead != s.sys.strapsB.halfLead then unresolve (unresolve s .a) .b
    else if s.sys.straps.halfLead then followChoice (rolesTaken s .follower .lead) .b .a
    else followChoice (rolesTaken s .lead .follower) .a .b) := by
  change execTokenExchange s = _
  simp only [execTokenExchange, hA, hB, Bool.and_self, Bool.not_true, Bool.false_eq_true, if_false]
  rfl

theorem exec_tokenExchange_differs (hdiff : s.sys.straps.mode ≠ s.sys.strapsB.mode ∨
      (isSplit s = false ∧ isRecovery s = false ∧ s.sys.straps.halfLead ≠ s.sys.strapsB.halfLead)) :
    exec .tokenExchange s = .next (unresolve (unresolve s .a) .b) := by
  rw [exec_tokenExchange_open hA hB]
  by_cases hmode : s.sys.straps.mode = s.sys.strapsB.mode
  · obtain ⟨hsplit, hrecovery, hlead⟩ := hdiff.resolve_left (not_not_intro hmode)
    simp [hmode, hsplit, hrecovery, hlead]
  · rw [if_pos (bne_iff_ne.mpr hmode)]

variable (hmode : s.sys.straps.mode = s.sys.strapsB.mode)
include hmode

theorem exec_tokenExchange_split (hsplit : isSplit s = true) :
    exec .tokenExchange s = .next (rolesTaken s .split .split) := by
  simp [exec_tokenExchange_open hA hB, hmode, hsplit]

variable (hsplit : isSplit s = false)
include hsplit

theorem exec_tokenExchange_recovery (hrecovery : isRecovery s = true) :
    exec .tokenExchange s = .next (rolesTaken s .lead .follower) := by
  simp [exec_tokenExchange_open hA hB, hmode, hsplit, hrecovery]

variable (hrecovery : isRecovery s = false) (hlead : s.sys.straps.halfLead = s.sys.strapsB.halfLead)
include hrecovery hlead

theorem exec_tokenExchange_aLeads (ha : s.sys.straps.halfLead = false) :
    exec .tokenExchange s = .next (followChoice (rolesTaken s .lead .follower) .a .b) := by
  simp [exec_tokenExchange_open hA hB, hmode, hsplit, hrecovery, ← hlead, ha]

theorem exec_tokenExchange_bLeads (hb : s.sys.straps.halfLead = true) :
    exec .tokenExchange s = .next (followChoice (rolesTaken s .follower .lead) .b .a) := by
  simp [exec_tokenExchange_open hA hB, hmode, hsplit, hrecovery, ← hlead, hb]

end

/-! ### A half alone at the 50 ms limit (R328, R329) -/

theorem exec_leadExchangeTimeout_open {s : State} {h : Half} (ho : exchOpen s h = true) :
    exec (.leadExchangeTimeout h) s = .next (
      if isSplit s then
        raiseEv (updHalf s h fun x => { x with role := .split, exch := true, dlUp := false, trained := false }) h 48
          (halfIdx h) 3 0
      else if isRecovery s then updHalf s h fun x => { x with exch := true }
      else unresolve s h) := by
  change execLeadExchangeTimeout h s = _
  simp only [execLeadExchangeTimeout, ho, Bool.not_true, Bool.false_eq_true, if_false]

/-! ### Firmware (R421, R422, R424) -/

theorem exec_firmwareLoaded_starter {s : State} {h : Half} (hup : s.sys.resetLow = false)
    (hclk : s.sys.sysclkOk = true) (hboot : (half s h).boot = .starter) (hexch : (half s h).exch = true)
    (hslot : (half s h).slot < 2) :
    exec (.firmwareLoaded h) s = .next (
      if follows s h then
        if (half s (otherHalf h)).boot == .firmware || (half s (otherHalf h)).boot == .complete then
          updHalf s h fun y => { y with boot := .firmware, differ := y.differ || !typeOk (flash s h) y.slot 1 }
        else s
      else firmwareOwn s h) := by
  have hnot : ¬ 2 ≤ (half s h).slot := by omega
  change execFirmwareLoaded h s = _
  simp only [execFirmwareLoaded, hup, hclk, hboot, hexch, hnot, bne_self_eq_false, decide_false, Bool.not_true,
    Bool.or_self, Bool.false_eq_true, if_false]

theorem firmwareOwn_verified {s : State} {h : Half} (hok : typeOk (flash s h) (half s h).slot 1 = true) :
    firmwareOwn s h = updHalf s h fun x => { x with boot := .firmware } := by
  simp only [firmwareOwn, hok, if_true]

theorem follows_eq_true {s : State} {h : Half} (hr : (half s h).role = .follower) : follows s h = true :=
  beq_iff_eq.mpr hr

theorem follows_eq_false {s : State} {h : Half} (hr : (half s h).role ≠ .follower) : follows s h = false :=
  beq_eq_false_iff_ne.mpr hr

/-! ### Start-up completes (R422, R423, R427, R435) -/

section
variable {s : State} {h : Half} (hup : s.sys.resetLow = false) (hclk : s.sys.sysclkOk = true)
  (hexch : (half s h).exch = true)
include hup hclk hexch

theorem exec_startupComplete_service (hboot : (half s h).boot = .service) (hrole : (half s h).role ≠ .starting) :
    exec (.startupComplete h) s = .next
      (if isRecovery s then bootDoneNow s h .serviceUp 1 else alertOn (bootDoneNow s h .serviceUp 1) 6) := by
  change execStartupComplete h s = _
  simp only [execStartupComplete, hup, hclk, hexch, hboot, beq_eq_false_iff_ne.mpr hrole, Bool.not_true, Bool.or_self,
    Bool.and_false, Bool.false_eq_true, if_false]

variable (hboot : (half s h).boot = .firmware)
include hboot

theorem exec_startupComplete_follower (hrole : (half s h).role = .follower)
    (hlead : (half s (otherHalf h)).boot = .complete) :
    exec (.startupComplete h) s = .next (bootDoneNow (romFill (brineStart s h (brine s h).down) h) h .complete
      ((half s (otherHalf h)).bootStat.toNat / 16 % 4)) := by
  change execStartupComplete h s = _
  simp only [execStartupComplete, hup, hclk, hexch, hboot, follows_eq_true hrole, hlead, bne_self_eq_false,
    Bool.not_true, Bool.or_self, Bool.false_eq_true, if_false, if_true]

theorem exec_startupComplete_own (hrole : (half s h).role ≠ .follower) :
    exec (.startupComplete h) s = .next (completeOwn s h) := by
  change execStartupComplete h s = _
  simp only [execStartupComplete, hup, hclk, hexch, hboot, follows_eq_false hrole, Bool.not_true, Bool.or_self,
    Bool.false_eq_true, if_false]

end

theorem tlpOut_sys (s : State) (m : Nat) (x : HostTlp) : (tlpOut s m x).sys = s.sys := by
  unfold tlpOut
  split <;> rfl

theorem sendDrs_sys (s : State) (h : Half) : (sendDrs s h).sys = s.sys := by
  refine forAll_keeps (fun u => u.sys = s.sys) _ _ (fun u m hu => ?_) s rfl
  rw [tlpOut_sys, updHl_sys, hu]

theorem half_bootDoneNow (s : State) (h : Half) (boot : Boot) (r : Nat) :
    half (bootDoneNow s h boot r) h = { half s h with
      boot := boot,
      bootStat := BitVec.ofNat 32 ((half s h).slot % 4 + flag (half s h).fallback 2 + flag (half s h).differ 3 + r * 16 +
        flag (romCut s h) 6 + 256),
      bootTime := (s.clk - (half s h).bootClk) / 1250 } := by
  rw [bootDoneNow, half_of_sys (sendDrs_sys _ h), updHalf_half]

/-- Settles O24, from the equations above. -/
theorem rolesFirmwareAndCompletion : Obligations.RolesFirmwareAndCompletion := by
  unfold Obligations.RolesFirmwareAndCompletion
  refine ⟨fun s hA hB => ⟨fun hdiff => ?differs, fun hmode hsplit => ?split, fun hmode hsplit hlead => ?led⟩,
    fun h s ho => ?alone, fun h s hup hclk hboot hexch hslot => ⟨fun hrole hother => ?follower, fun hrole => ?own⟩,
    fun h s hup hclk hexch => ⟨exec_startupComplete_service hup hclk hexch,
      exec_startupComplete_follower hup hclk hexch, fun hboot hrole => ?completes⟩,
    fun h boot r s => half_bootDoneNow s h boot r⟩
  case differs =>
    refine ⟨_, exec_tokenExchange_differs hA hB hdiff, ?_⟩
    rw [half_unresolve, half_unresolve_other _ (by decide), half_unresolve]
    exact ⟨rfl, rfl, rfl, rfl, rfl, rfl⟩
  case split => exact ⟨_, exec_tokenExchange_split hA hB hmode hsplit, rfl, rfl, rfl, rfl⟩
  case led =>
    cases hrecovery : isRecovery s with
    | true =>
      refine ⟨_, exec_tokenExchange_recovery hA hB hmode hsplit hrecovery, rfl, rfl, ?_, nofun, nofun⟩
      rw [if_pos (.inl rfl)]
      exact ⟨rfl, rfl⟩
    | false =>
      have hsame := hlead.resolve_left (by rw [hrecovery]; exact Bool.false_ne_true)
      cases hhalf : s.sys.straps.halfLead with
      | false =>
        refine ⟨_, exec_tokenExchange_aLeads hA hB hmode hsplit hrecovery hsame hhalf, ?_⟩
        have hroles := half_followChoice_role (rolesTaken s .lead .follower) .a .b
        rw [(hroles .a).1, (hroles .a).2, (hroles .b).1, (hroles .b).2, half_followChoice_slot]
        refine ⟨rfl, rfl, ?_, fun _ _ => rfl, nofun⟩
        rw [if_pos (.inr rfl)]
        exact ⟨rfl, rfl⟩
      | true =>
        refine ⟨_, exec_tokenExchange_bLeads hA hB hmode hsplit hrecovery hsame hhalf, ?_⟩
        have hroles := half_followChoice_role (rolesTaken s .follower .lead) .b .a
        rw [(hroles .a).1, (hroles .a).2, (hroles .b).1, (hroles .b).2, half_followChoice_slot]
        refine ⟨rfl, rfl, ?_, nofun, fun _ _ => rfl⟩
        rw [if_neg (by decide)]
        exact ⟨rfl, rfl⟩
  case alone =>
    rw [exec_leadExchangeTimeout_open ho]
    refine ⟨fun hsplit => ?_, fun hsplit hrecovery => ?_, fun hsplit hrecovery => ?_⟩
    · rw [if_pos hsplit]
    · rw [hsplit, hrecovery]
      rfl
    · rw [hsplit, hrecovery]
      refine ⟨_, rfl, half_unresolve s h, half_unresolve_other s ?_⟩
      cases h <;> decide
  case follower =>
    have hloaded : ((half s (otherHalf h)).boot == .firmware || (half s (otherHalf h)).boot == .complete) = true := by
      simpa using hother
    rw [exec_firmwareLoaded_starter hup hclk hboot hexch hslot, if_pos (follows_eq_true hrole), if_pos hloaded]
  case own =>
    rw [exec_firmwareLoaded_starter hup hclk hboot hexch hslot, follows_eq_false hrole,
      if_neg Bool.false_ne_true]
    split
    case isTrue hok => rw [firmwareOwn_verified hok]
    case isFalse => rfl
  case completes =>
    intro r s1
    rw [exec_startupComplete_own hup hclk hexch hboot hrole, completeOwn]
    simp only [beq_iff_eq]
    rfl

end Sys2Proof.Machine
end

section
/-! ## Field frames, sessions and mailbox frames (R350 to R352, R354 to R357) -/

namespace Sys2Proof.Machine

/-! ### A frame that reaches the protocol (R350, R351, R354) -/

/-- A well-formed frame for the device, outside a session, is judged by its TYPE alone. -/
theorem fieldFrame_open {s : State} {fr : FieldFrame} {typ : Nat} (ho : fieldOpen s fr typ) :
    fieldFrame s fr = fieldPlain s (.field fr.src fr.ether.toNat) fr.pdu := by
  obtain ⟨hawake, hup, hours, hsess, -, -⟩ := ho
  simp only [fieldFrame, hup, hours, wakeBy_awake hawake, hsess, Bool.not_true, Bool.false_eq_true, if_false]

theorem frameOf_open {s : State} {fr : FieldFrame} {typ : Nat} (ho : fieldOpen s fr typ) :
    frameOf typ fr s = fieldPlain s (.field fr.src fr.ether.toNat) fr.pdu := by
  have ⟨_, _, _, _, _, htyp⟩ := ho
  rw [frameOf, if_pos htyp, fieldFrame_open ho]

section
variable {s : State} {pdu : List Byte} (hgood : pduBad pdu = 0) (b : Back)
include hgood

theorem fieldPlain_discover (htyp : pduTyp pdu = tDiscover) : fieldPlain s b pdu = announce s b pdu := by
  simp only [fieldPlain, hgood, htyp, ne_eq, not_true_eq_false, if_false, if_true]

theorem fieldPlain_open (htyp : pduTyp pdu = tOpen) : fieldPlain s b pdu = sessOpenReq s b pdu := by
  have hnot : tOpen ≠ tDiscover := by decide
  simp only [fieldPlain, hgood, htyp, hnot, ne_eq, not_true_eq_false, if_false, if_true]

theorem fieldPlain_proof (htyp : pduTyp pdu = tProof) {x : Sess} (hx : challenge s (pduSess pdu) = some x) :
    fieldPlain s b pdu = sessProof s b x pdu := by
  have hdiscover : tProof ≠ tDiscover := by decide
  have hopen : tProof ≠ tOpen := by decide
  simp only [fieldPlain, hgood, htyp, hdiscover, hopen, hx, ne_eq, not_true_eq_false, if_false, if_true]

theorem fieldPlain_request (htyp : pduTyp pdu = tRequest) (hsess : pduSess pdu = 0) :
    fieldPlain s b pdu = serveRequest s (.field 0) b none 1500 pdu := by
  have hdiscover : tRequest ≠ tDiscover := by decide
  have hopen : tRequest ≠ tOpen := by decide
  have hproof : tRequest ≠ tProof := by decide
  simp only [fieldPlain, hgood, htyp, hsess, hdiscover, hopen, hproof, ne_eq, not_true_eq_false, or_self, if_false,
    if_true]

end

/-! ### OPEN and PROOF (R355) -/

section
variable {s : State} {pdu : List Byte} (b : Back) (hlen : (pduBody pdu).length = 16)
include hlen

theorem sessOpenReq_lockedOut (hlock : (dictOf s (leadHalf s)).lockout = true) :
    sessOpenReq s b pdu = refuse s (leadHalf s) b none pdu 7 := by
  simp only [sessOpenReq, sessHalf, hlen, hlock, ne_eq, not_true_eq_false, if_false, if_true]

variable (hlock : (dictOf s (leadHalf s)).lockout = false)
include hlock

theorem sessOpenReq_noKey (hkey : keyOf s (leadHalf s) = none) :
    sessOpenReq s b pdu = refuse s (leadHalf s) b none pdu 6 := by
  simp only [sessOpenReq, sessHalf, hlen, hlock, hkey, ne_eq, not_true_eq_false, Bool.false_eq_true, if_false]

theorem sessOpenReq_challenges {k : List Byte} (hkey : keyOf s (leadHalf s) = some k)
    (hroom : ((dictOf s (leadHalf s)).sessions.filter (·.opened)).length < 4) :
    sessOpenReq s b pdu =
      let u := (sessNumber s).2
      let nd := exactly 16 (Config.freeBytes u.freeCtr)
      sendBack (updDict { u with freeCtr := u.freeCtr + 1 } (leadHalf s) fun x =>
        { x with sessions := x.sessions ++ [⟨(sessNumber s).1, false, pduBody pdu, nd, k, none, [], []⟩] }) b
        (pduMake s tChallenge (sessNumber s).1 (pduSeq pdu) nd none) := by
  simp only [sessOpenReq, sessHalf, hlen, hlock, hkey, Nat.not_le.mpr hroom, ne_eq, not_true_eq_false,
    Bool.false_eq_true, if_false]

end

section
variable {s : State} {pdu : List Byte} {x : Sess} (b : Back)

theorem sessProof_wrong (hbad : pduBody pdu ≠ sessMac x.ks 0x31 x.nc x.nd x.num) :
    sessProof s b x pdu = refuse (proofFailed s x.num) (leadHalf s) b none pdu 5 := by
  simp only [sessProof, sessHalf, ne_eq, hbad, not_false_eq_true, if_true]

theorem sessProof_right (hok : pduBody pdu = sessMac x.ks 0x31 x.nc x.nd x.num)
    (hroom : ((dictOf s (leadHalf s)).sessions.filter (·.opened)).length < 4) :
    sessProof s b x pdu =
      let ks := sessMac x.ks 0x53 x.nc x.nd x.num
      sendBack (updSess s x.num fun y =>
        { y with opened := true, ks := ks, seq := some (pduSeq pdu), tag := [], resp := [] }) b
        (pduMake s tAccept x.num (pduSeq pdu) (sessMac x.ks 0x32 x.nd x.nc x.num) (some ks)) := by
  simp only [sessProof, sessHalf, hok, Nat.not_le.mpr hroom, ne_eq, not_true_eq_false, if_false]

end

/-! ### REQUEST outside a session (R352) -/

section
variable {s : State} {p : Path} {b : Back} {limit : Nat} {pdu : List Byte}

theorem serveRequest_unparsed (hbody : bodyOps (pduBody pdu) = none) :
    serveRequest s p b none limit pdu = refuse s (pathHalf s p) b none pdu 1 := by
  rw [serveRequest, hbody]

theorem serveRequest_fits {ops : List MdpOp} (hbody : bodyOps (pduBody pdu) = some ops)
    (hroom : 16 + (ops.map answerRoom).sum ≤ limit) :
    serveRequest s p b none limit pdu = serveOps s p b 0 (pdu.take 16) [] (pduBody pdu) := by
  simp [serveRequest, hbody, Nat.not_lt.mpr hroom]

theorem serveRequest_tooLong {ops : List MdpOp} (hbody : bodyOps (pduBody pdu) = some ops)
    (hroom : limit < 16 + (ops.map answerRoom).sum) :
    serveRequest s p b none limit pdu =
      sendAny s b 0 tResponse (pduSeq pdu) (ops.flatMap fun o => answer o stTooLong []) := by
  simp [serveRequest, hbody, hroom]

end

theorem exec_mdpRequest_field {s : State} {fr : FieldFrame} (ho : fieldOpen s fr tRequest) (hsess : pduSess fr.pdu = 0) :
    exec (.mdpRequest (.field fr)) s =
      .next (serveRequest s (.field 0) (.field fr.src fr.ether.toNat) none 1500 fr.pdu) := by
  have ⟨_, _, _, _, hgood, htyp⟩ := ho
  have hnot : ownType tRequest = false := by decide
  change execMdpRequest (.field fr) s = _
  simp only [execMdpRequest, htyp, hnot, fieldFrame_open ho, fieldPlain_request hgood _ htyp hsess,
    Bool.false_eq_true, if_false]

/-! ### CLOSE (R356, R357) -/

/-- A fresh frame of a session that is well-formed and a CLOSE is echoed, and the session ends. -/
theorem sessFrame_close {s : State} {fr : FieldFrame} {x : Sess} (hf : sessFresh s fr x)
    (htyp : pduTyp fr.pdu = tClose) (b : Back) :
    sessFrame s b x fr.pdu =
      let s1 := updSess s x.num fun y =>
        { y with seq := some (pduSeq fr.pdu), tag := fr.pdu.drop (fr.pdu.length - 32), resp := [] }
      let s2 := sendSess s1 b x tClose (pduSeq fr.pdu) []
      sessEnd s2 (leadHalf s2) x.num := by
  obtain ⟨-, -, -, -, htag, hlen, hmac, hseq, hgood⟩ := hf
  have hnew : (x.seq == some (pduSeq fr.pdu)) = false := by
    refine beq_eq_false_iff_ne.mpr fun h => ?_
    rcases hseq with hnone | hlt
    · rw [hnone] at h; cases h
    · rw [h] at hlt; exact Nat.lt_irrefl _ hlt
  have hlater : (decide (pduSeq fr.pdu ≤ x.seq.getD 0) && x.seq.isSome) = false := by
    rcases hseq with hnone | hlt
    · rw [hnone, Option.isSome_none, Bool.and_false]
    · rw [decide_eq_false (Nat.not_le.mpr hlt), Bool.false_and]
  have hnot : tClose ≠ tRequest := by decide
  simp only [sessFrame, htag, Nat.not_lt.mpr hlen, hmac, hnew, hlater, hgood, htyp, hnot, sessHalf, bne_self_eq_false,
    Bool.not_true, Bool.false_and, decide_false, Bool.or_self, Bool.false_eq_true, ne_eq, not_true_eq_false, if_false,
    if_true]

theorem exec_close_session {s : State} {fr : FieldFrame} {x : Sess} (hf : sessFresh s fr x)
    (htyp : pduTyp fr.pdu = tClose) :
    exec (.close fr) s = .next (sessFrame s (.field fr.src fr.ether.toNat) x fr.pdu) := by
  have ⟨hawake, hup, hours, hsess, _⟩ := hf
  change execClose fr s = _
  simp only [execClose, frameOf, htyp, fieldFrame, hup, hours, wakeBy_awake hawake, hsess, Bool.not_true,
    Bool.false_eq_true, if_false, if_true]

/-! ### Mailbox frames (R102, R354) -/

section
variable {s : State} {m : HL} (hno : (mbx s m.val).orphan = [])
include hno

theorem exec_mdpRequest_mailbox_idle (hidle : (mbx s m.val).busy = false ∨ (mbx s m.val).taken = true) :
    exec (.mdpRequest (.mailbox m)) s = .next s := by
  have hnone : ((mbx s m.val).busy && !(mbx s m.val).taken) = false := by
    rcases hidle with h | h <;> simp [h]
  change Host.Outcome.next (mbxTake s m.val) = _
  simp only [mbxTake, hno, hnone, Bool.false_eq_true, if_false, ite_self]

theorem exec_mdpRequest_mailbox_takes (hup : s.sys.resetLow = false)
    (hsteward : (half s (halfOfHl m.val)).stewardHalted = false) (hboot : (half s (halfOfHl m.val)).boot = .complete)
    (hbusy : (mbx s m.val).busy = true) (htaken : (mbx s m.val).taken = false) :
    exec (.mdpRequest (.mailbox m)) s = .next (mbxFrame (updMbx s m.val fun y => { y with taken := true }) m.val true
      (readBytes 0 (mbx s m.val).req 0 (mbx s m.val).reqLen)) := by
  change Host.Outcome.next (mbxTake s m.val) = _
  simp only [mbxTake, hno, hup, hsteward, hboot, hbusy, htaken, beq_self_eq_true, Bool.true_or, Bool.not_true,
    Bool.not_false, Bool.or_self, Bool.and_self, Bool.false_eq_true, if_false, if_true]

end

/-! ### What ends in time (R355, R357) -/

section
variable {s : State} {n : BitVec 16}

theorem exec_challengeTimeout_unanswered {x : Sess} (hx : challenge s n.toNat = some x) :
    exec (.challengeTimeout n) s = .next (updDict s (leadHalf s) fun d =>
      { d with sessions := d.sessions.filter fun y => y.num != x.num }) := by
  change execChallengeTimeout n s = _
  rw [execChallengeTimeout, hx, sessHalf]

theorem exec_challengeTimeout_none (hx : challenge s n.toNat = none) : exec (.challengeTimeout n) s = .next s := by
  change execChallengeTimeout n s = _
  rw [execChallengeTimeout, hx]

theorem exec_sessionIdleTimeout_open {x : Sess} (hx : openSess s n.toNat = some x) :
    exec (.sessionIdleTimeout n) s = .next (sessEnd s (leadHalf s) x.num) := by
  change execSessionIdleTimeout n s = _
  rw [execSessionIdleTimeout, hx, sessHalf]

theorem exec_sessionIdleTimeout_none (hx : openSess s n.toNat = none) : exec (.sessionIdleTimeout n) s = .next s := by
  change execSessionIdleTimeout n s = _
  rw [execSessionIdleTimeout, hx]

end

/-- Settles O41, from the equations above. -/
theorem fieldFramesAndMailboxesAreAnswered : Obligations.FieldFramesAndMailboxesAreAnswered := by
  unfold Obligations.FieldFramesAndMailboxesAreAnswered
  refine ⟨fun fr s ho => ?discover, fun fr s ho hlen => ?opens, fun fr x s ho hx hroom => ?proof,
    fun fr s ho hsess => ⟨fun hbody => ?unparsed, fun ops hbody hroom => ?fits, fun ops hbody hroom => ?tooLong⟩,
    fun fr x s hf htyp => ?close,
    fun m s hno => ⟨exec_mdpRequest_mailbox_idle hno, exec_mdpRequest_mailbox_takes hno⟩,
    fun n s => ⟨fun x => exec_challengeTimeout_unanswered, exec_challengeTimeout_none,
      fun x => exec_sessionIdleTimeout_open, exec_sessionIdleTimeout_none, rfl⟩⟩
  case discover =>
    have ⟨_, _, _, _, hgood, htyp⟩ := ho
    exact congrArg Host.Outcome.next ((frameOf_open ho).trans (fieldPlain_discover hgood _ htyp))
  case opens =>
    have ⟨_, _, _, _, hgood, htyp⟩ := ho
    have hexec : exec (.open_ fr) s = .next (sessOpenReq s (.field fr.src fr.ether.toNat) fr.pdu) :=
      congrArg Host.Outcome.next ((frameOf_open ho).trans (fieldPlain_open hgood _ htyp))
    rw [hexec]
    refine ⟨fun hlock => ?_, fun hlock hkey => ?_, fun k hlock hkey hroom => ?_⟩
    · rw [sessOpenReq_lockedOut _ hlen hlock]
    · rw [sessOpenReq_noKey _ hlen hlock hkey]
    · rw [sessOpenReq_challenges _ hlen hlock hkey hroom, tChallenge]
  case proof =>
    have ⟨_, _, _, _, hgood, htyp⟩ := ho
    have hexec : exec (.proof fr) s = .next (sessProof s (.field fr.src fr.ether.toNat) x fr.pdu) :=
      congrArg Host.Outcome.next ((frameOf_open ho).trans (fieldPlain_proof hgood _ htyp hx))
    intro b ks t
    rw [hexec]
    split
    case isTrue hok =>
      rw [sessProof_right _ hok hroom]
      rfl
    case isFalse hbad => rw [sessProof_wrong _ hbad]
  case unparsed =>
    rw [exec_mdpRequest_field ho hsess, serveRequest_unparsed hbody]
    rfl
  case fits => rw [exec_mdpRequest_field ho hsess, serveRequest_fits hbody hroom]
  case tooLong =>
    rw [exec_mdpRequest_field ho hsess, serveRequest_tooLong hbody hroom]
    rfl
  case close =>
    rw [exec_close_session hf htyp, sessFrame_close hf htyp]
    rfl

end Sys2Proof.Machine
end
